-- ==== Sys2Proof/Word.lean ====
section
/-! DEFINITION. The word types of the KZ4 block and its sparse stores as plain data. -/

namespace Sys2Proof

/-- A 64-bit register or address. -/
abbrev Word := BitVec 64
/-- A 32-bit word: a setup register, a sync object, an instruction word. -/
abbrev W32 := BitVec 32
/-- One byte. -/
abbrev Byte := BitVec 8
/-- One 64-byte piece: a cache line, a tile row, the data of one RD or WR piece. -/
abbrev Piece := BitVec 512
/-- One Tun row: 64 entries of 32 bits (R83). -/
abbrev TunRow := BitVec 2048
/-- One vector register (R136). -/
abbrev VReg := BitVec 4096

/-- A sparse store of `w`-bit cells: keys strictly rising, no cell equal to zero; an unlisted key reads zero. -/
abbrev Sparse (w : Nat) := List (Nat × BitVec w)

end Sys2Proof
end

