-- ==== Sys2Proof/Machine/Bits.lean ====
section
/-! DEFINITION. Bit-field and byte-order helpers, and the reads and writes of the sparse stores. -/

namespace Sys2Proof.Machine

/-- Field `[hi:lo]` of a word, as a number. -/
def bits (x : BitVec w) (hi lo : Nat) : Nat := (x.toNat >>> lo) % 2 ^ (hi + 1 - lo)

/-- Bit `n` of a word. -/
def bit (x : BitVec w) (n : Nat) : Bool := x.getLsbD n

/-- `x` with bit `n` made `b`. -/
def setBit (x : BitVec w) (n : Nat) (b : Bool) : BitVec w :=
  if b then x ||| BitVec.ofNat w (2 ^ n) else x &&& ~~~ (BitVec.ofNat w (2 ^ n))

/-- `x` with field `[hi:lo]` made `v`. -/
def setBits (x : BitVec w) (hi lo : Nat) (v : Nat) : BitVec w :=
  let mask := (2 ^ (hi + 1 - lo) - 1) <<< lo
  (x &&& ~~~ (BitVec.ofNat w mask)) ||| BitVec.ofNat w ((v % 2 ^ (hi + 1 - lo)) <<< lo)

/-- The `n`-th `k`-bit lane of a wide word, lane 0 lowest. -/
def lane (k : Nat) (x : BitVec w) (n : Nat) : BitVec k := BitVec.ofNat k (x.toNat >>> (k * n))

/-- A wide word with its `n`-th `k`-bit lane replaced. -/
def setLane (x : BitVec w) (n : Nat) (v : BitVec k) : BitVec w := setBits x (k * n + k - 1) (k * n) v.toNat

/-- A wide word made from its `k`-bit lanes, the first lowest. -/
def ofLanes (w : Nat) : List (BitVec k) → BitVec w
  | [] => 0
  | v :: vs => BitVec.ofNat w (v.toNat + ((ofLanes w vs).toNat <<< k))

/-- The `n` lanes of `k` bits of a wide word, the first lowest. -/
def toLanes (k n : Nat) (x : BitVec w) : List (BitVec k) := (List.range n).map (lane k x)

/-- The number that a list of bytes spells, the first byte least significant. -/
def natOfLE : List Byte → Nat
  | [] => 0
  | b :: bs => b.toNat + 256 * natOfLE bs

/-- The `n` low bytes of a number, least significant first. -/
def leOfNat : Nat → Nat → List Byte
  | 0, _ => []
  | n + 1, v => BitVec.ofNat 8 v :: leOfNat n (v / 256)

/-- Sign extension of a `k`-bit number held in a natural number. -/
def sextNat (k : Nat) (v : Nat) : Word := (BitVec.ofNat k v).signExtend 64

/-- Sign of a bit vector's value as a Bool. -/
def isNeg (x : BitVec w) : Bool := x.msb

/-- The number of 1 bits. -/
def popCount (x : BitVec w) : Nat := (List.range w).foldl (fun a i => if x.getLsbD i then a + 1 else a) 0

/-- Leading zeros: `w` for zero. -/
def leadingZeros (x : BitVec w) : Nat := if x.toNat = 0 then w else w - 1 - Nat.log2 x.toNat

/-- Trailing zeros: `w` for zero. -/
def trailingZeros (x : BitVec w) : Nat :=
  if x.toNat = 0 then w else Nat.log2 (x.toNat &&& ((2 ^ w - 1 - x.toNat) + 1))

/-- The lowest set bit's number, if any bit is set. -/
def lowestBit (x : BitVec w) : Option Nat := if x.toNat = 0 then none else some (trailingZeros x)

/-- Clamp to a range. -/
def clampNat (lo hi v : Nat) : Nat := if v < lo then lo else if v > hi then hi else v

/-- `x` rounded up to a whole multiple of `n`. -/
def roundUp (x n : Nat) : Nat := (x + n - 1) / n * n

/-- Ceiling of a quotient. -/
def ceilDiv (a b : Nat) : Nat := (a + b - 1) / b

end Sys2Proof.Machine

namespace Sys2Proof

/-- The cell at a key; an unlisted key reads zero. -/
def Sparse.get : Sparse w → Nat → BitVec w
  | [], _ => 0
  | (a, v) :: m, k => if a = k then v else Sparse.get m k

/-- A cell put in the place of its key. -/
def Sparse.insert : Sparse w → Nat → BitVec w → Sparse w
  | [], k, v => [(k, v)]
  | (a, u) :: m, k, v => if k < a then (k, v) :: (a, u) :: m else (a, u) :: Sparse.insert m k v

/-- The store with key `k` made `v`, in canonical form: a zero cell is not listed. -/
def Sparse.set (m : Sparse w) (k : Nat) (v : BitVec w) : Sparse w :=
  let rest := m.filter fun c => decide (c.1 ≠ k)
  if v = 0 then rest else Sparse.insert rest k v

/-- The canonical form with every key at least `lo`. -/
def Sparse.wfFrom : Nat → Sparse w → Bool
  | _, [] => true
  | lo, (a, v) :: m => decide (lo ≤ a) && !(v == 0) && Sparse.wfFrom (a + 1) m

/-- The canonical form: keys strictly rising, no zero cell. -/
def Sparse.wf (m : Sparse w) : Bool := Sparse.wfFrom 0 m

/-- Every listed key is below `n`. -/
def Sparse.below (n : Nat) (m : Sparse w) : Bool := m.all (fun c => decide (c.1 < n))

/-- The store with the keys of `[lo, hi)` made zero. -/
def Sparse.clear (m : Sparse w) (lo hi : Nat) : Sparse w := m.filter (fun c => decide (c.1 < lo) || decide (hi ≤ c.1))

/-- Consecutive cells from key `k`, `n` of them. -/
def Sparse.range (m : Sparse w) (k : Nat) : Nat → List (BitVec w)
  | 0 => []
  | n + 1 => m.get k :: Sparse.range m (k + 1) n

/-- Consecutive cells from key `k` written in ascending order. -/
def Sparse.setAll (m : Sparse w) (k : Nat) : List (BitVec w) → Sparse w
  | [] => m
  | v :: vs => Sparse.setAll (m.set k v) (k + 1) vs

end Sys2Proof
end

