-- ==== Sys2Proof/Syntax.lean ====
section
/-! DEFINITION. The commands of the block: one constructor per row of spec/opcode_table.json. -/

namespace Sys2Proof

/-- A header flit's fields (R386). -/
structure Hdr where
  opc : BitVec 5
  world : Bool
  status : BitVec 8
  rtag : BitVec 16
  snode : BitVec 17
  sblock : BitVec 10
  addr : Word
  be : Word
  operand : Word
deriving DecidableEq, Repr


/-- The commands. Operands are the model's own (log 2): the table gives none. -/
inductive Instr where
  /-- ADD (R230). Integer add of rs1 and rs2 into rd. -/
  | add (rd rs1 rs2 : BitVec 5)
  /-- SUB (R230). Integer subtract of rs2 from rs1 into rd. -/
  | sub (rd rs1 rs2 : BitVec 5)
  /-- AND (R230). Bitwise AND of rs1 and rs2 into rd. -/
  | and_ (rd rs1 rs2 : BitVec 5)
  /-- OR (R230). Bitwise OR of rs1 and rs2 into rd. -/
  | or_ (rd rs1 rs2 : BitVec 5)
  /-- XOR (R230). Bitwise XOR of rs1 and rs2 into rd. -/
  | xor (rd rs1 rs2 : BitVec 5)
  /-- SHL (R230). Shift left by rs2 modulo the width. -/
  | shl (rd rs1 rs2 : BitVec 5)
  /-- SHR (R230). Logical shift right by rs2 modulo the width. -/
  | shr (rd rs1 rs2 : BitVec 5)
  /-- SAR (R230). Arithmetic shift right by rs2 modulo the width. -/
  | sar (rd rs1 rs2 : BitVec 5)
  /-- SLT (R230). Signed set-less-than into rd. -/
  | slt (rd rs1 rs2 : BitVec 5)
  /-- SLTU (R230). Unsigned set-less-than into rd. -/
  | sltu (rd rs1 rs2 : BitVec 5)
  /-- MIN (R230). Signed minimum into rd. -/
  | min (rd rs1 rs2 : BitVec 5)
  /-- MAX (R230). Signed maximum into rd. -/
  | max (rd rs1 rs2 : BitVec 5)
  /-- MINU (R230). Unsigned minimum into rd. -/
  | minu (rd rs1 rs2 : BitVec 5)
  /-- MAXU (R230). Unsigned maximum into rd. -/
  | maxu (rd rs1 rs2 : BitVec 5)
  /-- MUL (R230). Low half of the product into rd. -/
  | mul (rd rs1 rs2 : BitVec 5)
  /-- MULH (R230). Signed high half of the product into rd. -/
  | mulh (rd rs1 rs2 : BitVec 5)
  /-- MULHU (R230). Unsigned high half of the product into rd. -/
  | mulhu (rd rs1 rs2 : BitVec 5)
  /-- DIV (R217). Signed division that never faults. -/
  | div (rd rs1 rs2 : BitVec 5)
  /-- DIVU (R217). Unsigned division that never faults. -/
  | divu (rd rs1 rs2 : BitVec 5)
  /-- REM (R217). Signed remainder that never faults. -/
  | rem (rd rs1 rs2 : BitVec 5)
  /-- REMU (R217). Unsigned remainder that never faults. -/
  | remu (rd rs1 rs2 : BitVec 5)
  /-- CLZ (R230). Count of leading zeros of rs1. -/
  | clz (rd rs1 rs2 : BitVec 5)
  /-- CTZ (R230). Count of trailing zeros of rs1. -/
  | ctz (rd rs1 rs2 : BitVec 5)
  /-- POPC (R230). Population count of rs1. -/
  | popc (rd rs1 rs2 : BitVec 5)
  /-- BSWAP (R230). Byte swap of rs1. -/
  | bswap (rd rs1 rs2 : BitVec 5)
  /-- OPW (R229). An OP function on bits [31:0], with the result sign-extended from bit 31. -/
  | opw (funct : BitVec 11) (rd rs1 rs2 : BitVec 5)
  /-- ADDI (R229). Add of a sign-extended immediate. -/
  | addi (rd rs1 : BitVec 5) (imm : BitVec 16)
  /-- ANDI (R228). AND with a zero-extended immediate. -/
  | andi (rd rs1 : BitVec 5) (imm : BitVec 16)
  /-- ORI (R228). OR with a zero-extended immediate. -/
  | ori (rd rs1 : BitVec 5) (imm : BitVec 16)
  /-- XORI (R228). XOR with a zero-extended immediate. -/
  | xori (rd rs1 : BitVec 5) (imm : BitVec 16)
  /-- SLTI (R229). Signed compare with an immediate. -/
  | slti (rd rs1 : BitVec 5) (imm : BitVec 16)
  /-- SLTIU (R229). Unsigned compare with a sign-extended immediate. -/
  | sltiu (rd rs1 : BitVec 5) (imm : BitVec 16)
  /-- SHIFT_IMMEDIATE_SHL (R229). Shift left by an immediate amount. -/
  | shiftImmediateShl (rd rs1 : BitVec 5) (amt : BitVec 6) (mbz : BitVec 8)
  /-- SHIFT_IMMEDIATE_SHR (R229). Logical shift right by an immediate amount. -/
  | shiftImmediateShr (rd rs1 : BitVec 5) (amt : BitVec 6) (mbz : BitVec 8)
  /-- SHIFT_IMMEDIATE_SAR (R229). Arithmetic shift right by an immediate amount. -/
  | shiftImmediateSar (rd rs1 : BitVec 5) (amt : BitVec 6) (mbz : BitVec 8)
  /-- LUI (R228). Writes sext(IMM21) times 65,536 to rd. -/
  | lui (rd : BitVec 5) (imm : BitVec 21)
  /-- AUIPC (R228). Adds sext(IMM21) times 65,536 to the instruction's own address. -/
  | auipc (rd : BitVec 5) (imm : BitVec 21)
  /-- ADDIW (R229). 32-bit add of an immediate. -/
  | addiw (rd rs1 : BitVec 5) (imm : BitVec 16)
  /-- LB (R229). Load of a signed byte. -/
  | lb (rd rs1 : BitVec 5) (imm : BitVec 16)
  /-- LH (R229). Load of a signed halfword. -/
  | lh (rd rs1 : BitVec 5) (imm : BitVec 16)
  /-- LW (R229). Load of a signed word. -/
  | lw (rd rs1 : BitVec 5) (imm : BitVec 16)
  /-- LD (R229). Load of a doubleword, through translation, region checks and caches. -/
  | ld (rd rs1 : BitVec 5) (imm : BitVec 16)
  /-- LBU (R229). Load of an unsigned byte. -/
  | lbu (rd rs1 : BitVec 5) (imm : BitVec 16)
  /-- LHU (R229). Load of an unsigned halfword. -/
  | lhu (rd rs1 : BitVec 5) (imm : BitVec 16)
  /-- LWU (R229). Load of an unsigned word. -/
  | lwu (rd rs1 : BitVec 5) (imm : BitVec 16)
  /-- SB (R229). Store of a byte. -/
  | sb (rs2 rs1 : BitVec 5) (imm : BitVec 16)
  /-- SH (R229). Store of a halfword. -/
  | sh (rs2 rs1 : BitVec 5) (imm : BitVec 16)
  /-- SW (R229). Store of a word. -/
  | sw (rs2 rs1 : BitVec 5) (imm : BitVec 16)
  /-- SD (R229). Store of a doubleword. -/
  | sd (rs2 rs1 : BitVec 5) (imm : BitVec 16)
  /-- FLW (R229). Load of a B32 value into an f register. -/
  | flw (fd rs1 : BitVec 5) (imm : BitVec 16)
  /-- FLD (R229). Load of a B64 value into an f register. -/
  | fld (fd rs1 : BitVec 5) (imm : BitVec 16)
  /-- FSW (R229). Store of a B32 value from an f register. -/
  | fsw (fs2 rs1 : BitVec 5) (imm : BitVec 16)
  /-- FSD (R229). Store of a B64 value from an f register. -/
  | fsd (fs2 rs1 : BitVec 5) (imm : BitVec 16)
  /-- BEQ (R229). Branch taken when rs1 equals rs2. -/
  | beq (rs1 rs2 : BitVec 5) (imm : BitVec 16)
  /-- BNE (R229). Branch taken when rs1 differs from rs2. -/
  | bne (rs1 rs2 : BitVec 5) (imm : BitVec 16)
  /-- BLT (R229). Branch on a signed less-than. -/
  | blt (rs1 rs2 : BitVec 5) (imm : BitVec 16)
  /-- BGE (R229). Branch on a signed greater-or-equal. -/
  | bge (rs1 rs2 : BitVec 5) (imm : BitVec 16)
  /-- BLTU (R229). Branch on an unsigned less-than. -/
  | bltu (rs1 rs2 : BitVec 5) (imm : BitVec 16)
  /-- BGEU (R229). Branch on an unsigned greater-or-equal. -/
  | bgeu (rs1 rs2 : BitVec 5) (imm : BitVec 16)
  /-- J (R228). Jump to the instruction's address plus sext(OFF26) times 4. -/
  | j (off : BitVec 26)
  /-- JALR (R229). Writes the return address to rd and jumps to rs1 + IMM. -/
  | jalr (rd rs1 : BitVec 5) (imm : BitVec 16)
  /-- CALL (R220). Writes p7, advances the register window and jumps to the target. -/
  | call (off : BitVec 26)
  /-- CALLR (R220). Call to the address held in rs1. -/
  | callr (rs1 : BitVec 5) (mbz : BitVec 21)
  /-- RET (R220). Retreats the window, filling it if needed, and returns to a7. -/
  | ret (mbz : BitVec 26)
  /-- FADD (R231). IEEE addition under CR_FCSR.RD. -/
  | fadd (d : Bool) (fd fs1 fs2 : BitVec 5)
  /-- FSUB (R231). IEEE subtraction. -/
  | fsub (d : Bool) (fd fs1 fs2 : BitVec 5)
  /-- FMUL (R231). IEEE multiplication. -/
  | fmul (d : Bool) (fd fs1 fs2 : BitVec 5)
  /-- FDIV (R231). IEEE division. -/
  | fdiv (d : Bool) (fd fs1 fs2 : BitVec 5)
  /-- FSQRT (R231). IEEE square root. -/
  | fsqrt (d : Bool) (fd fs1 : BitVec 5)
  /-- FMIN (R231). IEEE minimum, as R143. -/
  | fmin (d : Bool) (fd fs1 fs2 : BitVec 5)
  /-- FMAX (R231). IEEE maximum, as R143. -/
  | fmax (d : Bool) (fd fs1 fs2 : BitVec 5)
  /-- FABS (R231). Clears the sign bit. -/
  | fabs (d : Bool) (fd fs1 : BitVec 5)
  /-- FNEG (R231). Inverts the sign bit. -/
  | fneg (d : Bool) (fd fs1 : BitVec 5)
  /-- FEQ (R231). Equality compare written to rd. -/
  | feq (d : Bool) (rd fs1 fs2 : BitVec 5)
  /-- FLT (R231). Less-than compare written to rd. -/
  | flt (d : Bool) (rd fs1 fs2 : BitVec 5)
  /-- FLE (R231). Less-or-equal compare written to rd. -/
  | fle (d : Bool) (rd fs1 fs2 : BitVec 5)
  /-- FCLASS (R231). Writes the value's class bit to rd. -/
  | fclass (d : Bool) (rd fs1 : BitVec 5)
  /-- FCVT_F (R231). Converts from the other FP width into width D. -/
  | fcvtF (d : Bool) (fd fs1 : BitVec 5)
  /-- FCVT_I (R231). Converts an FP value to a signed 64-bit integer. -/
  | fcvtI (d : Bool) (rd fs1 : BitVec 5)
  /-- FCVT_FI (R231). Converts a signed 64-bit integer to FP. -/
  | fcvtFi (d : Bool) (fd rs1 : BitVec 5)
  /-- FMV_X (R231). Moves raw FP bits into an integer register. -/
  | fmvX (d : Bool) (rd fs1 : BitVec 5)
  /-- FMV_F (R231). Moves raw integer bits into an f register. -/
  | fmvF (d : Bool) (fd rs1 : BitVec 5)
  /-- FMADD (R231). rs1 × rs2 + rs3 with one rounding. -/
  | fmadd (d : Bool) (fd fs1 fs2 fs3 : BitVec 5)
  /-- FMSUB (R231). rs1 × rs2 − rs3 with one rounding. -/
  | fmsub (d : Bool) (fd fs1 fs2 fs3 : BitVec 5)
  /-- FNMADD (R231). −(rs1 × rs2 + rs3) with one rounding. -/
  | fnmadd (d : Bool) (fd fs1 fs2 fs3 : BitVec 5)
  /-- FNMSUB (R231). −(rs1 × rs2 − rs3) with one rounding. -/
  | fnmsub (d : Bool) (fd fs1 fs2 fs3 : BitVec 5)
  /-- ATOMIC_SWAP (R230). Atomic swap returning the old value. -/
  | atomicSwap (w32 : Bool) (rd rs1 rs2 : BitVec 5) (mbz : BitVec 6)
  /-- ATOMIC_ADD (R230). Atomic add returning the old value. -/
  | atomicAdd (w32 : Bool) (rd rs1 rs2 : BitVec 5) (mbz : BitVec 6)
  /-- ATOMIC_AND (R230). Atomic AND returning the old value. -/
  | atomicAnd (w32 : Bool) (rd rs1 rs2 : BitVec 5) (mbz : BitVec 6)
  /-- ATOMIC_OR (R230). Atomic OR returning the old value. -/
  | atomicOr (w32 : Bool) (rd rs1 rs2 : BitVec 5) (mbz : BitVec 6)
  /-- ATOMIC_MAX (R230). Atomic signed maximum. -/
  | atomicMax (w32 : Bool) (rd rs1 rs2 : BitVec 5) (mbz : BitVec 6)
  /-- ATOMIC_MIN (R230). Atomic signed minimum. -/
  | atomicMin (w32 : Bool) (rd rs1 rs2 : BitVec 5) (mbz : BitVec 6)
  /-- ATOMIC_MAXU (R230). Atomic unsigned maximum. -/
  | atomicMaxu (w32 : Bool) (rd rs1 rs2 : BitVec 5) (mbz : BitVec 6)
  /-- ATOMIC_MINU (R230). Atomic unsigned minimum. -/
  | atomicMinu (w32 : Bool) (rd rs1 rs2 : BitVec 5) (mbz : BitVec 6)
  /-- CAS (R230). Atomic compare-and-swap against rd's prior value. -/
  | cas (w32 : Bool) (rd rs1 rs2 : BitVec 5) (mbz : BitVec 6)
  /-- SOP_READ (R205). Sync operation READ on a local or remote object. -/
  | sopRead (rd rs1 rs2 : BitVec 5)
  /-- SOP_ADD (R205). Sync operation ADD, saturating at 0xFFFF_FFFF. -/
  | sopAdd (rd rs1 rs2 : BitVec 5)
  /-- SOP_SET (R205). Sync operation SET. -/
  | sopSet (rd rs1 rs2 : BitVec 5)
  /-- SOP_TAKE (R205). Sync operation TAKE: subtracts x if the value is at least x. -/
  | sopTake (rd rs1 rs2 : BitVec 5)
  /-- SOP_MAX (R205). Sync operation MAX. -/
  | sopMax (rd rs1 rs2 : BitVec 5)
  /-- SWAIT (R210). Arms a blocking core wait or an event wait on a local sync object, or returns an immediate result. -/
  | swait (rd rs1 rs2 : BitVec 5) (mbz : BitVec 3)
  /-- SWCANCEL (R213). Frees a matching ARMED event wait. -/
  | swcancel (rd rs1 : BitVec 5) (mbz : BitVec 8)
  /-- CHSEND (R199). Reads Tun rows and places a chain transfer in the transmit buffer. -/
  | chsend (rs1 : BitVec 5) (mbz : BitVec 13)
  /-- CHRECV (R200). Takes a held chain transfer and commits its rows into a group. -/
  | chrecv (rs1 : BitVec 5) (mbz : BitVec 13)
  /-- FENCE_M (R372). Waits until earlier main-core accesses have been performed. -/
  | fenceM (mbz : BitVec 15)
  /-- FENCE_A (R372). As FENCE.M, and also waits for acknowledgement of posted writes and remote operations. -/
  | fenceA (mbz : BitVec 15)
  /-- FENCE_T (R372). As FENCE.A, and also waits for tile, vector and chain instructions to complete. -/
  | fenceT (mbz : BitVec 15)
  /-- CRR (R232). Reads a control register into rd. -/
  | crr (rd : BitVec 5) (cr : BitVec 12) (mbz : BitVec 5)
  /-- CRW (R232). Writes a control register that has no row of its own, with range checks. -/
  | crw (rs1 : BitVec 5) (cr : BitVec 12) (mbz : BitVec 5)
  /-- CRS (R232). Reads a control register and sets the RW bits given in rs1. -/
  | crs (rd rs1 : BitVec 5) (cr : BitVec 12)
  /-- CRC (R232). Reads a control register and clears the RW bits given in rs1. -/
  | crc (rd rs1 : BitVec 5) (cr : BitVec 12)
  /-- GATE (R260). Reads and checks a gate entry, then enters its handler at a higher level. -/
  | gate (g : BitVec 8) (mbz : BitVec 14)
  /-- ERET (R262). Returns from the current exception record after the checks of R263. -/
  | eret (mbz : BitVec 10)
  /-- GRET (R262). Returns from the current gate record. -/
  | gret (mbz : BitVec 10)
  /-- BREAK (R247). Raises the breakpoint exception. -/
  | brk (mbz : BitVec 10)
  /-- TSLEEP (R235). Puts the running service task in WAIT. -/
  | tsleep (mbz : BitVec 10)
  /-- TSTOP (R235). Halts the running service task. -/
  | tstop (mbz : BitVec 10)
  /-- TSTART (R235). Makes a halted task READY at CR_TASKPC. -/
  | tstart (rs1 : BitVec 5) (mbz : BitVec 5)
  /-- TWAKE (R235). Makes a WAIT task READY. -/
  | twake (rs1 : BitVec 5) (mbz : BitVec 5)
  /-- CTXSAVE_L (R237). Spills the windows and saves the lower half of a context. -/
  | ctxsaveL (rs1 : BitVec 5) (mbz : BitVec 5)
  /-- CTXSAVE_U (R239). Saves vector, tile, Tun and lane state by dirty flags. -/
  | ctxsaveU (rs1 : BitVec 5) (mbz : BitVec 5)
  /-- CTXLOAD_L (R238). Checks and loads the lower half of a context. -/
  | ctxloadL (rs1 : BitVec 5) (mbz : BitVec 5)
  /-- CTXLOAD_U (R239). Checks and restores the upper half of a context. -/
  | ctxloadU (rs1 : BitVec 5) (mbz : BitVec 5)
  /-- TWALK (R282). Walks a VA in software and fills the walk buffer. -/
  | twalk (rd rs1 : BitVec 5)
  /-- TWALK_R (R282). Walks CR_TRQVA in the requesting ring's context. -/
  | twalkR (rd : BitVec 5) (mbz : BitVec 5)
  /-- TLBW (R284). Writes the walk buffer into the L2 TLB. -/
  | tlbw (rd : BitVec 5) (mbz : BitVec 5)
  /-- TINV_VA (R287). Invalidates TLB entries by VA. -/
  | tinvVa (rs1 : BitVec 5) (mbz : BitVec 5)
  /-- TINV_ASID (R287). Invalidates TLB entries by ASID. -/
  | tinvAsid (rs1 : BitVec 5) (mbz : BitVec 5)
  /-- TINV_IPA (R287). Invalidates TLB entries by IPA page. -/
  | tinvIpa (rs1 : BitVec 5) (mbz : BitVec 5)
  /-- TINV_VMID (R287). Invalidates TLB entries by VMID. -/
  | tinvVmid (rs1 : BitVec 5) (mbz : BitVec 5)
  /-- TINV_ALL (R287). Invalidates every TLB entry. -/
  | tinvAll (mbz : BitVec 10)
  /-- TRQRES (R291). Resumes or abandons the ring of a translation request. -/
  | trqres (rd rs1 : BitVec 5)
  /-- TLOAD (R119). Copies LTS rows and scale bytes into a tile and sets its tag. -/
  | tload (w1 : BitVec 21) (w2 : W32)
  /-- TSTORE (R120). Writes tile rows and scale bytes to the LTS. -/
  | tstore (w1 : BitVec 21) (w2 : W32)
  /-- TSTORE_TUN (R121). Stores Tun main or companion rows to the LTS as stored bits. -/
  | tstoreTun (w1 : BitVec 21) (w2 : W32)
  /-- TMOVV (R122). Copies a vector register into tile rows. -/
  | tmovv (w1 : BitVec 21) (w2 : W32)
  /-- TMOVT (R122). Copies tile rows into a vector register. -/
  | tmovt (w1 : BitVec 21) (w2 : W32)
  /-- TZERO (R123). Zeroes a tile and marks it in use. -/
  | tzero (w1 : BitVec 21) (w2 : W32)
  /-- TRELEASE (R123). Marks a tile not in use. -/
  | trelease (w1 : BitVec 21) (w2 : W32)
  /-- TMMA (R124). Multiplies two tiles and accumulates the block into a Tun group. -/
  | tmma (w1 : BitVec 21) (w2 : W32)
  /-- TBWD (R126). Computes the input and weight gradients in one instruction. -/
  | tbwd (w1 : BitVec 21) (w2 : W32)
  /-- TMAXI (R125). Keeps the maximum product with its winner index. -/
  | tmaxi (w1 : BitVec 21) (w2 : W32)
  /-- TMINI (R125). Keeps the minimum product with its winner index. -/
  | tmini (w1 : BitVec 21) (w2 : W32)
  /-- TGOPEN (R88). Opens an accumulation group, evicting overlapping groups and clearing its rows. -/
  | tgopen (w1 : BitVec 21) (w2 : W32)
  /-- TGCLOSE (R90). Finalises a group, folding or merging its rows, or releases it. -/
  | tgclose (w1 : BitVec 21) (w2 : W32)
  /-- TEPI (R131). Passes Tun rows through scale, bias, activation and conversion into tiles. -/
  | tepi (w1 : BitVec 21) (w2 : W32)
  /-- INSPECT (R480). Reads tile, Tun, scale or tag state into a vector register at M. -/
  | inspect (w1 : BitVec 21) (w2 : W32)
  /-- TUN_SPILL (R99). Adds a group's main rows into its binary64 LTS buffer after the triggering commit. -/
  | tunSpill (g : BitVec 4)
  /-- VSETL (R138). Sets CR_VL and rd to min(rs, cap(EW)). -/
  | vsetl (w1 : BitVec 26) (w2 : BitVec 24)
  /-- VLD (R152). Loads n elements from memory from the resume index onwards. -/
  | vld (w1 : BitVec 26) (w2 : BitVec 24)
  /-- VST (R152). Stores n elements to memory from the resume index onwards. -/
  | vst (w1 : BitVec 26) (w2 : BitVec 24)
  /-- VSPLAT (R142). Broadcasts a scalar to elements 0 to n − 1. -/
  | vsplat (w1 : BitVec 26) (w2 : BitVec 24)
  /-- VINS (R142). Inserts a scalar at an index. -/
  | vins (w1 : BitVec 26) (w2 : BitVec 24)
  /-- VEXT (R142). Extracts an element to a scalar register. -/
  | vext (w1 : BitVec 26) (w2 : BitVec 24)
  /-- VTBL (R148). Table permute over 1, 2 or 4 registers. -/
  | vtbl (w1 : BitVec 26) (w2 : BitVec 24)
  /-- VADD (R143). Element-wise add. -/
  | vadd (w1 : BitVec 26) (w2 : BitVec 24)
  /-- VSUB (R143). Element-wise subtract. -/
  | vsub (w1 : BitVec 26) (w2 : BitVec 24)
  /-- VMUL (R143). Element-wise multiply. -/
  | vmul (w1 : BitVec 26) (w2 : BitVec 24)
  /-- VFMA (R143). Element-wise fused multiply-add. -/
  | vfma (w1 : BitVec 26) (w2 : BitVec 24)
  /-- VDIV (R143). Element-wise B32 or B64 divide. -/
  | vdiv (w1 : BitVec 26) (w2 : BitVec 24)
  /-- VSQRT (R143). Element-wise square root. -/
  | vsqrt (w1 : BitVec 26) (w2 : BitVec 24)
  /-- VMIN (R143). Element-wise IEEE minimum. -/
  | vmin (w1 : BitVec 26) (w2 : BitVec 24)
  /-- VMAX (R143). Element-wise IEEE maximum. -/
  | vmax (w1 : BitVec 26) (w2 : BitVec 24)
  /-- VABS (R143). Clears each element's sign. -/
  | vabs (w1 : BitVec 26) (w2 : BitVec 24)
  /-- VNEG (R143). Inverts each element's sign. -/
  | vneg (w1 : BitVec 26) (w2 : BitVec 24)
  /-- VCMP (R147). Element-wise compare producing a mask. -/
  | vcmp (w1 : BitVec 26) (w2 : BitVec 24)
  /-- VSEL (R147). Bitwise select under a mask. -/
  | vsel (w1 : BitVec 26) (w2 : BitVec 24)
  /-- VCVT (R146). Converts elements between formats. -/
  | vcvt (w1 : BitVec 26) (w2 : BitVec 24)
  /-- VCVTI (R146). Converts between FP and integer elements. -/
  | vcvti (w1 : BitVec 26) (w2 : BitVec 24)
  /-- VIADD (R147). Element-wise integer add. -/
  | viadd (w1 : BitVec 26) (w2 : BitVec 24)
  /-- VISUB (R147). Element-wise integer subtract. -/
  | visub (w1 : BitVec 26) (w2 : BitVec 24)
  /-- VIAND (R147). Element-wise integer AND. -/
  | viand (w1 : BitVec 26) (w2 : BitVec 24)
  /-- VIOR (R147). Element-wise integer OR. -/
  | vior (w1 : BitVec 26) (w2 : BitVec 24)
  /-- VIXOR (R147). Element-wise integer XOR. -/
  | vixor (w1 : BitVec 26) (w2 : BitVec 24)
  /-- VISHL (R147). Element-wise shift left. -/
  | vishl (w1 : BitVec 26) (w2 : BitVec 24)
  /-- VISHR (R147). Element-wise logical shift right. -/
  | vishr (w1 : BitVec 26) (w2 : BitVec 24)
  /-- VIOTA (R142). Sets element i to (r + i) mod 2^w. -/
  | viota (w1 : BitVec 26) (w2 : BitVec 24)
  /-- VREDSUM (R149). Tree sum reduction into element 0. -/
  | vredsum (w1 : BitVec 26) (w2 : BitVec 24)
  /-- VREDSUM_COMP (R150). Compensated tree sum producing a value and error pair. -/
  | vredsumComp (w1 : BitVec 26) (w2 : BitVec 24)
  /-- VREDMAX (R151). Tree maximum reduction. -/
  | vredmax (w1 : BitVec 26) (w2 : BitVec 24)
  /-- VREDMIN (R151). Tree minimum reduction. -/
  | vredmin (w1 : BitVec 26) (w2 : BitVec 24)
  /-- SEED_WRITE (R45). A write to CR_SEED reseeds all 64 epilogue lanes. -/
  | seedWrite (rs1 : BitVec 5)
  /-- TINUSE_WRITE (R74). A write to CR_TINUSE releases tiles or marks them in use with zero contents. -/
  | tinuseWrite (rs1 : BitVec 5)
  /-- SVC_WRITE (R233). A write to CR_SVC enters or leaves service mode, clearing every register entry. -/
  | svcWrite (rs1 : BitVec 5)
  /-- SLEEP_WRITE (R412). A write to CR_SLEEP stops fetch until an enabled source is pending. -/
  | sleepWrite (rs1 : BitVec 5)
  /-- SCONS_WRITE (R172). A write to CR_SCONSn releases stream buffer credit. -/
  | sconsWrite (n : BitVec 2) (rs1 : BitVec 5)
  /-- STAIL_WRITE (R164). A write to CR_STAILn advances a stream ring's tail. -/
  | stailWrite (n : BitVec 2) (rs1 : BitVec 5)
  /-- DTAIL_WRITE (R349). A write to CR_DTAILn advances a DMA ring's tail once earlier stores are performed. -/
  | dtailWrite (n : BitVec 4) (rs1 : BitVec 5)
  /-- TAKE (R341). CR_JOBCTL TAKE makes the offered job the running job. -/
  | take (rs1 : BitVec 5)
  /-- END (R341). CR_JOBCTL END ends the running job, which is then signalled and completed. -/
  | endJob (rs1 : BitVec 5)
  /-- PREEMPT (R343). CR_JOBCTL PREEMPT moves the running job to the preempted set and stops its rings. -/
  | preempt (rs1 : BitVec 5)
  /-- CMO_CLEAN (R304). Writes back a dirty line. -/
  | cmoClean (rs1 : BitVec 5)
  /-- CMO_FLUSH (R304). Cleans a line and invalidates it everywhere. -/
  | cmoFlush (rs1 : BitVec 5)
  /-- CMO_INVAL (R304). Invalidates a line, discarding dirty bytes. -/
  | cmoInval (rs1 : BitVec 5)
  /-- CMO_IINV (R304). Invalidates a line in the L1I. -/
  | cmoIinv (rs1 : BitVec 5)
  /-- CMO_ZERO (R305). Writes 64 zero bytes, allocating the line as dirty zeros. -/
  | cmoZero (rs1 : BitVec 5)
  /-- CMO_ALL_CLEAN (R304). Cleans every line. -/
  | cmoAllClean (rs1 : BitVec 5)
  /-- CMO_ALL_FLUSH (R304). Flushes every line, the L1I included. -/
  | cmoAllFlush (rs1 : BitVec 5)
  /-- HCPD_READ (R434). A read of CR_HCPD performs an HCP read at CR_HCPA. -/
  | hcpdRead (rd : BitVec 5)
  /-- HCPD_WRITE (R434). A write of CR_HCPD performs a secure HCP write at CR_HCPA. -/
  | hcpdWrite (rs1 : BitVec 5)
  /-- TRACEW_WRITE (R472). A write to CR_TRACEW fills the USER packet slot. -/
  | tracewWrite (rs1 : BitVec 5)
  /-- HCP_WRITE (R377). An HCP write to a register that has no row of its own, checked and clamped. -/
  | hcpWrite (off : BitVec 16) (v : W32)
  /-- LATCHING_LO_READ (R482). A read of an energy, SCLK or counter LO word latches its HI word. -/
  | latchingLoRead (off : BitVec 16)
  /-- DOORBELL (R325). A KZ_DBn write sets a ring's tail or event head and wakes the block. -/
  | doorbell (n : BitVec 5) (v : W32)
  /-- SETUP (R324). Reads, checks and applies a ring context image. -/
  | setup (n : BitVec 5)
  /-- START (R324). Starts a set-up ring. -/
  | start (n : BitVec 5)
  /-- STOP (R324). Stops a ring, writing back the progress of its descriptor. -/
  | stop (n : BitVec 5)
  /-- CGT_LOAD (R191). Loads communication group table entries from memory. -/
  | cgtLoad (first last : BitVec 6)
  /-- CGT_SAVE (R191). Saves communication group table entries to memory. -/
  | cgtSave (first last : BitVec 6)
  /-- CGT_ENTRY_APPLY (R191). A loaded entry is applied once no CHSEND or CHRECV naming it is in progress. -/
  | cgtEntryApply
  /-- GO (R454). KZ_RST_CMD GO starts or restarts the start-up sequence. -/
  | go
  /-- WARM (R449). KZ_RST_CMD WARM makes a warm reset. -/
  | warm
  /-- CORE (R452). KZ_RST_CMD CORE makes a core-only reset. -/
  | core
  /-- FEAT_SEAL_WRITE (R465). A write to KZ_FEAT_SEAL seals the accepted features. -/
  | featSealWrite (v : W32)
  /-- MODE_PEND_WRITE (R344). A write to KZ_MODE_PEND sets a new pending epoch and copies the staged redirect table. -/
  | modePendWrite (v : W32)
  /-- NRT_TABLE_COPY (R295). A waiting copy of the staged table is made when the older live table is released. -/
  | nrtTableCopy
  /-- LTS_CFG_WRITE (R312). A write to KZ_LTS_CFG changes the quarters and the partition, wiping moved bytes. -/
  | ltsCfgWrite (v : W32)
  /-- WORLD_LOCK_WRITE (R434). A write to KZ_WORLD_LOCK locks the secure configuration. -/
  | worldLockWrite (v : W32)
  /-- LINK_ENABLE_WRITE (R398). A write to KZ_LINK_CTL.EN enables ports, or takes them DOWN. -/
  | linkEnableWrite (en : BitVec 4)
  /-- RETRAIN (R398). KZ_LINK_CTL RETRAIN moves a port from UP or FAILED to RETRAIN. -/
  | retrain (mask : BitVec 4)
  /-- OBS_CFG_WRITE (R471). A write to KZ_OBS_CFG configures trace, and a write of EN = 1 fills the SYNC slot. -/
  | obsCfgWrite (v : W32)
  /-- MPDREQ_WRITE (R430). A Maltster write to CR_MPDREQ switches power domains and starts ramps. -/
  | mpdreqWrite (v : W32)
  /-- MALTSTER_INSTRUCTION (R428). The Maltster executes one integer instruction of its running task. -/
  | maltsterInstruction
  /-- MALTSTER_SOURCE (R429). A Maltster source latches and wakes its task 8 SCLK later. -/
  | maltsterSource (src : BitVec 4)
  /-- INTERRUPT_ENTRY (R252). A takeable interrupt is taken at an instruction boundary. -/
  | interruptEntry
  /-- WINDOW_SPILL (R222). The spill engine writes the oldest resident window to its level's stack. -/
  | windowSpill
  /-- WINDOW_FILL (R222). The spill engine reads a window back from a spill stack. -/
  | windowFill
  /-- DOMAIN_POWER_UP (R410). A requested power domain ramps up and its stalled unit proceeds. -/
  | domainPowerUp (pd : BitVec 5)
  /-- DESCRIPTOR_FETCH (R321). The ring front end fetches the descriptor at a ring's head. -/
  | descriptorFetch (n : BitVec 5)
  /-- JOB_OFFER (R340). The front end offers a ready job to the main core. -/
  | jobOffer
  /-- JOB_WAIT_ARM_RETRY (R339). A job wait refused by a full wait table is retried every 256 SCLK. -/
  | jobWaitArmRetry (n : BitVec 3)
  /-- COMPLETION_WRITE (R333). A completion entry is written once every effect of its descriptor is acknowledged. -/
  | completionWrite (n : BitVec 5)
  /-- EVENT_WRITE (R334). An event entry is written to an event ring with a free slot. -/
  | eventWrite (e : BitVec 2)
  /-- INTERRUPT_MESSAGE (R335). MSGDATA is written to MSGADDR after an acknowledged entry. -/
  | interruptMessage (n : BitVec 5)
  /-- STREAM_BEGIN (R187). Sparge begins a stream descriptor once its epoch is reached. -/
  | streamBegin (n : BitVec 2)
  /-- SPARGE_CHUNK (R173). Sparge decodes and deposits one chunk, advances CR_SPRODn and signals. -/
  | spargeChunk
  /-- DMA_DESCRIPTOR_BEGIN (R360). A DMA channel begins a descriptor once its epoch is reached. -/
  | dmaDescriptorBegin (ch : BitVec 4)
  /-- DMA_PIECE_ISSUE (R350). The DMA engine issues the read of one piece. -/
  | dmaPieceIssue
  /-- DMA_END_SIGNAL (R354). The end signal is made once every write is acknowledged. -/
  | dmaEndSignal (ch : BitVec 4)
  /-- SYNC_OP_APPLY (R207). The sync-object engine applies one operation from its sources. -/
  | syncOpApply
  /-- SWAIT_TIMEOUT (R212). An ARMED wait's count reaches TMO and the wait expires. -/
  | swaitTimeout (num : BitVec 8)
  /-- WAIT_NOTIFY (R211). A FIRED or EXPIRED wait delivers its notification. -/
  | waitNotify (num : BitVec 8)
  /-- CHRECV_TIMEOUT (R201). An unaccepted CHRECV reaches CHTMO and fails. -/
  | chrecvTimeout
  /-- CHAIN_TRANSFER_SEND (R193). A Chain Port sends a buffered transfer once it holds credit. -/
  | chainTransferSend (east : Bool)
  /-- CHH (R194). A chain transfer arrives and is held, forwarded or discarded. -/
  | chh (east world : Bool) (cls : BitVec 2) (tag : BitVec 16) (rows : List TunRow)
  /-- RD (R368). An inbound read on the Far Port is checked and performed. -/
  | rdIn (h : Hdr)
  /-- WR (R368). An inbound write on the Far Port is checked and performed. -/
  | wr (h : Hdr) (data : Piece)
  /-- AT (R368). An inbound atomic on the Far Port is checked and performed. -/
  | atIn (h : Hdr) (data : Piece)
  /-- SYQ (R368). An inbound sync request is refused or applied and answered with an SYR. -/
  | syq (h : Hdr)
  /-- RDR (R387). A read response arrives for a fill, load, descriptor, image or DMA read. -/
  | rdr (fp : Bool) (h : Hdr) (data : Piece)
  /-- WRA (R387). A write acknowledgement arrives. -/
  | wra (fp : Bool) (h : Hdr)
  /-- ATR (R387). An atomic response arrives with its old value. -/
  | atr (fp : Bool) (h : Hdr)
  /-- SYR (R207). A remote sync response returns its old value and status. -/
  | syr (h : Hdr)
  /-- REQUEST_TIMEOUT (R365). A request's count reaches KZ_FP_TMO without a response. -/
  | requestTimeout (fp : Bool) (rtag : BitVec 16)
  /-- DATA_BLOCK (R391). A data link block is received: CRC, sequence, ACK, NAK and credits. -/
  | dataBlock (p : BitVec 2) (ctl : W32) (data : BitVec 1024) (hdr : BitVec 512) (crc : W32)
  /-- IDLE_BLOCK (R391). An idle link block delivers ACK, NAK and credits. -/
  | idleBlock (p : BitVec 2) (ctl : W32) (data : BitVec 1024) (hdr : BitVec 512) (crc : W32)
  /-- TRAIN (R393). A TRAIN control block is received during bring-up. -/
  | train (p : BitVec 2) (ctl : W32) (data : BitVec 1024) (hdr : BitVec 512) (crc : W32)
  /-- ADVERT (R393). An ADVERT block is received with the far end's credits. -/
  | advert (p : BitVec 2) (ctl : W32) (data : BitVec 1024) (hdr : BitVec 512) (crc : W32)
  /-- PAUSE (R395). A PAUSE block is received from the far end. -/
  | pause (p : BitVec 2) (ctl : W32) (data : BitVec 1024) (hdr : BitVec 512) (crc : W32)
  /-- RESUME (R395). A RESUME block is received from the far end. -/
  | resume (p : BitVec 2) (ctl : W32) (data : BitVec 1024) (hdr : BitVec 512) (crc : W32)
  /-- DOWN (R395). A DOWN block is received from the far end. -/
  | down (p : BitVec 2) (ctl : W32) (data : BitVec 1024) (hdr : BitVec 512) (crc : W32)
  /-- DESKEW (R397). A DESKEW block is received. -/
  | deskew (p : BitVec 2)
  /-- LINK_REQUEST (R393). A DOWN link whose port is needed enters REQ. -/
  | linkRequest (p : BitVec 2)
  /-- REPLAY_TIMER_EXPIRY (R392). No ACK progress for 1,024 LCLK triggers a replay. -/
  | replayTimerExpiry (p : BitVec 2)
  /-- BRINGUP_ATTEMPT_EXPIRY (R393). A bring-up attempt not UP after 65,536 LCLK restarts, or enters FAILED. -/
  | bringupAttemptExpiry (p : BitVec 2)
  /-- DESKEW_INSERT (R397). A transmitter inserts a DESKEW block after 65,536 blocks without a transition. -/
  | deskewInsert (p : BitVec 2)
  /-- LINK_LANE_TRIM (R397). A receiver trims a lane's sampling delay after 4,096 blocks: one step later (`some true`), earlier, or none. -/
  | linkLaneTrim (p : BitVec 2) (lane : Nat) (move : Option Bool) (margin : Byte)
  /-- BOND_TRAINING_BEAT (R316). The bond interface inserts a training beat after 65,536 beats without a transition. -/
  | bondTrainingBeat
  /-- BOND_LANE_TRIM (R316). The bond interface trims a lane after 4,096 beats. -/
  | bondLaneTrim (lane : Nat) (move : Option Bool) (margin : Byte)
  /-- LREQ_IN_RISE (R395). A rise of X_LREQ_I requests the link and wakes the block. -/
  | lreqInRise (p : BitVec 2)
  /-- WAKE_IN_RISE (R417). A rising edge of AON_WAKE_IN wakes the block. -/
  | wakeInRise
  /-- ENTER_COUCH (R411). The block becomes idle in Run and enters Couch. -/
  | enterCouch
  /-- STEEP_DESCENT (R414). The idle timer expires in Couch and the block descends to Steep. -/
  | steepDescent
  /-- WAKE_FROM_COUCH (R413). A wake cause ungates the clocks and returns the block to Run. -/
  | wakeFromCouch
  /-- WAKE_FROM_STEEP (R415). A wake cause powers domains and starts the PLLs; the core starts at CR_WAKEPC. -/
  | wakeFromSteep (cf cl : BitVec 16)
  /-- GOVERNOR_PERIOD (R421). At each 480-SCLK period end the governor moves the operating point and throttle. -/
  | governorPeriod (mw : BitVec 12) (temp : Byte) (vsup : BitVec 12) (slack : Byte) (cf cl : BitVec 16)
  /-- OSCILLATOR_TRIM (R402). Every 2^20 SCLK the trim window counts REFCLK and moves the trim code. -/
  | oscillatorTrim (count : BitVec 16) (w : BitVec 128)
  /-- PLL_RETRY (R404). A failed PLL is retried every 2^20 SCLK. -/
  | pllRetry (cf cl : BitVec 16)
  /-- DROOP (R424). A fast voltage droop stretches the next 8 ACLK and CCLK cycles. -/
  | droop
  /-- TIMER_COMPARE (R426). CR_TIME reaches CR_TCMP and source 3 becomes pending. -/
  | timerCompare
  /-- KILN_DONE (R445). A Kiln wipe ends and the next queued wipe starts. -/
  | kilnDone
  /-- COLD_RESET (R449). AON_PORST_N low holds the block in cold reset. -/
  | coldReset
  /-- POWER_GOOD_AON_LOW (R418). AON_PG_AON low acts as a cold reset. -/
  | powerGoodAonLow
  /-- POWER_GOOD_L_LOW (R418). AON_PG_L low causes a warm reset in Run or Couch. -/
  | powerGoodLLow
  /-- POWER_GOOD_M_LOW (R418). AON_PG_M low loses memory and causes a warm reset. -/
  | powerGoodMLow
  /-- LIFE_CYCLE_CHANGE (R441). New LCS lines held for 16 SCLK are applied with a warm reset and wipe. -/
  | lifeCycleChange (lcs : BitVec 3) (valid : Bool)
  /-- TRIM (R457). The successive-approximation oscillator trim phase completes. -/
  | trim (w : BitVec 128)
  /-- WIPE (R458). The domains are powered, the Kiln wipes and the PLLs start. -/
  | wipe
  /-- PLL (R458). The PLLs are judged stable and their domains switch to them. -/
  | pll (cf cl : BitVec 16)
  /-- BONDCAL (R459). The bond calibration sweep completes: for each lane, the steps of its sampling delay that passed. `cycles`: the cycles of
  CD38 since the sweep began. -/
  | bondcal (sweeps : List (BitVec 64)) (cycles : Nat)
  /-- LINK (R456). The Memory Port is brought to UP during start-up. -/
  | link
  /-- MIMG (R460). The Maltster image is read and verified. `edges`: the SCLK edges since the signature engine began on the image. -/
  | mimg (edges : Nat)
  /-- CIMG (R460). The machine image is read and verified. `edges`: the SCLK edges since the signature engine began on the image. -/
  | cimg (edges : Nat)
  /-- TRACE_SYNC (R468). A SYNC packet is generated when the SCLK count wraps modulo 65,536. -/
  | traceSync
  /-- PC_SAMPLE (R468). A PCS packet is generated every 2^PCLOG SCLK. -/
  | pcSample
  /-- TRACE_PACKET_ACCEPT (R470). The FIFO accepts the highest-priority held packet at an OCLK edge. -/
  | tracePacketAccept
  /-- POWER_ON_RESET_RELEASE (R455). AON_PORST_N rises with all supply-good lines high, ending the cold reset; the block then applies the life-cycle lines and enters HELD or WAITGO. -/
  | powerOnResetRelease (lcs : BitVec 3) (valid : Bool)
  /-- SUPPLY_GOOD_RISE (R415). A supply-good line returns high; this sets CR_MNOTICE.SUPPLY and releases a Steep wake waiting at edge 20 for AON_PG_L. -/
  | supplyGoodRise (m : Bool)
  /-- SCAN_SHIFT (R440). In the TEST life-cycle state, a TCLK edge with AON_SCAN_EN shifts the scan chains from AON_SCAN_IN to AON_SCAN_OUT. -/
  | scanShift (scanIn : Word)
deriving DecidableEq, Repr

end Sys2Proof
end

