-- ==== Sys2Proof/Decode.lean ====
section
/-! DEFINITION. The instruction words of the main core (05, 06, 08, 09, 11, 19): what each word spells, and the words that spell nothing. -/

namespace Sys2Proof

open Sys2Proof.Machine

/-- What the words at the PC spell: an instruction, or a reserved encoding, which its unit refuses as an illegal operand (R3). -/
inductive Decoded where
  | instr (i : Instr)
  /-- code 0x01 of R243 -/
  | core
  /-- a reserved TOP: code 0x01 of R78 -/
  | tile
  /-- a reserved VOP: code 0x01 of R158 -/
  | vector
  /-- a reserved sync operation: code 0x10 of R209 -/
  | sync
deriving DecidableEq, Repr

/-- A field of a word as a bit vector. -/
def fld (n : Nat) (w : W32) (lo : Nat) : BitVec n := w.extractLsb' lo n

/-- The fields rd, rs1 and rs2 of the formats of R228. -/
def rdOf (w : W32) : BitVec 5 := fld 5 w 21
def rs1Of (w : W32) : BitVec 5 := fld 5 w 16
def rs2Of (w : W32) : BitVec 5 := fld 5 w 11

/-- The major opcode (R228). -/
def majorOf (w : W32) : Nat := bits w 31 26

/-- A long form: a vector or tile instruction (R229). -/
def isLong (w : W32) : Bool := majorOf w == 0x3D || majorOf w == 0x3E

/-- The immediates of formats I and S (R228). -/
def immI (w : W32) : BitVec 16 := fld 16 w 0
def immS (w : W32) : BitVec 16 := fld 5 w 21 ++ fld 11 w 0

/-- OP by FUNCT (R230). -/
def decodeOp (w : W32) : Decoded :=
  let rd := rdOf w
  let a := rs1Of w
  let b := rs2Of w
  match bits w 10 0 with
  | 0x000 => .instr (.add rd a b)
  | 0x001 => .instr (.sub rd a b)
  | 0x002 => .instr (.and_ rd a b)
  | 0x003 => .instr (.or_ rd a b)
  | 0x004 => .instr (.xor rd a b)
  | 0x005 => .instr (.shl rd a b)
  | 0x006 => .instr (.shr rd a b)
  | 0x007 => .instr (.sar rd a b)
  | 0x008 => .instr (.slt rd a b)
  | 0x009 => .instr (.sltu rd a b)
  | 0x00A => .instr (.min rd a b)
  | 0x00B => .instr (.max rd a b)
  | 0x00C => .instr (.minu rd a b)
  | 0x00D => .instr (.maxu rd a b)
  | 0x010 => .instr (.mul rd a b)
  | 0x011 => .instr (.mulh rd a b)
  | 0x012 => .instr (.mulhu rd a b)
  | 0x014 => .instr (.div rd a b)
  | 0x015 => .instr (.divu rd a b)
  | 0x016 => .instr (.rem rd a b)
  | 0x017 => .instr (.remu rd a b)
  | 0x020 => .instr (.clz rd a b)
  | 0x021 => .instr (.ctz rd a b)
  | 0x022 => .instr (.popc rd a b)
  | 0x023 => .instr (.bswap rd a b)
  | _ => .core

/-- Shift immediate (R229). -/
def decodeShift (w : W32) : Decoded :=
  match bits w 7 6 with
  | 0 => .instr (.shiftImmediateShl (rdOf w) (rs1Of w) (fld 6 w 0) (fld 8 w 8))
  | 1 => .instr (.shiftImmediateShr (rdOf w) (rs1Of w) (fld 6 w 0) (fld 8 w 8))
  | 2 => .instr (.shiftImmediateSar (rdOf w) (rs1Of w) (fld 6 w 0) (fld 8 w 8))
  | _ => .core

/-- FP by OPF (R231): bits [4:0] are 0, and rs2 is 0 where the instruction has one source (R4). -/
def decodeFp (w : W32) : Decoded :=
  let d := bit w 5
  let rd := rdOf w
  let a := rs1Of w
  let b := rs2Of w
  let one (i : Instr) : Decoded := if b = 0 then .instr i else .core
  if bits w 4 0 ≠ 0 then .core
  else
    match bits w 10 6 with
    | 0 => .instr (.fadd d rd a b)
    | 1 => .instr (.fsub d rd a b)
    | 2 => .instr (.fmul d rd a b)
    | 3 => .instr (.fdiv d rd a b)
    | 4 => one (.fsqrt d rd a)
    | 5 => .instr (.fmin d rd a b)
    | 6 => .instr (.fmax d rd a b)
    | 7 => one (.fabs d rd a)
    | 8 => one (.fneg d rd a)
    | 9 => .instr (.feq d rd a b)
    | 10 => .instr (.flt d rd a b)
    | 11 => .instr (.fle d rd a b)
    | 12 => one (.fclass d rd a)
    | 13 => one (.fcvtF d rd a)
    | 14 => one (.fcvtI d rd a)
    | 15 => one (.fcvtFi d rd a)
    | 16 => one (.fmvX d rd a)
    | 17 => one (.fmvF d rd a)
    | _ => .core

/-- Fused multiply-add (R231): bits [5:3] are 0. -/
def decodeFma (w : W32) : Decoded :=
  let d := bit w 0
  let rs3 := fld 5 w 6
  if bits w 5 3 ≠ 0 then .core
  else
    match bits w 2 1 with
    | 0 => .instr (.fmadd d (rdOf w) (rs1Of w) (rs2Of w) rs3)
    | 1 => .instr (.fmsub d (rdOf w) (rs1Of w) (rs2Of w) rs3)
    | 2 => .instr (.fnmadd d (rdOf w) (rs1Of w) (rs2Of w) rs3)
    | _ => .instr (.fnmsub d (rdOf w) (rs1Of w) (rs2Of w) rs3)

/-- The atomics (R230). -/
def decodeAtomic (w : W32) : Decoded :=
  let n := bit w 4
  let rd := rdOf w
  let a := rs1Of w
  let b := rs2Of w
  let z : BitVec 6 := fld 6 w 5
  match bits w 3 0 with
  | 0 => .instr (.atomicSwap n rd a b z)
  | 1 => .instr (.atomicAdd n rd a b z)
  | 2 => .instr (.atomicAnd n rd a b z)
  | 3 => .instr (.atomicOr n rd a b z)
  | 4 => .instr (.atomicMax n rd a b z)
  | 5 => .instr (.atomicMin n rd a b z)
  | 6 => .instr (.atomicMaxu n rd a b z)
  | 7 => .instr (.atomicMinu n rd a b z)
  | 8 => .instr (.cas n rd a b z)
  | _ => .core

/-- SYNC by F (R232); a reserved operation of SOP fails code 0x10 (R205, R209); a reserved fence kind code 0x01 (R372). -/
def decodeSync (w : W32) : Decoded :=
  let rd := rdOf w
  let a := rs1Of w
  let b := rs2Of w
  match bits w 7 0 with
  | 0x01 =>
    match bits w 10 8 with
    | 0 => .instr (.sopRead rd a b)
    | 1 => .instr (.sopAdd rd a b)
    | 2 => .instr (.sopSet rd a b)
    | 3 => .instr (.sopTake rd a b)
    | 4 => .instr (.sopMax rd a b)
    | _ => .sync
  | 0x02 => .instr (.swait rd a b (fld 3 w 8))
  | 0x03 => .instr (.swcancel rd a (b ++ fld 3 w 8))
  | 0x04 => .instr (.chsend a (rd ++ b ++ fld 3 w 8))
  | 0x05 => .instr (.chrecv a (rd ++ b ++ fld 3 w 8))
  | 0x08 =>
    match bits w 10 8 with
    | 0 => .instr (.fenceM (rd ++ a ++ b))
    | 1 => .instr (.fenceA (rd ++ a ++ b))
    | 2 => .instr (.fenceT (rd ++ a ++ b))
    | _ => .core
  | _ => .core

/-- SYSOP 5 by ARG (R232, R281). -/
def decodeSys5 (w : W32) : Decoded :=
  let rd := rdOf w
  let a := rs1Of w
  match bits w 11 0 with
  | 0x000 => .instr (.eret (rd ++ a))
  | 0x001 => .instr (.gret (rd ++ a))
  | 0x003 => .instr (.brk (rd ++ a))
  | 0x008 => .instr (.tsleep (rd ++ a))
  | 0x009 => .instr (.tstop (rd ++ a))
  | 0x00A => .instr (.tstart a rd)
  | 0x00B => .instr (.twake a rd)
  | 0x010 => .instr (.ctxsaveL a rd)
  | 0x011 => .instr (.ctxsaveU a rd)
  | 0x012 => .instr (.ctxloadL a rd)
  | 0x013 => .instr (.ctxloadU a rd)
  | 0x020 => .instr (.twalk rd a)
  | 0x021 => .instr (.twalkR rd a)
  | 0x022 => .instr (.tlbw rd a)
  | 0x024 => .instr (.tinvVa a rd)
  | 0x025 => .instr (.tinvAsid a rd)
  | 0x026 => .instr (.tinvIpa a rd)
  | 0x027 => .instr (.tinvVmid a rd)
  | 0x028 => .instr (.tinvAll (rd ++ a))
  | 0x02C => .instr (.trqres rd a)
  | _ => .core

/-- SYSTEM by SYSOP (R232). -/
def decodeSystem (w : W32) : Decoded :=
  match bits w 15 12 with
  | 0 => .instr (.crr (rdOf w) (fld 12 w 0) (rs1Of w))
  | 1 => .instr (.crw (rs1Of w) (fld 12 w 0) (rdOf w))
  | 2 => .instr (.crs (rdOf w) (rs1Of w) (fld 12 w 0))
  | 3 => .instr (.crc (rdOf w) (rs1Of w) (fld 12 w 0))
  | 4 => .instr (.gate (fld 8 w 0) (rdOf w ++ rs1Of w ++ fld 4 w 8))
  | 5 => decodeSys5 w
  | _ => .core

/-- Tile instructions by TOP (R110, R111); SUB[0] = 1 makes TSTORE store Tun rows (R121). -/
def decodeTile (w w2 : W32) : Decoded :=
  let f : BitVec 21 := fld 21 w 0
  match bits w 25 21 with
  | 0x00 => .instr (.tload f w2)
  | 0x01 => .instr (if bit w 0 then .tstoreTun f w2 else .tstore f w2)
  | 0x02 => .instr (.tmovv f w2)
  | 0x03 => .instr (.tmovt f w2)
  | 0x04 => .instr (.tzero f w2)
  | 0x05 => .instr (.trelease f w2)
  | 0x08 => .instr (.tmma f w2)
  | 0x09 => .instr (.tbwd f w2)
  | 0x0A => .instr (.tmaxi f w2)
  | 0x0B => .instr (.tmini f w2)
  | 0x10 => .instr (.tgopen f w2)
  | 0x11 => .instr (.tgclose f w2)
  | 0x12 => .instr (.tepi f w2)
  | 0x1F => .instr (.inspect f w2)
  | _ => .tile

/-- Vector instructions by VOP (R140–R142); COMP makes VREDSUM compensated (R150). -/
def decodeVector (w w2 : W32) : Decoded :=
  let a : BitVec 26 := fld 26 w 0
  let b : BitVec 24 := fld 24 w2 8
  match bits w2 7 0 with
  | 0x00 => .instr (.vsetl a b)
  | 0x01 => .instr (.vld a b)
  | 0x02 => .instr (.vst a b)
  | 0x04 => .instr (.vsplat a b)
  | 0x05 => .instr (.vins a b)
  | 0x06 => .instr (.vext a b)
  | 0x08 => .instr (.vtbl a b)
  | 0x10 => .instr (.vadd a b)
  | 0x11 => .instr (.vsub a b)
  | 0x12 => .instr (.vmul a b)
  | 0x13 => .instr (.vfma a b)
  | 0x14 => .instr (.vdiv a b)
  | 0x15 => .instr (.vsqrt a b)
  | 0x16 => .instr (.vmin a b)
  | 0x17 => .instr (.vmax a b)
  | 0x18 => .instr (.vabs a b)
  | 0x19 => .instr (.vneg a b)
  | 0x1A => .instr (.vcmp a b)
  | 0x1B => .instr (.vsel a b)
  | 0x1C => .instr (.vcvt a b)
  | 0x1D => .instr (.vcvti a b)
  | 0x20 => .instr (.viadd a b)
  | 0x21 => .instr (.visub a b)
  | 0x22 => .instr (.viand a b)
  | 0x23 => .instr (.vior a b)
  | 0x24 => .instr (.vixor a b)
  | 0x25 => .instr (.vishl a b)
  | 0x26 => .instr (.vishr a b)
  | 0x27 => .instr (.viota a b)
  | 0x30 => .instr (if bit w2 25 then .vredsumComp a b else .vredsum a b)
  | 0x31 => .instr (.vredmax a b)
  | 0x32 => .instr (.vredmin a b)
  | _ => .vector

/-- The instruction at the PC by its major opcode (R229): `w2` is the second word of a long form. -/
def decode (w w2 : W32) : Decoded :=
  let rd := rdOf w
  let a := rs1Of w
  let b := rs2Of w
  match majorOf w with
  | 0x01 => decodeOp w
  | 0x02 => .instr (.opw (fld 11 w 0) rd a b)
  | 0x04 => .instr (.addi rd a (immI w))
  | 0x05 => .instr (.andi rd a (immI w))
  | 0x06 => .instr (.ori rd a (immI w))
  | 0x07 => .instr (.xori rd a (immI w))
  | 0x08 => .instr (.slti rd a (immI w))
  | 0x09 => .instr (.sltiu rd a (immI w))
  | 0x0A => decodeShift w
  | 0x0B => .instr (.lui rd (fld 21 w 0))
  | 0x0C => .instr (.auipc rd (fld 21 w 0))
  | 0x0D => .instr (.addiw rd a (immI w))
  | 0x10 => .instr (.lb rd a (immI w))
  | 0x11 => .instr (.lh rd a (immI w))
  | 0x12 => .instr (.lw rd a (immI w))
  | 0x13 => .instr (.ld rd a (immI w))
  | 0x14 => .instr (.lbu rd a (immI w))
  | 0x15 => .instr (.lhu rd a (immI w))
  | 0x16 => .instr (.lwu rd a (immI w))
  | 0x18 => .instr (.sb b a (immS w))
  | 0x19 => .instr (.sh b a (immS w))
  | 0x1A => .instr (.sw b a (immS w))
  | 0x1B => .instr (.sd b a (immS w))
  | 0x1C => .instr (.flw rd a (immI w))
  | 0x1D => .instr (.fld rd a (immI w))
  | 0x1E => .instr (.fsw b a (immS w))
  | 0x1F => .instr (.fsd b a (immS w))
  | 0x20 => .instr (.beq a b (immS w))
  | 0x21 => .instr (.bne a b (immS w))
  | 0x22 => .instr (.blt a b (immS w))
  | 0x23 => .instr (.bge a b (immS w))
  | 0x24 => .instr (.bltu a b (immS w))
  | 0x25 => .instr (.bgeu a b (immS w))
  | 0x26 => .instr (.j (fld 26 w 0))
  | 0x27 => .instr (.jalr rd a (immI w))
  | 0x28 => .instr (.call (fld 26 w 0))
  | 0x29 => .instr (.callr a (rd ++ fld 16 w 0))
  | 0x2A => .instr (.ret (fld 26 w 0))
  | 0x2C => decodeFp w
  | 0x2D => decodeFma w
  | 0x30 => decodeAtomic w
  | 0x34 => decodeSync w
  | 0x38 => decodeSystem w
  | 0x3D => decodeVector w w2
  | 0x3E => decodeTile w w2
  | _ => .core

/-- The command that a word spells: the table gives no row bits (log 2), and the bits of the main core's instructions are those of `decode`,
one word in 32 bits or a long form in 64, its first word lowest. -/
def decodeTableWord (nbits w : Nat) : Option Instr :=
  let w1 := BitVec.ofNat 32 w
  if nbits = (if isLong w1 then 64 else 32) then
    match decode w1 (BitVec.ofNat 32 (w / 2 ^ 32)) with
    | .instr i => some i
    | _ => none
  else none

end Sys2Proof
end

