-- ==== Sys2Proof/Machine/Numeric.lean ====
section
/-! DEFINITION. Number formats, exact values, `rnd_ftz`, block scaling and the stochastic generator (02_number_formats, R21–R50, R485). -/

namespace Sys2Proof.Machine

/-- The element formats of R21. -/
inductive Fmt where
  | w16 | k8 | k8w | q4 | b32 | b64
deriving DecidableEq, Repr

/-- Rounding modes of R35 (the reserved code is refused before a mode is formed). -/
inductive RMode where
  | rne | rtz | sr
deriving DecidableEq, Repr

/-- Saturation modes of R35. -/
inductive SMode where
  | sat | ieee
deriving DecidableEq, Repr

/-- An exact extended value: NaN, an infinity, or `(-1)^neg * mag * 2^e`; a zero keeps a sign. -/
inductive Ex where
  | nan
  | inf (neg : Bool)
  | fin (neg : Bool) (mag : Nat) (e : Int)
deriving DecidableEq, Repr

/-- The format a 4-bit code names, none for a reserved code (R21, R22). -/
def Fmt.ofCode : Nat → Option Fmt
  | 0 => some .w16
  | 1 => some .k8
  | 2 => some .k8w
  | 3 => some .q4
  | 8 => some .b32
  | 9 => some .b64
  | _ => none

/-- The 4-bit code of a format (R21). -/
def Fmt.code : Fmt → Nat
  | .w16 => 0
  | .k8 => 1
  | .k8w => 2
  | .q4 => 3
  | .b32 => 8
  | .b64 => 9

/-- Width in bits (R21). -/
def Fmt.width : Fmt → Nat
  | .w16 => 16
  | .k8 => 8
  | .k8w => 8
  | .q4 => 4
  | .b32 => 32
  | .b64 => 64

/-- Fraction bits p of the parameter table under R22. -/
def Fmt.p : Fmt → Nat
  | .w16 => 7
  | .k8 => 3
  | .k8w => 2
  | .q4 => 1
  | .b32 => 23
  | .b64 => 52

/-- Exponent bias of the parameter table under R22. -/
def Fmt.bias : Fmt → Int
  | .w16 => 127
  | .k8 => 8
  | .k8w => 16
  | .q4 => 1
  | .b32 => 127
  | .b64 => 1023

/-- The exponent of the largest binade, emax(F). -/
def Fmt.emax : Fmt → Int
  | .w16 => 127
  | .k8 => 7
  | .k8w => 15
  | .q4 => 2
  | .b32 => 127
  | .b64 => 1023

/-- The exponent of the smallest normal. -/
def Fmt.emin (F : Fmt) : Int := 1 - F.bias

/-- Formats with signed zeros and infinities: W16, B32, B64 (R23–R26). -/
def Fmt.isIeee : Fmt → Bool
  | .w16 => true
  | .b32 => true
  | .b64 => true
  | _ => false

/-- Bits of the exponent field. -/
def Fmt.ebits (F : Fmt) : Nat := F.width - 1 - F.p

/-- Random bits k(F) of R43; B32 takes none. -/
def Fmt.k : Fmt → Nat
  | .w16 => 12
  | .k8 => 8
  | .k8w => 8
  | .q4 => 4
  | _ => 0

/-- The sign bit's weight. -/
def Fmt.signBit (F : Fmt) : Nat := 2 ^ (F.width - 1)

/-- The code of an infinity (formats that have one). -/
def Fmt.infCode (F : Fmt) (neg : Bool) : Nat :=
  (if neg then F.signBit else 0) + ((2 ^ F.ebits - 1) <<< F.p)

/-- The NaN result code: R23 W16, R24 K8, R25 K8W, R33 B32 and B64; Q4 has none and gives 0 (R38). -/
def Fmt.nanCode : Fmt → Nat
  | .w16 => 0x7FC0
  | .k8 => 0x80
  | .k8w => 0x80
  | .q4 => 0
  | .b32 => 0x7FC00000
  | .b64 => 0x7FF8000000000000

/-- The largest finite code of a sign. -/
def Fmt.maxCode (F : Fmt) (neg : Bool) : Nat :=
  (if neg then F.signBit else 0) +
    match F with
    | .w16 => 0x7F7F
    | .k8 => 0x7F
    | .k8w => 0x7F
    | .q4 => 7
    | .b32 => 0x7F7FFFFF
    | .b64 => 0x7FEFFFFFFFFFFFFF

/-- zero(F, s): signed for W16, B32 and B64, +0 for K8, K8W and Q4 (R37). -/
def Fmt.zeroCode (F : Fmt) (neg : Bool) : Nat := if F.isIeee && neg then F.signBit else 0

/-- The exact value of a code, subnormals of B32 and B64 kept (R23–R26, R28, R32). -/
def decodeEx (F : Fmt) (code : Nat) : Ex :=
  let c := code % 2 ^ F.width
  let neg := c.testBit (F.width - 1)
  let ef := (c >>> F.p) % 2 ^ F.ebits
  let f := c % 2 ^ F.p
  if F.isIeee then
    if ef = 2 ^ F.ebits - 1 then (if f = 0 then .inf neg else .nan)
    else if ef = 0 then
      (if F = .w16 then .fin neg 0 0 else .fin neg f (F.emin - F.p))
    else .fin neg (2 ^ F.p + f) ((ef : Int) - F.bias - F.p)
  else if (F = .k8 ∨ F = .k8w) ∧ c = 0x80 then .nan
  else if ef = 0 then .fin false 0 0
  else .fin neg (2 ^ F.p + f) ((ef : Int) - F.bias - F.p)

/-- As `decodeEx`, with a B32 subnormal acting as a zero of its sign (R129). -/
def decodeFlushed (F : Fmt) (code : Nat) : Ex :=
  match decodeEx F code with
  | .fin neg mag e => if (code >>> F.p) % 2 ^ F.ebits = 0 then .fin neg 0 0 else .fin neg mag e
  | x => x

/-- floor(log2 |x|) of a finite nonzero value. -/
def exOf (mag : Nat) (e : Int) : Int := (Nat.log2 mag : Int) + e

/-- `mag * 2^e` as an integer multiple of `2^g`, for `g ≤ e`. -/
def scaleTo (mag : Nat) (e g : Int) : Nat := mag <<< (e - g).toNat

/-- Compare `m1 * 2^e1` with `m2 * 2^e2`. -/
def cmpMag (m1 : Nat) (e1 : Int) (m2 : Nat) (e2 : Int) : Ordering :=
  let g := min e1 e2
  compare (scaleTo m1 e1 g) (scaleTo m2 e2 g)

/-- A signed exact integer multiple of `2^g` as an exact value; zero is +0. -/
def exOfInt (m : Int) (g : Int) : Ex := .fin (decide (m < 0)) m.natAbs g

/-- The signed integer multiple of `2^g` that a finite value is, for `g ≤ e`. -/
def intAt (neg : Bool) (mag : Nat) (e g : Int) : Int :=
  if neg then - (scaleTo mag e g : Int) else (scaleTo mag e g : Int)

/-- NaN test. -/
def Ex.isNaN : Ex → Bool
  | .nan => true
  | _ => false

/-- Infinity test. -/
def Ex.isInf : Ex → Bool
  | .inf _ => true
  | _ => false

/-- Zero test. -/
def Ex.isZero : Ex → Bool
  | .fin _ 0 _ => true
  | _ => false

/-- The sign; NaN counts as positive. -/
def Ex.sign : Ex → Bool
  | .nan => false
  | .inf s => s
  | .fin s _ _ => s

/-- Negation. -/
def Ex.neg : Ex → Ex
  | .nan => .nan
  | .inf s => .inf (!s)
  | .fin s m e => .fin (!s) m e

/-- Absolute value. -/
def Ex.abs : Ex → Ex
  | .nan => .nan
  | .inf _ => .inf false
  | .fin _ m e => .fin false m e

/-- A zero made +0, any other value kept. -/
def Ex.posZero : Ex → Ex
  | .fin _ 0 _ => .fin false 0 0
  | x => x

/-- The exact product; a zero has the sign of the product. -/
def Ex.mul : Ex → Ex → Ex
  | .nan, _ => .nan
  | _, .nan => .nan
  | .inf s, .inf t => .inf (s != t)
  | .inf s, .fin t m _ => if m = 0 then .nan else .inf (s != t)
  | .fin s m _, .inf t => if m = 0 then .nan else .inf (s != t)
  | .fin s m e, .fin t n f => .fin (s != t) (m * n) (e + f)

/-- The exact sum. `zneg` is the sign an exact zero sum of unlike signs takes (IEEE 754, 6.3). -/
def Ex.addZ (zneg : Bool) : Ex → Ex → Ex
  | .nan, _ => .nan
  | _, .nan => .nan
  | .inf s, .inf t => if s = t then .inf s else .nan
  | .inf s, .fin _ _ _ => .inf s
  | .fin _ _ _, .inf t => .inf t
  | .fin s m e, .fin t n f =>
    let g := min e f
    let z := intAt s m e g + intAt t n f g
    if z = 0 then .fin (if m = 0 ∧ n = 0 ∧ s = t then s else zneg) 0 0
    else exOfInt z g

/-- The exact sum, an exact zero of unlike signs being +0. -/
def Ex.add (x y : Ex) : Ex := addZ false x y

/-- The exact difference. -/
def Ex.sub (x y : Ex) : Ex := add x y.neg

/-- fused(a, b, c) of R131: the exact value a × b + c. -/
def Ex.fused (a b c : Ex) : Ex := add (mul a b) c

/-- The value times 2^n. -/
def Ex.scale (n : Int) : Ex → Ex
  | .fin s m e => .fin s m (e + n)
  | x => x

/-- The quotient, exact where it is dyadic at 80 or more significant bits, otherwise with a sticky lowest bit:
every rounding to 64 bits or fewer of the true quotient is the rounding of this value. -/
def Ex.div : Ex → Ex → Ex
  | .nan, _ => .nan
  | _, .nan => .nan
  | .inf _, .inf _ => .nan
  | .inf s, .fin t _ _ => .inf (s != t)
  | .fin s _ _, .inf t => .fin (s != t) 0 0
  | .fin s m e, .fin t n f =>
    if n = 0 then (if m = 0 then .nan else .inf (s != t))
    else if m = 0 then .fin (s != t) 0 0
    else
      let k := 80 + Nat.log2 n
      let q := (m <<< k) / n
      let r := (m <<< k) % n
      .fin (s != t) (2 * q + (if r = 0 then 0 else 1)) (e - f - k - 1)

/-- Integer square root by bitwise search over `n` bits from the top. -/
def Ex.isqrtGo : Nat → Nat → Nat → Nat
  | 0, _, r => r
  | n + 1, x, r =>
    let c := r + 2 ^ n
    if c * c ≤ x then isqrtGo n x c else isqrtGo n x r

/-- floor of the square root. -/
def Ex.isqrt (x : Nat) : Nat := isqrtGo (Nat.log2 x / 2 + 1) x 0

/-- The square root, with a sticky lowest bit as in `div`. -/
def Ex.sqrt : Ex → Ex
  | .nan => .nan
  | .inf s => if s then .nan else .inf false
  | .fin s m e =>
    if m = 0 then .fin s 0 0
    else if s then .nan
    else
      let k := 160 + (if e % 2 = 0 then 0 else 1)
      let x := m <<< k
      let r := isqrt x
      .fin false (2 * r + (if r * r = x then 0 else 1)) ((e - k) / 2 - 1)

/-- Strict order of two values that are not NaN. -/
def Ex.lt : Ex → Ex → Bool
  | .nan, _ => false
  | _, .nan => false
  | .inf s, .inf t => s && !t
  | .inf s, .fin _ _ _ => s
  | .fin _ _ _, .inf t => !t
  | .fin s m e, .fin t n f =>
    let g := min e f
    decide (intAt s m e g < intAt t n f g)

/-- Numeric equality of two values that are not NaN; the two zeros are equal. -/
def Ex.eq : Ex → Ex → Bool
  | .nan, _ => false
  | _, .nan => false
  | .inf s, .inf t => s == t
  | .fin s m e, .fin t n f =>
    let g := min e f
    decide (intAt s m e g = intAt t n f g)
  | _, _ => false

/-- The exact value of an integer. -/
def Ex.ofInt (n : Int) : Ex := exOfInt n 0

/-- The magnitude `mag * 2^e` cut to `p + 1` significant bits: the kept integer n, the exponent of its
last place, the discarded bits and their count. -/
def cutMag (p : Nat) (mag : Nat) (e : Int) : Nat × Int × Nat × Nat :=
  let l := Nat.log2 mag
  if l ≤ p then (mag <<< (p - l), e - (p - l : Nat), 0, 0)
  else
    let sh := l - p
    (mag >>> sh, e + sh, mag % 2 ^ sh, sh)

/-- Whether rounding moves the kept magnitude up (R37): `d = rem / 2^sh`. -/
def roundUpMag (rm : RMode) (k r : Nat) (n rem sh : Nat) : Bool :=
  match rm with
  | .rtz => false
  | .rne => decide (2 ^ sh < 2 * rem) || (decide (2 * rem = 2 ^ sh) && decide (sh ≠ 0) && decide (n % 2 = 1))
  | .sr => decide (2 ^ k ≤ (rem <<< k) / 2 ^ sh + r)

/-- overflow_result of R38. -/
def overflowCode (F : Fmt) (neg : Bool) (rm : RMode) (sm : SMode) : Nat :=
  match sm, rm with
  | .sat, _ => F.maxCode neg
  | .ieee, .rtz => F.maxCode neg
  | .ieee, _ =>
    match F with
    | .q4 => F.maxCode neg
    | .k8 => F.nanCode
    | .k8w => F.nanCode
    | _ => F.infCode neg

/-- inf_result of R38. -/
def infResult (F : Fmt) (neg : Bool) (sm : SMode) : Nat :=
  match sm with
  | .sat => F.maxCode neg
  | .ieee =>
    match F with
    | .q4 => F.maxCode neg
    | .k8 => F.nanCode
    | .k8w => F.nanCode
    | _ => F.infCode neg

/-- rnd_ftz of R37, to the code of the target format. Under SAT an infinity becomes ±maxfin whatever the source (R38), so also from W16 to W16,
where the last line of R182 names only subnormals and NaNs as changed (log 89). -/
def rndFtz (x : Ex) (F : Fmt) (rm : RMode) (sm : SMode) (r : Nat) : Nat :=
  match x with
  | .nan => F.nanCode
  | .inf s => infResult F s sm
  | .fin s mag e =>
    if mag = 0 then F.zeroCode s
    else
      let (n, u, rem, sh) := cutMag F.p mag e
      let n1 := if roundUpMag rm F.k r n rem sh then n + 1 else n
      let E : Int := u + Nat.log2 n1
      if F.emax < E then overflowCode F s rm sm
      else if E < F.emin then F.zeroCode s
      else
        let frac := (if n1 = 2 ^ (F.p + 1) then 0 else n1 - 2 ^ F.p)
        (if s then F.signBit else 0) + (((E + F.bias).toNat <<< F.p) + frac)

/-- Sticky conversion flags of CR_CVTSTAT (R49). -/
structure CvtFlags where
  inx : Bool := false
  ovf : Bool := false
  flush : Bool := false
  nanq : Bool := false
  nanblk : Bool := false
deriving DecidableEq, Repr

/-- Union of two sets of conversion flags. -/
def CvtFlags.or (a b : CvtFlags) : CvtFlags :=
  { inx := a.inx || b.inx, ovf := a.ovf || b.ovf, flush := a.flush || b.flush,
    nanq := a.nanq || b.nanq, nanblk := a.nanblk || b.nanblk }

/-- CR_CVTSTAT's bits of a set of flags. -/
def CvtFlags.toNat (a : CvtFlags) : Nat :=
  a.inx.toNat + 2 * a.ovf.toNat + 4 * a.flush.toNat + 8 * a.nanq.toNat + 16 * a.nanblk.toNat

/-- Whether a finite nonzero value overflows under rnd_ftz. -/
def overflows (x : Ex) (F : Fmt) (rm : RMode) (r : Nat) : Bool :=
  match x with
  | .fin _ mag e =>
    if mag = 0 then false
    else
      let (n, u, rem, sh) := cutMag F.p mag e
      let n1 := if roundUpMag rm F.k r n rem sh then n + 1 else n
      decide (F.emax < u + Nat.log2 n1)
  | _ => false

/-- The flags of one element's conversion (R485, first five rows). -/
def cvtFlags (x : Ex) (F : Fmt) (rm : RMode) (sm : SMode) (r : Nat) : CvtFlags :=
  let code := rndFtz x F rm sm r
  let v := decodeEx F code
  match x with
  | .nan => if F = .q4 then { inx := true, nanq := true } else {}
  | .inf s => if v = .inf s then {} else { inx := true, ovf := true }
  | .fin _ _ _ =>
    if overflows x F rm r then { inx := true, ovf := true }
    else
      { inx := !(Ex.eq v x), flush := v.isZero && !x.isZero }

/-- block_exponent of R31: the scale byte for the exact values a block is to hold. -/
def blockExponent (xs : List Ex) (F : Fmt) (sm : SMode) : Nat :=
  if xs.any Ex.isNaN then 0xFF
  else if sm = .ieee ∧ xs.any Ex.isInf then 0xFF
  else
    let m := xs.foldl (fun (a : Nat × Int) x =>
      match x with
      | .fin _ mag e => if cmpMag a.1 a.2 mag e = .lt then (mag, e) else a
      | _ => a) (0, 0)
    if m.1 = 0 then 127
    else
      let e0 : Int := exOf m.1 m.2 - F.emax + 127
      let e1 : Nat := if e0 < 0 then 0 else if 254 < e0 then 254 else e0.toNat
      match decodeEx F (F.maxCode false) with
      | .fin _ mx me => if e1 < 254 ∧ cmpMag m.1 (m.2 - (e1 - 127)) mx me = .gt then e1 + 1 else e1
      | _ => e1

/-- The advance of a lane generator (R42). -/
def advanceLane (x : W32) : W32 :=
  let x := x ^^^ (x <<< 13)
  let x := x ^^^ (x >>> 17)
  x ^^^ (x <<< 5)

/-- The random value of a lane state already advanced (R43). -/
def laneRandom (x : W32) (F : Fmt) : Nat := x.toNat >>> (32 - F.k)

/-- The lane state that a seed gives lane j (R45). -/
def seedLane (seed : W32) (j : Nat) : W32 :=
  let x := seed ^^^ BitVec.ofNat 32 ((j + 1) * 0x9E3779B9)
  if x = 0 then 1 else x

/-- Every lane's state after a seed is written (R45). -/
def seedLanes (seed : W32) : List W32 := (List.range 64).map (seedLane seed)

/-- The code of one element of a block with scale byte e (R31). -/
def blockCode (e : Nat) (F : Fmt) (rm : RMode) (sm : SMode) (r : Nat) (x : Ex) : Nat :=
  if e = 0xFF then 0 else rndFtz (x.scale (127 - (e : Int))) F rm sm r

/-- The flags of one block-scaled result (R485, last two rows). `rs` are the elements' random values. -/
def blockFlags (e : Nat) (F : Fmt) (rm : RMode) (sm : SMode) (xs : List Ex) (rs : List Nat) : CvtFlags :=
  if e = 0xFF then
    { nanblk := true, inx := !(xs.all Ex.isNaN), ovf := decide (sm = .ieee) && xs.any Ex.isInf }
  else
    (xs.zip rs).foldl (fun a p => a.or (cvtFlags (p.1.scale (127 - (e : Int))) F rm sm p.2)) {}

/-- The value of an element of a block with scale byte e (R29): exact, NaN for 0xFF. -/
def scaledElem (F : Fmt) (bsc : Bool) (scaleByte : Nat) (code : Nat) : Ex :=
  let x := decodeEx F code
  if bsc then (if scaleByte = 0xFF then .nan else x.scale ((scaleByte : Int) - 127)) else x

/-- Element k of a row of bits in a narrow or wide format (R27, R56). -/
def elemCode (F : Fmt) (row : BitVec w) (k : Nat) : Nat := (row.toNat >>> (F.width * k)) % 2 ^ F.width

end Sys2Proof.Machine
end

