-- ==== Sys2Proof/Config.lean ====
section
/-! DEFINITION. What an implementation fixes and the values the spec leaves open: uninterpreted constants. -/

namespace Sys2Proof.Config

/-- UNVERIFIED (log 13). The syndrome of a code word's error pattern of three or more bits (R314): 0 reads as no error,
1 to 72 as an error of bit syndrome − 1, anything else as uncorrectable. The check matrix is not given by the spec. -/
opaque multiBitSyndrome : BitVec 72 → Nat

/-- DESIGN CHOICE (log 14). The n-th word that AON_SCAN_OUT shows in the TEST state, after the word shifted in: the scan chains are not
described. -/
opaque scanOut : Nat → BitVec 64 → BitVec 64

/-- DESIGN CHOICE (log 34). The bytes of an HCP word that a Maltster store narrower than the word does not name. -/
opaque maltLanes : Nat → BitVec 32

/-- DESIGN CHOICE (log 6). Between two SCLK counts: the edges that clock counter 0 or 3 counts, or that event 0x08, 0x0E or 0x12 counts (R474,
R475): how many there are is timing. -/
opaque edges : Nat → Nat → Nat → Nat

/-- DESIGN CHOICE (log 94). Whether the n-th conditional branch was mispredicted (R475): the spec describes no predictor. -/
opaque mispredicted : Nat → Bool

/-- DESIGN CHOICE (log 82). The tag that the block tries first for its n-th request (R386): the spec asks only that it be unique among the
outstanding ones. -/
opaque rtag : Nat → BitVec 16

/-- DESIGN CHOICE (log 63). What CR_JOBSTAT.RRING and RINDEX read once the job they name has ended (R340): the spec gives them for a
running job, after its PREEMPT, and for reset. -/
opaque endedRing : BitVec 3 → BitVec 3
opaque endedIndex : BitVec 16 → BitVec 16

/-- UNVERIFIED (log 10). The key digests fused into the block, one per life-cycle state code (R443): not given by the spec. -/
opaque keyDigest : BitVec 3 → Nat

/-- UNVERIFIED (log 15). Whether an fma of zero and infinity with a quiet NaN addend raises invalid: IEEE 754 leaves it open. -/
opaque fmaZeroInfQuietInvalid : Bool

end Sys2Proof.Config
end

