-- ==== Sys2Proof/Machine/CoreTypes.lean ====
section
/-! DEFINITION. Plain data of the main core, its exception records, translation, caches, LTS, tile engine, Tun, vector and epilogue units. -/

namespace Sys2Proof.Machine

/-- One value per level of a window: U, S and M (R221). -/
structure ByLevel (α : Type) where
  u : α
  s : α
  m : α
deriving DecidableEq, Repr

/-- One value per world: non-secure and secure (R276). -/
structure ByWorld (α : Type) where
  n : α
  s : α
deriving DecidableEq, Repr

/-- A shadow bank and its exception stack pointer and table base (R249, R250, R251). -/
structure Bank where
  epc : Word
  epwLevel : BitVec 2
  epwWorld : Bool
  epwMask : BitVec 4
  cause : BitVec 6
  detail : BitVec 16
  olevel : BitVec 2
  oworld : Bool
  occ : Bool
  depth : BitVec 16
  faddr : Word
  sp : Word
  vbase : Word
deriving DecidableEq, Repr

/-- CR_PSTATE (R244). -/
structure Pstate where
  level : BitVec 2
  world : Bool
  uworld : Bool
  mask : BitVec 4
deriving DecidableEq, Repr

/-- What the main core is doing. -/
inductive CoreRun where
  /-- held in reset, not yet released (R461) -/
  | held
  /-- fetching and executing -/
  | running
  /-- fetch stopped by CR_SLEEP (R412) -/
  | sleeping
  /-- locked up (R264) -/
  | lockedUp
  /-- stopped in fatal state (R308) -/
  | stopped
  /-- powered down in Steep, to restart at CR_WAKEPC (R415) -/
  | steep
deriving DecidableEq, Repr

/-- What the oldest instruction of the main core waits for. -/
inductive WaitOn where
  /-- a response to the request it issued -/
  | response
  /-- powered domains: bit d is power domain PDd (R410) -/
  | power (pds : W32)
  /-- anything a later command changes: a full buffer, an earlier write not yet acknowledged, a wipe, an epoch, a wait -/
  | other
deriving DecidableEq, Repr

/-- The kind of a request on the Memory Port or Far Port. -/
inductive ReqOp where
  | rd | wr | at | sy
deriving DecidableEq, Repr

/-- A response kept for the instruction that waits for it, or a posted write it has made already (op wr). -/
structure CoreResp where
  op : ReqOp
  addr : Word
  be : Word
  /-- 0 done, 1 error, 2 uncorrectable, 3 timed out; a fill that failed is kept under op sy -/
  status : BitVec 8
  data : Piece
  /-- the instruction has taken it in this try -/
  used : Bool
deriving DecidableEq, Repr

/-- Which fault record register a trap writes besides its bank (R243, R78, R158, R202). -/
inductive TrapRec where
  | none
  | core (code : BitVec 8) (cr : BitVec 12)
  | tile (code : BitVec 8) (tile group : BitVec 4)
  | vec (code : BitVec 8) (reg : BitVec 5)
  | chain (code : BitVec 8) (cge : BitVec 6)
deriving DecidableEq, Repr

/-- A synchronous exception (R247). -/
structure Trap where
  cause : BitVec 6
  detail : BitVec 16
  faddr : Word
  fault : TrapRec
  /-- for causes 0x13 and 0x14: the level of the window concerned -/
  wlevel : Option (BitVec 2)
  /-- for cause 0x0C: the IPA whose translation failed (R273) -/
  ipa : Option Word
  /-- what the instruction has done so far stands (VLD and VST, R155) -/
  keep : Bool
deriving DecidableEq, Repr

/-- Registers and window state of the main core (R216–R235, R244–R258). -/
structure Core where
  run : CoreRun
  pc : Word
  /-- 2,048 entries: 0–7 common, 8–15 spare, 16 + 8g + i ring group g (R219); in service mode 32t + n (R234) -/
  regs : Sparse 64
  cwp : BitVec 7
  res : BitVec 7
  lowater : BitVec 6
  frozen : Bool
  spfault : Bool
  flfault : Bool
  /-- the level that created the window in each slot (R220) -/
  wlevel : Sparse 2
  wspill : ByLevel Word
  wcnt : ByLevel W32
  /-- the addresses the spill engine recorded (R223) -/
  spAddr : Word
  flAddr : Word
  fregs : Sparse 64
  fcsr : BitVec 7
  fdirty : BitVec 4
  svcBanks : BitVec 3
  svcTask : BitVec 6
  /-- task t's state, 0 HALT 1 READY 2 RUN 3 WAIT (R235) -/
  taskStat : Sparse 2
  taskPcs : Sparse 64
  taskPc : Word
  cfCode : BitVec 8
  cfCr : BitVec 12
  ps : Pstate
  sn : Bank
  ss : Bank
  mb : Bank
  ienable : BitVec 16
  iroute : W32
  ilevel : Word
  gbaseN : Word
  gbaseS : Word
  hcpa : BitVec 16
  /-- commands of the core offered while an older one waits, oldest first; the head is the one that waits -/
  program : List Instr
  blocked : Option WaitOn
  /-- the head of `program` is being tried again -/
  replay : Bool
  /-- the exception whose entry the head of `program` waits in: what the instruction did before it stands (R252, R253) -/
  trapping : Option Trap
  resp : List CoreResp
  /-- a write the retiring instruction made through CR_HCPD, performed with its retirement (R434) -/
  hcpOut : Option (BitVec 16 × W32)
deriving DecidableEq, Repr

/-- The three kinds of TLB entry (R278). -/
inductive TlbKind where
  | machine
  | world (secure : Bool)
deriving DecidableEq, Repr

/-- A TLB entry (R278): `size` is the page size's log2; pages are held as addresses. -/
structure TlbEntry where
  kind : TlbKind
  vmid : BitVec 16
  asid : BitVec 16
  g : Bool
  size : Nat
  va : Word
  /-- output page address, before node redirection -/
  out : Word
  ipa : Word
  /-- stage 1 (or machine) leaf: level and R, W, X, U -/
  l1 : BitVec 2
  r1 : Bool
  w1 : Bool
  x1 : Bool
  u1 : Bool
  /-- stage 2 leaf: level and R, W, X -/
  l2 : BitVec 2
  r2 : Bool
  w2 : Bool
  x2 : Bool
  /-- the stage 1 leaf's GPA and value as cached -/
  leafAddr : Word
  leaf : Word
deriving DecidableEq, Repr

/-- A set-associative TLB slot: set, way, entry and its write sequence number. -/
structure TlbSlot where
  idx : Nat
  seq : Nat
  e : TlbEntry
deriving DecidableEq, Repr

/-- Why a ring raised a translation request (R290). -/
structure TrReq where
  requester : BitVec 5
  kindWrite : Bool
  reason : BitVec 2
  world : Bool
  level : Bool
  va : Word
deriving DecidableEq, Repr

/-- Translation registers of one world (R276). -/
structure TrRegs where
  s1lo : Word
  s1hi : Word
  tctl : Word
  s2root : Word
  vmid : Word
deriving DecidableEq, Repr

/-- A live redirect table and its epoch (R295). -/
structure LiveTable where
  epoch : BitVec 16
  entries : Sparse 32
deriving DecidableEq, Repr

/-- Translation state. -/
structure Mmu where
  tn : TrRegs
  ts : TrRegs
  mroot : Word
  tfipa : Word
  itlb : List TlbSlot
  dtlb : List TlbSlot
  l2tlb : List TlbSlot
  /-- round-robin pointer of each L2 TLB set -/
  rr : Sparse 3
  seq : Nat
  walkBuf : Option TlbEntry
  treqs : List TrReq
  live : LiveTable
  older : Option LiveTable
  copyPend : Option (BitVec 16)
deriving DecidableEq, Repr

/-- One cache line and its way's reference bit. -/
structure Line where
  idx : Nat
  valid : Bool
  dirty : Bool
  world : Bool
  ref : Bool
  /-- the line's GPA divided by 64 -/
  tag : Nat
  data : Piece
  /-- a parity error stands in the data, in the tag, in the state bits (R307) -/
  perr : Bool
  terr : Bool
  serr : Bool
deriving DecidableEq, Repr

/-- A side buffer line or an eviction buffer entry: GPA line, world, data, parity error. -/
structure BufLine where
  tag : Nat
  world : Bool
  data : Piece
  perr : Bool
deriving DecidableEq, Repr

/-- An eviction buffer entry with the transaction tag of its write. -/
structure EvLine where
  line : BufLine
  /-- a search may still find it: no later bytes of the line have been written, and nothing has invalidated it -/
  live : Bool
  rtag : Option Nat
deriving DecidableEq, Repr

/-- The caches (R297–R306). Lines are listed by index `set * ways + way`; an unlisted way is invalid with reference bit 0. -/
structure Caches where
  l1i : List Line
  l1d : List Line
  l2 : List Line
  side : List BufLine
  evict : List EvLine
  /-- the previous demand L2 miss: line and world -/
  prevMiss : Option (Nat × Bool)
  /-- fills that wait for an eviction buffer entry: line, world, data, for the L1I -/
  heldFills : List (Nat × Bool × Piece × Bool)
  ctl : BitVec 3
deriving DecidableEq, Repr

/-- The error log and fatal state (R308, R318). -/
structure ErrLog where
  pend : Bool
  overrun : Bool
  fatal : Bool
  aonFatal : Bool
  unit : BitVec 3
  kind : BitVec 4
  world : Bool
  addr : Word
  ccount : W32
deriving DecidableEq, Repr

/-- The LTS: bytes by offset (an unlisted byte reads zero), and the bits in error of each 64-bit word's
72-bit code word (R314): a set bit is a stored bit that differs from what was written. -/
structure Lts where
  bytes : List Host.Cell
  flips : Sparse 72
deriving DecidableEq, Repr

/-- A tile's tag (R57). -/
structure TileTag where
  fmt : BitVec 4
  bsc : Bool
  bsz : Bool
deriving DecidableEq, Repr

/-- The tile file (R56–R58, R74–R79): row r of tile t is key 64t + r. -/
structure TileFile where
  rows : Sparse 512
  scales : Sparse 64
  /-- bits [5:0] of a tile's tag as the save area lays it out: FMT [3:0], BSC [4], BSZ [5] (R240) -/
  tags : Sparse 6
  inuse : BitVec 16
  dirty : BitVec 16
  tfCode : BitVec 8
  tfTile : BitVec 4
  tfGroup : BitVec 4
deriving DecidableEq, Repr

/-- The Tun (R83, R92, R104, R107). -/
structure Tun where
  rows : Sparse 2048
  /-- CR_TGRPn as XOR with its reset value 0x000C_0000 (PM1 = 3), so that an unlisted group reads its reset value -/
  grpX : Sparse 64
  flag : Word
  dirty : BitVec 16
  /-- the group that the last TBWD named gx: of two spills that are due, its is made first (R126) -/
  gx : BitVec 4
deriving DecidableEq, Repr

/-- The vector unit (R136–R138, R144, R156, R158, R162). -/
structure Vec where
  v : Sparse 4096
  vl : BitVec 11
  vcsr : BitVec 7
  vresume : BitVec 11
  vfCode : BitVec 8
  vfReg : BitVec 5
  vdirty : BitVec 8
deriving DecidableEq, Repr

/-- The epilogue unit (R42–R49): lane j's state is `laneX j xor seedLane 0 j`, so that an unlisted lane holds its reset state. -/
structure Epi where
  laneX : Sparse 32
  seed : W32
  cvt : BitVec 5
deriving DecidableEq, Repr

end Sys2Proof.Machine
end

