-- ==== Sys2Proof/Machine/PortTypes.lean ====
section
/-! DEFINITION. Plain data of the link ends, the outstanding requests and the observation unit. -/

namespace Sys2Proof.Machine

/-- A packet: its header and up to two data flits (R385, R386). -/
structure Packet where
  h : Hdr
  data : Piece
deriving DecidableEq, Repr

/-- A chain transfer (R193, R394): CLASS 0 SUM, 1 MAX, 2 MIN. -/
structure Transfer where
  world : Bool
  cls : BitVec 2
  tag : BitVec 16
  rows : List TunRow
deriving DecidableEq, Repr

/-- A link block as it travels: control word, data slots, header slots and CRC field (R381–R384). -/
structure Block where
  ctl : W32
  data : BitVec 1024
  hdr : BitVec 512
  crc : W32
deriving DecidableEq, Repr

/-- A data block that awaits an ACK (R390): its packets, or on a Chain Port a part of a transfer: 0 the header, 2i + 1 and 2i + 2 the halves of
row i (R394). -/
structure SentBlock where
  seq : BitVec 7
  packets : List Packet
  transfers : List Transfer
  part : Nat
deriving DecidableEq, Repr

/-- What a request was issued for. -/
inductive Purpose where
  /-- a load, fetch, atomic or walk read that the oldest core command waits for -/
  | core
  /-- a demand fill of the caches: GPA line, for the L1I -/
  | fill (line : Nat) (instr : Bool)
  /-- a prefetch into the side buffer -/
  | prefetch (line : Nat)
  /-- a posted write of the core; a write-back with the eviction buffer's line -/
  | posted
  | writeback (line : Nat)
  /-- ring front end -/
  | ctxImage (ring : Nat)
  | descriptor (ring : Nat)
  | completion (ring : Nat)
  | event (ring : Nat)
  | message (ring : Nat)
  | progress (ring : Nat)
  /-- group table -/
  | cgtLoad (entry : Nat)
  | cgtSave (entry : Nat)
  /-- DMA: piece number, and the byte of the piece where the data belong; the home or buddy write of a piece -/
  | dmaRead (ch : Nat) (piece : Nat) (pos : Nat)
  | dmaHome (ch : Nat) (piece : Nat)
  | dmaBuddy (ch : Nat) (piece : Nat)
  /-- Sparge: source offset -/
  | sparge (ring : Nat) (off : Nat)
  /-- a sync operation of the core, of a DMA end signal, or of a job's signal -/
  | syncCore
  | syncDma (ch : Nat)
  | syncJob (ring : Nat)
  /-- an accessed or dirty update of a DMA channel or a stream ring -/
  | adUpdate (requester : Nat)
  /-- a write of the machine image's body, and a read of an image's next piece (R460) -/
  | boot
  | image
  /-- a read whose stream was stopped: its response is dropped -/
  | discard
deriving DecidableEq, Repr

/-- An outstanding request (R364, R365). -/
structure Outst where
  rtag : BitVec 16
  op : ReqOp
  addr : Word
  be : Word
  world : Bool
  purpose : Purpose
  /-- the mode epoch it carries (R347) -/
  epoch : BitVec 16
  /-- the response timeout in force at issue, and the SCLK count from which it is timed (R365) -/
  tmo : W32
  /-- none while it waits on an UP port for its first flit to leave -/
  issued : Option Nat
deriving DecidableEq, Repr

/-- One end of a Drumet link (R389–R399). -/
structure Link where
  state : BitVec 3
  /-- bring-up: TRAIN blocks received in a row (lock at 64), ADVERT blocks sent, correct ADVERT received -/
  trainRow : BitVec 7
  sawLock : Bool
  advSent : BitVec 3
  advGot : Bool
  /-- a RETRAIN keeps sequence numbers and credits (R393) -/
  retraining : Bool
  attempts : BitVec 3
  lreqO : Bool
  lreqI : Bool
  /-- transmitter -/
  txSeq : BitVec 7
  retry : List SentBlock
  sendQ : List Packet
  replayRow : BitVec 5
  /-- credits held per channel, and the last CCNT taken (R389) -/
  credit0 : Nat
  credit1 : Nat
  credit2 : Nat
  ccnt0 : BitVec 7
  ccnt1 : BitVec 7
  ccnt2 : BitVec 7
  /-- receiver -/
  eseq : BitVec 7
  nak : Bool
  nakOwed : Bool
  crcRow : BitVec 5
  /-- credits freed and not yet reported, and the CCNT last reported, per channel; whose turn the next report is (R389) -/
  freed0 : Nat
  freed1 : Nat
  freed2 : Nat
  rep0 : BitVec 7
  rep1 : BitVec 7
  rep2 : BitVec 7
  turn : Nat
  /-- headers still owed data flits, with the flits received so far -/
  owed : List (Hdr × List (BitVec 256))
  /-- the first half of a chain row, the chain header being received and its rows so far -/
  half : Option (BitVec 1024)
  chainHdr : Option (BitVec 256)
  chainRows : List TunRow
  /-- Chain Ports: blocks of the transfer being sent that have no SEQ yet -/
  toSend : Nat
  /-- the blocks of the last cycle sent, two on a Chain Port, and the block count of TRAIN blocks (R382, R393) -/
  tx : List Block
  count : BitVec 6
  /-- the far end has sent PAUSE and not yet RESUME -/
  farPaused : Bool
  /-- each receive lane's sampling delay in steps of 1/64 UI (R397) -/
  trims : Sparse 6
  /-- statistics (R399) -/
  margin : BitVec 8
  /-- a lane margin has been measured since the cold reset -/
  marginSeen : Bool
  crcErr : Bool
  protErr : Bool
  retrains : BitVec 8
  crcErrs : BitVec 16
  replays : BitVec 16
deriving DecidableEq, Repr

/-- The four links (0 Memory Port, 1 Far Port, 2 Chain Port East, 3 Chain Port West; R398), the outstanding
requests of the Memory Port and the Far Port, and the model's own counter of the tags taken (log 82). -/
structure Ports where
  mp : Link
  fp : Link
  ce : Link
  cw : Link
  outMp : List Outst
  outFp : List Outst
  tagCount : Nat
  /-- requests that a failed or disabled port answers locally with STATUS 0x01 (R396): Far Port, RTAG -/
  failed : List (Bool × BitVec 16)
  late : BitVec 16
  iref : BitVec 16
  /-- CR_RSTAT and CR_RADDR per world (R364) -/
  werr : ByWorld Bool
  wtmo : ByWorld Bool
  lkind : ByWorld (BitVec 2)
  wcount : ByWorld (BitVec 16)
  raddr : ByWorld Word
deriving DecidableEq, Repr

/-- A Glosy packet (R467). -/
structure ObsPacket where
  ty : BitVec 4
  world : Bool
  level : BitVec 2
  ts : BitVec 16
  payload : List W32
deriving DecidableEq, Repr

/-- The observation unit (R466–R479). -/
structure Obs where
  cfg : W32
  slots : List ObsPacket
  lost : W32
  /-- the words that wait for the port, each with the mark of a packet's first word -/
  fifo : List (Bool × W32)
  /-- OBS_D, OBS_VALID and OBS_SOP as the port drives them (R380) -/
  d : W32
  valid : Bool
  sop : Bool
  drops : BitVec 16
  cnt : Sparse 64
  cntcfg : Sparse 13
  cntuen : BitVec 12
  inspect : Bool
  /-- HI latches of the counters (R478) -/
  hi : Sparse 32
deriving DecidableEq, Repr

end Sys2Proof.Machine
end

