-- ==== Sys2Proof/Machine/RingTypes.lean ====
section
/-! DEFINITION. Plain data of the chain, sync objects, rings, jobs, DMA and Sparge. -/

namespace Sys2Proof.Machine

/-- A communication group table entry (R189). -/
structure CgtEntry where
  valid : Bool
  world : Bool
  chin : BitVec 2
  chout : BitVec 2
  fwd : Bool
  tag : BitVec 16
  chtmo : W32
  syncNode : BitVec 17
  syncBlk : BitVec 10
  syncBase : BitVec 16
  txCount : W32
  rxCount : W32
deriving DecidableEq, Repr

/-- The entry of a cold reset (R189). -/
def CgtEntry.zero : CgtEntry :=
  { valid := false, world := false, chin := 0, chout := 0, fwd := false, tag := 0, chtmo := 0, syncNode := 0,
    syncBlk := 0, syncBase := 0, txCount := 0, rxCount := 0 }

/-- A group table command in progress (R191): loads wait with `loaded` for their entry to be applied. -/
structure CgtCmd where
  save : Bool
  next : BitVec 6
  last : BitVec 6
  /-- the world of the agent that issued it (R435) -/
  world : Bool
  loaded : Option CgtEntry
deriving DecidableEq, Repr

/-- The chain and the communication groups (R189–R202). `side` values: West, East. -/
structure Chain where
  /-- entries that differ from zero, by number -/
  cgt : List (Nat × CgtEntry)
  cmd : Option CgtCmd
  done : Bool
  err : Bool
  refused : Bool
  errent : BitVec 6
  dropW : Bool
  dropE : Bool
  txW : List Transfer
  txE : List Transfer
  rxW : List Transfer
  rxE : List Transfer
  chCode : BitVec 8
  chCge : BitVec 6
  /-- the SCLK count at which the waiting CHRECV was first held at the head (R201) -/
  recvSince : Option Nat
deriving DecidableEq, Repr

/-- The state of a wait table entry (R211). -/
inductive WaitState where
  | armed | fired | expired
deriving DecidableEq, Repr

/-- Who waits (R208, R211, R339). -/
inductive WaitKind where
  /-- the task, and the register the result goes to -/
  | coreWait (task : BitVec 6) (rd : BitVec 5)
  | eventWait (ering : BitVec 2)
  | jobWait (ring : BitVec 3)
deriving DecidableEq, Repr

/-- A wait table entry that is not FREE (R211). -/
structure WaitEntry where
  num : BitVec 8
  gen : BitVec 8
  state : WaitState
  kind : WaitKind
  obj : BitVec 16
  world : Bool
  cond : BitVec 2
  consume : Bool
  tgt : W32
  tmo : W32
  armedAt : Nat
  /-- the order of arming (R212) -/
  order : Nat
  /-- the value before any consume, when fired or expired -/
  value : W32
deriving DecidableEq, Repr

/-- Who asked for a sync operation. -/
inductive SyncSrc where
  /-- a Far Port inbound request: its RTAG -/
  | farPort (rtag : BitVec 16)
  | core
  | dmaSignal (ch : Nat)
  | jobSignal (ring : Nat)
  | stream (ring : Nat)
  /-- a signal of a stream that has been stopped -/
  | detached
deriving DecidableEq, Repr

/-- An operation waiting at the sync-object engine (R205, R207). -/
structure SyncOp where
  src : SyncSrc
  op : BitVec 3
  obj : BitVec 16
  x : W32
  world : Bool
deriving DecidableEq, Repr

/-- The sync-object engine (R204–R213). -/
structure Sync where
  objs : Sparse 32
  waits : List WaitEntry
  /-- generation of each wait table entry's last arming -/
  gens : Sparse 8
  order : Nat
  queue : List SyncOp
  /-- the source served next: 0 Far Port, 1 main core, 2 ring front end with DMA, 3 Sparge -/
  rr : BitVec 2
  /-- the result returned to the main core's waiting SOP or SWAIT -/
  coreDone : Option (BitVec 8 × W32 × BitVec 16)
deriving DecidableEq, Repr

/-- A ring's context (R323). -/
structure RingCtx where
  log2 : Nat
  world : Bool
  prio : BitVec 3
  corder : Bool
  irqen : Bool
  evring : BitVec 2
  even : Bool
  dbase : Word
  cbase : Word
  msgaddr : Word
  msgdata : W32
  ten : Bool
  level : Bool
  had : Bool
  asid : BitVec 16
  vmid : BitVec 16
  s1lo : Word
  s1hi : Word
  s2root : Word
deriving DecidableEq, Repr

/-- Where the front end stands with the descriptor at a ring's head. -/
inductive RingPhase where
  /-- nothing fetched -/
  | idle
  /-- the descriptor read is out: pieces still to come -/
  | fetching
  /-- checked, not begun -/
  | ready
  /-- job: waiting on its object -/
  | waiting
  /-- begun by DMA or Sparge, or a job that is taken -/
  | begun
  /-- a job that ended and whose signal has no response yet (R341) -/
  | ending
  /-- every effect made; its completion may be written -/
  | done
  /-- the completion's write awaits its acknowledgement -/
  | completing
deriving DecidableEq, Repr

/-- One ring (R321–R331). -/
structure Ring where
  setUp : Bool
  ctxLo : W32
  ctxHi : W32
  run : Bool
  busy : Bool
  refused : Bool
  err : Bool
  clamped : Bool
  lost : Bool
  phase : Bool
  /-- head of a submission ring, tail of an event ring -/
  head : BitVec 16
  /-- the index of the descriptor in progress, where a SETUP has moved the head since it was fetched -/
  own : Option (BitVec 16)
  /-- the index in force of the doorbell: tail of a submission ring, head of an event ring -/
  index : BitVec 16
  ctx : RingCtx
  st : RingPhase
  /-- bytes of the image or descriptor read so far, its pieces still awaited -/
  buf : List Byte
  awaited : BitVec 4
  /-- a piece of that read has failed -/
  bad : Bool
  /-- the checked descriptor as little-endian bytes, whether it was big-endian, and its clamps -/
  desc : List Byte
  big : Bool
  nclamp : BitVec 8
  firstCode : BitVec 8
  /-- the completion to be written: STATUS, RESULT, DETAIL, EPOCH -/
  status : BitVec 8
  result : W32
  detail : W32
  epoch : BitVec 16
  /-- interrupt messages owed after acknowledged entries (R335) -/
  msgOwed : Nat
  /-- a STOP or PREEMPT waits for the unit's write-back (R324, R343) -/
  halting : Bool
deriving DecidableEq, Repr

/-- An event waiting for its ring (R334, R336). -/
structure Event where
  ty : BitVec 8
  src : BitVec 8
  status : BitVec 8
  index : BitVec 16
  a : W32
  b : W32
deriving DecidableEq, Repr

/-- A taken or preempted job (R340–R343). -/
structure Job where
  ring : BitVec 3
  index : BitVec 16
  prio : BitVec 3
  world : Bool
  desc : List Byte
  tag : W32
  big : Bool
  nclamp : BitVec 8
  firstCode : BitVec 8
  /-- rings its PREEMPT stopped: bit i D ring i, bit 16 + i S ring i -/
  stopped : BitVec 20
deriving DecidableEq, Repr

/-- Jobs, rings, events and mode epochs. -/
structure Rings where
  /-- rings that differ from reset, by number -/
  rings : List (Nat × Ring)
  eq0 : List Event
  eq1 : List Event
  eq2 : List Event
  eq3 : List Event
  offer : Option Job
  offerResume : Bool
  running : Option Job
  preempted : List Job
  lastRing : BitVec 3
  rring : BitVec 3
  rindex : BitVec 16
  /-- a PREEMPT accepted and not retired: the ring of the job it moved (R343) -/
  preempting : Option (BitVec 3)
  jobRes : Word
  noOffers : Bool
  epPend : BitVec 16
  epCore : BitVec 16
  epVec : BitVec 16
  epTile : BitVec 16
  epSparge : BitVec 16
  epFar : BitVec 16
  epDma0 : BitVec 16
  epDma1 : BitVec 16
  epDma2 : BitVec 16
  epDma3 : BitVec 16
  /-- the clamp log: 16 entries of three words, NEXT and TOTAL (R329) -/
  clog : Sparse 32
  clogNext : BitVec 4
  clogTotal : BitVec 16
deriving DecidableEq, Repr

/-- One access of a DMA piece within a 64-byte piece of memory: where it lies in the DMA piece, its length and its address
after redirection; `buddy` for a write to DST2 (R350, R353). -/
structure DmaSeg where
  pos : Nat
  len : Nat
  addr : Word
  buddy : Bool
deriving DecidableEq, Repr

/-- A DMA piece in a buffer (R350): its offset, length and bytes, and the reads and writes still awaited. -/
structure DmaPiece where
  k : Nat
  off : Nat
  len : Nat
  data : Piece
  reads : Nat
  /-- writes not made yet, and writes made and not answered -/
  todo : List DmaSeg
  writes : Nat
  failed : Bool
deriving DecidableEq, Repr

/-- An accessed or dirty update in progress (R285): the entry written under `seq`, and the leaf value wanted. -/
structure AdUpdate where
  seq : Nat
  old : Word
  want : Word
deriving DecidableEq, Repr

/-- One DMA channel (R348–R360). -/
structure DmaCh where
  op : BitVec 2
  sigen : Bool
  sigop : BitVec 3
  sigx : W32
  src : Word
  dst : Word
  dst2 : Word
  len : Nat
  sigt : Word
  /-- DONE as fetched, the next offset to issue, and the pieces issued since, finished ones included -/
  done : Nat
  next : Nat
  pieces : List DmaPiece
  parked : Bool
  ad : Option AdUpdate
  dstat : BitVec 8
  /-- the end signal is made and its status awaited -/
  signalling : Bool
  /-- a STOP or PREEMPT asked the channel to stop at its next piece boundary -/
  stopping : Bool
  /-- DONE is being written back -/
  writeback : Bool
  epoch : BitVec 16
deriving DecidableEq, Repr

/-- The DMA engine: channels with a descriptor in progress, and the ring number modulo 16 of the channel served last. -/
structure Dma where
  chs : List (Nat × DmaCh)
  lastServed : BitVec 4
deriving DecidableEq, Repr

end Sys2Proof.Machine
end

