-- ==== Sys2Proof/Machine/SpargeTypes.lean ====
section
/-! DEFINITION. Plain data of Sparge (07). -/

namespace Sys2Proof.Machine

/-- A stream in progress on one stream ring (R164–R188). -/
structure Stream where
  /-- the checked descriptor's fields (R166) -/
  bufsz : Nat
  chsz : Nat
  bufoff : Nat
  scoff : Nat
  src : Word
  len : Nat
  mode : BitVec 2
  ifmt : Bool
  ofmt : BitVec 4
  bsz : Bool
  rmode : BitVec 2
  smode : Bool
  syncobj : BitVec 16
  syncen : Bool
  /-- chunks counted, and source bytes they consumed (R185, R186) -/
  donech : Nat
  donesrc : Nat
  /-- staged source bytes from offset `donesrc`, and whether a read of the next piece is outstanding -/
  staged : List Byte
  reading : Bool
  parked : Bool
  ad : Option AdUpdate
  /-- the end-of-stream status, when the stream has ended (R184) -/
  ended : Option (BitVec 8)
  /-- the signals of counted chunks not yet answered by the sync engine (R173) -/
  signals : Nat
  /-- INX, OVF, FLUSH, NANBLK (R188) -/
  flags : BitVec 4
  /-- stopped: DONECH and DONESRC are being written back (R185) -/
  writeback : Bool
  epoch : BitVec 16
deriving DecidableEq, Repr

/-- Sparge: streams in progress by ring 0–3, the stream registers (R171), the ring the decoder served last (R175). -/
structure Sparge where
  streams : List (Nat × Stream)
  sprod : Sparse 64
  scons : Sparse 64
  last : BitVec 2
deriving DecidableEq, Repr

end Sys2Proof.Machine
end

