-- ==== Sys2Proof/Machine/PowerTypes.lean ====
section
/-! DEFINITION. Plain data of clocks, power, the governor, the Maltster, worlds, life-cycle, Kiln, reset and bond (12, 16, 17, 18). -/

namespace Sys2Proof.Machine

/-- A PLL (R403, R404). -/
structure Pll where
  on : Bool
  /-- judged stable and driving its domains: FLOCK or LLOCK -/
  lock : Bool
  fail : Bool
  /-- periodic checks failed in succession -/
  misses : BitVec 2
  /-- failed restarts in a row -/
  tries : BitVec 3
deriving DecidableEq, Repr

/-- Power states (R411–R416). -/
inductive PowerState where
  | run | couch | steep | waking
deriving DecidableEq, Repr

/-- Clocks, domains, power state and governor (R401–R427). -/
structure Power where
  sclk : Nat
  sclkHi : W32
  energy : BitVec 64
  energyHi : W32
  trim : Byte
  reflost : Bool
  pllF : Pll
  pllL : Pll
  /-- KZ_PD_STAT and KZ_CD_STAT0/1 -/
  pd : W32
  cd : BitVec 40
  state : PowerState
  hold : BitVec 7
  /-- the SCLK count at which Couch was entered -/
  idleSince : Nat
  /-- a wake cause held until the descent completes -/
  wakeHeld : Bool
  /-- CR_SLEEP.DEEP of the sleep in force (R412) -/
  deep : Bool
  wakepc : Word
  tcmp : Word
  mnotice : BitVec 6
  /-- operating point and throttle: KZ_GOV_STAT and CR_MGOV name the same values -/
  k : BitVec 7
  t : BitVec 3
  mv : BitVec 12
  /-- MOFF in steps of 5 mV, two's complement -/
  moff : Byte
  low : BitVec 4
  marginRun : BitVec 5
  mw : BitVec 12
  temp : Byte
  vsup : BitVec 12
  droops : BitVec 12
  margin : Byte
  minEver : Byte
  porstN : Bool
  pgAon : Bool
  pgL : Bool
  pgM : Bool
deriving DecidableEq, Repr

/-- The Maltster (R428–R431): register n of task i is key 32i + n. -/
structure Malt where
  started : Bool
  ram : Sparse 8
  regs : Sparse 64
  pcs : Sparse 64
  /-- CR_TASKSTAT0: two bits a task, 0 HALT 1 READY 2 RUN 3 WAIT -/
  stat : W32
  taskPc : Word
  pdreq : W32
  cden : BitVec 40
  /-- the clock domains that a write of CR_MCDEN has gated since they last came on by demand (R430) -/
  cdOff : BitVec 40
  msrc : BitVec 16
  /-- CR_MGOV.MV -/
  mv : BitVec 12
  fault : Bool
  ftask : BitVec 4
  fcause : BitVec 3
  fpc : BitVec 16
deriving DecidableEq, Repr

/-- A beat of the bond interface as the receiving tier gets it (R315): 64 data bytes, the 8-byte header, and the CRC-16. -/
structure Beat where
  data : Piece
  header : Word
  crc : BitVec 16
deriving DecidableEq, Repr

/-- A firmware image as far as its reads have returned (R460): where its header lies, its bytes so far, and whether a read failed. -/
structure Image where
  base : Word
  bytes : List Byte
  failed : Bool
deriving DecidableEq, Repr

/-- What the Kiln writes in one wipe (R444): a bit for each trigger's coverage, and LTS byte ranges that change partition. -/
structure Wipe where
  /-- bit 0 cold or life-cycle, 1 warm, 2 core-only, 3 world switch -/
  cov : BitVec 4
  lts : List (Nat × Nat)
  /-- the world that UWORLD takes when a world switch's wipe ends (R448) -/
  uworld : Option Bool
deriving DecidableEq, Repr

/-- Life-cycle, Kiln, start-up and lockup record (R440–R462, R265), and the bond registers (R317). -/
structure Sys where
  /-- applied life-cycle state -/
  lcs : BitVec 3
  lcsValid : Bool
  sigfail : Bool
  changes : Byte
  kiln : Option Wipe
  kilnQueue : List Wipe
  kilnTrig : BitVec 3
  kilnFail : Bool
  kilnCount : BitVec 16
  phase : BitVec 4
  last : BitVec 3
  failcode : BitVec 4
  refused : Bool
  /-- the reset in progress is: 0 none, 1 cold, 2 warm, 3 core-only, 4 life-cycle (R450) -/
  resetKind : BitVec 3
  /-- the sequence in progress runs every phase: a cold reset, or GO in FAILED (R456, R462) -/
  full : Bool
  /-- the machine image's entry, once it is verified and its writes are awaited (R460) -/
  entry : Option Word
  /-- what follows those writes: 0 the release, else the FAILCODE the sequence ends with (R460, R462) -/
  imgFail : BitVec 4
  /-- the Maltster image's entry, once verified -/
  maltEntry : Word
  locked : Bool
  lreason : BitVec 3
  lcause : BitVec 6
  llevel : BitVec 2
  lworld : Bool
  lpc : Word
  aonLockup : Bool
  /-- each bond lane's sampling delay in steps of 1/64 UI (R316, R459) -/
  bondTrims : Sparse 6
  bondMargin : Byte
  /-- a bond margin has been measured since the cold reset (R317, R459) -/
  bondSeen : Bool
  /-- what the receiving tier gets of the next beats, reception by reception; beyond the list each beat arrives as it was sent (R315) -/
  beats : List Beat
  /-- the firmware image that is being read (R460) -/
  img : Option Image
  bondRetries : BitVec 24
  bondFails : Byte
  /-- inbound requests held while a memory they reach is wiped (R445) -/
  heldIn : List Packet
  /-- AON_SCAN_OUT (R379): 0 outside TEST -/
  scanOut : Word
deriving DecidableEq, Repr

end Sys2Proof.Machine
end

