-- ==== Sys2Proof/Machine/State.lean ====
section
/-! DEFINITION. The state of the block as plain data, its fault and refusal reasons, and the state after a cold reset. -/

namespace Sys2Proof.Machine

/-- Configuration words that only host writes (and Maltster writes that reach the same registers, and resets) change. -/
structure Cfg where
  refMhz : BitVec 8
  cap : BitVec 12
  kmin : BitVec 7
  kmax : BitVec 7
  tlim : BitVec 7
  mtgt : BitVec 5
  idle : W32
  obsClk : Bool
  rgroups : BitVec 4
  qen : BitVec 4
  ltsSec : BitVec 6
  fpTmo : W32
  linkEn : BitVec 4
  mimg : Word
  cimg : Word
  node : BitVec 17
  block : BitVec 10
  ringsec : W32
  secobj : BitVec 9
  cgtsec : BitVec 7
  lock : Bool
  /-- region descriptor n as HI:LO, held as XOR with its reset value 0x000C_0000_0000_0000 -/
  rgnX : Sparse 64
  featAcc : Sparse 32
  sealed : Bool
  cgtBase : Word
  /-- the staged node redirect table (R294) -/
  nrt : Sparse 32
deriving DecidableEq, Repr

/-- Everything of the block but its configuration and the queue. -/
structure Blk where
  core : Core
  mmu : Mmu
  caches : Caches
  err : ErrLog
  lts : Lts
  tile : TileFile
  tun : Tun
  vec : Vec
  epi : Epi
  ports : Ports
  obs : Obs
  chain : Chain
  sync : Sync
  rings : Rings
  dma : Dma
  sparge : Sparge
  pwr : Power
  malt : Malt
  sys : Sys
  /-- the model's own counter of free values (log 14) -/
  freeCount : Nat
deriving DecidableEq, Repr

/-- The state: the queue of waiting commands, first in first out, the configuration and the rest of the block. -/
structure State where
  pending : List Instr
  cfg : Cfg
  blk : Blk
deriving DecidableEq, Repr

/-- Why the machine stops. The spec gives every command its effect, so there is no reason and nobody raises one. Safe. -/
inductive Fault where
deriving DecidableEq, Repr

/-- Why a command has no meaning in the model. -/
inductive Refusal where
  /-- Raised by exec for a command whose meaning is not written. Safe. -/
  | notModelled (mnemonic : String)
deriving DecidableEq, Repr

/-- A shadow bank after reset (R249–R251): MASK of EPW is written only at entry. -/
def Bank.reset : Bank :=
  { epc := 0, epwLevel := 0, epwWorld := false, epwMask := 0, cause := 0, detail := 0, olevel := 0, oworld := false,
    occ := false, depth := 0, faddr := 0, sp := 0, vbase := 0 }

/-- CR_PSTATE after reset: 0xFE, M, secure, every class masked (R245). -/
def Pstate.reset : Pstate := { level := 2, world := true, uworld := true, mask := 15 }

/-- The main core's registers at their reset values. -/
def Core.reset : Core :=
  { run := .held, pc := 0, regs := [], cwp := 0, res := 0, lowater := 16, frozen := false, spfault := false, flfault := false,
    wlevel := [], wspill := ⟨0, 0, 0⟩, wcnt := ⟨0, 0, 0⟩, spAddr := 0, flAddr := 0, fregs := [], fcsr := 0, fdirty := 0,
    svcBanks := 0, svcTask := 0, taskStat := [], taskPcs := [], taskPc := 0, cfCode := 0, cfCr := 0, ps := Pstate.reset,
    sn := Bank.reset, ss := Bank.reset, mb := Bank.reset, ienable := 0, iroute := 0xAAAAAAAA, ilevel := 0x8888888888888888,
    gbaseN := 0, gbaseS := 0, hcpa := 0, program := [], blocked := none, replay := false, trapping := none, resp := [], hcpOut := none }

def TrRegs.reset : TrRegs := { s1lo := 0, s1hi := 0, tctl := 0, s2root := 0, vmid := 0 }

/-- Translation state after a cold reset: every entry invalid, redirection table of epoch 0 the identity (R295). -/
def Mmu.reset : Mmu :=
  { tn := TrRegs.reset, ts := TrRegs.reset, mroot := 0, tfipa := 0, itlb := [], dtlb := [], l2tlb := [], rr := [], seq := 0,
    walkBuf := none, treqs := [], live := ⟨0, []⟩, older := none, copyPend := none }

def Caches.reset : Caches :=
  { l1i := [], l1d := [], l2 := [], side := [], evict := [], prevMiss := none, heldFills := [], ctl := 7 }

def ErrLog.reset : ErrLog :=
  { pend := false, overrun := false, fatal := false, aonFatal := false, unit := 0, kind := 0, world := false, addr := 0, ccount := 0 }

def Lts.reset : Lts := { bytes := [], flips := [] }

def TileFile.reset : TileFile :=
  { rows := [], scales := [], tags := [], inuse := 0, dirty := 0, tfCode := 0, tfTile := 0, tfGroup := 0 }

def Tun.reset : Tun := { rows := [], grpX := [], flag := 0, dirty := 0, gx := 0 }

def Vec.reset : Vec := { v := [], vl := 0, vcsr := 0, vresume := 0, vfCode := 0, vfReg := 0, vdirty := 0 }

def Epi.reset : Epi := { laneX := [], seed := 0, cvt := 0 }

/-- A link end in DOWN with nothing sent or received (R393). -/
def Link.reset : Link :=
  { state := 0, trainRow := 0, sawLock := false, advSent := 0, advGot := false, retraining := false, attempts := 0,
    lreqO := false, lreqI := false, txSeq := 0, retry := [], sendQ := [], replayRow := 0, credit0 := 0, credit1 := 0,
    credit2 := 0, ccnt0 := 0, ccnt1 := 0, ccnt2 := 0, eseq := 0, nak := false, nakOwed := false, crcRow := 0, freed0 := 0,
    freed1 := 0, freed2 := 0, rep0 := 0, rep1 := 0, rep2 := 0, turn := 0, tx := [], count := 0, owed := [], half := none, chainHdr := none, chainRows := [], toSend := 0, farPaused := false, trims := [], margin := 0,
    marginSeen := false, crcErr := false, protErr := false, retrains := 0, crcErrs := 0, replays := 0 }

def Ports.reset : Ports :=
  { mp := Link.reset, fp := Link.reset, ce := Link.reset, cw := Link.reset, outMp := [], outFp := [], tagCount := 0, failed := [], late := 0,
    iref := 0, werr := ⟨false, false⟩, wtmo := ⟨false, false⟩, lkind := ⟨0, 0⟩, wcount := ⟨0, 0⟩, raddr := ⟨0, 0⟩ }

/-- The observation unit after reset: KZ_OBS_CFG 0x0010_03FE (R471). -/
def Obs.reset : Obs :=
  { cfg := 0x001003FE, slots := [], lost := 0, fifo := [], d := 0, valid := false, sop := false, drops := 0, cnt := [], cntcfg := [], cntuen := 0, inspect := false,
    hi := [] }

def Chain.reset : Chain :=
  { cgt := [], cmd := none, done := false, err := false, refused := false, errent := 0, dropW := false, dropE := false,
    txW := [], txE := [], rxW := [], rxE := [], chCode := 0, chCge := 0, recvSince := none }

def Sync.reset : Sync := { objs := [], waits := [], gens := [], order := 0, queue := [], rr := 0, coreDone := none }

def Rings.reset : Rings :=
  { rings := [], eq0 := [], eq1 := [], eq2 := [], eq3 := [], offer := none, offerResume := false, running := none,
    preempted := [], lastRing := 7, rring := 0, rindex := 0, preempting := none, jobRes := 0, noOffers := false, epPend := 0,
    epCore := 0, epVec := 0, epTile := 0, epSparge := 0, epFar := 0, epDma0 := 0, epDma1 := 0, epDma2 := 0, epDma3 := 0,
    clog := [], clogNext := 0, clogTotal := 0 }

def Dma.reset : Dma := { chs := [], lastServed := 15 }

def Sparge.reset : Sparge := { streams := [], sprod := [], scons := [], last := 3 }

def Pll.reset : Pll := { on := false, lock := false, fail := false, misses := 0, tries := 0 }

/-- Clocks and power after a cold reset (R425, R482): PD0 and PD1 on, trim 0x80, k 64, MINEVER 0xFF.
CR_MGOV.MV resets to 750 in `Malt.reset`; the measured values reset to 0. The supply-good lines and AON_PORST_N stand low (log 7). -/
def Power.reset : Power :=
  { sclk := 0, sclkHi := 0, energy := 0, energyHi := 0, trim := 0x80, reflost := false, pllF := Pll.reset, pllL := Pll.reset,
    pd := 3, cd := 7, state := .run, hold := 0, idleSince := 0, wakeHeld := false, deep := false, wakepc := 0, tcmp := 0,
    mnotice := 0, k := 64, t := 0, mv := 0, moff := 0, low := 0, marginRun := 0, mw := 0, temp := 0, vsup := 0, droops := 0,
    margin := 0, minEver := 0xFF, porstN := false, pgAon := false, pgL := false, pgM := false }

/-- The Maltster after reset: task 0 READY, tasks 1–15 HALT (R461, R484); it has not started. -/
def Malt.reset : Malt :=
  { started := false, ram := [], regs := [], pcs := [], stat := 1, taskPc := 0, pdreq := 3, cden := 7, cdOff := 0, msrc := 0, mv := 750,
    fault := false, ftask := 0, fcause := 0, fpc := 0 }

/-- Life-cycle, Kiln, start-up and bond state after a cold reset: held, PHASE HELD, LAST 1 (R442, R453). -/
def Sys.reset : Sys :=
  { lcs := 0, lcsValid := false, sigfail := false, changes := 0, kiln := none, kilnQueue := [], kilnTrig := 0, kilnFail := false,
    kilnCount := 0, phase := 0, last := 1, failcode := 0, refused := false, resetKind := 1, full := true, entry := none, imgFail := 0, maltEntry := 0,
    locked := false, lreason := 0, lcause := 0, llevel := 0, lworld := false, lpc := 0, aonLockup := false, bondTrims := [], bondMargin := 0, bondSeen := false,
    beats := [], img := none, bondRetries := 0, bondFails := 0, heldIn := [], scanOut := 0 }

/-- The configuration after a cold reset (R482). -/
def Cfg.reset : Cfg :=
  { refMhz := 100, cap := 3000, kmin := 16, kmax := 64, tlim := 100, mtgt := 8, idle := 48000, obsClk := true, rgroups := 8,
    qen := 15, ltsSec := 0, fpTmo := 0x75300, linkEn := 15, mimg := 0, cimg := 0, node := 0, block := 0, ringsec := 0,
    secobj := 0, cgtsec := 0, lock := false, rgnX := [], featAcc := [], sealed := false, cgtBase := 0, nrt := [] }

/-- The block after a cold reset. -/
def Blk.reset : Blk :=
  { core := Core.reset, mmu := Mmu.reset, caches := Caches.reset, err := ErrLog.reset, lts := Lts.reset, tile := TileFile.reset,
    tun := Tun.reset, vec := Vec.reset, epi := Epi.reset, ports := Ports.reset, obs := Obs.reset, chain := Chain.reset,
    sync := Sync.reset, rings := Rings.reset, dma := Dma.reset, sparge := Sparge.reset, pwr := Power.reset, malt := Malt.reset,
    sys := Sys.reset, freeCount := 0 }

/-- The machine right after a cold reset, with AON_PORST_N still low. -/
def State.reset : State := { pending := [], cfg := Cfg.reset, blk := Blk.reset }

end Sys2Proof.Machine
end

