-- ==== Sys2Proof/Machine/Monad.lean ====
section
/-! DEFINITION. The computation of one main core instruction: it runs on the block and ends normally, in a trap, or in a wait. -/

namespace Sys2Proof.Machine

/-- Why an instruction's computation ends early. -/
inductive Stop where
  | trap (t : Trap)
  | wait (w : WaitOn)
  /-- an error put the block in fatal state at this access (R308) -/
  | fatal
  /-- the entry locked up (R264): reason, cause being entered -/
  | lockup (reason : BitVec 3) (cause : BitVec 6)
deriving DecidableEq, Repr

/-- A computation of the main core. -/
abbrev M := EStateM Stop Blk

def getCore : M Core := do return (← get).core
def modCore (f : Core → Core) : M Unit := modify fun b => { b with core := f b.core }
def modMmu (f : Mmu → Mmu) : M Unit := modify fun b => { b with mmu := f b.mmu }
def modCaches (f : Caches → Caches) : M Unit := modify fun b => { b with caches := f b.caches }
def modTile (f : TileFile → TileFile) : M Unit := modify fun b => { b with tile := f b.tile }
def modTun (f : Tun → Tun) : M Unit := modify fun b => { b with tun := f b.tun }
def modVec (f : Vec → Vec) : M Unit := modify fun b => { b with vec := f b.vec }
def modEpi (f : Epi → Epi) : M Unit := modify fun b => { b with epi := f b.epi }
def modLts (f : Lts → Lts) : M Unit := modify fun b => { b with lts := f b.lts }

/-- Raise a synchronous exception. -/
def raise (cause detail : Nat) (faddr : Word := 0) : M α :=
  throw (.trap { cause := BitVec.ofNat 6 cause, detail := BitVec.ofNat 16 detail, faddr := faddr, fault := .none,
                 wlevel := none, ipa := none, keep := false })

/-- Illegal core operand (cause 0x01) with its CR_CFAULT code (R243). -/
def coreFault (code : Nat) (cr : BitVec 12 := 0) : M α :=
  throw (.trap { cause := 1, detail := BitVec.ofNat 16 code, faddr := 0, fault := .core (BitVec.ofNat 8 code) cr,
                 wlevel := none, ipa := none, keep := false })

/-- Illegal control-register value (cause 0x02): DETAIL is CR_CFAULT.CRNUM (R243, R247). -/
def crValueFault (cr : BitVec 12) : M α :=
  throw (.trap { cause := 2, detail := cr.zeroExtend 16, faddr := 0, fault := .core 0x10 cr,
                 wlevel := none, ipa := none, keep := false })

/-- Privileged instruction (cause 0x03). -/
def privFault : M α := raise 3 0

/-- Illegal tile operand (cause 0x10) with CR_TFAULT (R78). -/
def tileFault (code tile group : Nat) : M α :=
  throw (.trap { cause := 0x10, detail := BitVec.ofNat 16 code, faddr := 0,
                 fault := .tile (BitVec.ofNat 8 code) (BitVec.ofNat 4 tile) (BitVec.ofNat 4 group),
                 wlevel := none, ipa := none, keep := false })

/-- Illegal vector operand (cause 0x11) with CR_VFAULT (R158). -/
def vecFault (code reg : Nat) : M α :=
  throw (.trap { cause := 0x11, detail := BitVec.ofNat 16 code, faddr := 0,
                 fault := .vec (BitVec.ofNat 8 code) (BitVec.ofNat 5 reg), wlevel := none, ipa := none, keep := false })

/-- Chain and sync fault (cause 0x12) with CR_CHFAULT (R202). -/
def chainFault (code cge : Nat) : M α :=
  throw (.trap { cause := 0x12, detail := BitVec.ofNat 16 code, faddr := 0,
                 fault := .chain (BitVec.ofNat 8 code) (BitVec.ofNat 6 cge), wlevel := none, ipa := none, keep := false })

/-- Wait for something a later command brings. -/
def waitFor (w : WaitOn) : M α := throw (.wait w)

/-- Raise `e` unless `p`. -/
def check (p : Bool) (e : M Unit) : M Unit := if p then pure () else e

/-- Fields that must be zero: otherwise code 0x01 of R243. -/
def mustBeZero (x : BitVec w) : M Unit := check (x == 0) (coreFault 1)

end Sys2Proof.Machine
end

