-- ==== Sys2Proof/Machine/Links.lean ====
section
/-! DEFINITION. Sending on the Drumet links: credits, blocks, the retry buffer, and requests with their tags (14, 15). -/

namespace Sys2Proof.Machine

/-- One byte into a reflected CRC-32C (R178). -/
def crc32cBit (c : Nat) : Nat := if c % 2 = 1 then (c / 2) ^^^ 0x82F63B78 else c / 2
def crc32cByte (c : Nat) (b : Byte) : Nat :=
  crc32cBit (crc32cBit (crc32cBit (crc32cBit (crc32cBit (crc32cBit (crc32cBit (crc32cBit (c ^^^ b.toNat))))))))

/-- CRC-32C of a byte string (R178). -/
def crc32c (bs : List Byte) : W32 := BitVec.ofNat 32 (bs.foldl crc32cByte 0xFFFFFFFF ^^^ 0xFFFFFFFF)

/-- The bytes of a wide word, byte 0 first. -/
def bytesOf (n : Nat) (x : BitVec w) : List Byte := leOfNat n x.toNat

def getLink (b : Blk) (p : BitVec 2) : Link :=
  if p = 0 then b.ports.mp else if p = 1 then b.ports.fp else if p = 2 then b.ports.ce else b.ports.cw

def setLink (b : Blk) (p : BitVec 2) (l : Link) : Blk :=
  if p = 0 then { b with ports := { b.ports with mp := l } }
  else if p = 1 then { b with ports := { b.ports with fp := l } }
  else if p = 2 then { b with ports := { b.ports with ce := l } }
  else { b with ports := { b.ports with cw := l } }

def modLink (b : Blk) (p : BitVec 2) (f : Link → Link) : Blk := setLink b p (f (getLink b p))

/-- KZ_LINK_CTL.EN bit of a port (R398). -/
def portEnabled (c : Cfg) (p : BitVec 2) : Bool := bit c.linkEn p.toNat

/-- The link states of R393. -/
def stDown : BitVec 3 := 0
def stReq : BitVec 3 := 1
def stTrain : BitVec 3 := 2
def stAdvert : BitVec 3 := 3
def stUp : BitVec 3 := 4
def stPaused : BitVec 3 := 5
def stRetrain : BitVec 3 := 6
def stFailed : BitVec 3 := 7

/-- The data flits a packet carries (R387). -/
def dataFlits (h : Hdr) : Nat :=
  if h.opc = 0x02 then 2
  else if h.opc = 0x03 then (if bits h.be 3 0 = 8 then 1 else 0)
  else if h.opc = 0x09 then (if h.status = 0 then 2 else 0)
  else 0

/-- The channel of an opcode on the Memory Port and Far Port (R385, R387); none for a reserved opcode. -/
def channelOf (opc : BitVec 5) : Option Nat :=
  if opc = 0x01 || opc = 0x02 || opc = 0x03 then some 0
  else if opc = 0x09 || opc = 0x0A || opc = 0x0B then some 1
  else if opc = 0x11 || opc = 0x12 then some 2
  else none

def Link.credit (l : Link) (ch : Nat) : Nat := if ch = 0 then l.credit0 else if ch = 1 then l.credit1 else l.credit2

/-- Spend credits of a channel: once, at the first transmission (R389). -/
def Link.spend (l : Link) (ch n : Nat) : Link :=
  if ch = 0 then { l with credit0 := l.credit0 - n }
  else if ch = 1 then { l with credit1 := l.credit1 - n }
  else { l with credit2 := l.credit2 - n }

/-- The receiver frees credits of a channel, to be reported (R389). -/
def Link.free (l : Link) (ch n : Nat) : Link :=
  if ch = 0 then { l with freed0 := l.freed0 + n }
  else if ch = 1 then { l with freed1 := l.freed1 + n }
  else { l with freed2 := l.freed2 + n }

/-! The blocks sent. -/

/-- The channels that a port receives on (R385, R389). -/
def rxChannels (p : BitVec 2) : List Nat := if p = 0 then [1] else if p = 1 then [0, 1, 2] else [0, 1]

/-- The credits that the block advertises for a channel of a port (R389). -/
def advertised (p : BitVec 2) (ch : Nat) : Nat :=
  ((if p = 0 then [0, 256, 0, 0] else if p = 1 then [128, 256, 32, 0] else [16, 64, 0, 0]) : List Nat).getD ch 0

/-- The report of one trailer (R389): the next channel in rotation, at most 64 credits more than its last. -/
def Link.report (p : BitVec 2) (l : Link) : (Nat × BitVec 7) × Link :=
  let chs := rxChannels p
  let ch := chs.getD l.turn 0
  let l := { l with turn := (l.turn + 1) % chs.length }
  let more (r : BitVec 7) (n : Nat) : BitVec 7 := r + BitVec.ofNat 7 (Nat.min 64 n)
  if ch = 0 then let r := more l.rep0 l.freed0; ((0, r), { l with rep0 := r, freed0 := l.freed0 - 64 })
  else if ch = 1 then let r := more l.rep1 l.freed1; ((1, r), { l with rep1 := r, freed1 := l.freed1 - 64 })
  else let r := more l.rep2 l.freed2; ((2, r), { l with rep2 := r, freed2 := l.freed2 - 64 })

/-- What fills a block's slots: the valid ones, and their bytes. -/
structure Slots where
  dv : BitVec 4
  hv : BitVec 2
  data : BitVec 1024
  hdr : BitVec 512
deriving DecidableEq, Repr

def Slots.empty : Slots := { dv := 0, hv := 0, data := 0, hdr := 0 }

/-- A header flit (R386). -/
def hdrFlit (h : Hdr) : BitVec 256 :=
  BitVec.ofNat 256 (h.opc.toNat + 32 * h.world.toNat + 256 * h.status.toNat + 65536 * h.rtag.toNat + 2 ^ 32 * h.snode.toNat +
    2 ^ 49 * h.sblock.toNat + 2 ^ 64 * h.addr.toNat + 2 ^ 128 * h.be.toNat + 2 ^ 192 * h.operand.toNat)

/-- The header flit of a chain transfer (R394). -/
def chainFlit (t : Transfer) : BitVec 256 :=
  let n := t.rows.length
  BitVec.ofNat 256 (0x18 + 32 * t.world.toNat + 64 * t.cls.toNat + 256 * ((if t.cls = 0 then n else n / 2) - 1) + 65536 * t.tag.toNat)

/-- The slots of a data block (R382, R385, R394). -/
def SentBlock.slots (s : SentBlock) : Slots :=
  match s.transfers with
  | t :: _ =>
    if s.part = 0 then { dv := 1, hv := 0, data := (chainFlit t).zeroExtend 1024, hdr := 0 }
    else { dv := 15, hv := 0, data := lane 1024 (t.rows.getD ((s.part - 1) / 2) 0) ((s.part - 1) % 2), hdr := 0 }
  | [] =>
    let fs : List (BitVec 256) := s.packets.flatMap fun q => (List.range (dataFlits q.h)).map fun i => lane 256 q.data i
    { dv := BitVec.ofNat 4 (2 ^ fs.length - 1), hv := BitVec.ofNat 2 (2 ^ s.packets.length - 1), data := ofLanes 1024 fs
      hdr := ofLanes 512 (s.packets.map fun q => hdrFlit q.h) }

/-- The CRC field of a block (R384): header slots count on the Memory Port and Far Port only. -/
def blockCrc (p : BitVec 2) (ctl : W32) (data : BitVec 1024) (hdr : BitVec 512) : W32 :=
  crc32c (bytesOf 128 data ++ (if p.toNat < 2 then bytesOf 64 hdr else []) ++ bytesOf 4 ctl)

def mkBlock (p : BitVec 2) (ctl : W32) (data : BitVec 1024) (hdr : BitVec 512) : Block :=
  { ctl := ctl, data := data, hdr := hdr, crc := blockCrc p ctl data hdr }

/-- A data block, or an idle one where no slot is valid, with the trailer that the side sends now: ACK, a NAK that is owed, and a credit report
(R383, R389, R391). -/
def Link.form (p : BitVec 2) (l : Link) (seq : BitVec 7) (s : Slots) : Block × Link :=
  let r := l.report p
  let idle := s.dv == 0 && s.hv == 0
  (mkBlock p (BitVec.ofNat 32 (seq.toNat + 2 ^ 7 * (l.eseq - 1).toNat + 2 ^ 14 * l.nakOwed.toNat + 2 ^ 15 * idle.toNat + 2 ^ 17 * s.dv.toNat
    + 2 ^ 21 * s.hv.toNat + 2 ^ 23 * r.1.1 + 2 ^ 25 * r.1.2.toNat)) s.data s.hdr, { r.2 with nakOwed := false })

/-- One cycle of a port: a block in each of its places, idle where it has none (R381, R382). -/
def Link.drive (p : BitVec 2) (l : Link) (xs : List (Option SentBlock)) : Link :=
  let r := xs.foldl (fun (a : List Block × Link) x =>
    let q := match x with
      | some s => a.2.form p s.seq s.slots
      | none => a.2.form p a.2.txSeq Slots.empty
    (a.1 ++ [q.1], q.2)) ([], l)
  { r.2 with tx := r.1 }

/-- A cycle without a data block. -/
def Link.driveIdle (p : BitVec 2) (l : Link) : Link := l.drive p (if p.toNat < 2 then [none] else [none, none])

/-- The cycles of data blocks in order: a block each on the Memory Port and Far Port; on a Chain Port a header alone in place A, the halves of
a row in A and B (R394). -/
def cyclesOf (p : BitVec 2) : List SentBlock → List (List (Option SentBlock))
  | [] => []
  | [s] => [if p.toNat < 2 then [some s] else if s.part = 0 ∨ s.part % 2 = 1 then [some s, none] else [none, some s]]
  | s :: t :: rest =>
    if p.toNat < 2 then [some s] :: cyclesOf p (t :: rest)
    else if s.part % 2 = 1 then [some s, some t] :: cyclesOf p rest
    else if s.part = 0 then [some s, none] :: cyclesOf p (t :: rest)
    else [none, some s] :: cyclesOf p (t :: rest)

/-- Send data blocks in order, first or again. -/
def Link.sendBlocks (p : BitVec 2) (l : Link) (ss : List SentBlock) : Link := (cyclesOf p ss).foldl (Link.drive p) l

/-- A control block (R383): TRAIN 1, ADVERT 2, DESKEW 3, PAUSE 4, RESUME 5, DOWN 6. -/
def ctlBlock (p : BitVec 2) (sub lock count : Nat) (data : BitVec 1024) (hdr : BitVec 512) : Block :=
  mkBlock p (BitVec.ofNat 32 (sub + 2 ^ 7 * lock + 2 ^ 8 * count + 2 ^ 16)) data hdr

/-- A PAUSE, RESUME or DOWN block; on a Chain Port the cycle's other place is idle, after a RESUME and before the others (log 27). -/
def Link.driveCtl (p : BitVec 2) (l : Link) (sub : Nat) : Link :=
  let k := ctlBlock p sub 0 0 0 0
  if p.toNat < 2 then { l with tx := [k] }
  else
    let q := l.form p l.txSeq Slots.empty
    { q.2 with tx := if sub = 5 then [k, q.1] else [q.1, k] }

/-- A TRAIN block: its block count, LOCK once the receiver has lock, and 0x55 or 0xAA in every byte of its slots (R393). -/
def trainOf (p : BitVec 2) (lock : Bool) (count : BitVec 6) : Block :=
  let v := if bit count 0 then 0xAA else 0x55
  ctlBlock p 1 lock.toNat count.toNat (BitVec.ofNat 1024 (v * ((2 ^ 1024 - 1) / 255))) (if p.toNat < 2 then BitVec.ofNat 512 (v * ((2 ^ 512 - 1) / 255)) else 0)

def Link.driveTrain (p : BitVec 2) (l : Link) : Link :=
  let lock := l.trainRow == 64
  if p.toNat < 2 then { l with tx := [trainOf p lock l.count], count := l.count + 1 }
  else { l with tx := [trainOf p lock l.count, trainOf p lock (l.count + 1)], count := l.count + 2 }

/-- An ADVERT block: version 1, the port's kind, the credits of channels 0 to 3 (R393). -/
def advertOf (p : BitVec 2) : Block :=
  ctlBlock p 2 0 0 (BitVec.ofNat 1024 (1 + 65536 * (if p.toNat < 2 then p.toNat else 2) +
    (List.range 4).foldl (fun a ch => a + 2 ^ (32 + 16 * ch) * advertised p ch) 0)) 0

def Link.driveAdvert (p : BitVec 2) (l : Link) : Link := { l with tx := if p.toNat < 2 then [advertOf p] else [advertOf p, advertOf p] }

/-- The DESKEW block that a port inserts (R397): every bit the complement of the bit that its lane carried in the cycle before; on the Far Port
its second cycle complements its first; on a Chain Port it takes place A (log 79). -/
def Link.driveDeskew (p : BitVec 2) (l : Link) : Link :=
  match l.tx with
  | [] => l
  | k :: _ =>
    if p = 0 then { l with tx := [{ ctl := ~~~k.ctl, data := ~~~k.data, hdr := ~~~k.hdr, crc := ~~~k.crc }] }
    else if p = 1 then
      let hi : BitVec 512 := lane 512 k.data 1
      let h1 : BitVec 256 := lane 256 k.hdr 1
      { l with tx := [{ ctl := ~~~k.crc, data := ofLanes 1024 [~~~hi, hi], hdr := ofLanes 512 [~~~h1, h1], crc := k.crc }] }
    else
      let q := l.form p l.txSeq Slots.empty
      { q.2 with tx := [{ ctl := ~~~k.ctl, data := ~~~k.data, hdr := 0, crc := ~~~k.crc }, q.1] }

/-- What a port drives in one LCLK cycle: X_TXCLK, X_TXD, X_TXH, X_TXT and FP_TXBS (R382). -/
structure Pins where
  clk : Bool
  txd : BitVec 2048
  txh : BitVec 512
  txt : BitVec 128
  txbs : Bool
deriving DecidableEq, Repr

/-- X_TXCLK runs in every state but DOWN, PAUSED and FAILED (R382, R393). -/
def Link.clocked (l : Link) : Bool := l.state != stDown && l.state != stPaused && l.state != stFailed

/-- The signals in a cycle of the last blocks sent: a Far Port block takes two, any other one (R382). -/
def Link.pins (p : BitVec 2) (l : Link) (second : Bool) : Pins :=
  let k := l.tx.headD (mkBlock p 0 0 0)
  let i := second.toNat
  if p = 0 then { clk := l.clocked, txd := k.data.zeroExtend 2048, txh := k.hdr, txt := ofLanes 128 [k.ctl, k.crc], txbs := false }
  else if p = 1 then
    { clk := l.clocked, txd := (lane 512 k.data i : BitVec 512).zeroExtend 2048, txh := (lane 256 k.hdr i : BitVec 256).zeroExtend 512
      txt := (if second then k.crc else k.ctl).zeroExtend 128, txbs := !second }
  else
    { clk := l.clocked, txd := ofLanes 2048 (l.tx.map fun k => k.data), txh := 0, txt := ofLanes 128 (l.tx.flatMap fun k => [k.ctl, k.crc]), txbs := false }

/-- The first packet of the queue that may begin: its credits are held and no earlier packet of its channel waits (R389). -/
def takeSendable (l : Link) : List Nat → List Packet → Option (Packet × List Packet)
  | _, [] => none
  | blocked, p :: ps =>
    let ch := (channelOf p.h.opc).getD 0
    if !blocked.contains ch && decide (1 + dataFlits p.h ≤ l.credit ch) then some (p, ps)
    else match takeSendable l (ch :: blocked) ps with
      | some (q, rest) => some (q, p :: rest)
      | none => none

/-- Blocks that a link in UP with room in its retry buffer forms from its send queue: at most two headers and four
data flits each (R381, R390). -/
def pumpGo (p : BitVec 2) : Nat → Link → Link
  | 0, l => l
  | n + 1, l =>
    if l.state = stUp && decide (l.retry.length < 64) then
      match takeSendable l [] l.sendQ with
      | none => l
      | some (x, q) =>
        let l1 := l.spend ((channelOf x.h.opc).getD 0) (1 + dataFlits x.h)
        let r : List Packet × List Packet × Link := match takeSendable l1 [] q with
          | some (y, q2) => ([x, y], q2, l1.spend ((channelOf y.h.opc).getD 0) (1 + dataFlits y.h))
          | none => ([x], q, l1)
        let s : SentBlock := { seq := l.txSeq, packets := r.1, transfers := [], part := 0 }
        pumpGo p n ({ r.2.2 with sendQ := r.2.1, txSeq := l.txSeq + 1, retry := l.retry ++ [s] }.sendBlocks p [s])
    else l

def pumpLink (p : BitVec 2) (l : Link) : Link := pumpGo p l.sendQ.length l

/-- A request that waited on an UP port is timed from when its first flit has left (R365). -/
def stampSent (b : Blk) (fp : Bool) : Blk :=
  let waits (t : BitVec 16) : Bool := (getLink b (if fp then 1 else 0)).sendQ.any fun k =>
    k.h.rtag == t && (k.h.opc == 0x01 || k.h.opc == 0x02 || k.h.opc == 0x03 || k.h.opc == 0x11)
  let stamp (o : Outst) : Outst := if o.issued.isNone && !waits o.rtag then { o with issued := some b.pwr.sclk } else o
  { b with ports := if fp then { b.ports with outFp := b.ports.outFp.map stamp } else { b.ports with outMp := b.ports.outMp.map stamp } }

/-- The requests that wait on a port that goes down or fails are timed from then (R365, R396). -/
def stampAll (b : Blk) (p : BitVec 2) : Blk :=
  let stamp (o : Outst) : Outst := { o with issued := some (o.issued.getD b.pwr.sclk) }
  if p = 0 then { b with ports := { b.ports with outMp := b.ports.outMp.map stamp } }
  else if p = 1 then { b with ports := { b.ports with outFp := b.ports.outFp.map stamp } }
  else b

/-- Send what the Memory Port or the Far Port can send now. -/
def pumpOne (b : Blk) (fp : Bool) : Blk :=
  let p : BitVec 2 := if fp then 1 else 0
  stampSent (modLink b p (pumpLink p)) fp

/-- Send what both can send now. -/
def pump (b : Blk) : Blk := pumpOne (pumpOne b false) true

/-- Queue a packet on a port. -/
def sendPacket (b : Blk) (fp : Bool) (pk : Packet) : Blk :=
  pumpOne (modLink b (if fp then 1 else 0) fun l => { l with sendQ := l.sendQ ++ [pk] }) fp

/-- A transaction tag not in use among a port's outstanding requests (R388): the first free one from a free value on (log 82). -/
def freshTag : Nat → List Outst → BitVec 16 → BitVec 16
  | 0, _, t => t
  | n + 1, os, t => if os.any (fun o => o.rtag == t) then freshTag n os (t + 1) else t

def ReqOp.opc : ReqOp → BitVec 5
  | .rd => 0x01
  | .wr => 0x02
  | .at => 0x03
  | .sy => 0x11

/-- What a request carries. -/
structure Request where
  op : ReqOp
  addr : Word
  be : Word
  operand : Word
  data : Piece
  world : Bool
  purpose : Purpose
deriving DecidableEq, Repr

/-- A port that is FAILED or disabled answers a request at once (R396). -/
def portDead (c : Cfg) (b : Blk) (p : BitVec 2) : Bool := (getLink b p).state == stFailed || !portEnabled c p

/-- The pending epoch once its redirect table is in force (R295). -/
def epochReady (b : Blk) : Option (BitVec 16) := if b.mmu.copyPend.isSome then none else some b.rings.epPend

/-- The epoch that the descriptor of a DMA channel, or of a stream ring, runs under. -/
def dmaEpoch (b : Blk) (ch : Nat) : BitVec 16 := ((b.dma.chs.find? fun e => e.1 == ch).map fun e => e.2.epoch).getD b.rings.epCore
def streamEpoch (b : Blk) (r : Nat) : BitVec 16 := ((b.sparge.streams.find? fun e => e.1 == r).map fun e => e.2.epoch).getD b.rings.epCore

/-- The epoch of the unit that issues a request (R347). -/
def purposeEpoch (b : Blk) : Purpose → BitVec 16
  | .dmaRead ch _ _ => dmaEpoch b ch
  | .dmaHome ch _ => dmaEpoch b ch
  | .dmaBuddy ch _ => dmaEpoch b ch
  | .syncDma ch => dmaEpoch b ch
  | .sparge r _ => streamEpoch b r
  | .adUpdate q => if q < 16 then dmaEpoch b q else streamEpoch b (q - 16)
  | _ => b.rings.epCore

/-- Issue a request on the Memory Port or the Far Port (R365, R386, R396): it is recorded as outstanding under a fresh
tag with the timeout in force, and its packet is queued; a dead port answers it locally. -/
def issueReq (c : Cfg) (fp : Bool) (r : Request) (b : Blk) : Blk :=
  let outs := if fp then b.ports.outFp else b.ports.outMp
  let tag := freshTag (outs.length + 1) outs (Config.rtag b.ports.tagCount)
  let o : Outst := { rtag := tag, op := r.op, addr := r.addr, be := r.be, world := r.world, purpose := r.purpose, epoch := purposeEpoch b r.purpose,
                     tmo := c.fpTmo
                     issued := if (getLink b (if fp then 1 else 0)).state = stUp then none else some b.pwr.sclk }
  let dead := portDead c b (if fp then 1 else 0)
  let ports := { b.ports with
    tagCount := b.ports.tagCount + 1
    outMp := if fp then b.ports.outMp else b.ports.outMp ++ [o]
    outFp := if fp then b.ports.outFp ++ [o] else b.ports.outFp
    failed := if dead then b.ports.failed ++ [(fp, tag)] else b.ports.failed }
  let rings := match fp, epochReady b with
    | true, some e => { b.rings with epFar := e }
    | _, _ => b.rings
  let b := { b with ports := ports, rings := rings }
  if dead then b
  else sendPacket b fp
    { h := { opc := r.op.opc, world := r.world, status := 0, rtag := tag, snode := c.node, sblock := c.block,
             addr := r.addr, be := r.be, operand := r.operand }, data := r.data }

/-- Are requests of a kind outstanding on either port? -/
def anyOutst (b : Blk) (p : Outst → Bool) : Bool := b.ports.outMp.any p || b.ports.outFp.any p

/-- The byte mask of `n` bytes at offset `o` of a piece. -/
def byteMask (o n : Nat) : Word := BitVec.ofNat 64 ((2 ^ n - 1) <<< o)

/-- A piece with the bytes of a list at offset `o`. -/
def pieceOfBytes (o : Nat) (bs : List Byte) : Piece := BitVec.ofNat 512 (natOfLE bs <<< (8 * o))

/-- `n` bytes of a piece from offset `o`. -/
def pieceBytes (p : Piece) (o n : Nat) : List Byte := leOfNat n (p.toNat >>> (8 * o))

/-- A piece with the bytes under a mask taken from another. -/
def mergePiece (old new : Piece) (be : Word) : Piece :=
  ofLanes 512 ((List.range 64).map fun i => if bit be i then lane 8 new i else lane 8 old i)

end Sys2Proof.Machine
end

