-- ==== Sys2Proof/Machine/ObsOps.lean ====
section
/-! DEFINITION. Observation: event counters and trace packets (19). -/

namespace Sys2Proof.Machine

/-- Power domain n is on (KZ_PD_STAT). -/
def pdOn (b : Blk) (n : Nat) : Bool := bit b.pwr.pd n

/-- Clock domain n runs (KZ_CD_STAT). -/
def cdRuns (b : Blk) (n : Nat) : Bool := bit b.pwr.cd n

/-- The clock domains of a power domain (R407, R408): first and last. -/
def cdsOf (d : Nat) : Nat × Nat :=
  if d < 18 then (d + 1, d + 1)
  else if d = 18 then (19, 22)
  else if d = 19 then (23, 26)
  else if d = 20 then (27, 27)
  else (d + 7, d + 7)

/-- A mask of bits `lo` to `hi`. -/
def maskBits (hi lo : Nat) : Nat := (2 ^ (hi + 1 - lo) - 1) <<< lo

/-- Power domain d is on and its clocks run (R407, R430). -/
def pdRuns (b : Blk) (d : Nat) : Bool :=
  pdOn b d && decide (bits b.pwr.cd (cdsOf d).2 (cdsOf d).1 = 2 ^ ((cdsOf d).2 + 1 - (cdsOf d).1) - 1)

/-- The applied life-cycle state is PRODUCTION or RETURNED (R440). -/
def lcsFiltered (b : Blk) : Bool := b.sys.lcs == 2 || b.sys.lcs == 3

/-- The block is held under R440: the lines are not valid, or the state is SCRAPPED. -/
def lcsHeld (b : Blk) : Bool := !b.sys.lcsValid || bit b.sys.lcs 2

/-- Counter n's configuration (R475). -/
def cntcfg (b : Blk) (n : Nat) : BitVec 13 := b.obs.cntcfg.get n

/-- Does counter n count event `ev` of a level and world (R476)? Events 0x08, 0x0C, 0x0D and 0x0E have no world. -/
def counterCounts (b : Blk) (n ev : Nat) (level : BitVec 2) (world : Bool) : Bool :=
  let c := cntcfg b n
  decide (bits c 7 0 = ev) && decide (ev ≠ 0) &&
    (if ev = 0x08 || ev = 0x0C || ev = 0x0D || ev = 0x0E then bit c 11 || bit c 12
     else bit c (8 + level.toNat) && (if world then bit c 12 else bit c 11))

/-- Count `k` events on the configured counters (R474, R475). -/
def countEvents (b : Blk) (ev : Nat) (level : BitVec 2) (world : Bool) (k : Nat) : Blk :=
  if !pdOn b 20 then b
  else { b with obs := { b.obs with cnt := (List.range 8).foldl (fun m i =>
    if counterCounts b (4 + i) ev level world then m.set (4 + i) (m.get (4 + i) + BitVec.ofNat 64 k) else m) b.obs.cnt } }

/-- Count one event of the main core's running context. -/
def countCore (b : Blk) (ev : Nat) : Blk := countEvents b ev b.core.ps.level b.core.ps.world 1

/-- A conditional branch counts when it was mispredicted (R475), a free value (log 94). -/
def countBranch (b : Blk) : Blk :=
  { (if Config.mispredicted b.freeCount then countCore b 5 else b) with freeCount := b.freeCount + 1 }

/-- Add to a fixed counter for the context `ps` (R474): in PRODUCTION and RETURNED only events of non-secure U and S count. -/
def countFixed (b : Blk) (ps : Pstate) (n k : Nat) : Blk :=
  if !pdOn b 20 || (lcsFiltered b && (ps.world || ps.level == 2)) then b
  else { b with obs := { b.obs with cnt := b.obs.cnt.set n (b.obs.cnt.get n + BitVec.ofNat 64 k) } }

/-- Does a packet name the secure world or level M, in its header or its payload (R469)? -/
def namesSecure (p : ObsPacket) : Bool :=
  p.world || p.level == 2 ||
    (p.ty == 3 && match p.payload with
      | w :: _ => decide (bits w 7 6 = 2) || bit w 8
      | [] => false)

/-- When the lost count is nonzero and the LOST slot is empty, a LOST packet fills it (R470). -/
def fillLost (b : Blk) : Blk :=
  if b.obs.lost ≠ 0 && !b.obs.slots.any (fun p => p.ty == 2) then
    { b with obs := { b.obs with
        slots := b.obs.slots ++ [{ ty := 2, world := false, level := 3, ts := BitVec.ofNat 16 b.pwr.sclk, payload := [b.obs.lost] }]
        lost := 0 } }
  else b

/-- An event offers a packet to its type's slot (R468–R470). -/
def emit (b : Blk) (p : ObsPacket) : Blk :=
  if !(bit b.obs.cfg 0 && bit b.obs.cfg p.ty.toNat && pdOn b 20) then b
  else if lcsHeld b || (lcsFiltered b && namesSecure p) then b
  else if b.obs.slots.any (fun q => q.ty == p.ty) then
    fillLost { b with obs := { b.obs with
      lost := if b.obs.lost = 0xFFFFFFFF then b.obs.lost else b.obs.lost + 1
      drops := if b.obs.drops = 0xFFFF then b.obs.drops else b.obs.drops + 1 } }
  else fillLost { b with obs := { b.obs with slots := b.obs.slots ++ [p] } }

/-- A packet with the SCLK count's low bits as its time stamp. -/
def mkPacket (b : Blk) (ty : Nat) (world : Bool) (level : Nat) (payload : List W32) : ObsPacket :=
  { ty := BitVec.ofNat 4 ty, world := world, level := BitVec.ofNat 2 level, ts := BitVec.ofNat 16 b.pwr.sclk, payload := payload }

/-- The two words of a 64-bit value, low word first. -/
def words2 (x : Nat) : List W32 := [BitVec.ofNat 32 x, BitVec.ofNat 32 (x / 2 ^ 32)]

/-- SYNC packet (R468). -/
def emitSync (b : Blk) : Blk := emit b (mkPacket b 1 false 3 (words2 b.pwr.sclk))

/-- EXC packet (R468): the context left, the target, and the PC saved or returned to. -/
def emitExc (b : Blk) (left : Pstate) (cause : BitVec 6) (level : BitVec 2) (world entry : Bool) (pc : Word) : Blk :=
  emit b { ty := 3, world := left.world, level := left.level, ts := BitVec.ofNat 16 b.pwr.sclk,
           payload := BitVec.ofNat 32 (cause.toNat + 64 * level.toNat + 256 * world.toNat + 512 * entry.toNat) :: words2 pc.toNat }

/-- JOB packet (R468): 1 TAKE, 2 END, 3 PREEMPT, 4 lockup, 5 fatal. -/
def emitJob (b : Blk) (world : Bool) (ring : BitVec 3) (what : Nat) (index : BitVec 16) (tag : W32) : Blk :=
  emit b (mkPacket b 5 world 3 [BitVec.ofNat 32 (ring.toNat + 256 * what + 65536 * index.toNat), tag])

/-- DESC packet (R468). -/
def emitDesc (b : Blk) (world : Bool) (ring : Nat) (status : BitVec 8) (index : BitVec 16) : Blk :=
  emit b (mkPacket b 6 world 3 [BitVec.ofNat 32 (ring + 256 * status.toNat + 65536 * index.toNat)])

def PowerState.code : PowerState → Nat
  | .run => 0
  | .couch => 1
  | .steep => 2
  | .waking => 3

/-- POWER packet (R468). -/
def emitPower (b : Blk) : Blk :=
  emit b (mkPacket b 7 false 3 [BitVec.ofNat 32 (b.pwr.state.code + 4 * b.pwr.k.toNat + 512 * b.pwr.t.toNat)])

/-- LINK packet (R468). -/
def emitLink (b : Blk) (port : BitVec 2) (state : BitVec 3) : Blk :=
  emit b (mkPacket b 9 false 3 [BitVec.ofNat 32 (port.toNat + 4 * state.toNat)])

/-- A PCS packet (R468): the PC of the oldest unretired instruction, while the main core runs. -/
def emitPcs (b : Blk) : Blk :=
  if b.core.run ≠ .running then b
  else emit b { ty := 4, world := b.core.ps.world, level := b.core.ps.level, ts := BitVec.ofNat 16 b.pwr.sclk, payload := words2 b.core.pc.toNat }

/-- The words of a packet (R467), the first marked. -/
def ObsPacket.words (p : ObsPacket) : List (Bool × W32) :=
  (true, BitVec.ofNat 32 (p.ty.toNat + 16 * p.payload.length + 256 * p.world.toNat + 512 * p.level.toNat + 65536 * p.ts.toNat)) :: p.payload.map fun w => (false, w)

/-- The order of acceptance (R470): SYNC, LOST, EXC, JOB, DESC, LINK, POWER, USER, PCS. -/
def acceptOrder : List (BitVec 4) := [1, 2, 3, 5, 6, 9, 7, 8, 4]

/-- One OCLK edge (R380, R470): the port sends the oldest word, and the FIFO accepts the highest held packet when the whole packet fits.
OBS_D keeps its word while OBS_VALID is 0 (log 93). -/
def obsEdge (b : Blk) : Blk :=
  if !pdRuns b 20 then b
  else
    let o := match b.obs.fifo with
      | [] => { b.obs with valid := false, sop := false }
      | (first, w) :: rest => { b.obs with fifo := rest, d := w, valid := true, sop := first }
    match acceptOrder.findSome? fun t => o.slots.find? fun p => p.ty == t with
    | none => { b with obs := o }
    | some p =>
      if 512 < o.fifo.length + p.words.length then { b with obs := o }
      else fillLost { b with obs := { o with fifo := o.fifo ++ p.words, slots := o.slots.filter fun q => q.ty != p.ty } }

/-- OCLK edges, as far as the unit has something to send. -/
def obsEdges : Nat → Blk → Blk
  | 0, b => b
  | n + 1, b => if b.obs.fifo.isEmpty && b.obs.slots.isEmpty && !b.obs.valid then b else obsEdges n (obsEdge b)

/-- Add to the lost count and to DROPS, which saturate (R470, R471). -/
def loseMore (k : Nat) (b : Blk) : Blk :=
  { b with obs := { b.obs with lost := BitVec.ofNat 32 (Nat.min 0xFFFFFFFF (b.obs.lost.toNat + k))
                               drops := BitVec.ofNat 16 (Nat.min 0xFFFF (b.obs.drops.toNat + k)) } }

/-- The events of a packet type at every multiple of n in the counts after t0 up to t (R468). A unit that runs has sent the earlier ones before
the last; one whose clock is stopped keeps the first and loses the others (R473). -/
def atMultiples (n t0 t : Nat) (ev : Blk → Blk) (b : Blk) : Blk :=
  let at_ (m : Nat) (b : Blk) : Blk := { b with obs := (ev { b with pwr := { b.pwr with sclk := m } }).obs }
  let k := t / n - t0 / n
  if k = 0 then b
  else if pdRuns b 20 then obsEdges (Nat.min 1024 (16 * (t % n))) (at_ (t / n * n) b)
  else
    let b1 := at_ (t0 / n * n + n) b
    if k = 1 then b1
    else
      let b2 := at_ (t0 / n * n + n) b1
      if b2.obs = b1.obs then b1 else loseMore (k - 2) b2

/-- The PCS interval (R471). -/
def pcsEvery (b : Blk) : Nat := 2 ^ bits b.obs.cfg 20 16

/-- The counters of clock edges (R474, R475) over the SCLK counts t0 to t. The edges of the fast clocks among them, and of those the refused
and the stalled ones, are timing, which the spec leaves open here: free values (log 6). -/
def countEdges (t0 t : Nat) (b : Blk) : Blk :=
  let n (kind : Nat) : Nat := Config.edges kind t0 t
  let b := if b.pwr.state = .run then countFixed b b.core.ps 3 (n 3) else b
  let b := if pdRuns b 2 then countFixed b b.core.ps 0 (n 0) else b
  let b := if b.pwr.state = .run then countEvents b 0x08 0 false (n 0x08) else b
  let b := if b.pwr.state = .run && b.pwr.t != 0 then countEvents b 0x0E 0 false (n 0x0E) else b
  match b.core.blocked with
  | some (.power _) => countEvents b 0x12 b.core.ps.level b.core.ps.world (n 0x12)
  | _ => b

/-- The SCLK count reaches t; it never runs back (log 6). The observation port goes on sending, 16 OCLK edges in an SCLK cycle, and what the
counts passed bring about is observed (R380, R468, R470, R474). -/
def elapse (t : Nat) (b : Blk) : Blk :=
  let t0 := b.pwr.sclk
  if t ≤ t0 then b
  else
    let b := countEdges t0 t (obsEdges (Nat.min 1024 (16 * (t - t0))) b)
    let b := { b with pwr := { b.pwr with sclk := t } }
    atMultiples (pcsEvery b) t0 t emitPcs (atMultiples 65536 t0 t emitSync b)

/-- The SCLK count reaches its next multiple of n. -/
def toMultiple (n : Nat) (b : Blk) : Blk := elapse (b.pwr.sclk / n * n + n) b

end Sys2Proof.Machine
end

