-- ==== Sys2Proof/Machine/FrontOps.lean ====
section
/-! DEFINITION. Rings as the ring front end holds them: their registers, the clamp log, event queues, and the Maltster's sources (13, 16). -/

namespace Sys2Proof.Machine

/-- The value of a key in an association list. -/
def alGet (xs : List (Nat × α)) (d : α) (k : Nat) : α := ((xs.find? fun e => e.1 == k).map fun e => e.2).getD d

/-- An association list by rising keys with a key's value replaced or inserted. -/
def alPut : List (Nat × α) → Nat → α → List (Nat × α)
  | [], n, e => [(n, e)]
  | (m, x) :: xs, n, e => if n < m then (n, e) :: (m, x) :: xs else if n = m then (n, e) :: xs else (m, x) :: alPut xs n e

/-- A Maltster source latches: its task, when it waits, becomes READY and the latch clears (R429). -/
def maltSource (b : Blk) (i : Nat) : Blk :=
  let t := bits b.malt.stat (2 * i + 1) (2 * i)
  if t = 3 then { b with malt := { b.malt with stat := setBits b.malt.stat (2 * i + 1) (2 * i) 1 } }
  else { b with malt := { b.malt with msrc := setBit b.malt.msrc i true } }

/-- A wake cause is sampled (R413, R414, R417): outside Run it is held for the wake. -/
def wake (b : Blk) : Blk := if b.pwr.state = .run then b else { b with pwr := { b.pwr with wakeHeld := true } }

/-- A context that no SETUP has written. -/
def RingCtx.zero : RingCtx :=
  { log2 := 4, world := false, prio := 0, corder := false, irqen := false, evring := 0, even := false, dbase := 0, cbase := 0,
    msgaddr := 0, msgdata := 0, ten := false, level := false, had := false, asid := 0, vmid := 0, s1lo := 0, s1hi := 0, s2root := 0 }

/-- A ring at its reset values (R322, R325); a ring never set up counts as 16 entries. -/
def Ring.zero : Ring :=
  { setUp := false, ctxLo := 0, ctxHi := 0, run := false, busy := false, refused := false, err := false, clamped := false, lost := false
    phase := false, head := 0, own := none, index := 0, ctx := RingCtx.zero, st := .idle, buf := [], awaited := 0, bad := false, desc := [], big := false
    nclamp := 0, firstCode := 0, status := 0, result := 0, detail := 0, epoch := 0, msgOwed := 0, halting := false }

def getRing (b : Blk) (n : Nat) : Ring := alGet b.rings.rings Ring.zero n
def setRing (b : Blk) (n : Nat) (r : Ring) : Blk := { b with rings := { b.rings with rings := alPut b.rings.rings n r } }
def modRing (b : Blk) (n : Nat) (f : Ring → Ring) : Blk := setRing b n (f (getRing b n))

/-- The index of a ring's descriptor in progress. -/
def Ring.cur (r : Ring) : BitVec 16 := r.own.getD r.head

/-- Kind codes of R320: 1 job, 2 DMA, 3 stream, 4 event. -/
def ringKind (n : Nat) : Nat := if n < 8 then 1 else if n < 24 then 2 else if n < 28 then 3 else 4

/-- Descriptor bytes of a submission ring (R320). -/
def descSize (n : Nat) : Nat := if n < 8 then 128 else 64

/-- Entries of a ring. -/
def Ring.size (r : Ring) : Nat := 2 ^ r.ctx.log2

/-- Entries of a ring number's DMA or stream unit. -/
def dmaRing (ch : Nat) : Nat := 8 + ch
def streamRing (n : Nat) : Nat := 24 + n

/-- One record of the clamp log (R329). -/
def logClamp (b : Blk) (ring code index supplied applied : Nat) : Blk :=
  let k := b.rings.clogNext.toNat
  let w0 : W32 := BitVec.ofNat 32 (ring % 256 + 256 * (code % 256) + 65536 * (index % 65536))
  { b with rings := { b.rings with
      clog := ((b.rings.clog.set (3 * k) w0).set (3 * k + 1) (BitVec.ofNat 32 supplied)).set (3 * k + 2) (BitVec.ofNat 32 applied)
      clogNext := b.rings.clogNext + 1
      clogTotal := if b.rings.clogTotal = 0xFFFF then b.rings.clogTotal else b.rings.clogTotal + 1 } }

/-- A clamped field: code, supplied value, applied value (R328). -/
abbrev Clamp := Nat × Nat × Nat

/-- Records of several clamps, in check order. -/
def logClamps (b : Blk) (ring index : Nat) (cs : List Clamp) : Blk :=
  cs.foldl (fun b c => logClamp b ring c.1 index c.2.1 c.2.2) b

def getEq (b : Blk) (e : Nat) : List Event :=
  if e = 0 then b.rings.eq0 else if e = 1 then b.rings.eq1 else if e = 2 then b.rings.eq2 else b.rings.eq3

def setEq (b : Blk) (e : Nat) (q : List Event) : Blk :=
  if e = 0 then { b with rings := { b.rings with eq0 := q } }
  else if e = 1 then { b with rings := { b.rings with eq1 := q } }
  else if e = 2 then { b with rings := { b.rings with eq2 := q } }
  else { b with rings := { b.rings with eq3 := q } }

/-- Queue an event for its ring (R336). -/
def pushEvent (b : Blk) (e : Nat) (ev : Event) : Blk := setEq b e (getEq b e ++ [ev])

/-- Room for `n` more events in a ring's queue of 16 (R336). -/
def eventRoom (b : Blk) (e n : Nat) : Bool := decide ((getEq b e).length + n ≤ 16)

/-- A free slot of a started event ring (R321, R337). -/
def eventSlot (b : Blk) (e : Nat) : Bool :=
  let r := getRing b (28 + e)
  r.setUp && r.run && decide ((r.index.toNat + 2 * r.size - r.head.toNat - 1) % r.size ≠ 0)

/-- KZ_ERR_STAT and CR_ERRSTAT (R318). -/
def errStatWord (b : Blk) : W32 :=
  BitVec.ofNat 32 (b.err.pend.toNat + 2 * b.err.overrun.toNat + 4 * b.err.fatal.toNat + 256 * b.err.unit.toNat
    + 4096 * b.err.kind.toNat + 65536 * b.err.world.toNat)

/-- KZ_LOCKUP_STAT (R265). -/
def lockupStatWord (b : Blk) : W32 :=
  BitVec.ofNat 32 (b.sys.locked.toNat + 2 * b.sys.lreason.toNat + 16 * b.sys.lcause.toNat + 1024 * b.sys.llevel.toNat
    + 4096 * b.sys.lworld.toNat)

/-- The descriptor of a ring ends: its completion is to be written (R333). -/
def finishDesc (b : Blk) (n : Nat) (status : BitVec 8) (result detail : W32) (epoch : BitVec 16) : Blk :=
  modRing b n fun r => { r with st := .done, status := status, result := result, detail := detail, epoch := epoch }

/-- The running job, if there is one, ends: RRING and RINDEX name none (R340, log 63). -/
def Rings.noneRuns (r : Rings) : Rings :=
  match r.running with
  | none => r
  | some _ => { r with running := none, rring := Config.endedRing r.rring, rindex := Config.endedIndex r.rindex }

/-- The ring front end at a fatal error (R308, R338): the running job ends with status 0x05, each event ring with a free slot is
given one fatal event, the others lose it, and nothing else is written. -/
def fatalFront (b : Blk) : Blk :=
  let job := b.rings.running
  let b := match job with
    | some j =>
      emitJob (finishDesc { b with rings := b.rings.noneRuns } j.ring.toNat 5 0 0 b.rings.epCore) j.world j.ring 5
        j.index j.tag
    | none => b
  (List.range 4).foldl (fun b e =>
    if eventSlot b e then
      setEq b e [{ ty := 3, src := match job with | some j => BitVec.ofNat 8 j.ring.toNat | none => BitVec.ofNat 8 (28 + e), status := 5
                   index := match job with | some j => j.index | none => 0, a := errStatWord b, b := 0 }]
    else setEq (modRing b (28 + e) fun r => { r with lost := true }) e []) b

/-- The ring front end at a lockup (R342): the running job ends with status 0x04 and DETAIL KZ_LOCKUP_STAT; no further offer. -/
def lockupFront (b : Blk) : Blk :=
  let b := { b with rings := { b.rings with noOffers := true } }
  match b.rings.running with
  | some j =>
    emitJob (finishDesc { b with rings := b.rings.noneRuns } j.ring.toNat 4 0 (lockupStatWord b) b.rings.epCore)
      j.world j.ring 4 j.index j.tag
  | none => b

end Sys2Proof.Machine
end

