-- ==== Sys2Proof/Machine/BondOps.lean ====
section
/-! DEFINITION. The error log, fatal state, and the beats that cross the bond interface (12: R308, R315–R319). -/

namespace Sys2Proof.Machine

/-- Record an error of a logged kind (R318, R319). -/
def logErr (b : Blk) (unit kind : Nat) (world : Bool) (addr : Word) : Blk :=
  if b.err.pend then { b with err := { b.err with overrun := true } }
  else { b with err := { b.err with pend := true, unit := BitVec.ofNat 3 unit, kind := BitVec.ofNat 4 kind, world := world,
                                    addr := addr } }

/-- Count a corrected or recovered error, saturating (R318). -/
def countErr (b : Blk) : Blk :=
  { b with err := { b.err with ccount := if b.err.ccount = 0xFFFFFFFF then b.err.ccount else b.err.ccount + 1 } }

/-- The block enters fatal state (R308): the flag, AON_FATAL, the Maltster's source 13; the core stops. -/
def goFatal (b : Blk) : Blk :=
  if b.err.fatal then b
  else
    fatalFront (maltSource { b with err := { b.err with fatal := true, aonFatal := true }, core := { b.core with run := .stopped } } 13)

/-- A logged error puts the block in fatal state (R308). -/
def setFatal (b : Blk) (unit kind : Nat) (world : Bool) (addr : Word) : Blk := goFatal (logErr b unit kind world addr)

/-! Beats (R315). -/

/-- One bit of the CRC-16: polynomial 0x1021, not reflected. -/
def crcBit (r : BitVec 16) : BitVec 16 := if r.msb then (r <<< 1) ^^^ 0x1021 else r <<< 1

/-- One byte of the CRC-16. -/
def crcByte (r : BitVec 16) (x : Byte) : BitVec 16 :=
  crcBit (crcBit (crcBit (crcBit (crcBit (crcBit (crcBit (crcBit (r ^^^ (x.zeroExtend 16 <<< 8)))))))))

/-- The CRC-16 of R315: initial value 0xFFFF, no final XOR. -/
def bondCrc (bs : List Byte) : BitVec 16 := bs.foldl crcByte 0xFFFF

/-- A beat's check: its data bytes in ascending order, then its header (R315). -/
def Beat.good (x : Beat) : Bool := bondCrc (pieceBytes x.data 0 64 ++ leOfNat 8 x.header.toNat) == x.crc

/-- One reception of a beat: whether its check passes. -/
def receiveBeat (b : Blk) : Bool × Blk :=
  match b.sys.beats with
  | [] => (true, b)
  | x :: rest => (x.good, { b with sys := { b.sys with beats := rest } })

/-- The receiving tier asks for the beat again: RETRIES and event 0x0D (R315, R317, R475). -/
def reread (b : Blk) : Blk :=
  countEvents { b with sys := { b.sys with
    bondRetries := if b.sys.bondRetries = 0xFFFFFF then b.sys.bondRetries else b.sys.bondRetries + 1 } } 0x0D 0 false 1

/-- A beat that may be received n more times; a beat that failed each time counts in FAILS (R315, R317). -/
def beatGo : Nat → Blk → Bool × Blk
  | 0, b => (false, { b with sys := { b.sys with bondFails := if b.sys.bondFails = 0xFF then b.sys.bondFails else b.sys.bondFails + 1 } })
  | n + 1, b =>
    let r := receiveBeat b
    if r.1 then r else if n = 0 then beatGo n r.2 else beatGo n (reread r.2)

/-- One beat: read, and re-read up to 3 times (R315). False: it failed four times. -/
def beat (b : Blk) : Bool × Blk := beatGo 4 b

/-- k beats of pieces numbered from p: the numbers of those that failed, each logged as kind 7 (R315, R318). -/
def crossing (world : Bool) (addr : Nat → Word) : Nat → Nat → Blk → List Nat × Blk
  | 0, _, b => ([], b)
  | k + 1, p, b =>
    if b.sys.beats.isEmpty then ([], b)
    else
      let r := beat b
      let q := crossing world addr k (p + 1) (if r.1 then r.2 else logErr r.2 5 7 world (addr p))
      (if r.1 then q.1 else p :: q.1, q.2)

/-- k beats of which none may fail: any write, and a read of the Tun, the sync store or the Maltster RAM (R315). Their address in the log is
zero: they have no GPA (log 78). False: one failed, and the block is in fatal state. -/
def tryCross (world : Bool) (k : Nat) (b : Blk) : Bool × Blk :=
  let r := crossing world (fun _ => 0) k 0 b
  if r.1.isEmpty then (true, r.2) else (false, goFatal r.2)

/-- The block after such beats. -/
def mustCross (world : Bool) (k : Nat) (b : Blk) : Blk := (tryCross world k b).2

/-- The instruction stops where the block is in fatal state. -/
def failIfFatal : M Unit := do if (← get).err.fatal then throw .fatal

/-- An operation on the block from within an instruction; the instruction stops when it put the block in fatal state. -/
def liftBlk (f : Blk → α × Blk) : M α := do
  let r := f (← get)
  set r.2
  failIfFatal
  return r.1

/-- An instruction reads or writes rows of the Tun: four beats a row (R315). -/
def tunCross (rows : Nat) : M Unit := liftBlk fun b => ((), mustCross b.core.ps.world (4 * rows) b)

/-- The same for a line or an LTS piece at an address. -/
def mustCrossAt (world : Bool) (addr : Word) (k : Nat) (b : Blk) : Blk :=
  let r := crossing world (fun _ => addr) k 0 b
  if r.1.isEmpty then r.2 else goFatal r.2

end Sys2Proof.Machine
end

