-- ==== Sys2Proof/Machine/LtsOps.lean ====
section
/-! DEFINITION. The local tensor store with its check code (12). -/

namespace Sys2Proof.Machine

/-- The canonical form of a byte memory, the LTS or the Maltster RAM: addresses strictly rising, no byte that reads as an unlisted one. -/
abbrev Memory.wf (m : List Host.Cell) : Bool := Sparse.wf m

/-- In TEST and RETURNED the secure assignment reads and acts as zero (R433). -/
def secureForcedZero (b : Blk) : Bool := b.sys.lcsValid && (b.sys.lcs == 0 || b.sys.lcs == 3)

/-- KZ_LTS_CFG.SEC in force (R312, R433). -/
def effSec (c : Cfg) (b : Blk) : Nat := if secureForcedZero b then 0 else c.ltsSec.toNat

/-- The bytes of the LTS (R309). -/
def ltsSize : Nat := 0x300000

/-- The quarter of an LTS byte offset (R309). -/
def quarterOf (o : Nat) : Nat := (o / 64) % 4

/-- The quarter of an LTS byte offset is available (R312). -/
def quarterOk (c : Cfg) (o : Nat) : Bool := bit c.qen (quarterOf o)

/-- `n` bytes from offset `o` lie in a world's partition (R313). -/
def inPartition (c : Cfg) (b : Blk) (world : Bool) (o n : Nat) : Bool :=
  if world then decide (o + n ≤ 65536 * effSec c b) else decide (65536 * effSec c b ≤ o)

/-- Do the bytes lie in a range the Kiln is wiping (R313, R445)? A reset's wipe covers the whole LTS. -/
def ltsWiping (b : Blk) (o n : Nat) : Bool :=
  (b.sys.kiln.toList ++ b.sys.kilnQueue).any fun w => w.cov.getLsbD 0 || w.cov.getLsbD 1 || w.cov.getLsbD 2 ||
      w.lts.any (fun r => decide (o < r.2) && decide (r.1 < o + n))

/-- The stored 64-bit word `w` of the LTS as it was last written. -/
def ltsWord (b : Blk) (w : Nat) : Word := BitVec.ofNat 64 (natOfLE (Sparse.range b.lts.bytes (8 * w) 8))

/-- A whole-word write: the word is stored with a correct check. -/
def ltsPutWord (b : Blk) (w : Nat) (v : Word) : Blk :=
  { b with lts := { b.lts with bytes := Sparse.setAll b.lts.bytes (8 * w) (leOfNat 8 v.toNat), flips := b.lts.flips.set w 0 } }

/-- Read one LTS word through its SECDED check (R314): none for an uncorrectable word. -/
def ltsReadWord (b : Blk) (w : Nat) : Option Word × Blk :=
  let f := b.lts.flips.get w
  let v := ltsWord b w
  if f = 0 then (some v, b)
  else if popCount f = 1 then (some v, countErr (ltsPutWord b w v))
  else if popCount f = 2 then (none, b)
  else
    let s := Config.multiBitSyndrome f
    if s = 0 then (some (v ^^^ f.truncate 64), b)
    else if s ≤ 72 then
      let r := v ^^^ (f ^^^ BitVec.ofNat 72 (2 ^ (s - 1))).truncate 64
      (some r, countErr (ltsPutWord b w r))
    else (none, b)

/-- One word as its reader gets it: none when its check or the beat that carries it fails (R314, R315). -/
def ltsTakeWord (bad : List Nat) (b : Blk) (w : Nat) : Option Word × Blk := if bad.contains (w / 8) then (none, b) else ltsReadWord b w

/-- Read `n` words from word `w`, the beats of the pieces `bad` having failed: the offset of the first uncorrectable one, if any, beside
the words. -/
def ltsReadWords (world : Bool) (bad : List Nat) : Nat → Nat → Blk → (List Word × Option Nat) × Blk
  | 0, _, b => (([], none), b)
  | n + 1, w, b =>
    match ltsTakeWord bad b w with
    | (some v, b1) =>
      let r := ltsReadWords world bad n (w + 1) b1
      ((v :: r.1.1, r.1.2), r.2)
    | (none, b1) =>
      let r := ltsReadWords world bad n (w + 1) (logErr b1 4 5 world (BitVec.ofNat 64 (8 * w)))
      ((0 :: r.1.1, some (8 * w)), r.2)

/-- The pieces that `n` bytes from offset `o` lie in. -/
def piecesOf (o n : Nat) : Nat := if n = 0 then 0 else (o + n - 1) / 64 + 1 - o / 64

/-- The beats of a read from the LTS: the pieces whose beat failed (R315). -/
def ltsCross (world : Bool) (o n : Nat) (b : Blk) : List Nat × Blk :=
  crossing world (fun p => BitVec.ofNat 64 (64 * p)) (piecesOf o n) (o / 64) b

/-- Read `n` bytes from offset `o` at the banks. -/
def ltsBankRead (world : Bool) (bad : List Nat) (o n : Nat) (b : Blk) : (List Byte × Option Nat) × Blk :=
  if n = 0 then (([], none), b)
  else
    let w := o / 8
    let r := ltsReadWords world bad ((o + n - 1) / 8 + 1 - w) w b
    ((((r.1.1.flatMap (fun v => leOfNat 8 v.toNat)).drop (o % 8)).take n, r.1.2), r.2)

/-- Read `n` bytes from offset `o`: the bytes, and the offset of an uncorrectable word among them (R314, R315). -/
def ltsRead (world : Bool) (o n : Nat) (b : Blk) : (List Byte × Option Nat) × Blk :=
  let x := ltsCross world o n b
  ltsBankRead world x.1 o n x.2

/-- Write bytes into one word at byte `k`: a whole word is encoded afresh; a part reads, merges and re-encodes, and is
dropped when the old word is uncorrectable (R314). Answers whether it was dropped. -/
def ltsWriteWord (world : Bool) (w k : Nat) (bs : List Byte) (b : Blk) : Bool × Blk :=
  if k = 0 && decide (bs.length = 8) then (false, ltsPutWord b w (BitVec.ofNat 64 (natOfLE bs)))
  else match ltsReadWord b w with
    | (some v, b1) =>
      let old := leOfNat 8 v.toNat
      (false, ltsPutWord b1 w (BitVec.ofNat 64 (natOfLE (old.take k ++ bs ++ old.drop (k + bs.length)))))
    | (none, b1) => (true, logErr b1 4 6 world (BitVec.ofNat 64 (8 * w)))

/-- Write bytes from offset `o`, word by word. Answers whether any part was dropped. -/
def ltsWriteGo (world : Bool) : Nat → Nat → List Byte → Blk → Bool × Blk
  | 0, _, _, b => (false, b)
  | n + 1, o, bs, b =>
    if bs.isEmpty then (false, b)
    else
      let k := o % 8
      let r := ltsWriteWord world (o / 8) k (bs.take (8 - k)) b
      let q := ltsWriteGo world n (o + (8 - k)) (bs.drop (8 - k)) r.2
      (r.1 || q.1, q.2)

/-- Write bytes from offset `o` at the banks. -/
def ltsBankWrite (world : Bool) (o : Nat) (bs : List Byte) (b : Blk) : Bool × Blk := ltsWriteGo world bs.length o bs b

/-- The beats of a write to the LTS; one that fails puts the block in fatal state, and nothing is written (R315). -/
def ltsSend (world : Bool) (o n : Nat) (b : Blk) : Bool × Blk :=
  let x := ltsCross world o n b
  if x.1.isEmpty then (true, x.2) else (false, goFatal x.2)

/-- Write bytes from offset `o`. Answers whether any part was dropped. -/
def ltsWrite (world : Bool) (o : Nat) (bs : List Byte) (b : Blk) : Bool × Blk :=
  let x := ltsSend world o bs.length b
  if x.1 then ltsBankWrite world o bs x.2 else (true, x.2)

/-- Write the bytes of a piece under a mask, run by run. -/
def ltsBankWriteMasked (world : Bool) (o : Nat) (data : Piece) (be : Word) (b : Blk) : Bool × Blk :=
  (List.range 8).foldl (fun r i =>
    let m := bits be (8 * i + 7) (8 * i)
    if m = 0 then r
    else if m = 255 then
      let q := ltsWriteWord world (o / 8 + i) 0 (pieceBytes data (8 * i) 8) r.2
      (r.1 || q.1, q.2)
    else match ltsReadWord r.2 (o / 8 + i) with
      | (some v, b1) =>
        let merged := (List.range 8).map fun k => if m.testBit k then lane 8 data (8 * i + k) else lane 8 v k
        (r.1, ltsPutWord b1 (o / 8 + i) (BitVec.ofNat 64 (natOfLE merged)))
      | (none, b1) => (true, logErr b1 4 6 world (BitVec.ofNat 64 (o + 8 * i)))) (false, b)

/-- Write the bytes of one piece under a mask. -/
def ltsWriteMasked (world : Bool) (o : Nat) (data : Piece) (be : Word) (b : Blk) : Bool × Blk :=
  let x := ltsSend world o 64 b
  if x.1 then ltsBankWriteMasked world o data be x.2 else (true, x.2)

end Sys2Proof.Machine
end

