-- ==== Sys2Proof/Machine/Address.lean ====
section
/-! DEFINITION. Global physical addresses, node redirection, routing and region descriptors (11, 17). -/

namespace Sys2Proof.Machine

/-- NODE of a GPA (R266). -/
def nodeOf (a : Word) : BitVec 17 := BitVec.ofNat 17 (bits a 63 47)
/-- Chip-local bits of a GPA (R266). -/
def localOf (a : Word) : Nat := bits a 46 0
/-- A GPA with its NODE replaced. -/
def withNode (a : Word) (n : BitVec 17) : Word := setBits a 63 47 n.toNat

/-- Block space: chip-local bits [46:45] are 0b10 (R266). -/
def inBlockSpace (a : Word) : Bool := decide (bits a 46 45 = 2)
def blockOf (a : Word) : Nat := bits a 44 35
def blockOffset (a : Word) : Nat := bits a 34 0

/-- An unassigned block-space address (R267). -/
def unassigned (a : Word) : Bool := inBlockSpace a && decide (ltsSize ≤ blockOffset a)

/-- This block's LTS window (R267). -/
def inOwnLts (c : Cfg) (a : Word) : Bool :=
  inBlockSpace a && (nodeOf a == c.node) && decide (blockOf a = c.block.toNat) && decide (blockOffset a < ltsSize)

/-- The live table of the epoch under which work runs (R295). -/
def tableFor (b : Blk) (epoch : BitVec 16) : LiveTable :=
  if b.mmu.live.epoch = epoch then b.mmu.live
  else match b.mmu.older with
    | some t => if t.epoch = epoch then t else b.mmu.live
    | none => b.mmu.live

/-- Node redirection of one node by a table (R293). -/
def redirectNode (c : Cfg) (t : LiveTable) (n : BitVec 17) : BitVec 17 :=
  if n = c.node then n
  else
    let e := t.entries.get (n.toNat % 256)
    if bit e 0 && decide (bits e 9 1 = n.toNat / 256) then BitVec.ofNat 17 (bits e 26 10) else n

/-- Node redirection of a GPA (R293). -/
def redirect (c : Cfg) (b : Blk) (epoch : BitVec 16) (a : Word) : Word :=
  withNode a (redirectNode c (tableFor b epoch) (nodeOf a))

/-- Where an access goes (R267). -/
inductive Route where
  | lts (off : Nat)
  | mp
  | fp
deriving DecidableEq, Repr

def route (c : Cfg) (a : Word) : Route :=
  if inOwnLts c a then .lts (blockOffset a % ltsSize)
  else if nodeOf a = c.node then .mp else .fp

/-- Region descriptor n as HI:LO (R436). -/
def rgn (c : Cfg) (n : Nat) : BitVec 64 := c.rgnX.get n ^^^ 0x000C000000000000

def rgnSize (d : BitVec 64) : Nat := bits d 53 48
/-- BASE as a chip-local address. -/
def rgnBase (d : BitVec 64) : Nat := bits d 31 12 * 4096 + bits d 46 32 * 2 ^ 32

/-- Does an address after redirection match a descriptor (R437)? -/
def rgnMatches (c : Cfg) (d : BitVec 64) (a : Word) : Bool :=
  bit d 0 && (bit d 1 || nodeOf a == c.node) && decide (localOf a / 2 ^ rgnSize d = rgnBase d / 2 ^ rgnSize d)

/-- The governing descriptor: the lowest-numbered match (R437). -/
def governing (c : Cfg) (a : Word) : Option Nat := (List.range 32).find? fun n => rgnMatches c (rgn c n) a

/-- What an access needs of its region (R438): read, write, execute. -/
structure Need where
  r : Bool
  w : Bool
  x : Bool
deriving DecidableEq, Repr

def needR : Need := ⟨true, false, false⟩
def needW : Need := ⟨false, true, false⟩
def needX : Need := ⟨false, false, true⟩
def needRW : Need := ⟨true, true, false⟩

/-- The TYPE of the region an access lies in (R436). -/
inductive RegionType where
  | cacheable
  | uncached
  | device
deriving DecidableEq, Repr

/-- The verdict of the region check: the region's type, or a denial with REASON and DESC (R439). -/
inductive RegionVerdict where
  | ok (t : RegionType)
  | deny (reason desc : Nat)
deriving DecidableEq, Repr

/-- The region check of a chip-space address after redirection (R437, R438). `normal`: a device region is denied. -/
def regionCheck (c : Cfg) (a : Word) (world atM : Bool) (need : Need) (normal : Bool) : RegionVerdict :=
  match governing c a with
  | none => if atM then .ok .uncached else .deny 3 0
  | some n =>
    let d := rgn c n
    let base := if world then 4 else 7
    if (need.r && !bit d base) || (need.w && !bit d (base + 1)) || (need.x && !bit d (base + 2)) then .deny 1 n
    else if bits d 3 2 = 0 then .ok .cacheable
    else if bits d 3 2 = 1 then .ok .uncached
    else if normal then .deny 2 n else .ok .device

/-- Does an address after redirection lie in a device region (R436, R437)? -/
def inDeviceRegion (c : Cfg) (a : Word) : Bool :=
  !inBlockSpace a && (match governing c a with | some n => decide (2 ≤ bits (rgn c n) 3 2) | none => false)

/-- Why an access is refused before it leaves the block. -/
inductive Refused where
  /-- region descriptor denial (R439) or an LTS access outside the world's partition (R313, log 16) -/
  | region (reason desc : Nat)
  /-- an LTS quarter that is unavailable (R312) -/
  | quarter
  /-- an unassigned block-space address (R267) -/
  | unassigned
deriving DecidableEq, Repr

/-- How an access that is permitted is made. -/
inductive Path where
  | lts (off : Nat)
  | cached
  | port (fp : Bool) (t : RegionType)
deriving DecidableEq, Repr

/-- The checks of an access of `n` bytes after redirection and its path: block space by its partition and quarter, chip
space by its descriptor (R267, R312, R313, R437). -/
def resolve (c : Cfg) (b : Blk) (a : Word) (n : Nat) (world atM : Bool) (need : Need) (normal : Bool) : Except Refused Path :=
  if inBlockSpace a then
    if unassigned a then .error .unassigned
    else match route c a with
      | .lts o =>
        if !atM && !inPartition c b world o n then .error (.region 1 0)
        else if !(quarterOk c o && quarterOk c (o + n - 1)) then .error .quarter
        else .ok (.lts o)
      | .mp => .ok (.port false .uncached)
      | .fp => .ok (.port true .uncached)
  else match regionCheck c a world atM need normal with
    | .deny r d => .error (.region r d)
    | .ok .cacheable => if nodeOf a = c.node then .ok .cached else .ok (.port true .cacheable)
    | .ok t => .ok (.port (nodeOf a != c.node) t)

/-- DETAIL of the region fault (R439). -/
def regionDetail (access : Nat) (world : Bool) (desc reason : Nat) (walk : Bool) : Nat :=
  access + 4 * world.toNat + 8 * desc + 256 * reason + 1024 * walk.toNat

end Sys2Proof.Machine
end

