-- ==== Sys2Proof/Machine/CacheOps.lean ====
section
/-! DEFINITION. The caches, the prefetch side buffer and the eviction buffer (12). -/

namespace Sys2Proof.Machine

/-- The three caches (R298). -/
inductive CacheId where
  | l1i | l1d | l2
deriving DecidableEq, Repr

def CacheId.ways : CacheId → Nat
  | .l1i => 4
  | .l1d => 8
  | .l2 => 16

/-- The unit number of the error log (R318). -/
def CacheId.unit : CacheId → Nat
  | .l1i => 0
  | .l1d => 1
  | .l2 => 2

/-- The set of a line (GPA divided by 64) (R298). -/
def CacheId.set (c : CacheId) (line : Nat) : Nat :=
  match c with
  | .l1i => line % 256
  | .l1d => line % 128
  | .l2 => line % 4 * 128 + line / 4 % 128

def linesOf (b : Blk) : CacheId → List Line
  | .l1i => b.caches.l1i
  | .l1d => b.caches.l1d
  | .l2 => b.caches.l2

def setLines (b : Blk) (c : CacheId) (ls : List Line) : Blk :=
  match c with
  | .l1i => { b with caches := { b.caches with l1i := ls } }
  | .l1d => { b with caches := { b.caches with l1d := ls } }
  | .l2 => { b with caches := { b.caches with l2 := ls } }

/-- An invalid way. -/
def Line.empty (idx : Nat) : Line :=
  { idx := idx, valid := false, dirty := false, world := false, ref := false, tag := 0, data := 0, perr := false, terr := false,
    serr := false }

def wayAt (ls : List Line) (idx : Nat) : Line := (ls.find? fun l => l.idx == idx).getD (Line.empty idx)

/-- Replace or insert a way, by rising index. -/
def putWay : List Line → Line → List Line
  | [], l => [l]
  | x :: xs, l => if l.idx < x.idx then l :: x :: xs else if l.idx = x.idx then l :: xs else x :: putWay xs l

def putLine (b : Blk) (c : CacheId) (l : Line) : Blk := setLines b c (putWay (linesOf b c) l)

/-- The ways of a set. -/
def waysOf (b : Blk) (c : CacheId) (set : Nat) : List Line :=
  (List.range c.ways).map fun w => wayAt (linesOf b c) (set * c.ways + w)

def lineAddr (tag : Nat) : Word := BitVec.ofNat 64 (64 * tag)

/-- The way that holds a line of a world, if any. -/
def findLine (b : Blk) (c : CacheId) (tag : Nat) (world : Bool) : Option Line :=
  (waysOf b c (c.set tag)).find? fun l => l.valid && l.tag == tag && (l.world == world)

/-- Invalidate a line of a world in one cache, keeping the way's reference bit. -/
def dropLine (b : Blk) (c : CacheId) (tag : Nat) (world : Bool) : Blk :=
  match findLine b c tag world with
  | some l => putLine b c { Line.empty l.idx with ref := l.ref }
  | none => b

/-- A dirty L1D copy is written into its L2 line, and stays clean (R298). -/
def mergeL1d (b : Blk) (tag : Nat) (world : Bool) : Blk :=
  match findLine b .l1d tag world with
  | none => b
  | some l =>
    if !l.dirty then b
    else if l.perr then setFatal b 1 2 world (lineAddr tag)
    else
      let b := mustCrossAt world (lineAddr tag) 1 (putLine b .l1d { l with dirty := false })
      match findLine b .l2 tag world with
      | some m => putLine b .l2 { m with data := l.data, dirty := true, perr := false }
      | none => b

/-- A line in error that reads clean and valid is invalidated (R307), and with an L2 line the copies that the L1s hold of it (R298); where
the L1D holds a dirty copy the L2 way is written from it instead (log 91). -/
def dropBad (b : Blk) (c : CacheId) (l : Line) : Blk :=
  let b := countErr b
  let gone (b : Blk) : Blk := putLine b c { Line.empty l.idx with ref := l.ref }
  if c ≠ .l2 then gone b
  else match findLine b .l1d l.tag l.world with
    | some d =>
      if d.dirty then mergeL1d (putLine b .l2 { l with terr := false }) l.tag l.world
      else gone (dropLine (dropLine b .l1d l.tag l.world) .l1i l.tag l.world)
    | none => gone (dropLine b .l1i l.tag l.world)

/-- The tag and state bits of a way as they are read (R307). -/
def scrubLine (c : CacheId) (b : Blk) (l : Line) : Blk :=
  if b.err.fatal then b
  else if l.serr then setFatal b c.unit 3 l.world (lineAddr l.tag)
  else if l.valid && l.terr then (if l.dirty then setFatal b c.unit 2 l.world (lineAddr l.tag) else dropBad b c l)
  else b

/-- Check the tags and state bits of a set as they are read (R307). -/
def scrubSet (b : Blk) (c : CacheId) (set : Nat) : Blk := (waysOf b c set).foldl (scrubLine c) b

/-- Check the three sets that a line's copies lie in. -/
def scrubFor (b : Blk) (tag : Nat) : Blk :=
  scrubSet (scrubSet (scrubSet b .l1i (CacheId.l1i.set tag)) .l1d (CacheId.l1d.set tag)) .l2 (CacheId.l2.set tag)

/-- The bytes of a line that is read, across the bond interface from the L2 (R307, R315): none when they are in error, the line then being
invalidated, or the block in fatal state where it is dirty. -/
def takeLine (b : Blk) (c : CacheId) (l : Line) : Option Piece × Blk :=
  let r := crossing l.world (fun _ => lineAddr l.tag) (if c = .l2 then 1 else 0) 0 b
  if r.1.isEmpty && !l.perr then (some l.data, r.2)
  else if !l.dirty then (none, dropBad r.2 c l)
  else (none, if l.perr then setFatal r.2 c.unit 2 l.world (lineAddr l.tag) else goFatal r.2)

/-- Look a line up (R298, R307). -/
def lookup (b : Blk) (c : CacheId) (tag : Nat) (world : Bool) : Option Line × Blk :=
  let b := scrubSet b c (c.set tag)
  match findLine b c tag world with
  | none => (none, b)
  | some l =>
    let r := takeLine b c l
    (r.1.map fun _ => l, r.2)

/-- Set the reference bit of a way; when every bit of the set is then 1, clear the others (R299). -/
def touch (b : Blk) (c : CacheId) (l : Line) : Blk :=
  let b := putLine b c { l with ref := true }
  let ws := waysOf b c (c.set l.tag)
  if ws.all (fun x => x.ref) then
    ws.foldl (fun b x => if x.idx = l.idx then b else putLine b c { x with ref := false }) b
  else b

/-- The victim of a fill: the lowest invalid way, else the lowest with reference bit 0 (R299). -/
def victim (b : Blk) (c : CacheId) (set : Nat) : Line :=
  let ws := waysOf b c set
  match ws.find? (fun l => !l.valid) with
  | some l => l
  | none => match ws.find? (fun l => !l.ref) with
    | some l => l
    | none => Line.empty (set * c.ways)

/-- Put a line in a way: a normal fill sets the reference bit, a streaming fill clears it (R299). -/
def place (b : Blk) (c : CacheId) (idx tag : Nat) (world dirty normal : Bool) (data : Piece) : Blk :=
  let l : Line := { idx := idx, valid := true, dirty := dirty, world := world, ref := false, tag := tag, data := data,
                    perr := false, terr := false, serr := false }
  if normal then touch (putLine b c l) c l else putLine b c l

/-- Write a line to the Memory Port as a posted write of its world (R361). -/
def writeBack (c : Cfg) (b : Blk) (tag : Nat) (world : Bool) (data : Piece) (p : Purpose) : Blk :=
  issueReq c false { op := .wr, addr := lineAddr tag, be := BitVec.allOnes 64, operand := 0, data := data, world := world, purpose := p } b

/-- Room for one more line in the eviction buffer (R302). -/
def evictRoom (b : Blk) : Bool := decide (b.caches.evict.length < 8)

/-- The entry of the eviction buffer that a search for a line finds (R302): the one that holds its newest bytes. -/
def evictHit (b : Blk) (tag : Nat) : Option EvLine := b.caches.evict.find? fun e => e.line.tag == tag && e.live

/-- Later bytes of a line have been written to memory, or a maintenance operation has invalidated it: no search finds its entries any more,
whose writes proceed (log 91). -/
def evictStale (b : Blk) (tag : Nat) : Blk :=
  { b with caches := { b.caches with evict := b.caches.evict.map fun e => if e.line.tag = tag then { e with live := false } else e } }

/-- Remove a line from the L2 and, the L2 being inclusive, from the L1s. A dirty line enters the eviction buffer and its
write goes out (R302). The caller has checked that there is room. -/
def evictLine (c : Cfg) (b : Blk) (tag : Nat) (world : Bool) : Blk :=
  let b := mergeL1d (scrubFor b tag) tag world
  let dropL1 (b : Blk) : Blk := dropLine (dropLine b .l1d tag world) .l1i tag world
  if b.err.fatal then b
  else match findLine b .l2 tag world with
    | none => dropL1 b
    | some l =>
      if !l.dirty then dropLine (dropL1 b) .l2 tag world
      else match takeLine b .l2 l with
        | (none, b) => b
        | (some d, b) =>
          let b := writeBack c (evictStale (dropLine (dropL1 b) .l2 tag world) tag) tag world d (.writeback tag)
          { b with caches := { b.caches with evict := b.caches.evict ++
            [{ line := { tag := tag, world := world, data := d, perr := false }, live := true,
               rtag := (b.ports.outMp.getLast?).map fun o => o.rtag.toNat }] } }

/-- Is a line dirty in the L1D or the L2? -/
def dirtyAnywhere (b : Blk) (tag : Nat) (world : Bool) : Bool :=
  (match findLine b .l1d tag world with | some l => l.dirty | none => false) ||
  (match findLine b .l2 tag world with | some l => l.dirty | none => false)

/-- Place a line in the L2, evicting its victim: none when the eviction must wait for room (R302). -/
def fillL2 (c : Cfg) (b : Blk) (tag : Nat) (world dirty normal : Bool) (data : Piece) : Option Blk :=
  let b := scrubSet b .l2 (CacheId.l2.set tag)
  let v := victim b .l2 (CacheId.l2.set tag)
  if b.err.fatal then some b
  else if v.valid && dirtyAnywhere b v.tag v.world && !evictRoom b then none
  else
    let b := if v.valid then evictLine c b v.tag v.world else b
    some (if b.err.fatal then b else place b .l2 v.idx tag world dirty normal data)

/-- Place a line in an L1; a dirty L1D victim is written into the L2 (R298). -/
def fillL1 (b : Blk) (instr : Bool) (tag : Nat) (world dirty : Bool) (data : Piece) : Blk :=
  let id := if instr then CacheId.l1i else CacheId.l1d
  let v := victim b id (id.set tag)
  let b := if v.valid && !instr then mergeL1d b v.tag v.world else b
  place b id v.idx tag world dirty true data

/-- A fill's data arrives (R302): false when an eviction must wait. -/
def fillBoth (c : Cfg) (b : Blk) (instr : Bool) (tag : Nat) (world : Bool) (data : Piece) : Option Blk :=
  (fillL2 c b tag world false true data).map fun b =>
    let b := mustCrossAt world (lineAddr tag) 1 b
    if b.err.fatal then b else fillL1 b instr tag world false data

/-- What a physical access of the core answers. -/
inductive PRes where
  | ok (data : Piece)
  /-- 0 uncorrectable data, 1 error response, 2 timeout (R363) -/
  | bad (kind : Nat)
deriving DecidableEq, Repr


/-- The first response of a kind marked as taken. -/
def useResp (p : CoreResp → Bool) : List CoreResp → List CoreResp
  | [] => []
  | r :: rs => if p r then { r with used := true } :: rs else r :: useResp p rs

/-- The kept response of an access that the instruction makes again in another try (R361, R272): the first that it has not taken in this
one. -/
def takeResp (p : CoreResp → Bool) : M (Option CoreResp) := do
  let q (r : CoreResp) : Bool := !r.used && p r
  match (← get).core.resp.find? q with
  | none => return none
  | some r =>
    modCore fun k => { k with resp := useResp q k.resp }
    return some r

/-- The kept response of an operation at an address. -/
def findResp (op : ReqOp) (addr be : Word) : M (Option CoreResp) := takeResp fun r => r.op == op && r.addr == addr && r.be == be

/-- The outcome of a response: STATUS 0 gives the data (R363, R386). -/
def CoreResp.result (r : CoreResp) : PRes :=
  if r.status = 0 then .ok r.data else if r.status = 2 then .bad 0 else if r.status = 3 then .bad 2 else .bad 1

/-- Is the same request of the core under way? -/
def underWay (b : Blk) (r : Request) : Bool :=
  anyOutst b fun o => o.purpose == r.purpose && o.op == r.op && o.addr == r.addr && o.be == r.be

/-- Issue a request of the core, unless it is under way, and wait for its response. -/
def issueAndWait (c : Cfg) (fp : Bool) (r : Request) : M α := do
  if !underWay (← get) r then modify (issueReq c fp r)
  waitFor .response

/-- Lines to prefetch after a demand miss at `tag` (R300). -/
def prefetchLines (b : Blk) (tag : Nat) (up : Bool) : List Nat :=
  (List.range (bits b.caches.ctl 2 1 + 1)).filterMap fun (i : Nat) =>
    let t : Int := if up then (tag : Int) + (i + 1) else (tag : Int) - (i + 1)
    if decide (0 ≤ t) && decide (t.toNat / 64 = tag / 64) then some t.toNat else none

/-- Is a read for a line already under way? -/
def lineOutstanding (b : Blk) (tag : Nat) : Bool :=
  b.ports.outMp.any fun o => match o.purpose with
    | .fill t _ => t == tag
    | .prefetch t => t == tag
    | _ => false

/-- The prefetcher's requests for a demand L2 miss (R300). -/
def prefetch (c : Cfg) (b : Blk) (tag : Nat) (world : Bool) (permitted : Nat → Bool) : Blk :=
  let go (up : Bool) : Blk := (prefetchLines b tag up).foldl (fun b t =>
    if (findLine b .l2 t true).isSome || (findLine b .l2 t false).isSome || b.caches.side.any (fun l => l.tag == t) || lineOutstanding b t
        || !permitted t then b
    else issueReq c false { op := .rd, addr := lineAddr t, be := BitVec.allOnes 64, operand := 0, data := 0, world := world,
                            purpose := .prefetch t } b) b
  let b' := match b.caches.prevMiss with
    | some (p, _) =>
      if !bit b.caches.ctl 0 || decide (p / 64 ≠ tag / 64) then b
      else if p + 1 = tag then go true else if tag + 1 = p then go false else b
    | none => b
  { b' with caches := { b'.caches with prevMiss := some (tag, world) } }

/-- Invalidate a line in the side buffer, of one world or of either (R300). -/
def dropSide (b : Blk) (tag : Nat) (world : Option Bool) : Blk :=
  { b with caches := { b.caches with side := b.caches.side.filter fun l => l.tag != tag || (match world with | some w => l.world != w | none => false) } }

/-- Bring the line of a cacheable address into an L1 and answer its bytes: hit, L2 hit, eviction buffer, side buffer, or a
fill from the Memory Port that the instruction waits for (R298–R302, R307). -/
def readLine (c : Cfg) (instr : Bool) (tag : Nat) (world : Bool) (permitted : Nat → Bool) : M PRes := do
  let id := if instr then CacheId.l1i else CacheId.l1d
  match ← liftBlk (fun b => lookup b id tag world) with
  | some l =>
    modify fun b => touch b id l
    return .ok l.data
  | none =>
  match ← liftBlk (fun b => lookup b .l2 tag world) with
  | some l =>
    modify fun b => fillL1 (touch (countCore b (if instr then 2 else 1)) .l2 l) instr tag world false l.data
    failIfFatal
    return .ok l.data
  | none =>
  let b ← get
  match b.core.resp.find? (fun r => r.op == .sy && r.addr == lineAddr tag && r.be == 0) with
  | some r => return r.result
  | none =>
  -- the other world's copies are cleaned and invalidated first (R298, R300)
  if dirtyAnywhere b tag (!world) && !evictRoom b then waitFor .other
  liftBlk fun b => ((), dropSide (evictLine c b tag (!world)) tag (some (!world)))
  let b ← get
  let side := b.caches.side.find? fun l => l.tag == tag && (l.world == world)
  let missed (b : Blk) : Blk := prefetch c (countCore (countCore b (if instr then 2 else 1)) 3) tag world permitted
  match evictHit b tag, side with
  | some e, _ =>
    if e.line.perr then
      liftBlk fun b => ((), setFatal b 3 2 world (lineAddr tag))
    match fillL2 c b tag world true true e.line.data with
    | none => waitFor .other
    | some b =>
      let b := mustCrossAt world (lineAddr tag) 1 b
      set (if b.err.fatal then b else fillL1 (missed b) instr tag world false e.line.data)
      failIfFatal
      return .ok e.line.data
  | none, some l =>
    let b := dropSide b tag (some world)
    let r := crossing world (fun _ => lineAddr tag) 1 0 b
    if l.perr || !r.1.isEmpty then
      set (countErr r.2)
      waitFor .other
    else match fillL2 c r.2 tag world false false l.data with
      | none => waitFor .other
      | some b =>
        set (fillL1 (missed b) instr tag world false l.data)
        failIfFatal
        return .ok l.data
  | none, none =>
    if lineOutstanding b tag || b.caches.heldFills.any (fun f => f.1 == tag) then waitFor .response
    set (missed (issueReq c false { op := .rd, addr := lineAddr tag, be := BitVec.allOnes 64, operand := 0, data := 0, world := world,
                                    purpose := .fill tag instr } b))
    waitFor .response

/-- Write bytes into a line that the L1D holds (R298). -/
def storeInL1d (b : Blk) (tag : Nat) (world : Bool) (data : Piece) (be : Word) : Blk :=
  match findLine b .l1d tag world with
  | some l => putLine b .l1d { l with data := mergePiece l.data data be, dirty := true }
  | none => b

/-- Allocate a line as dirty zeros in the L1D and L2, as a normal fill that reads nothing (R305). -/
def zeroLine (c : Cfg) (tag : Nat) (world : Bool) : M Unit := do
  liftBlk fun b => ((), scrubFor b tag)
  let b ← get
  if dirtyAnywhere b tag (!world) && !evictRoom b then waitFor .other
  liftBlk fun b => ((), mustCrossAt world (lineAddr tag) 1 (dropSide (evictLine c b tag (!world)) tag none))
  let b ← get
  match findLine b .l2 tag world with
  | some l => set (touch b .l2 { l with data := 0, dirty := true, perr := false })
  | none => match fillL2 c b tag world true true 0 with
    | none => waitFor .other
    | some b => set b
  failIfFatal
  modify fun b => match findLine b .l1d tag world with
    | some l => touch b .l1d { l with data := 0, dirty := true, perr := false }
    | none => fillL1 b false tag world true 0
  failIfFatal

/-- The main core tries its oldest instruction again. -/
def wakeCore (b : Blk) : Blk :=
  if b.core.blocked = some .response then { b with core := { b.core with blocked := some .other } } else b

/-- The fills and prefetches of lines that are under way, or wait for room, bring bytes from before a DMA write or an invalidation: they are
not allocated, and the main core reads again (R303, R304, R374). -/
def cancelFills (b : Blk) (p : Nat → Bool) : Blk :=
  let of (o : Outst) : Bool := match o.purpose with
    | .fill t _ => p t
    | .prefetch t => p t
    | _ => false
  if b.ports.outMp.any of || b.caches.heldFills.any (fun f => p f.1) then
    wakeCore { b with ports := { b.ports with outMp := b.ports.outMp.map fun o => if of o then { o with purpose := .discard } else o }
                      caches := { b.caches with heldFills := b.caches.heldFills.filter fun f => !p f.1 } }
  else b

/-- Clean a line: its dirty bytes go to the L2 and to the Memory Port, and it stays valid (R304). A buffered copy is invalidated (R300). -/
def cleanLine (c : Cfg) (b : Blk) (tag : Nat) (world : Bool) : Blk :=
  let b := dropSide (mergeL1d (scrubFor b tag) tag world) tag none
  if b.err.fatal then b
  else match findLine b .l2 tag world with
    | some l =>
      if !l.dirty then b
      else match takeLine b .l2 l with
        | (none, b) => b
        | (some d, b) => writeBack c (evictStale (putLine b .l2 { l with dirty := false }) tag) tag world d .posted
    | none => b

/-- Invalidate a line in every cache and the side buffer, discarding dirty bytes; the eviction buffer's copies serve no search any more
(R302, R304, log 91). -/
def invalLine (b : Blk) (tag : Nat) (world : Bool) : Blk :=
  let b := scrubFor b tag
  if b.err.fatal then b
  else
    let b := dropLine (dropLine (dropLine b .l1d tag world) .l1i tag world) .l2 tag world
    cancelFills (evictStale (dropSide b tag none) tag) fun t => t == tag

/-- Clean a line and invalidate it (R304). -/
def flushLine (c : Cfg) (b : Blk) (tag : Nat) (world : Bool) : Blk :=
  let b := cleanLine c b tag world
  if b.err.fatal then b else invalLine b tag world

/-- Clean every line, and invalidate the side buffer (R300, R304, CMO_ALL). -/
def cleanAll (c : Cfg) (b : Blk) : Blk :=
  let b := b.caches.l1d.foldl (scrubLine .l1d) b
  let b := b.caches.l2.foldl (scrubLine .l2) b
  let b := b.caches.l2.foldl (fun b l => if l.valid && !b.err.fatal then cleanLine c b l.tag l.world else b) b
  { b with caches := { b.caches with side := [] } }

/-- Clean and invalidate every line, the side buffer and the L1I included (R304, CMO_ALL). -/
def flushAll (c : Cfg) (b : Blk) : Blk :=
  let b := cleanAll c b
  if b.err.fatal then b
  else
    cancelFills { b with caches := { b.caches with l1i := [], l1d := [], l2 := [], side := []
                                                   evict := b.caches.evict.map fun e => { e with live := false } } } fun _ => true

/-- The bytes of a dirty copy that a DMA or Sparge read of a line takes (R303): L1D, L2 or eviction buffer. -/
def snoopRead (b : Blk) (tag : Nat) : Option Piece × Blk :=
  let b := scrubFor b tag
  let dirtyIn (id : CacheId) : Option Line := (waysOf b id (id.set tag)).find? fun l => l.valid && l.tag == tag && l.dirty
  if b.err.fatal then (none, b)
  else match dirtyIn .l1d with
    | some l => takeLine b .l1d l
    | none => match dirtyIn .l2 with
      | some l => takeLine b .l2 l
      | none => match evictHit b tag with
        | some e =>
          if e.line.perr then (none, setFatal b 3 2 e.line.world (lineAddr tag))
          else
            let b := mustCrossAt e.line.world (lineAddr tag) 1 b
            (if b.err.fatal then none else some e.line.data, b)
        | none => (none, b)

/-- A DMA write to a line: dirty copies go to the eviction buffer and every copy is invalidated. False when the write must
wait, for room or for the acknowledgement of an entry of that line (R302, R303). -/
def snoopWrite (c : Cfg) (b : Blk) (tag : Nat) : Bool × Blk :=
  let gone (b : Blk) : Blk := dropSide (evictLine c (evictLine c b tag true) tag false) tag none
  if b.caches.evict.any (fun e => e.line.tag == tag) then (false, b)
  else if dirtyAnywhere b tag true || dirtyAnywhere b tag false then (false, if evictRoom b then gone b else b)
  else (true, cancelFills (gone b) fun t => t == tag)

end Sys2Proof.Machine
end

