-- ==== Sys2Proof/Machine/PhysMem.lean ====
section
/-! DEFINITION. Physical reads and writes of the main core: LTS, caches, Memory Port and Far Port (11, 12, 14). -/

namespace Sys2Proof.Machine

/-- Wait until power domains are on (R410): a stalled unit changes nothing while it waits. -/
def needPds (ds : List Nat) : M Unit := do
  let b ← get
  let mask := ds.foldl (fun (m : W32) d => setBit m d true) 0
  if ds.all (fun d => pdRuns b d) then pure () else waitFor (.power mask)

/-- The power domain of an LTS offset's quarter (R309, R407). -/
def quarterPd (o : Nat) : Nat := 25 + quarterOf o

/-- Stall while the Kiln wipes the bytes (R313, R445). -/
def ltsReady (o n : Nat) : M Unit := do
  needPds [quarterPd o, quarterPd (o + n - 1)]
  if ltsWiping (← get) o n then waitFor .other

/-- Prefetches are made only of cacheable lines that the world may read (R300). -/
def prefetchOk (c : Cfg) (b : Blk) (world atM : Bool) (need : Need) (line : Nat) : Bool :=
  match resolve c b (lineAddr line) 64 world atM need true with
  | .ok .cached => true
  | _ => false

/-- Read `n` bytes within one 64-byte piece (R309–R311, R361): the piece with the bytes in place. -/
def physRead (c : Cfg) (instr : Bool) (a : Word) (n : Nat) (world atM : Bool) (path : Path) : M PRes := do
  let o := a.toNat % 64
  match path with
  | .lts off =>
    ltsReady off n
    let r ← liftBlk (ltsRead world off n)
    match r.2 with
    | some _ => return .bad 0
    | none => return .ok (pieceOfBytes o r.1)
  | .cached =>
    let b ← get
    readLine c instr (a.toNat / 64) world (prefetchOk c b world atM (if instr then needX else needR))
  | .port fp _ =>
    needPds [18]
    let be := byteMask o n
    let pa := BitVec.ofNat 64 (a.toNat / 64 * 64)
    match ← findResp .rd pa be with
    | some r => return r.result
    | none => issueAndWait c fp { op := .rd, addr := pa, be := be, operand := 0, data := 0, world := world, purpose := .core }

/-- Write bytes within one 64-byte piece (R311, R361): a cached line becomes dirty, a port write is posted. A posted write
that the instruction has made before it waited is not made again. -/
def physWrite (c : Cfg) (a : Word) (bs : List Byte) (world atM : Bool) (path : Path) : M PRes := do
  let o := a.toNat % 64
  let n := bs.length
  match path with
  | .lts off =>
    ltsReady off n
    let _ ← liftBlk (ltsWrite world off bs)
    return .ok 0
  | .cached =>
    let b ← get
    match ← readLine c false (a.toNat / 64) world (prefetchOk c b world atM needR) with
    | .bad k => return .bad k
    | .ok _ =>
      modify fun b => storeInL1d b (a.toNat / 64) world (pieceOfBytes o bs) (byteMask o n)
      return .ok 0
  | .port fp _ =>
    needPds [18]
    let be := byteMask o n
    let pa := BitVec.ofNat 64 (a.toNat / 64 * 64)
    let d := pieceOfBytes o bs
    match ← takeResp (fun r => r.op == .wr && r.addr == pa && r.be == be && r.data == d) with
    | some _ => return .ok 0
    | none =>
      modify (issueReq c fp { op := .wr, addr := pa, be := be, operand := 0, data := d, world := world, purpose := .posted })
      modCore fun k => { k with resp := k.resp ++ [{ op := .wr, addr := pa, be := be, status := 0, data := d, used := true }] }
      return .ok 0

/-- The value of `n` bytes of a piece at an address's offset. -/
def pieceValue (p : Piece) (a : Word) (n : Nat) : Nat := (p.toNat >>> (8 * (a.toNat % 64))) % 2 ^ (8 * n)

/-- The old-to-new function of an atomic (R230): operation codes 0–8 on `w` bits; `cmp` is CAS's compare value. -/
def atomicNew (op : Nat) (w : Nat) (old x cmp : Nat) : Nat :=
  let m := 2 ^ w
  let sOld : Int := (BitVec.ofNat w old).toInt
  let sX : Int := (BitVec.ofNat w x).toInt
  if op = 0 then x % m
  else if op = 1 then (old + x) % m
  else if op = 2 then old &&& (x % m)
  else if op = 3 then old ||| (x % m)
  else if op = 4 then (if sX > sOld then x % m else old)
  else if op = 5 then (if sX < sOld then x % m else old)
  else if op = 6 then (if x % m > old then x % m else old)
  else if op = 7 then (if x % m < old then x % m else old)
  else (if old = cmp % m then x % m else old)

/-- An atomic of `n` bytes (R362): at the LTS bank, in the L1D, or at the far end through a port. Answers the old value. A CAS that finds other
memory stores nothing (R230). -/
def physAtomic (c : Cfg) (op : Nat) (a : Word) (n : Nat) (x cmp : Word) (world atM : Bool) (path : Path) : M PRes := do
  match path with
  | .port fp _ =>
    needPds [18]
    let be := BitVec.ofNat 64 (op + (if n = 4 then 16 else 0))
    match ← findResp .at a be with
    | some r => return r.result
    | none => issueAndWait c fp { op := .at, addr := a, be := be, operand := x.truncate 64, data := if op = 8 then cmp.zeroExtend 512 else 0,
                                  world := world, purpose := .core }
  | p =>
    match ← physRead c false a n world atM p with
    | .bad k => return .bad k
    | .ok d =>
      let old := pieceValue d a n
      if op = 8 && old ≠ cmp.toNat % 2 ^ (8 * n) then return .ok (BitVec.ofNat 512 old)
      match ← physWrite c a (leOfNat n (atomicNew op (8 * n) old x.toNat cmp.toNat)) world atM p with
      | .bad k => return .bad k
      | .ok _ => return .ok (BitVec.ofNat 512 old)

end Sys2Proof.Machine
end

