-- ==== Sys2Proof/Machine/Translate.lean ====
section
/-! DEFINITION. Address translation: walks, TLBs, permission checks and A/D updates of the main core (11). -/

namespace Sys2Proof.Machine

/-- The kinds of access, with the ACCESS code of R273. -/
inductive Acc where
  | fetch | load | store | atomic
deriving DecidableEq, Repr

def Acc.code : Acc → Nat
  | .fetch => 0
  | .load => 1
  | .store => 2
  | .atomic => 3

def Acc.writes : Acc → Bool
  | .store => true
  | .atomic => true
  | _ => false

def Acc.need : Acc → Need
  | .fetch => needX
  | .load => needR
  | .store => needW
  | .atomic => needRW

/-- A translation context (R277, R323). -/
structure TCtx where
  kind : TlbKind
  level : BitVec 2
  vmid : BitVec 16
  asid : BitVec 16
  had : Bool
  s1lo : Word
  s1hi : Word
  s2root : Word
deriving DecidableEq, Repr

/-- The main core's context at a level and world (R275–R277). -/
def coreCtx (b : Blk) (level : BitVec 2) (world : Bool) : TCtx :=
  let t := if world then b.mmu.ts else b.mmu.tn
  { kind := if level = 2 then .machine else .world world, level := level, vmid := t.vmid.truncate 16, asid := t.tctl.truncate 16,
    had := level != 2 && bit t.tctl 16, s1lo := t.s1lo, s1hi := t.s1hi, s2root := t.s2root }

/-- Canonical virtual address (R269). -/
def canonical (va : Word) : Bool := decide (bits va 63 47 = 0) || decide (bits va 63 47 = 0x1FFFF)

/-- A walk's failure (R273). -/
structure WalkFail where
  stage2 : Bool
  level : Nat
  reason : Nat
  walk : Bool
  ipa : Word
deriving DecidableEq, Repr

/-- DETAIL of a translation fault (R273). -/
def WalkFail.detail (f : WalkFail) (access : Nat) : Nat :=
  access + 4 * f.stage2.toNat + 8 * f.level + 32 * f.reason + 1024 * f.walk.toNat

/-- The page sizes' log2 by level (R271). -/
def leafSize (level : Nat) : Nat := if level = 0 then 39 else if level = 1 then 30 else if level = 2 then 21 else 12

/-- Who reads a table: the running context of the instruction that walks, and the virtual address a fault names. -/
structure Reader where
  world : Bool
  atM : Bool
  va : Word
  access : Nat
deriving DecidableEq, Repr

/-- Read a table entry (R272): its value, or the reason of the fault. A device region gives its reason before its permissions are looked at;
a region denial and an unavailable quarter raise their own exceptions (R438, R439, log 17). -/
def readEntry (c : Cfg) (rd : Reader) (a : Word) : M (Except Nat Word) := do
  let b ← get
  let a := redirect c b b.rings.epCore a
  if inDeviceRegion c a then return .error 8
  match resolve c b a 8 rd.world rd.atM needR false with
  | .error .unassigned => return .error 11
  | .error (.region r d) => raise 0x0D (regionDetail rd.access rd.world d r true) rd.va
  | .error .quarter => raise 0x0E 4 rd.va
  | .ok p =>
    match ← physRead c false a 8 rd.world rd.atM p with
    | .ok d => return .ok (BitVec.ofNat 64 (pieceValue d a 8))
    | .bad 0 => return .error 9
    | .bad _ => return .error 10

/-- Does an entry break a legal value of R270? `s1` is true for stage 1. -/
def entryIllegal (e : Word) (s1 : Bool) (level : Nat) : Bool :=
  let table := bit e 1
  bit e 9 || (table && (level == 3 || bit e 2 || bit e 3 || bit e 4)) || (!table && bit e 3 && !bit e 2) ||
  ((bit e 5 || bit e 6 || bit e 7 || bit e 8) && (table || !s1)) || (s1 && decide (bits e 63 52 ≠ 0))

def oaOf (e : Word) : Word := BitVec.ofNat 64 (e.toNat / 4096 * 4096)

/-- A leaf found by a walk. -/
structure Leaf where
  e : Word
  level : Nat
  /-- the GPA its descriptor was read at -/
  at_ : Word
deriving DecidableEq, Repr

/-- What one entry says: go on to a table, a leaf, or a fault's reason (R272). -/
def stepEntry (e : Word) (s1 : Bool) (level : Nat) (a : Word) : Except Nat (Word ⊕ Leaf) :=
  if !bit e 0 then .error 1
  else if entryIllegal e s1 level then .error 2
  else if bit e 1 then .ok (.inl (oaOf e))
  else if (oaOf e).toNat % 2 ^ leafSize level ≠ 0 then .error 3
  else .ok (.inr { e := e, level := level, at_ := a })

/-- Single-stage walk (stage 2 or machine): `n` levels remain from `level`. -/
def walkGo (c : Cfg) (rd : Reader) (stage2 : Bool) (idx : Nat → Nat) : Nat → Nat → Word → M (Except (Nat × Nat) Leaf)
  | 0, level, _ => return .error (level, 2)
  | n + 1, level, t => do
    let a := t + BitVec.ofNat 64 (8 * idx level)
    match ← readEntry c rd a with
    | .error r => return .error (level, r)
    | .ok e =>
      match stepEntry e false level a with
      | .error r => return .error (level, r)
      | .ok (.inl t') => walkGo c rd stage2 idx n (level + 1) t'
      | .ok (.inr l) => return .ok l

/-- Index fields of R271. -/
def idxStage1 (x : Word) (level : Nat) : Nat :=
  if level = 0 then bits x 46 39 else if level = 1 then bits x 38 30 else if level = 2 then bits x 29 21 else bits x 20 12
def idxStage2 (x : Word) (level : Nat) : Nat :=
  if level = 0 then bits x 51 39 else idxStage1 x level
def idxMachine (x : Word) (level : Nat) : Nat :=
  if level = 0 then bits x 47 39 else idxStage1 x level

/-- Stage 2 walk of an IPA: the GPA and the leaf (R272). -/
def walk2 (c : Cfg) (rd : Reader) (t : TCtx) (ipa : Word) (nested : Bool) : M (Except WalkFail (Word × Leaf)) := do
  let root := BitVec.ofNat 64 (t.s2root.toNat / 65536 * 65536)
  match ← walkGo c rd true (idxStage2 ipa) 4 0 root with
  | .error (level, r) => return .error { stage2 := true, level := level, reason := r, walk := nested, ipa := ipa }
  | .ok l => return .ok (oaOf l.e + BitVec.ofNat 64 (ipa.toNat % 2 ^ leafSize l.level), l)

/-- Stage 1 walk (R272): every table address passes stage 2 first. -/
def walk1Go (c : Cfg) (rd : Reader) (t : TCtx) (va : Word) : Nat → Nat → Word → M (Except WalkFail Leaf)
  | 0, level, _ => return .error { stage2 := false, level := level, reason := 2, walk := false, ipa := 0 }
  | n + 1, level, tbl => do
    match ← walk2 c rd t (tbl + BitVec.ofNat 64 (8 * idxStage1 va level)) true with
    | .error f => return .error f
    | .ok (a, _) =>
      match ← readEntry c rd a with
      | .error r => return .error { stage2 := false, level := level, reason := r, walk := false, ipa := 0 }
      | .ok e =>
        match stepEntry e true level a with
        | .error r => return .error { stage2 := false, level := level, reason := r, walk := false, ipa := 0 }
        | .ok (.inl t') => walk1Go c rd t va n (level + 1) t'
        | .ok (.inr l) => return .ok l

/-- The combined entry of both stages (R272, R278). -/
def combine (t : TCtx) (va : Word) (l1 l2 : Leaf) (ipa gpa : Word) : TlbEntry :=
  let s := Nat.min (leafSize l1.level) (leafSize l2.level)
  let page (x : Word) : Word := BitVec.ofNat 64 (x.toNat / 2 ^ s * 2 ^ s)
  { kind := t.kind, vmid := t.vmid, asid := t.asid, g := bit l1.e 8, size := s, va := page va, out := page gpa, ipa := page ipa,
    l1 := BitVec.ofNat 2 l1.level, r1 := bit l1.e 2, w1 := bit l1.e 3, x1 := bit l1.e 4, u1 := bit l1.e 5,
    l2 := BitVec.ofNat 2 l2.level, r2 := bit l2.e 2, w2 := bit l2.e 3, x2 := bit l2.e 4, leafAddr := l1.at_, leaf := l1.e }

/-- `translate` of R272 for a U or S context. -/
def walkWorld (c : Cfg) (rd : Reader) (t : TCtx) (va : Word) : M (Except WalkFail TlbEntry) := do
  if !canonical va then return .error { stage2 := false, level := 0, reason := 7, walk := false, ipa := 0 }
  let root := BitVec.ofNat 64 (bits (if bit va 47 then t.s1hi else t.s1lo) 51 12 * 4096)
  match ← walk1Go c rd t va 4 0 root with
  | .error f => return .error f
  | .ok l1 =>
    let ipa := oaOf l1.e + BitVec.ofNat 64 (va.toNat % 2 ^ leafSize l1.level)
    match ← walk2 c rd t ipa false with
    | .error f => return .error f
    | .ok (gpa, l2) => return .ok (combine t va l1 l2 ipa gpa)

/-- The machine walk (R271, R275). -/
def walkMachine (c : Cfg) (rd : Reader) (mroot va : Word) : M (Except WalkFail TlbEntry) := do
  if !canonical va then return .error { stage2 := false, level := 0, reason := 7, walk := false, ipa := 0 }
  match ← walkGo c rd false (idxMachine va) 4 0 (oaOf mroot) with
  | .error (level, r) => return .error { stage2 := false, level := level, reason := r, walk := false, ipa := 0 }
  | .ok l =>
    let s := leafSize l.level
    return .ok { kind := .machine, vmid := 0, asid := 0, g := false, size := s,
                 va := BitVec.ofNat 64 (va.toNat / 2 ^ s * 2 ^ s), out := oaOf l.e, ipa := 0, l1 := BitVec.ofNat 2 l.level,
                 r1 := bit l.e 2, w1 := bit l.e 3, x1 := bit l.e 4, u1 := false, l2 := 0, r2 := true, w2 := true, x2 := true,
                 leafAddr := l.at_, leaf := l.e }

/-- Does an entry match an access (R278)? -/
def TlbEntry.hits (e : TlbEntry) (t : TCtx) (va : Word) : Bool :=
  e.kind == t.kind && (t.kind == .machine || (e.vmid == t.vmid && (e.asid == t.asid || e.g))) &&
    decide (va.toNat / 2 ^ e.size = e.va.toNat / 2 ^ e.size)

/-- The matching slot with the smallest page, the most recently written among equals (R279). -/
def bestSlot (ss : List TlbSlot) (t : TCtx) (va : Word) : Option TlbSlot :=
  ss.foldl (fun best s =>
    if !s.e.hits t va then best
    else match best with
      | none => some s
      | some m => if s.e.size < m.e.size || (s.e.size == m.e.size && decide (m.seq < s.seq)) then some s else some m) none

/-- Remove from the three TLBs the entries written under a sequence number (R278: the L2 TLB is inclusive). -/
def dropSeq (m : Mmu) (seq : Nat) : Mmu :=
  { m with itlb := m.itlb.filter fun s => s.seq != seq
           dtlb := m.dtlb.filter fun s => s.seq != seq
           l2tlb := m.l2tlb.filter fun s => s.seq != seq }

/-- Copy an L2 TLB entry into the ITLB (32) or DTLB (48): the least recently filled leaves a full one (R280). -/
def fillL1Tlb (m : Mmu) (fetch : Bool) (s : TlbSlot) : Mmu :=
  let push (xs : List TlbSlot) (n : Nat) : List TlbSlot := (if xs.length < n then xs else xs.drop 1) ++ [s]
  if fetch then { m with itlb := push m.itlb 32 } else { m with dtlb := push m.dtlb 48 }

/-- The L2 TLB set of an entry (R280). -/
def tlbSet (e : TlbEntry) : Nat := e.va.toNat / 2 ^ e.size % 256

/-- TLBW's placement (R280). -/
def tlbWrite (m : Mmu) (e : TlbEntry) : Mmu :=
  let set := tlbSet e
  let slots := m.l2tlb.filter fun s => s.idx / 8 == set
  let same := slots.find? fun s => s.e.kind == e.kind && s.e.vmid == e.vmid && s.e.asid == e.asid && s.e.g == e.g &&
    s.e.va == e.va && s.e.size == e.size
  let freeWay := (List.range 8).find? fun w => !slots.any fun s => s.idx == 8 * set + w
  let idx := match same with
    | some s => s.idx
    | none => match freeWay with
      | some w => 8 * set + w
      | none => 8 * set + (m.rr.get set).toNat
  let m1 := match m.l2tlb.find? (fun s => s.idx == idx) with
    | some s => dropSeq m s.seq
    | none => m
  let rr := if same.isNone && freeWay.isNone then m.rr.set set (m.rr.get set + 1) else m.rr
  { m1 with l2tlb := m1.l2tlb ++ [{ idx := idx, seq := m.seq, e := e }], seq := m.seq + 1, rr := rr }

/-- The entry that serves an access of the main core: ITLB or DTLB, then the L2 TLB (R279). -/
def tlbFind (b : Blk) (t : TCtx) (fetch : Bool) (va : Word) : Option TlbSlot × Blk :=
  match bestSlot (if fetch then b.mmu.itlb else b.mmu.dtlb) t va with
  | some s => (some s, b)
  | none =>
    match bestSlot b.mmu.l2tlb t va with
    | some s => (some s, { b with mmu := fillL1Tlb b.mmu fetch s })
    | none => (none, countCore b 4)

/-- The GPA of an access through an entry. -/
def TlbEntry.gpa (e : TlbEntry) (va : Word) : Word := e.out + BitVec.ofNat 64 (va.toNat % 2 ^ e.size)
def TlbEntry.ipaOf (e : TlbEntry) (va : Word) : Word := e.ipa + BitVec.ofNat 64 (va.toNat % 2 ^ e.size)

/-- The checks of R274 for an access at `va`: none when all pass, else the failure at the leaf's level. -/
def permFail (e : TlbEntry) (level : BitVec 2) (had : Bool) (acc : Acc) (va : Word) : Option WalkFail :=
  let ok (r w x : Bool) : Bool := match acc with
    | .fetch => x
    | .load => r
    | .store => w
    | .atomic => r && w
  let s1ok := ok e.r1 e.w1 e.x1 && !(level == 0 && !e.u1) && !(level == 1 && acc == .fetch && e.u1)
  let machine := e.kind == .machine
  let f (stage2 : Bool) (lv : BitVec 2) (r : Nat) : Option WalkFail :=
    some { stage2 := stage2, level := lv.toNat, reason := r, walk := false, ipa := 0 }
  if !s1ok then f false e.l1 4
  else if !machine && !had && !bit e.leaf 6 then f false e.l1 5
  else if !machine && !had && acc.writes && !bit e.leaf 7 then f false e.l1 6
  else if !machine && !ok e.r2 e.w2 e.x2 then f true e.l2 4
  else if unassigned (e.gpa va) then f (!machine) (if machine then e.l1 else e.l2) 11
  else none

/-- The cause of a translation fault of the main core (R247, R273). -/
def raiseWalk (f : WalkFail) (acc : Acc) (va : Word) : M α :=
  throw (.trap { cause := if f.stage2 then 0x0C else if acc = .fetch then 0x0A else 0x0B,
                 detail := BitVec.ofNat 16 (f.detail acc.code), faddr := va, fault := .none, wlevel := none,
                 ipa := if f.stage2 then some f.ipa else none, keep := false })

/-- A TLB miss of the main core (R279). -/
def raiseMiss (acc : Acc) (va : Word) : M α := raise (if acc = .fetch then 8 else 9) acc.code va

/-- Record a leaf's new value in every copy of an entry (R285). -/
def setLeaf (m : Mmu) (seq : Nat) (v : Word) : Mmu :=
  let up (ss : List TlbSlot) : List TlbSlot := ss.map fun s => if s.seq = seq then { s with e := { s.e with leaf := v } } else s
  { m with itlb := up m.itlb, dtlb := up m.dtlb, l2tlb := up m.l2tlb }

/-- The accessed and dirty update of the main core (R285). -/
def updateFlags (c : Cfg) (s : TlbSlot) (acc : Acc) (rd : Reader) (va : Word) : M Unit := do
  let want : Word := setBit s.e.leaf 6 true
  let want := if acc.writes then setBit want 7 true else want
  if want = s.e.leaf then return ()
  let b ← get
  let a := redirect c b b.rings.epCore s.e.leafAddr
  let fail (r : Nat) : M Unit := raiseWalk { stage2 := false, level := s.e.l1.toNat, reason := r, walk := false, ipa := 0 } acc va
  if inDeviceRegion c a then fail 8
  match resolve c b a 8 rd.world rd.atM needRW false with
  | .error .unassigned => fail 11
  | .error (.region r d) => raise 0x0D (regionDetail acc.code rd.world d r true) va
  | .error .quarter => raise 0x0E 4 va
  | .ok p =>
    match ← physAtomic c 8 a 8 want s.e.leaf rd.world rd.atM p with
    | .bad 0 => fail 9
    | .bad _ => fail 10
    | .ok old =>
      if pieceValue old 0 8 = s.e.leaf.toNat then modMmu fun m => setLeaf m s.seq want
      else
        modMmu fun m => dropSeq m s.seq
        raiseMiss acc va

/-- Translate a main core access made at a level and world (R274, R275, R279, R285): the GPA before redirection. -/
def translateCore (c : Cfg) (acc : Acc) (level : BitVec 2) (world : Bool) (va : Word) : M Word := do
  let b ← get
  if level = 2 && !bit b.mmu.mroot 0 then
    let f (r : Nat) : M Word := raiseWalk { stage2 := false, level := 0, reason := r, walk := false, ipa := 0 } acc va
    if !canonical va then f 7
    else if bit va 47 then f 12
    else
      let a := withNode (BitVec.ofNat 64 (localOf va)) c.node
      if unassigned a then f 11 else return a
  else
    let t := coreCtx b level world
    match ← liftBlk (fun b => tlbFind b t (acc == .fetch) va) with
    | none => raiseMiss acc va
    | some s =>
      match permFail s.e level t.had acc va with
      | some f => raiseWalk { f with ipa := s.e.ipaOf va } acc va
      | none =>
        if t.had then updateFlags c s acc { world := world, atM := false, va := va, access := acc.code } va
        return s.e.gpa va

end Sys2Proof.Machine
end

