-- ==== Sys2Proof/Machine/Operands.lean ====
section
/-! DEFINITION. Operands of the main core: integer and FP registers, and memory operands (09, 14). -/

namespace Sys2Proof.Machine

/-- Service mode: CR_SVC.BANKS is not 0 (R233). -/
def Core.svc (k : Core) : Bool := k.svcBanks != 0

/-- The storage entry that a 5-bit register field names (R218, R219, R223, R234). -/
def regIdx (k : Core) (n : BitVec 5) : Nat :=
  let n := n.toNat
  if k.svc then 32 * k.svcTask.toNat + n
  else if n < 8 then n
  else if n < 16 then 16 + 8 * (2 * k.cwp.toNat) + n % 8
  else if n < 24 then (if k.frozen then 8 + n % 8 else 16 + 8 * (2 * k.cwp.toNat + 1) + n % 8)
  else 16 + 8 * ((2 * k.cwp.toNat + 2) % 254) + n % 8

/-- Read an integer register. -/
def Core.reg (k : Core) (n : BitVec 5) : Word := k.regs.get (regIdx k n)

/-- The core with an integer register written: no register reads as a constant (R218). -/
def Core.setReg (k : Core) (n : BitVec 5) (v : Word) : Core := { k with regs := k.regs.set (regIdx k n) v }

def readReg (n : BitVec 5) : M Word := do return (← get).core.reg n
def writeReg (n : BitVec 5) (v : Word) : M Unit := modCore fun k => k.setReg n v

/-- FP register reads: a B32 operand ignores bits [63:32] (R226). -/
def readF (n : BitVec 5) : M Word := do return (← get).core.fregs.get n.toNat

/-- Write an FP register and mark its group dirty (R226, R227). -/
def Core.setF (k : Core) (n : BitVec 5) (v : Word) : Core :=
  { k with fregs := k.fregs.set n.toNat v, fdirty := setBit k.fdirty (n.toNat / 8) true }
def writeF (n : BitVec 5) (v : Word) : M Unit := modCore fun k => k.setF n v

/-- The format that D selects (R231). -/
def fpFmt (d : Bool) : Fmt := if d then .b64 else .b32

/-- The operand of format D in an f register. -/
def readFp (d : Bool) (n : BitVec 5) : M Nat := do return (← readF n).toNat % 2 ^ (fpFmt d).width

/-- Write a result of format D: a B32 result writes bits [63:32] as zero (R226). -/
def writeFp (n : BitVec 5) (v : Nat) : M Unit := writeF n (BitVec.ofNat 64 v)

/-- The running level and world. -/
def ctxOf (b : Blk) : BitVec 2 × Bool := (b.core.ps.level, b.core.ps.world)

/-- A failed access raises cause 0x15 (R363); CR_RSTAT.LKIND is recorded as the exception is taken. -/
def accessFail (what kind : Nat) (va : Word) : M α := raise 0x15 (what + 4 * kind) va

/-- Translate, redirect and check one access of `n` bytes within a piece, made at a level and world: its GPA and path. -/
def locate (c : Cfg) (acc : Acc) (level : BitVec 2) (world : Bool) (va : Word) (n : Nat) (normal : Bool) : M (Word × Path) := do
  let g ← translateCore c acc level world va
  let b ← get
  let a := redirect c b b.rings.epCore g
  match resolve c b a n world (level == 2) acc.need normal with
  | .ok p => return (a, p)
  | .error (.region r d) => raise 0x0D (regionDetail acc.code world d r false) va
  | .error .quarter => raise 0x0E 4 va
  | .error .unassigned =>
    raiseWalk { stage2 := level != 2, level := 0, reason := 11, walk := false, ipa := 0 } acc va

/-- Load `n` bytes within a piece at a level and world. -/
def loadAt (c : Cfg) (level : BitVec 2) (world : Bool) (va : Word) (n : Nat) (normal : Bool) : M Nat := do
  let (a, p) ← locate c .load level world va n normal
  match ← physRead c false a n world (level == 2) p with
  | .ok d => return pieceValue d a n
  | .bad k => accessFail 1 k va

/-- Store bytes within a piece at a level and world. -/
def storeAt (c : Cfg) (level : BitVec 2) (world : Bool) (va : Word) (bs : List Byte) (normal : Bool) : M Unit := do
  let (a, p) ← locate c .store level world va bs.length normal
  match ← physWrite c a bs world (level == 2) p with
  | .ok _ => return ()
  | .bad k => accessFail 1 k va

/-- A scalar load of the running context: natural alignment (R217). -/
def load (c : Cfg) (va : Word) (n : Nat) : M Nat := do
  check (va.toNat % n == 0) (raise 4 1 va)
  let (l, w) := ctxOf (← get)
  loadAt c l w va n false

/-- A scalar store of the running context: natural alignment (R217). -/
def store (c : Cfg) (va : Word) (n : Nat) (v : Nat) : M Unit := do
  check (va.toNat % n == 0) (raise 4 2 va)
  let (l, w) := ctxOf (← get)
  storeAt c l w va (leOfNat n v) false

/-- An atomic of the running context (R230, R362). -/
def atomic (c : Cfg) (op : Nat) (va : Word) (n : Nat) (x cmp : Word) : M Nat := do
  check (va.toNat % n == 0) (raise 4 2 va)
  let (l, w) := ctxOf (← get)
  let (a, p) ← locate c .atomic l w va n false
  match ← physAtomic c op a n x cmp w (l == 2) p with
  | .ok d => return d.toNat % 2 ^ (8 * n)
  | .bad k => accessFail 1 k va

/-- Fetch one instruction word: PC alignment, translation, region check, the L1I or a port read (R217, R297, R438). -/
def fetchWord (c : Cfg) (pc : Word) : M W32 := do
  check (pc.toNat % 4 == 0) (raise 4 0 pc)
  let (l, w) := ctxOf (← get)
  let (a, p) ← locate c .fetch l w pc 4 true
  match ← physRead c true a 4 w (l == 2) p with
  | .ok d => return BitVec.ofNat 32 (pieceValue d a 4)
  | .bad k => accessFail 0 k pc

/-- A reserved encoding is an illegal operand of the unit whose encoding it is (R3): R243, R78, R158, R209. -/
def refuseReserved (d : Decoded) : M Unit :=
  match d with
  | .instr _ => pure ()
  | .core => coreFault 1
  | .tile => tileFault 1 0 0
  | .vector => vecFault 1 0
  | .sync => chainFault 0x10 0

/-- Store a byte string that may cross pieces, piece by piece (R242's save areas, spill images). -/
def storeBytes (c : Cfg) (level : BitVec 2) (world : Bool) (normal : Bool) : Nat → Word → List Byte → M Unit
  | 0, _, _ => return ()
  | n + 1, va, bs => do
    if bs.isEmpty then return ()
    let k := 64 - va.toNat % 64
    storeAt c level world va (bs.take k) normal
    storeBytes c level world normal n (va + BitVec.ofNat 64 k) (bs.drop k)

/-- Load `n` bytes that may cross pieces, piece by piece. -/
def loadBytes (c : Cfg) (level : BitVec 2) (world : Bool) (normal : Bool) : Nat → Word → Nat → M (List Byte)
  | 0, _, _ => return []
  | f + 1, va, n => do
    if n = 0 then return []
    let k := Nat.min n (64 - va.toNat % 64)
    let v ← loadAt c level world va k normal
    let rest ← loadBytes c level world normal f (va + BitVec.ofNat 64 k) (n - k)
    return leOfNat k v ++ rest

end Sys2Proof.Machine
end

