-- ==== Sys2Proof/Machine/Except.lean ====
section
/-! DEFINITION. Register windows, taking an exception, and returning from one (09, 10). -/

namespace Sys2Proof.Machine

/-- FREE of R219. -/
def Core.free (k : Core) : Nat := 125 - k.res.toNat

/-- The window slot `d` below the current one. -/
def slotBelow (k : Core) (d : Nat) : Nat := (k.cwp.toNat + 127 - d) % 127

def byLevel (x : ByLevel α) (l : BitVec 2) : α := if l = 0 then x.u else if l = 1 then x.s else x.m
def setByLevel (x : ByLevel α) (l : BitVec 2) (v : α) : ByLevel α :=
  if l = 0 then { x with u := v } else if l = 1 then { x with s := v } else { x with m := v }

/-- The world in which a window of a level is spilled and filled: M is secure; below M it is the world of the U and S context,
which UWORLD names at M (R244, log 18). -/
def windowWorld (k : Core) (l : BitVec 2) : Bool := if l = 2 then true else if k.ps.level = 2 then k.ps.uworld else k.ps.world

/-- The 128-byte image of the window in a slot: its a and k groups (R221). -/
def windowImage (k : Core) (slot : Nat) : List Byte :=
  ((Sparse.range k.regs (16 + 16 * slot) 16)).flatMap fun v => leOfNat 8 v.toNat

/-- The 64-bit values of a byte string. -/
def wordsOf : Nat → List Byte → List Word
  | 0, _ => []
  | n + 1, bs => BitVec.ofNat 64 (natOfLE (bs.take 8)) :: wordsOf n (bs.drop 8)

/-- Spill the oldest resident window (R222). -/
def spillOldest (c : Cfg) : M Unit := do
  let k ← getCore
  let slot := slotBelow k k.res.toNat
  let l := k.wlevel.get slot
  let a := byLevel k.wspill l - 128
  storeBytes c l (windowWorld k l) false 3 a (windowImage k slot)
  modCore fun k => { k with wspill := setByLevel k.wspill l a, wcnt := setByLevel k.wcnt l (byLevel k.wcnt l + 1), res := k.res - 1 }
  modify fun b => countEvents b 0x0F l (windowWorld k l) 1

/-- The highest level whose count is nonzero (R222). -/
def fillLevel (k : Core) : Option (BitVec 2) :=
  if k.wcnt.m ≠ 0 then some 2 else if k.wcnt.s ≠ 0 then some 1 else if k.wcnt.u ≠ 0 then some 0 else none

/-- Fill the window below the oldest resident one from a level's stack (R222). -/
def fillOne (c : Cfg) (l : BitVec 2) : M Unit := do
  let k ← getCore
  let slot := slotBelow k (k.res.toNat + 1)
  let a := byLevel k.wspill l
  let bs ← loadBytes c l (windowWorld k l) false 3 a 128
  modCore fun k => { k with regs := Sparse.setAll k.regs (16 + 16 * slot) (wordsOf 16 bs)
                            wspill := setByLevel k.wspill l (a + 128), wcnt := setByLevel k.wcnt l (byLevel k.wcnt l - 1)
                            res := k.res + 1, wlevel := k.wlevel.set slot l }
  modify fun b => countEvents b 0x10 l (windowWorld k l) 1

/-- The window-spill fault (R223, R247): raised at the level of the oldest resident window. -/
def raiseSpill (k : Core) (addr : Word) : M α :=
  throw (.trap { cause := 0x13, detail := 0, faddr := addr, fault := .none, wlevel := some (k.wlevel.get (slotBelow k k.res.toNat)),
                 ipa := none, keep := false })

/-- The window-fill fault (R220, R223, R247). -/
def raiseFill (reason : Nat) (l : Option (BitVec 2)) (addr : Word) : M α :=
  throw (.trap { cause := 0x14, detail := BitVec.ofNat 16 reason, faddr := addr, fault := .none, wlevel := l, ipa := none, keep := false })

/-- Advance the window (R220): with no free slot the oldest window is spilled first, and a spill that faults raises the
window-spill fault. -/
def advance (c : Cfg) (level : BitVec 2) : M Unit := do
  let k ← getCore
  if k.free = 0 then
    if k.spfault then raiseSpill k k.spAddr
    try spillOldest c
    catch
      | .trap t => raiseSpill k t.faddr
      | e => throw e
  modCore fun k =>
    let cwp : BitVec 7 := BitVec.ofNat 7 ((k.cwp.toNat + 1) % 127)
    let res := k.res + 1
    let w := cwp.toNat
    { k with cwp := cwp, res := res
             flfault := k.flfault && decide (res.toNat < 2)
             regs := (k.regs.clear (16 + 8 * (2 * w + 1)) (24 + 8 * (2 * w + 1))).clear (16 + 8 * ((2 * w + 2) % 254))
               (24 + 8 * ((2 * w + 2) % 254))
             wlevel := k.wlevel.set w level }

/-- Retreat the window (R220): with none resident it is filled first. -/
def retreat (c : Cfg) : M Unit := do
  let k ← getCore
  if k.res = 0 then
    match fillLevel k with
    | none => raiseFill 1 none 0
    | some l =>
      if l.toNat > k.ps.level.toNat then raiseFill 2 (some l) 0
      if k.flfault then raiseFill 3 (some l) k.flAddr
      try fillOne c l
      catch
        | .trap t => raiseFill 3 (some l) t.faddr
        | e => throw e
  modCore fun k =>
    let res := k.res - 1
    { k with cwp := BitVec.ofNat 7 ((k.cwp.toNat + 126) % 127), res := res
             spfault := k.spfault && decide (125 - res.toNat < k.lowater.toNat) }

/-- The bank of a level and world (R249). -/
def bankOf (k : Core) (level : BitVec 2) (world : Bool) : Bank := if level = 2 then k.mb else if world then k.ss else k.sn
def setBank (k : Core) (level : BitVec 2) (world : Bool) (x : Bank) : Core :=
  if level = 2 then { k with mb := x } else if world then { k with ss := x } else { k with sn := x }

/-- The mask level of a synchronous cause that has one (R247). -/
def causeLevel (c : BitVec 6) : Option Nat :=
  let c := c.toNat
  if 1 ≤ c ∧ c ≤ 6 then some 4
  else if 8 ≤ c ∧ c ≤ 0x0F then some 8
  else if 0x10 ≤ c ∧ c ≤ 0x12 then some 4
  else if c = 0x13 ∨ c = 0x14 then some 12
  else if c = 0x15 then some 14
  else none

/-- The level at which a synchronous cause is taken (R247): rule O, M, the current level, or the window's level. -/
def causeTarget (c : BitVec 6) (lo : BitVec 2) (wlevel : Option (BitVec 2)) : BitVec 2 :=
  let o (l : BitVec 2) : BitVec 2 := if l = 0 then 1 else l
  if c = 0x0C || c = 0x0D || c = 0x15 || c = 0x1E || c = 0x1F then 2
  else if c = 0x07 then lo
  else if c = 0x13 || c = 0x14 then o (wlevel.getD lo)
  else o lo

/-- What an entry records (R253). -/
structure Entry where
  cause : BitVec 6
  detail : BitVec 16
  faddr : Word
  target : BitVec 2
  pc : Word
  /-- the new mask: none leaves it -/
  mask : Option (BitVec 4)
  /-- the handler of a gate; none reads the exception table -/
  handler : Option Word
  /-- a cause 0x13 or 0x14, or an escalation of one -/
  frozen : Bool
deriving DecidableEq, Repr

/-- Is a record frozen: its cause, or the original cause of an escalation, is 0x13 or 0x14 (R253, R262)? -/
def frozenRec (cause : BitVec 6) (detail : BitVec 16) : Bool :=
  cause == 0x13 || cause == 0x14 ||
    ((cause == 0x1E || cause == 0x1F) && (decide (bits detail 5 0 = 0x13) || decide (bits detail 5 0 = 0x14)))

/-- The privilege word: bits [7:0] of CR_PSTATE with bit 3 zero (R244). -/
def Pstate.word (p : Pstate) : BitVec 8 :=
  BitVec.ofNat 8 (p.level.toNat + 4 * p.world.toNat + 16 * p.mask.toNat)

/-- CR_ESTAT bits [31:0] of a record (R249). -/
def estatWord (cause : BitVec 6) (detail : BitVec 16) (olevel : BitVec 2) (oworld occ : Bool) : Nat :=
  cause.toNat + 256 * detail.toNat + 2 ^ 24 * olevel.toNat + 2 ^ 26 * oworld.toNat + 2 ^ 28 * occ.toNat

/-- Read 8 or 16 bytes untranslated, with a region check in a world and at a level, normal memory only (R251, R260).
Error kinds: a region denial, or 0 uncorrectable, 1 error or refusal, 2 timeout. -/
def readTable (c : Cfg) (a : Word) (n : Nat) (world atM : Bool) : M (Except (Option (Nat × Nat) × Nat) Piece) := do
  let b ← get
  let a := redirect c b b.rings.epCore a
  match resolve c b a n world atM needR true with
  | .error (.region r d) => return .error (if inBlockSpace a then (none, 1) else (some (r, d), 1))
  | .error _ => return .error (none, 1)
  | .ok p =>
    match ← physRead c false a n world atM p with
    | .ok d => return .ok (BitVec.ofNat 512 (d.toNat >>> (8 * (a.toNat % 64))))
    | .bad k => return .error (none, k)

/-- Write the spare group zero, for the handler of a window fault (R223). -/
def clearSpare (k : Core) : Core := { k with regs := k.regs.clear 8 16 }

/-- k7 of the current window. -/
def k7 : BitVec 5 := 23

/-- Taking an exception, interrupt or gate (R253): record in the bank or push the bank's frame, handler address, window,
level, world, mask, k7 and PC. `fuel` bounds the chain 0x13 → 0x1F → lockup of R253 and R255. -/
def enterGo (c : Cfg) : Nat → Entry → M Unit
  | 0, e => throw (.lockup 1 e.cause)
  | fuel + 1, e => do
    let k ← getCore
    let lo := k.ps.level
    let wo := k.ps.world
    let tw := if e.target = 2 then true else wo
    -- an entry that needs a window whose spill faults raises the window-spill fault in its place
    if !e.frozen && !k.svc && k.free == 0 then
      let faulted : Option Word ←
        if k.spfault then pure (some k.spAddr)
        else
          try
            spillOldest c
            pure none
          catch
            | .trap t => pure (some t.faddr)
            | e => throw e
      match faulted with
      | some a =>
        modCore fun k => { k with spfault := true, spAddr := a }
        let wl := k.wlevel.get (slotBelow k k.res.toNat)
        let esc := decide (12 ≤ k.ps.mask.toNat)
        return ← enterGo c fuel
          { cause := if esc then 0x1E else 0x13, detail := if esc then 0x13 else 0, faddr := a
            target := if esc then 2 else causeTarget 0x13 lo (some wl), pc := k.pc
            mask := some (if esc then 15 else (if k.ps.mask.toNat < 12 then 12 else k.ps.mask)), handler := none, frozen := true }
      | none => pure ()
    let k ← getCore
    let bk := bankOf k e.target tw
    let pushed : Except Word Core ←
      if !bk.occ then
        pure (.ok (setBank k e.target tw
          { bk with epc := e.pc, epwLevel := lo, epwWorld := wo, epwMask := k.ps.mask, cause := e.cause, detail := e.detail,
                    olevel := lo, oworld := wo, occ := true, faddr := e.faddr }))
      else
        let a := bk.sp - 32
        if bk.depth = 0xFFFF then pure (.error a)
        else
          try
            storeBytes c e.target tw false 2 a
              (leOfNat 8 e.pc.toNat ++ leOfNat 8 k.ps.word.toNat ++ leOfNat 8 (estatWord e.cause e.detail lo wo false) ++
                leOfNat 8 e.faddr.toNat)
            pure (.ok (setBank k e.target tw { bk with sp := a, depth := bk.depth + 1 }))
          catch
            | .trap _ => pure (.error a)
            | e => throw e
    match pushed with
    | .error a =>
      if e.target = 2 || k.mb.occ then throw (.lockup 1 (if e.target = 2 then e.cause else 0x1F))
      enterGo c fuel { cause := 0x1F, detail := e.cause.zeroExtend 16, faddr := a, target := 2, pc := k.pc, mask := some 15,
                       handler := none, frozen := e.frozen }
    | .ok k1 =>
      let h : Word ← match e.handler with
        | some h => pure h
        | none =>
          match ← readTable c (bk.vbase + BitVec.ofNat 64 (8 * e.cause.toNat)) 8 tw (e.target == 2) with
          | .error _ => throw (.lockup 2 e.cause)
          | .ok d =>
            let h := BitVec.ofNat 64 d.toNat
            if h.toNat % 4 ≠ 0 then throw (.lockup 2 e.cause)
            pure h
      let left := k.ps
      modCore fun _ => k1
      if e.frozen then modCore fun k => clearSpare { k with frozen := true }
      else if !k1.svc then advance c e.target
      modCore fun k =>
        { k with ps := { k.ps with level := e.target, world := tw, mask := e.mask.getD k.ps.mask }, pc := h }
      let sp := bk.sp - (if bk.occ then 32 else 0)
      modCore fun k => k.setReg k7 sp
      modMmu fun m => { m with walkBuf := none }
      modify fun b => countEvents b 0x11 left.level left.world 1
      modify fun b => emitExc b left e.cause e.target tw true e.pc

/-- Entry for a synchronous cause (R253, R254): frozen windows lock up; a mask at or above the cause's level escalates. -/
def enterTrap (c : Cfg) (t : Trap) (pc : Word) : M Unit := do
  let k ← getCore
  if k.frozen then throw (.lockup 3 t.cause)
  match t.ipa with
  | some a => modMmu fun m => { m with tfipa := BitVec.ofNat 64 (a.toNat % 2 ^ 52) }
  | none => pure ()
  let esc := match causeLevel t.cause with
    | some n => decide (n ≤ k.ps.mask.toNat)
    | none => false
  let cause : BitVec 6 := if esc then 0x1E else t.cause
  let detail : BitVec 16 := if esc then BitVec.ofNat 16 (t.cause.toNat + 256 * (t.detail.toNat % 256)) else t.detail
  let mask : Option (BitVec 4) :=
    if esc then some 15
    else match causeLevel t.cause with
      | some n => some (if k.ps.mask.toNat < n then BitVec.ofNat 4 n else k.ps.mask)
      | none => none
  enterGo c 3 { cause := cause, detail := detail, faddr := t.faddr
                target := if esc then 2 else causeTarget t.cause k.ps.level t.wlevel
                pc := pc, mask := mask, handler := none, frozen := frozenRec cause detail }

/-- The interrupt sources pending (R256): an offer is source 0 when no job runs, else source 1 (R340). -/
def sourcePending (b : Blk) (i : Nat) : Bool :=
  if i = 0 then b.rings.offer.isSome && b.rings.running.isNone
  else if i = 1 then b.rings.offer.isSome && b.rings.running.isSome
  else if i = 2 then
    let route := bits b.core.iroute 5 4
    b.mmu.treqs.any fun r => route == 2 || (route == 0 && !r.world) || (route == 1 && r.world)
  else if i = 3 then bit b.pwr.tcmp 63 && decide (b.pwr.tcmp.toNat % 2 ^ 63 ≤ b.pwr.sclk)
  else if i = 4 then b.pwr.mnotice != 0
  else if i = 5 then b.err.pend
  else if i = 6 then b.chain.dropW || b.chain.dropE
  else false

/-- CR_IPEND (R257). -/
def ipend (b : Blk) : BitVec 16 := (List.range 7).foldl (fun m i => setBit m i (sourcePending b i)) 0

/-- Some source is both pending and enabled (R411, R412). -/
def anyPendingEnabled (b : Blk) : Bool := (ipend b &&& b.core.ienable) != 0

/-- Where a pending and enabled source would be taken (R257): the target level, or none when it is held. -/
def takeable (b : Blk) (i : Nat) : Option (BitVec 2) :=
  let k := b.core
  if !(sourcePending b i && bit k.ienable i) || k.frozen then none
  else
    let r := bits k.iroute (2 * i + 1) (2 * i)
    let n := bits k.ilevel (4 * i + 3) (4 * i)
    if r = 2 then (if k.ps.level = 2 then (if n > k.ps.mask.toNat then some 2 else none) else if n = 0 then none else some 2)
    else if k.ps.level = 2 then none
    else if k.ps.world ≠ (r == 1) then some 2
    else if k.ps.level = 0 then (if n = 0 then none else some 1)
    else if n > k.ps.mask.toNat then some 1 else none

/-- The interrupt that is taken: the highest level, then the lowest source (R252). -/
def bestInterrupt (b : Blk) : Option (Nat × BitVec 2) :=
  (List.range 7).foldl (fun best i =>
    match takeable b i with
    | none => best
    | some t => match best with
      | none => some (i, t)
      | some (j, _) =>
        if bits b.core.ilevel (4 * i + 3) (4 * i) > bits b.core.ilevel (4 * j + 3) (4 * j) then some (i, t) else best) none

/-- The requester that CR_TRQ shows at a level and world (R290): the lowest-numbered request visible. -/
def shownReq (b : Blk) (level : BitVec 2) (world : Bool) : Option TrReq :=
  (b.mmu.treqs.filter fun r => level == 2 || r.world == world).foldl (fun best r =>
    match best with
    | none => some r
    | some m => if r.requester.toNat < m.requester.toNat then some r else some m) none

/-- Entry for an interrupt (R253, R256): its DETAIL is the requester for source 2 (R289), else 0 (log 19). -/
def enterInterrupt (c : Cfg) (i : Nat) (target : BitVec 2) : M Unit := do
  let b ← get
  let world := if target = 2 then true else b.core.ps.world
  let detail : Nat := if i = 2 then (match shownReq b target world with | some r => r.requester.toNat | none => 0) else 0
  enterGo c 3 { cause := BitVec.ofNat 6 (0x30 + i), detail := BitVec.ofNat 16 detail, faddr := 0, target := target, pc := b.core.pc
                mask := some (BitVec.ofNat 4 (bits b.core.ilevel (4 * i + 3) (4 * i))), handler := none, frozen := false }

/-- A record to return from (R262). -/
structure Rec where
  pc : Word
  level : BitVec 2
  world : Bool
  mask : BitVec 4
  cause : BitVec 6
  detail : BitVec 16
  olevel : BitVec 2
  oworld : Bool
  stacked : Bool
deriving DecidableEq, Repr

/-- The current record of the running level and world (R250, R262), read from the frame when DEPTH is above 0. -/
def currentRec (c : Cfg) : M (Option Rec) := do
  let k ← getCore
  let bk := bankOf k k.ps.level k.ps.world
  if bk.depth ≠ 0 then
    let bs ← loadBytes c k.ps.level k.ps.world false 2 bk.sp 32
    let ws := wordsOf 4 bs
    let pw := (ws.getD 1 0)
    let st := (ws.getD 2 0)
    return some { pc := ws.getD 0 0, level := BitVec.ofNat 2 (bits pw 1 0), world := bit pw 2, mask := BitVec.ofNat 4 (bits pw 7 4),
                  cause := BitVec.ofNat 6 (bits st 5 0), detail := BitVec.ofNat 16 (bits st 23 8),
                  olevel := BitVec.ofNat 2 (bits st 25 24), oworld := bit st 26, stacked := true }
  else if bk.occ then
    return some { pc := bk.epc, level := bk.epwLevel, world := bk.epwWorld, mask := bk.epwMask, cause := bk.cause,
                  detail := bk.detail, olevel := bk.olevel, oworld := bk.oworld, stacked := false }
  else return none

/-- Reasons 3 to 6 of R263, against an origin and the running level and world. -/
def pwordFail (level : BitVec 2) (world : Bool) (olevel : BitVec 2) (oworld : Bool) (cur : Pstate) : Option Nat :=
  if level = 3 || (level = 2 && !world) then some 3
  else if level.toNat > olevel.toNat then some 4
  else if world && !oworld then some 5
  else if cur.level = 1 && world ≠ cur.world then some 6
  else none

/-- Request the Kiln's world-switch wipe and wait for it; UWORLD changes when it ends (R246, R448). -/
def worldSwitch (w : Bool) : M Unit := do
  let b ← get
  if b.core.ps.uworld = w then return ()
  let wipe : Wipe := { cov := 8, lts := [], uworld := some w }
  if b.sys.kiln.isSome || b.sys.kilnQueue.any (fun x => x.uworld.isSome) then
    if (match b.sys.kiln with | some x => x.uworld.isSome | none => false) || b.sys.kilnQueue.any (fun x => x.uworld.isSome) then
      waitFor .other
    else
      modify fun b => { b with sys := { b.sys with kilnQueue := b.sys.kilnQueue ++ [wipe] } }
      waitFor .other
  else
    modify fun b => { b with sys := { b.sys with kiln := some wipe, kilnTrig := 5 } }
    waitFor .other

/-- ERET (`gate` false) and GRET (`gate` true) (R262, R263, R223). -/
def doReturn (c : Cfg) (gate : Bool) : M Unit := do
  let k ← getCore
  if k.ps.level = 0 then privFault
  match ← currentRec c with
  | none => raise 7 1
  | some r =>
    if (r.cause == 0x20) ≠ gate then raise 7 2
    match pwordFail r.level r.world r.olevel r.oworld k.ps with
    | some n => raise 7 n
    | none => pure ()
    if frozenRec r.cause r.detail then
      modCore fun k => { k with frozen := false, spfault := false, flfault := false }
    else if !k.svc then retreat c
    if k.ps.level = 2 then worldSwitch r.world
    let left := k.ps
    modCore fun k =>
      let bk := bankOf k left.level left.world
      let bk := if r.stacked then { bk with sp := bk.sp + 32, depth := bk.depth - 1 } else { bk with occ := false }
      { setBank k left.level left.world bk with
          ps := { level := r.level, world := r.world, uworld := k.ps.uworld, mask := r.mask }, pc := r.pc }
    modMmu fun m => { m with walkBuf := none }
    modify fun b => emitExc b left r.cause r.level r.world false r.pc

end Sys2Proof.Machine
end

