-- ==== Sys2Proof/Machine/Ieee.lean ====
section
/-! DEFINITION. Binary32 and binary64 arithmetic of the main core and the vector unit (02, R32–R34; 06, R143–R147, R149–R151; 09, R231). -/

namespace Sys2Proof.Machine

/-- The five exception flags in the order of CR_VCSR and CR_FCSR (R144). -/
structure FFlags where
  nv : Bool := false
  dz : Bool := false
  of : Bool := false
  uf : Bool := false
  nx : Bool := false
deriving DecidableEq, Repr

/-- Union of flags. -/
def FFlags.or (a b : FFlags) : FFlags :=
  { nv := a.nv || b.nv, dz := a.dz || b.dz, of := a.of || b.of, uf := a.uf || b.uf, nx := a.nx || b.nx }

/-- The flags at their CSR places, bits [6:2] (R144). -/
def FFlags.toNat (a : FFlags) : Nat :=
  4 * a.nv.toNat + 8 * a.dz.toNat + 16 * a.of.toNat + 32 * a.uf.toNat + 64 * a.nx.toNat

/-- Invalid operation alone. -/
def FFlags.invalid : FFlags := { nv := true }

/-- A code is a NaN of format F (B32 or B64). -/
def isNaNCode (F : Fmt) (c : Nat) : Bool := (decodeEx F c).isNaN

/-- A code is a signalling NaN: a NaN with the top fraction bit clear. -/
def isSNaN (F : Fmt) (c : Nat) : Bool := isNaNCode F c && !(c.testBit (F.p - 1))

/-- Whether a magnitude is moved away from zero under a rounding direction (0 ties to even, 1 toward zero,
2 toward positive, 3 toward negative; R144). -/
def dirUp (rd : Nat) (neg : Bool) (n rem sh : Nat) : Bool :=
  match rd with
  | 0 => decide (2 ^ sh < 2 * rem) || (decide (2 * rem = 2 ^ sh) && decide (sh ≠ 0) && decide (n % 2 = 1))
  | 1 => false
  | 2 => !neg && decide (rem ≠ 0)
  | _ => neg && decide (rem ≠ 0)

/-- The magnitude `mag * 2^e` cut at the place 2^u: kept integer, discarded bits and their count. -/
def cutAt (u : Int) (mag : Nat) (e : Int) : Nat × Nat × Nat :=
  if u ≤ e then (mag <<< (e - u).toNat, 0, 0)
  else
    let sh := (u - e).toNat
    (mag >>> sh, mag % 2 ^ sh, sh)

/-- IEEE 754 rounding of an exact value into B32 or B64, tininess after rounding (R32, R33). -/
def roundIeee (F : Fmt) (rd : Nat) (x : Ex) : Nat × FFlags :=
  match x with
  | .nan => (F.nanCode, {})
  | .inf s => (F.infCode s, {})
  | .fin s mag e =>
    if mag = 0 then (F.zeroCode s, {})
    else
      let E := exOf mag e
      let u : Int := max (E - F.p) (F.emin - F.p)
      let (n, rem, sh) := cutAt u mag e
      let n1 := if dirUp rd s n rem sh then n + 1 else n
      let inexact := decide (rem ≠ 0)
      if n1 ≠ 0 ∧ F.emax < u + Nat.log2 n1 then
        let toInf := match rd with
          | 0 => true
          | 1 => false
          | 2 => !s
          | _ => s
        (if toInf then F.infCode s else F.maxCode s, { of := true, nx := true })
      else
        let (m, um, remU, shU) := cutMag F.p mag e
        let m1 := if dirUp rd s m remU shU then m + 1 else m
        let tiny := decide (um + Nat.log2 m1 < F.emin)
        let code := if n1 < 2 ^ F.p then n1 else (((u + F.p + F.bias).toNat) <<< F.p) + (n1 - 2 ^ F.p)
        ((if s then F.signBit else 0) + code, { nx := inexact, uf := tiny && inexact })

/-- Addition (R32). -/
def ieeeAdd (F : Fmt) (rd a b : Nat) : Nat × FFlags :=
  let x := decodeEx F a
  let y := decodeEx F b
  let s := Ex.addZ (decide (rd = 3)) x y
  let snan := isSNaN F a || isSNaN F b
  if s.isNaN then (F.nanCode, { nv := snan || (!x.isNaN && !y.isNaN) })
  else roundIeee F rd s

/-- The code with its sign inverted. -/
def flipSign (F : Fmt) (a : Nat) : Nat := (a % 2 ^ F.width) ^^^ F.signBit

/-- Subtraction (R32). -/
def ieeeSub (F : Fmt) (rd a b : Nat) : Nat × FFlags := ieeeAdd F rd a (flipSign F b)

/-- Multiplication (R32). -/
def ieeeMul (F : Fmt) (rd a b : Nat) : Nat × FFlags :=
  let x := decodeEx F a
  let y := decodeEx F b
  let p := Ex.mul x y
  if p.isNaN then (F.nanCode, { nv := isSNaN F a || isSNaN F b || (!x.isNaN && !y.isNaN) })
  else roundIeee F rd p

/-- Fused multiply-add a × b + c, one rounding (R32). -/
def ieeeFma (F : Fmt) (rd a b c : Nat) : Nat × FFlags :=
  let x := decodeEx F a
  let y := decodeEx F b
  let z := decodeEx F c
  let p := Ex.mul x y
  let s := Ex.addZ (decide (rd = 3)) p z
  let snan := isSNaN F a || isSNaN F b || isSNaN F c
  let zeroInf := p.isNaN && !x.isNaN && !y.isNaN
  if s.isNaN then
    (F.nanCode,
      { nv := snan || (zeroInf && (!z.isNaN || Config.fmaZeroInfQuietInvalid)) || (!p.isNaN && !z.isNaN) })
  else roundIeee F rd s

/-- Division (R32). -/
def ieeeDiv (F : Fmt) (rd a b : Nat) : Nat × FFlags :=
  let x := decodeEx F a
  let y := decodeEx F b
  let q := Ex.div x y
  if q.isNaN then (F.nanCode, { nv := isSNaN F a || isSNaN F b || (!x.isNaN && !y.isNaN) })
  else if y.isZero && !x.isInf then (F.infCode q.sign, { dz := true })
  else roundIeee F rd q

/-- Square root (R32). -/
def ieeeSqrt (F : Fmt) (rd a : Nat) : Nat × FFlags :=
  let x := decodeEx F a
  let r := Ex.sqrt x
  if r.isNaN then (F.nanCode, { nv := isSNaN F a || !x.isNaN })
  else roundIeee F rd r

/-- minimum and maximum of IEEE 754-2019, −0 below +0 (R143); for W16 no flag and flushed operands (R145). -/
def ieeeMinMax (isMax : Bool) (F : Fmt) (a b : Nat) : Nat × FFlags :=
  let x := decodeEx F a
  let y := decodeEx F b
  let nv := decide (F ≠ .w16) && (isSNaN F a || isSNaN F b)
  if x.isNaN || y.isNaN then (F.nanCode, { nv := nv })
  else
    let aLess := Ex.lt x y || (Ex.eq x y && x.sign && !y.sign)
    let r := if aLess != isMax then a else b
    let z := decodeEx F r
    (if z.isZero then F.zeroCode z.sign else r % 2 ^ F.width, {})

/-- Sign cleared; a NaN gives the canonical NaN (R143). A W16 subnormal operand is a zero (R28). -/
def fpAbs (F : Fmt) (a : Nat) : Nat :=
  let x := decodeEx F a
  if x.isNaN then F.nanCode else if x.isZero then F.zeroCode false else a % 2 ^ (F.width - 1)

/-- Sign inverted; a NaN gives the canonical NaN (R143). A W16 subnormal operand is a zero (R28). -/
def fpNeg (F : Fmt) (a : Nat) : Nat :=
  let x := decodeEx F a
  if x.isNaN then F.nanCode else if x.isZero then F.zeroCode (!x.sign) else flipSign F a

/-- The compares of R147: 0 EQ, 1 LT, 2 LE, 3 UNORD; W16 compares set no flag. -/
def fpCompare (F : Fmt) (cond a b : Nat) : Bool × FFlags :=
  let x := decodeEx F a
  let y := decodeEx F b
  let un := x.isNaN || y.isNaN
  let snan := isSNaN F a || isSNaN F b
  let nv := decide (F ≠ .w16) && (if cond = 1 ∨ cond = 2 then un else snan)
  let r := match cond with
    | 0 => Ex.eq x y
    | 1 => Ex.lt x y
    | 2 => Ex.lt x y || Ex.eq x y
    | _ => un
  (r, { nv := nv })

/-- FCLASS of R231: the class number. -/
def fpClass (F : Fmt) (a : Nat) : Nat :=
  match decodeEx F a with
  | .nan => if isSNaN F a then 8 else 9
  | .inf s => if s then 0 else 7
  | .fin s m _ =>
    if m = 0 then (if s then 3 else 4)
    else if m < 2 ^ F.p then (if s then 2 else 5)
    else (if s then 1 else 6)

/-- Conversion into B32 or B64 from any format without a scale byte (R39, R146). Whether a W16 NaN with its top fraction bit 0 is a signalling
operand of R33 the spec leaves open: it raises no flag (log 87). -/
def cvtToIeee (F from_ : Fmt) (rd a : Nat) : Nat × FFlags :=
  let x := decodeEx from_ a
  if x.isNaN then (F.nanCode, { nv := (decide (from_ = .b32) || decide (from_ = .b64)) && isSNaN from_ a })
  else roundIeee F rd x

/-- Conversion into a signed integer of `w` bits: NaN gives 0, out of range the nearest, each with NV (R146). -/
def cvtToInt (w : Nat) (F : Fmt) (rd a : Nat) : BitVec w × FFlags :=
  let hi : Int := 2 ^ (w - 1) - 1
  let lo : Int := -(2 ^ (w - 1))
  match decodeEx F a with
  | .nan => (0, FFlags.invalid)
  | .inf s => (BitVec.ofInt w (if s then lo else hi), FFlags.invalid)
  | .fin s mag e =>
    let (n, rem, sh) := cutAt 0 mag e
    let n1 := if dirUp rd s n rem sh then n + 1 else n
    let v : Int := if s then -(n1 : Int) else (n1 : Int)
    if hi < v then (BitVec.ofInt w hi, FFlags.invalid)
    else if v < lo then (BitVec.ofInt w lo, FFlags.invalid)
    else (BitVec.ofInt w v, { nx := decide (rem ≠ 0) })

/-- Conversion of a signed integer into B32 or B64 (R146). -/
def cvtOfInt (F : Fmt) (rd : Nat) (v : Int) : Nat × FFlags := roundIeee F rd (Ex.ofInt v)

/-- W16 arithmetic of R145: the result of an exact value, NaN canonical, with its CR_CVTSTAT flags. -/
def w16Result (x : Ex) (rm : RMode) (sm : SMode) : Nat × CvtFlags :=
  (rndFtz x .w16 rm sm 0, cvtFlags x .w16 rm sm 0)

/-- The pairwise tree of R149, one level. -/
def treeLevel (add : α → α → α) : List α → List α
  | a :: b :: rest => add a b :: treeLevel add rest
  | xs => xs

/-- The tree of R149; fuel the list's length. -/
def treeFold (add : α → α → α) : Nat → List α → Option α
  | _, [] => none
  | _, [a] => some a
  | 0, a :: _ => some a
  | n + 1, xs => treeFold add n (treeLevel add xs)

/-- A value with the flags gathered on its way. -/
abbrev Flagged := Nat × FFlags

/-- rd_add of R149. -/
def rdAdd (F : Fmt) (rd : Nat) (a b : Flagged) : Flagged :=
  let (r, f) := ieeeAdd F rd a.1 b.1
  (r, (a.2.or b.2).or f)

/-- cnode of R150: the sum and its error, every rounding to nearest even. -/
def cnode (F : Fmt) (a b : (Nat × Nat) × FFlags) : (Nat × Nat) × FFlags :=
  let (s, f) := ieeeAdd F 0 a.1.1 b.1.1
  let fl := (a.2.or b.2).or f
  match decodeEx F s with
  | .fin _ _ _ =>
    let t := Ex.sub (Ex.add (decodeEx F a.1.1) (decodeEx F b.1.1)) (decodeEx F s)
    let (e0, g) := ieeeAdd F 0 a.1.2 b.1.2
    let y := Ex.add (decodeEx F e0) t
    let (e1, h) := if y.isNaN then (F.nanCode, ({} : FFlags)) else roundIeee F 0 y
    ((s, e1), (fl.or g).or h)
  | _ => ((s, 0), fl)

end Sys2Proof.Machine
end

