-- ==== Sys2Proof/Machine/Flags.lean ====
section
/-! DEFINITION. Status flags: accumulation of FP, vector and conversion flags in their registers (02, 06, 09). -/

namespace Sys2Proof.Machine

/-- Accumulate IEEE flags in CR_FCSR, laid out as CR_VCSR (R144, R227): RD [1:0], NV, DZ, OF, UF, NX [6:2]. -/
def accFcsr (f : FFlags) : M Unit := modCore fun k => { k with fcsr := k.fcsr ||| (BitVec.ofNat 7 f.toNat) }

/-- Accumulate IEEE flags in CR_VCSR (R144). -/
def accVcsr (f : FFlags) : M Unit := modVec fun v => { v with vcsr := v.vcsr ||| (BitVec.ofNat 7 f.toNat) }

/-- Accumulate conversion flags in CR_CVTSTAT (R49). -/
def accCvt (f : CvtFlags) : M Unit := modEpi fun e => { e with cvt := e.cvt ||| BitVec.ofNat 5 f.toNat }

/-- The rounding direction of CR_FCSR. -/
def fcsrRd : M Nat := do return bits (← get).core.fcsr 1 0

end Sys2Proof.Machine
end

