-- ==== Sys2Proof/Machine/Cell.lean ====
section
/-! DEFINITION. Arithmetic of the cells and the Tun (04_accumulation, R93–R103) and of the epilogue's activations (05, R131–R133). -/

namespace Sys2Proof.Machine

/-- A product that enters a cell: exact, a zero product being +0 (R93). -/
def cellProduct (a b : Ex) : Ex := (Ex.mul a b).posZero

/-- align(x, e) of R94 as an integer multiple of 2^(e-14), toward zero. -/
def alignCell (x : Ex) (e : Int) : Int :=
  match x with
  | .fin s mag xe =>
    let g := e - 14
    let m : Nat := if g ≤ xe then mag <<< (xe - g).toNat else mag >>> (g - xe).toNat
    if s then -(m : Int) else (m : Int)
  | _ => 0

/-- to_partial of R94: truncation to 11 fraction bits, overflow to infinity, underflow to +0. -/
def toPartial (z : Int) (g : Int) : Ex :=
  if z = 0 then .fin false 0 0
  else
    let mag := z.natAbs
    let s := decide (z < 0)
    let (n, u, _, _) := cutMag 11 mag g
    let E : Int := u + 11
    if 128 ≤ E then .inf s
    else if E < -126 then .fin false 0 0
    else .fin s n u

/-- The largest exponent ex(v) over the finite nonzero values of a list, if there is one. -/
def maxEx (xs : List Ex) : Option Int :=
  xs.foldl (fun a x =>
    match x with
    | .fin _ mag e =>
      if mag = 0 then a
      else
        match a with
        | none => some (exOf mag e)
        | some b => some (max b (exOf mag e))
    | _ => a) none

/-- The tree sum of one step's aligned products: an exact integer sum on the tree's grid (R94). -/
def treeSum (xs : List Ex) : Ex :=
  match maxEx xs with
  | none => .fin false 0 0
  | some et => exOfInt (xs.foldl (fun a x => a + alignCell x et) 0) (et - 14)

/-- cell_step of R94. -/
def cellStep (p : Ex) (xs : List Ex) : Ex :=
  let all := p :: xs
  if all.any Ex.isNaN then .nan
  else if all.any (fun x => decide (x = .inf false)) && all.any (fun x => decide (x = .inf true)) then .nan
  else if all.any (fun x => decide (x = .inf false)) then .inf false
  else if all.any (fun x => decide (x = .inf true)) then .inf true
  else
    let s := treeSum xs
    match maxEx [p, s] with
    | none => .fin false 0 0
    | some ea => toPartial (alignCell p ea + alignCell s ea) (ea - 14)

/-- tun_round of R94 to an exact B32 value; the flag says that an overflow or an infinity was replaced (R104). -/
def tunRound (y : Ex) : Ex × Bool :=
  let code := rndFtz y .b32 .rne .sat 0
  ((decodeEx .b32 code).posZero, y.isInf || overflows y .b32 .rne 0)

/-- The code of a Tun value: an exact B32 value, NaN being 0x7FC0_0000 and every zero +0. -/
def tunCode (v : Ex) : W32 := BitVec.ofNat 32 (rndFtz v.posZero .b32 .rne .sat 0)

/-- The steps' chunks of d products of one reduction. -/
def chunks (d : Nat) : Nat → List α → List (List α)
  | 0, _ => []
  | n + 1, xs => xs.take d :: chunks d n (xs.drop d)

/-- What a cell holds between steps: the partial, the promotion register, its error register, and the SAT condition. -/
structure CellReg where
  p : Ex
  s : Ex
  c : Ex
  sat : Bool
deriving DecidableEq, Repr

/-- round_err of R98. -/
def roundErr (y : Ex) : Ex × Ex × Bool :=
  let (v, f) := tunRound y
  match y with
  | .nan => (v, .nan, f)
  | .inf _ => (v, .fin false 0 0, f)
  | .fin _ mag e =>
    match decodeEx .b32 0x7F7FFFFF with
    | .fin _ mx me =>
      if cmpMag mag e mx me = .gt then (v, .fin false 0 0, f)
      else
        let (d, g) := tunRound (Ex.sub y v)
        (v, d, f || g)
    | _ => (v, .nan, f)

/-- The promotion of a partial (R95; R98 in a compensated group). -/
def promote (comp : Bool) (r : CellReg) : CellReg :=
  if comp then
    let (s, e, f) := roundErr (Ex.add r.s r.p)
    let (c, g) := tunRound (Ex.add r.c e)
    { p := .fin false 0 0, s := s, c := c, sat := r.sat || f || g }
  else
    let (s, f) := tunRound (Ex.add r.s r.p)
    { p := .fin false 0 0, s := s, c := r.c, sat := r.sat || f }

/-- The steps of one cell from step number n on (R95, R98). `P` is the promotion interval. -/
def cellSteps (comp : Bool) (P : Nat) : Nat → List (List Ex) → CellReg → CellReg
  | _, [], r => r
  | n, xs :: rest, r =>
    let r1 := { r with p := cellStep r.p xs }
    let r2 := if (n + 1) % P = 0 ∨ rest.isEmpty then promote comp r1 else r1
    cellSteps comp P (n + 1) rest r2

/-- A cell before its first step. -/
def cellZero : CellReg := { p := .fin false 0 0, s := .fin false 0 0, c := .fin false 0 0, sat := false }

/-- The result of one accumulation: the main entry, the companion entry, and the SAT and NAN conditions (R95, R98, R104). -/
structure AccOut where
  main : W32
  comp : W32
  sat : Bool
  nan : Bool
deriving DecidableEq, Repr

/-- accumulate of R95 and accumulate_comp of R98: `t` and `c` are the stored entries. -/
def accumulate (comp : Bool) (P : Nat) (d S : Nat) (xs : List Ex) (t c : W32) : AccOut :=
  let r := cellSteps comp P 0 (chunks d S xs) cellZero
  let T := decodeEx .b32 t.toNat
  if comp then
    let C := decodeEx .b32 c.toNat
    let (v, e, f) := roundErr (Ex.add T r.s)
    let (c1, g) := tunRound (Ex.add C r.c)
    let (c2, h) := tunRound (Ex.add c1 e)
    { main := tunCode v, comp := tunCode c2, sat := r.sat || f || g || h, nan := v.isNaN }
  else
    let (v, f) := tunRound (Ex.add T r.s)
    { main := tunCode v, comp := c, sat := r.sat || f, nan := v.isNaN }

/-- rnd64 of R99: binary64, ties to even, subnormals kept. Rounds at the wider of the normal and the subnormal place. -/
def rnd64 (y : Ex) : Nat :=
  match y with
  | .nan => Fmt.b64.nanCode
  | .inf s => Fmt.b64.infCode s
  | .fin s mag e =>
    if mag = 0 then Fmt.b64.zeroCode s
    else
      let u : Int := max (exOf mag e - 52) (-1074)
      let sh := (u - e).toNat
      let n := if e ≤ u then mag >>> sh else mag <<< (e - u).toNat
      let rem := if e ≤ u then mag % 2 ^ sh else 0
      let up := decide (2 ^ sh < 2 * rem) || (decide (2 * rem = 2 ^ sh) && decide (n % 2 = 1))
      let n1 := if e ≤ u ∧ up then n + 1 else n
      if n1 = 0 then Fmt.b64.zeroCode s
      else if 1023 < u + Nat.log2 n1 then Fmt.b64.infCode s
      else
        let code := if n1 < 2 ^ 52 then n1 else ((u + 1074).toNat + 1) * 2 ^ 52 + (n1 - 2 ^ 52)
        (if s then Fmt.b64.signBit else 0) + code

/-- One entry of a spill (R99): the new buffer word. `b` is the buffer word where SPILLED is 1. -/
def spillEntry (comp : Bool) (t c : W32) (b : Option Word) : Word :=
  let y := decodeEx .b32 t.toNat
  let y := if comp then Ex.add y (decodeEx .b32 c.toNat) else y
  let y := match b with
    | some w => Ex.add y (decodeEx .b64 w.toNat)
    | none => y
  BitVec.ofNat 64 (rnd64 y)

/-- One entry of a close (R100): the new main entry, and the SAT and NAN conditions. -/
def closeEntry (comp : Bool) (t c : W32) (b : Option Word) : W32 × Bool × Bool :=
  let y := decodeEx .b32 t.toNat
  let y := if comp then Ex.add y (decodeEx .b32 c.toNat) else y
  let y := match b with
    | some w => Ex.add y (decodeEx .b64 w.toNat)
    | none => y
  let (v, f) := tunRound y
  (tunCode v, f, v.isNaN)

/-- A candidate of a maximum or minimum: its B32 code and its index (R103). -/
structure Cand where
  v : W32
  i : W32
deriving DecidableEq, Repr

/-- Candidate `a` beats `b` (R103). -/
def beats (isMax : Bool) (a b : Cand) : Bool :=
  let x := decodeEx .b32 a.v.toNat
  let y := decodeEx .b32 b.v.toNat
  if x.isNaN then (!y.isNaN || decide (a.i.toNat < b.i.toNat))
  else if y.isNaN then false
  else
    (if isMax then Ex.lt y x else Ex.lt x y) || (Ex.eq x y && decide (a.i.toNat < b.i.toNat))

/-- A B32 code with −0 taken as +0. -/
def plusZero (v : Nat) : Nat := if v = 0x80000000 then 0 else v

/-- The candidate of one product (R103), and whether it overflowed to infinity (R104). -/
def candOf (ibase : Nat) (k : Nat) (x : Ex) : Cand × Bool :=
  ({ v := BitVec.ofNat 32 (plusZero (rndFtz x .b32 .rne .ieee 0)), i := BitVec.ofNat 32 (ibase + k) },
   overflows x .b32 .rne 0)

/-- The best candidate of one cell, and whether a candidate overflowed (R125). -/
def bestCand (isMax : Bool) (ibase : Nat) (xs : List Ex) : Option Cand × Bool :=
  (xs.zipIdx).foldl (fun (a : Option Cand × Bool) (x : Ex × Nat) =>
    let (c, f) := candOf ibase x.2 x.1
    match a.1 with
    | none => (some c, a.2 || f)
    | some b => (some (if beats isMax c b then c else b), a.2 || f)) (none, false)

/-- rnd32 of R131: to an exact B32 value, the sign of a zero kept. -/
def rnd32 (y : Ex) : Ex := decodeEx .b32 (rndFtz y .b32 .rne .ieee 0)

/-- c_0 to c_6 of R133, highest first: the B32 values nearest to (ln 2)^k ÷ k!. -/
def exp2Coeffs : List Nat := [0x3F800000, 0x3F317218, 0x3E75FDF0, 0x3D635847, 0x3C1D955B, 0x3AAEC3FF, 0x39218489]

/-- L2E, L2E2, GC and GK of R133. -/
def constL2E : Ex := decodeEx .b32 0x3FB8AA3B
def constL2E2 : Ex := decodeEx .b32 0x4038AA3B
def constGC : Ex := decodeEx .b32 0x3D372713
def constGK : Ex := decodeEx .b32 0x40135761

/-- The value 1. -/
def exOne : Ex := .fin false 1 0

/-- The nearest integer of a finite value, ties to even. -/
def nearestInt (s : Bool) (mag : Nat) (e : Int) : Int :=
  if 0 ≤ e then intAt s mag e 0
  else
    let sh := (-e).toNat
    let n := mag >>> sh
    let rem := mag % 2 ^ sh
    let n1 := if 2 ^ sh < 2 * rem ∨ (2 * rem = 2 ^ sh ∧ n % 2 = 1) then n + 1 else n
    if s then -(n1 : Int) else (n1 : Int)

/-- exp2_k of R133. -/
def exp2K (u : Ex) : Ex :=
  match u with
  | .nan => .nan
  | .inf s => if s then .fin false 0 0 else .inf false
  | .fin s mag e =>
    if !(Ex.lt u (.fin false 128 0)) then .inf false
    else if Ex.lt u (.fin true 151 0) then .fin false 0 0
    else
      let n := nearestInt s mag e
      let f := Ex.sub u (Ex.ofInt n)
      match exp2Coeffs.reverse with
      | [] => .nan
      | c6 :: rest =>
        let p := rest.foldl (fun p c => rnd32 (Ex.fused p f (decodeEx .b32 c))) (decodeEx .b32 c6)
        rnd32 (p.scale n)

/-- A value with a sign laid on it. -/
def withSign (s : Bool) (x : Ex) : Ex := if s then x.neg else x

/-- tanh_k of R133. -/
def tanhK (u : Ex) : Ex :=
  let a := u.abs
  if !(Ex.lt a (.fin false 9 0)) then withSign u.sign exOne
  else if Ex.lt a (.fin false 1 (-12)) then u
  else
    let w := exp2K (rnd32 (Ex.mul a constL2E2))
    let q := rnd32 (Ex.add w exOne)
    let r := rnd32 (Ex.div (.fin false 2 0) q)
    withSign u.sign (rnd32 (Ex.sub exOne r))

/-- silu_k of R133. -/
def siluK (u : Ex) : Ex :=
  let w := exp2K (rnd32 (Ex.mul u.neg constL2E))
  let q := rnd32 (Ex.add exOne w)
  rnd32 (Ex.div u q)

/-- gelu_k of R133. -/
def geluK (u : Ex) : Ex :=
  let v := rnd32 (Ex.mul u u)
  let v := rnd32 (Ex.mul v u)
  let g := rnd32 (Ex.fused constGC v u)
  let h := rnd32 (Ex.mul g constGK)
  let w := exp2K h.neg
  let q := rnd32 (Ex.add exOne w)
  rnd32 (Ex.div u q)

/-- The activation ACT of R132 on a value; codes 6 and 7 are refused before. -/
def activate (act : Nat) (u : Ex) : Ex :=
  match act with
  | 1 => (match u with
    | .nan => .nan
    | .inf s => if s then .fin false 0 0 else u
    | .fin s m _ => if s || decide (m = 0) then .fin false 0 0 else u)
  | 2 => (match u with
    | .nan => .nan
    | .inf s => if s then .fin true 0 0 else u
    | _ => geluK u)
  | 3 => (match u with
    | .nan => .nan
    | .inf s => if s then .fin true 0 0 else u
    | _ => siluK u)
  | 4 => (match u with
    | .nan => .nan
    | .inf s => withSign s exOne
    | _ => tanhK u)
  | 5 => exp2K u
  | _ => u

end Sys2Proof.Machine
end

