-- ==== Sys2Proof/Machine/SpillOps.lean ====
section
/-! DEFINITION. Accumulation groups and the spills of their rows (04, R85–R104). -/

namespace Sys2Proof.Machine

/-! Groups (R85, R86, R92). -/

/-- CR_TGRPn. -/
def Tun.grp (t : Tun) (g : Nat) : Word := t.grpX.get g ^^^ 0xC0000
def Tun.setGrp (t : Tun) (g : Nat) (v : Word) : Tun := { t with grpX := t.grpX.set g (v ^^^ 0xC0000) }

def gBase (v : Word) : Nat := 8 * bits v 7 0
def gRows (v : Word) : Nat := 8 * (bits v 15 8 + 1)
def gClass (v : Word) : Nat := bits v 17 16
def gP (v : Word) : Nat := bits v 20 18 + 1
def gOpen (v : Word) : Bool := bit v 21
def gFinal (v : Word) : Bool := bit v 22
def gSpilled (v : Word) : Bool := bit v 23
def gSpill (v : Word) : Nat := bits v 35 24
def gCcount (v : Word) : Nat := bits v 47 36
def gSbuf (v : Word) : Nat := bits v 60 48
def gCap (v : Word) : Nat := if gClass v = 0 then gRows v else gRows v / 2
/-- Rows of the Tun that hold `n` rows of a group: companion rows too, but in a chunked group (R86). -/
def gHeld (v : Word) (n : Nat) : Nat := if gClass v = 0 then n else 2 * n
/-- Chunked or compensated. -/
def gSums (v : Word) : Bool := decide (gClass v < 2)

/-- Power domains of the Tun halves that a range of rows touches (R83). -/
def halves (base n : Nat) : List Nat :=
  (if base < 1024 then [29] else []) ++ (if 1024 < base + n then [30] else [])

/-- Release a group (R88): OPEN, FINAL, SPILLED and its dirty bit clear. -/
def Tun.release (t : Tun) (g : Nat) : Tun :=
  { t.setGrp g (setBits (t.grp g) 23 21 0) with dirty := setBit t.dirty g false }

/-- Set a group's bit in a field of CR_TGFLAG: 0 SAT, 1 NAN, 2 UE, 3 EVICT (R104). -/
def Tun.mark (t : Tun) (field g : Nat) (p : Bool) : Tun := if p then { t with flag := setBit t.flag (16 * field + g) true } else t

/-- A commit's bookkeeping: dirty bit, flags, CCOUNT (R96, R104, R107). -/
def Tun.committed (t : Tun) (g : Nat) (sat nan counts : Bool) : Tun :=
  let v := t.grp g
  let n := if gSpill v = 0 then Nat.min 4095 (gCcount v + 1) else gCcount v + 1
  let t := if counts then t.setGrp g (setBits v 47 36 n) else t
  let t := { t with dirty := setBit t.dirty g true }
  (t.mark 0 g sat).mark 1 g nan

/-- Entry j of a row. -/
def entry (r : TunRow) (j : Nat) : W32 := lane 32 r j

/-- A row with entries 0 to N − 1 replaced. -/
def replaceEntries (r : TunRow) (vs : List W32) : TunRow :=
  ofLanes 2048 (vs ++ (toLanes 32 64 r).drop vs.length)

/-! Spills (R99, R101, R102). -/


/-- May a spill or close touch a B64 word of its buffer: available quarter, partition of UWORLD (R102, R313)? -/
def bufOk (c : Cfg) (b : Blk) (o : Nat) : Bool :=
  decide (o + 8 ≤ ltsSize) && quarterOk c o && inPartition c b b.core.ps.uworld o 8

/-- Wait for the buffer row's quarters and for a wipe of it. -/
def bufReady (c : Cfg) (o : Nat) : M Unit := do
  needPds (((List.range 4).filter fun q => bit c.qen q).map fun q => 25 + q)
  if ltsWiping (← get) o 512 then waitFor .other

/-- The beats of a buffer row at offset `o`: the pieces whose beat failed (R315). -/
def bufBeats (c : Cfg) (o : Nat) (b : Blk) : List Nat × Blk :=
  (List.range 8).foldl (fun a q =>
    if bufOk c a.2 (o + 64 * q) then
      let r := ltsCross a.2.core.ps.uworld (o + 64 * q) 64 a.2
      (a.1 ++ r.1, r.2)
    else a) ([], b)

/-- The beats of a buffer row that is written: one that fails puts the block in fatal state. -/
def bufSend (c : Cfg) (o : Nat) : M Unit := liftBlk fun b =>
  let r := bufBeats c o b
  ((), if r.1.isEmpty then r.2 else goFatal r.2)

/-- Read one B64 word of a buffer, the beats of the pieces `bad` having failed: +0 for a word that cannot be read, and whether it could
(R102, R314, R315). -/
def readBuf (c : Cfg) (bad : List Nat) (o : Nat) (b : Blk) : (Word × Bool) × Blk :=
  if !bufOk c b o then ((0, false), b)
  else
    let r := ltsBankRead b.core.ps.uworld bad o 8 b
    match r.1.2 with
    | some _ => ((0, false), r.2)
    | none => ((BitVec.ofNat 64 (natOfLE r.1.1), true), r.2)

def writeBuf (c : Cfg) (o : Nat) (v : Word) (b : Blk) : Blk :=
  if bufOk c b o then (ltsBankWrite b.core.ps.uworld o (leOfNat 8 v.toNat) b).2 else b

/-- Is a B64 word a NaN? -/
def nan64 (v : Word) : Bool := (decodeEx .b64 v.toNat).isNaN

/-- One entry of a spill: answers whether the buffer word was usable and whether a NaN was written to it (R99, R102, R104). -/
def spillOne (c : Cfg) (v : Word) (bad : List Nat) (i j : Nat) (t e : W32) (b : Blk) : (Bool × Bool) × Blk :=
  let o := 512 * gSbuf v + 512 * i + 8 * j
  let r : (Word × Bool) × Blk := if gSpilled v then readBuf c bad o b else ((0, bufOk c b o), b)
  let y := spillEntry (decide (gClass v = 1)) t e (if gSpilled v then some r.1.1 else none)
  ((r.1.2, bufOk c b o && nan64 y), writeBuf c o y r.2)

/-- One row of a spill (R99). -/
def spillRow (c : Cfg) (g : Nat) (v : Word) (i : Nat) : M Unit := do
  tunCross (2 * gHeld v 1)
  let bad ← if gSpilled v then liftBlk (bufBeats c (512 * gSbuf v + 512 * i)) else pure []
  bufSend c (512 * gSbuf v + 512 * i)
  let b ← get
  let main := b.tun.rows.get (gBase v + i)
  let comp := if gClass v = 1 then b.tun.rows.get (gBase v + gCap v + i) else 0
  let r := (List.range 64).foldl (fun (a : (Bool × Bool) × Blk) j =>
    let q := spillOne c v bad i j (entry main j) (entry comp j) a.2
    ((a.1.1 && q.1.1, a.1.2 || q.1.2), q.2)) ((true, false), b)
  set r.2
  modTun fun t =>
    let rows := t.rows.set (gBase v + i) 0
    let rows := if gClass v = 1 then rows.set (gBase v + gCap v + i) 0 else rows
    ({ t with rows := rows }.mark 1 g r.1.2).mark 2 g (!r.1.1)

/-- Spill a group (R99), its rows counted (R475). -/
def spillGroup (c : Cfg) (g : Nat) : M Unit := do
  let v := (← get).tun.grp g
  needPds (halves (gBase v) (gRows v))
  (List.range (gCap v)).forM fun i => bufReady c (512 * gSbuf v + 512 * i)
  (List.range (gCap v)).forM (spillRow c g v)
  modTun fun t => { t.setGrp g (setBits (setBit (t.grp g) 23 true) 47 36 0) with dirty := setBit t.dirty g true }
  modify fun b => countEvents b 0x09 b.core.ps.level b.core.ps.world (gCap v)

/-- A spill is due: the commit that brought CCOUNT to SPILL has been made (R96). -/
def spillDue (t : Tun) (g : Nat) : Bool :=
  let v := t.grp g
  gOpen v && gSums v && decide (gSpill v ≠ 0) && decide (gCcount v = gSpill v)

/-- The group whose spill is made next: where a TBWD left two due, that of gx comes first (R126). -/
def nextSpill (t : Tun) : Option Nat := (t.gx.toNat :: List.range 16).find? (spillDue t)

/-- The next due spill made, when its rows and its buffer are ready; a beat that fails on its way stops it (R315). -/
def settleOne (c : Cfg) (b : Blk) : Blk :=
  match nextSpill b.tun with
  | some g =>
    match spillGroup c g b with
    | .ok _ b1 => b1
    | .error .fatal b1 => b1
    | .error _ _ => b
  | none => b

/-- A due spill of group g made, once it is the next. -/
def trySpill (c : Cfg) (b : Blk) (g : Nat) : Blk := if nextSpill b.tun = some g then settleOne c b else b

/-- Make the spills that are due, two at most (R126): every later instruction comes after them (R69, R101). -/
def settle (c : Cfg) (b : Blk) : Blk := settleOne c (settleOne c b)

/-- Wait while a spill that is due could not be made. -/
def settled (c : Cfg) : M Unit := do
  match nextSpill (← get).tun with
  | some g =>
    let _ ← spillGroup c g
    waitFor .other
  | none => pure ()

end Sys2Proof.Machine
end

