-- ==== Sys2Proof/Machine/Ops.lean ====
section
/-! DEFINITION. Running one command of the main core: issue, fetch, the instruction's computation, retirement, trap or wait. -/

namespace Sys2Proof.Machine

/-- The architectural state of before an instruction, with what the memory system has done since (R217: an instruction
either retires with all its effects or writes nothing). -/
def restoreArch (b0 b1 : Blk) : Blk :=
  { b1 with core := { b0.core with resp := b1.core.resp.map fun r => { r with used := false } }, tile := b0.tile, tun := b0.tun, vec := b0.vec, epi := b0.epi }

/-- The fault record registers that a trap writes (R243, R78, R158, R202, R363), and the deferred window faults (R223). -/
def recordFault (t : Trap) (b : Blk) : Blk :=
  let b := match t.fault with
    | .none => b
    | .core code cr => { b with core := { b.core with cfCode := code, cfCr := cr } }
    | .tile code tile group => { b with tile := { b.tile with tfCode := code, tfTile := tile, tfGroup := group } }
    | .vec code reg => { b with vec := { b.vec with vfCode := code, vfReg := reg } }
    | .chain code cge => { b with chain := { b.chain with chCode := code, chCge := cge } }
  if t.cause = 0x15 then
    let k := t.detail.extractLsb' 2 2
    { b with ports := { b.ports with lkind := if b.core.ps.world then { b.ports.lkind with s := k } else { b.ports.lkind with n := k } } }
  else if t.cause = 0x13 then { b with core := { b.core with spfault := true, spAddr := t.faddr } }
  else if t.cause = 0x14 && t.detail == 3 then { b with core := { b.core with flfault := true, flAddr := t.faddr } }
  else b

/-- The main core locks up (R264, R265): the record, AON_LOCKUP, the Maltster's source 12; it fetches nothing more. -/
def lockup (reason : BitVec 3) (cause : BitVec 6) (b : Blk) : Blk :=
  lockupFront (maltSource { b with
    core := { b.core with run := .lockedUp, program := [], blocked := none, replay := false, trapping := none, resp := [] }
    sys := { b.sys with locked := true, lreason := reason, lcause := cause, llevel := b.core.ps.level, lworld := b.core.ps.world,
                        lpc := b.core.pc, aonLockup := true } } 12)

/-- Task states of R235. -/
def taskHalt : BitVec 2 := 0
def taskReady : BitVec 2 := 1
def taskRun : BitVec 2 := 2
def taskWait : BitVec 2 := 3

/-- The banks of service mode (R233). -/
def Core.banks (k : Core) : Nat := if k.svcBanks = 0 then 0 else 8 * 2 ^ (k.svcBanks.toNat - 1)

/-- At an instruction boundary in service mode the lowest-numbered READY task runs if the running task left RUN or has a
higher number (R235); the switched-out task's PC is kept and its unretired commands are abandoned. -/
def reschedule (b : Blk) : Blk :=
  let k := b.core
  if !k.svc then b
  else
    let cur := k.svcTask.toNat
    let running := k.taskStat.get cur == taskRun
    match (List.range k.banks).find? fun t => k.taskStat.get t == taskReady with
    | none => b
    | some t =>
      if running && decide (cur < t) then b
      else
        let stat := if running then k.taskStat.set cur taskReady else k.taskStat
        let pcs := k.taskPcs.set cur k.pc
        { b with core := { k with
            taskStat := stat.set t taskRun, svcTask := BitVec.ofNat 6 t, taskPcs := pcs, pc := pcs.get t
            program := [], blocked := none, trapping := none } }

/-- An instruction boundary of the main core: the pending epoch applies (R346). -/
def boundary (b : Blk) : Blk :=
  match epochReady b with
  | some e => { b with rings := { b.rings with epCore := e } }
  | none => b

/-- The instruction is over: the kept responses go. -/
def endInstr (b : Blk) : Blk := { b with core := { b.core with resp := [], blocked := none, replay := false } }

/-- Retirement of an instruction of the context `ps`: it counts (R474), a task switch may follow (R235). -/
def retire (ps : Pstate) (b : Blk) : Blk := boundary (reschedule (countFixed (endInstr b) ps 1 1))

/-- The block with the counters of before. -/
def uncount (b0 b1 : Blk) : Blk := { b1 with obs := { b1.obs with cnt := b0.obs.cnt } }

/-- INSPECT is counted by no counter (R474, R480): what it has done with the counters as they were. -/
def ownCounts (i : Instr) (b0 b1 : Blk) : Blk :=
  match i with
  | .inspect _ _ => uncount b0 b1
  | _ => b1

/-- Retirement of an instruction tried in block b0. -/
def retireOf (i : Instr) (b0 b1 : Blk) : Blk :=
  match i with
  | .inspect _ _ => boundary (reschedule (endInstr (uncount b0 b1)))
  | _ => retire b0.core.ps b1

/-- The instruction waits as the head of `program`. -/
def waitHead (i : Instr) (w : WaitOn) (b0 b1 : Blk) : Blk :=
  let b := restoreArch b0 b1
  { b with core := { b.core with program := i :: b0.core.program, blocked := some w, replay := false } }

/-- The core stops at an access that met a fatal error (R308): the access does not retire. -/
def stopCore (b0 b1 : Blk) : Blk :=
  let b := restoreArch b0 b1
  { b with core := { b.core with run := .stopped, program := [], blocked := none, replay := false, trapping := none, resp := [] } }

/-- After an entry: the younger commands are abandoned, the kept responses and CHRECV's count go. -/
def entered (b : Blk) : Blk :=
  boundary { b with
    core := { b.core with program := [], blocked := none, replay := false, trapping := none, resp := [] }, chain := { b.chain with recvSince := none } }

/-- The entry for a synchronous exception waits: the instruction stays the head of `program`, and its exception is held with what it has
done so far, so that nothing of it happens twice. -/
def waitEntry (i : Instr) (t : Trap) (w : WaitOn) (b0 b1 : Blk) : Blk :=
  let b := waitHead i w b0 b1
  { b with core := { b.core with trapping := some t }, chain := { b.chain with recvSince := none } }

/-- Take a synchronous exception of the instruction at `b0`'s PC (R252, R253); a frozen or failed entry locks up; an entry
that must wait is tried again. -/
def takeTrap (c : Cfg) (i : Instr) (t : Trap) (b0 b1 : Blk) : Blk :=
  let base := recordFault t (if t.keep then { b1 with core := { b1.core with pc := b0.core.pc } } else restoreArch b0 b1)
  match enterTrap c t b0.core.pc base with
  | .ok _ b2 => entered b2
  | .error (.wait w) b2 => waitEntry i t w base b2
  | .error (.lockup r cause) b2 => lockup r cause (restoreArch base b2)
  | .error .fatal b2 => stopCore b0 b2
  | .error (.trap t2) b2 => lockup 3 t2.cause (restoreArch base b2)

/-- The kept responses of an instruction that ends here go: an entry makes its own reads. -/
def dropResp (b : Blk) : Blk := { b with core := { b.core with resp := [] } }

/-- Run an instruction's computation as the oldest one. -/
def runHead (c : Cfg) (i : Instr) (m : M Unit) (b0 : Blk) : Blk :=
  match m b0 with
  | .ok _ b1 => retireOf i b0 b1
  | .error (.trap t) b1 => takeTrap c i t b0 (dropResp (ownCounts i b0 b1))
  | .error (.wait w) b1 => waitHead i w b0 (ownCounts i b0 b1)
  | .error (.lockup r cause) b1 => lockup r cause (restoreArch b0 b1)
  | .error .fatal b1 => stopCore b0 b1

/-- A core that sleeps in CR_SLEEP fetches again in Run once a source is pending and enabled (R412). -/
def awaken (b : Blk) : Blk :=
  if b.core.run = .sleeping && b.pwr.state = .run && anyPendingEnabled b then
    { b with core := { b.core with run := .running }, pwr := { b.pwr with deep := false } }
  else b

/-- Can the main core execute: it runs, its domains PD2 to PD4 run (R10), and in service mode the selected task is in RUN (R235). -/
def coreReady (b : Blk) : Bool :=
  (b.core.run == .running) && pdRuns b 2 && pdRuns b 3 && pdRuns b 4 && (!b.core.svc || b.core.taskStat.get b.core.svcTask.toNat == taskRun)

/-- The core wait of the running stream, if one is in the table. -/
def ownWait (b : Blk) : Option WaitEntry :=
  b.sync.waits.find? fun w => match w.kind with
    | .coreWait t _ => t == b.core.svcTask
    | _ => false

/-- Free the core waits of a task (R212). -/
def freeCoreWaits (b : Blk) (task : BitVec 6) : Blk :=
  { b with sync := { b.sync with waits := b.sync.waits.filter fun w => match w.kind with
      | .coreWait t _ => !(t == task && w.state == .armed)
      | _ => true } }

/-- The main core's own blocking wait is ARMED: an interrupt may free it (R212). -/
def ownArmed (b : Blk) : Bool := match ownWait b with | some w => w.state == .armed | none => false

/-- The oldest instruction can be abandoned (R252): it has made nothing that would be made twice, waits for no world-switch wipe
(R448), no accepted PREEMPT (R343), no entry for an exception of its own (R253), and no notification that is pending (R212). -/
def abandonable (b : Blk) : Bool :=
  !anyOutst b (fun o => (o.purpose == .core && o.op == .at) || o.purpose == .syncCore) &&
  !b.core.resp.any (fun r => r.op == .at || (r.op == .sy && r.be != 0)) &&
  b.core.trapping.isNone && !b.sync.queue.any (fun q => q.src == .core) && b.sync.coreDone.isNone && b.rings.preempting.isNone &&
  !(b.sys.kiln.toList ++ b.sys.kilnQueue).any (fun w => w.uworld.isSome) &&
  (match ownWait b with | some w => w.state == .armed | none => true)

/-- A stream takes interrupts: in service mode the task of CR_SVC runs, or waits in an ARMED SWAIT (R212, R235, log 26). -/
def streamRuns (b : Blk) : Bool :=
  b.core.run == .running && b.pwr.state == .run && (coreReady b || (b.core.taskStat.get b.core.svcTask.toNat == taskWait && ownArmed b))

/-- What the abandoned instructions leave behind (R212, R201): the stream's armed wait is freed, CHRECV's count restarts, and
responses to their reads are dropped. -/
def abandon (b : Blk) : Blk :=
  let b := freeCoreWaits b b.core.svcTask
  let drop (os : List Outst) : List Outst := os.map fun o => if o.purpose = .core then { o with purpose := .discard } else o
  { b with
    core := { b.core with taskStat := if b.core.svc then b.core.taskStat.set b.core.svcTask.toNat taskRun else b.core.taskStat }
    chain := { b.chain with recvSince := none }, ports := { b.ports with outMp := drop b.ports.outMp, outFp := drop b.ports.outFp } }

/-- The first thing that an instruction boundary does (R252): the takeable interrupt of the highest level, the lowest source among equals,
is entered, and the oldest unretired instruction is abandoned. None: no interrupt is taken. -/
def boundaryEntry (c : Cfg) (b : Blk) : Option Blk :=
  match bestInterrupt b with
  | none => none
  | some (i, t) =>
    if !streamRuns b || !abandonable b then none
    else
      let b := if b.core.program.head? = some .interruptEntry then b else dropResp b
      some (match enterInterrupt c i t b with
      | .ok _ b1 => entered (abandon b1)
      | .error (.wait w) b1 => waitHead .interruptEntry w b b1
      | .error (.lockup r cause) b1 => lockup r cause (restoreArch b b1)
      | .error .fatal b1 => stopCore b b1
      | .error (.trap t2) b1 => lockup 3 t2.cause (restoreArch b b1))

/-- Offer an instruction to the main core: executed when nothing older waits, else queued behind it (R215). At the boundary before it an
interrupt that is takeable comes first (R252). A core that does not fetch ignores it. -/
def runCore (c : Cfg) (i : Instr) (m : M Unit) (b : Blk) : Blk :=
  let b := awaken b
  if !coreReady b then b
  else if !b.core.replay && !b.core.program.isEmpty then { b with core := { b.core with program := b.core.program ++ [i] } }
  else match boundaryEntry c b with
    | some b1 => b1
    | none =>
      if b.core.replay then
        let b0 := { b with core := { b.core with program := b.core.program.drop 1, replay := false, blocked := none, trapping := none } }
        match b.core.trapping with
        | some t => takeTrap c i t b0 b0
        | none => runHead c i m b0
      else runHead c i m (boundary b)

/-- Fetch the `n` words of an instruction: the command says which one they spell (log 9), but words that spell none are
refused. An instruction comes after the spills of the commits before it (R69). -/
def fetch (c : Cfg) (n : Nat) : M Unit := do
  let pc := (← get).core.pc
  let w ← fetchWord c pc
  if !isLong w then refuseReserved (decode w 0)
  if n = 2 then
    let w2 ← fetchWord c (pc + 4)
    if isLong w then refuseReserved (decode w w2)
  settled c

/-- An instruction of `n` words that goes on to the next one: fetch, effect, PC (R228). -/
def seqOp (c : Cfg) (n : Nat) (body : M Unit) : M Unit := do
  fetch c n
  body
  modCore fun k => { k with pc := k.pc + BitVec.ofNat 64 (4 * n) }

/-- An instruction that sets the PC itself. -/
def jumpOp (c : Cfg) (body : M Word) : M Unit := do
  fetch c 1
  let t ← body
  modCore fun k => { k with pc := t }

/-- An instruction offered to the main core after the spills that the commits before it made due (R69). -/
def offered (s : State) (i : Instr) (m : M Unit) : Blk := runCore s.cfg i m (settle s.cfg s.blk)

/-- exec of a one-word instruction of the main core. -/
def coreSeq (s : State) (i : Instr) (body : M Unit) : Host.Outcome State Fault Refusal :=
  .next { s with blk := offered s i (seqOp s.cfg 1 body) }

/-- exec of a two-word instruction of the main core (R110, R140). -/
def coreSeq2 (s : State) (i : Instr) (body : M Unit) : Host.Outcome State Fault Refusal :=
  .next { s with blk := offered s i (seqOp s.cfg 2 body) }

/-- exec of an instruction that sets the PC. -/
def coreJump (s : State) (i : Instr) (body : M Word) : Host.Outcome State Fault Refusal :=
  .next { s with blk := offered s i (jumpOp s.cfg body) }

/-- exec of a command of the rest of the block that leaves the configuration. -/
def blkNext (s : State) (f : Blk → Blk) : Host.Outcome State Fault Refusal := .next { s with blk := f s.blk }

end Sys2Proof.Machine
end

