-- ==== Sys2Proof/Machine/SyncOps.lean ====
section
/-! DEFINITION. Sync objects, the wait table, and sync targets (08). -/

namespace Sys2Proof.Machine

/-- Secure sync objects in units of 256 (R432, R433). -/
def effSecobj (c : Cfg) (b : Blk) : Nat := if secureForcedZero b then 0 else c.secobj.toNat

/-- The world of a sync object (R432). -/
def objWorld (c : Cfg) (b : Blk) (obj : BitVec 16) : Bool := decide (obj.toNat < 256 * effSecobj c b)

/-- Entry n of the communication group table (R189). -/
def cge (b : Blk) (n : Nat) : CgtEntry := alGet b.chain.cgt CgtEntry.zero n

def setCge (b : Blk) (n : Nat) (e : CgtEntry) : Blk := { b with chain := { b.chain with cgt := alPut b.chain.cgt n e } }

/-- A sync operation on a value: the new value and the status (R205, R214). -/
def syncNew (op : Nat) (v x : W32) : W32 × BitVec 8 :=
  if op = 0 then (v, 0)
  else if op = 1 then (if v.toNat + x.toNat > 0xFFFFFFFF then (0xFFFFFFFF, 1) else (v + x, 0))
  else if op = 2 then (x, 0)
  else if op = 3 then (if x.toNat ≤ v.toNat then (v - x, 0) else (v, 2))
  else (if v.toNat < x.toNat then x else v, 0)

/-- A wait's condition (R208). -/
def condHolds (cond : BitVec 2) (v tgt : W32) : Bool :=
  if cond = 0 then decide (tgt.toNat ≤ v.toNat) else if cond = 1 then v == tgt else v != tgt

/-- The ARMED waits on an object, evaluated in the order of arming (R212). -/
def evalWait (obj : BitVec 16) (b : Blk) (num : BitVec 8) : Blk :=
  match b.sync.waits.find? (fun w => w.num == num) with
  | none => b
  | some w =>
    let v := b.sync.objs.get obj.toNat
    if w.state != .armed || w.obj != obj || !condHolds w.cond v w.tgt then b
    else
      let waits := b.sync.waits.map fun x => if x.num = num then { x with state := .fired, value := v } else x
      let objs := if w.consume then b.sync.objs.set obj.toNat (v - w.tgt) else b.sync.objs
      { b with sync := { b.sync with waits := waits, objs := objs } }

/-- The numbers of an object's ARMED waits in the order of arming. -/
def armedOn (b : Blk) (obj : BitVec 16) : List (BitVec 8) :=
  ((b.sync.waits.filter fun w => w.state == .armed && w.obj == obj).mergeSort (fun x y => decide (x.order ≤ y.order))).map fun w => w.num

def evalWaits (b : Blk) (obj : BitVec 16) : Blk := (armedOn b obj).foldl (evalWait obj) b

/-- The engine applies one operation (R204, R205, R212): status and old value; the other world gets 0x03 and zero. Where its beats fail the block
is in fatal state, and the operation has the status of one with no response (R315, log 78). -/
def applySync (c : Cfg) (op : Nat) (obj : BitVec 16) (x : W32) (world : Bool) (b : Blk) : (BitVec 8 × W32) × Blk :=
  if objWorld c b obj ≠ world then ((3, 0), b)
  else
    let k := tryCross world (if op = 0 then 1 else 2) b
    if !k.1 then ((9, 0), k.2)
    else
      let b := k.2
      let v := b.sync.objs.get obj.toNat
      let r := syncNew op v x
      ((r.2, v), evalWaits { b with sync := { b.sync with objs := b.sync.objs.set obj.toNat r.1 } } obj)

/-- A resolved sync target (R206). -/
inductive SyncTarget where
  | here (obj : BitVec 16)
  | remote (node : BitVec 17) (block : BitVec 10) (obj : BitVec 16)
deriving DecidableEq, Repr

/-- Resolve a node, block and object: remote nodes pass the redirect table of an epoch; this block acts as local (R206). -/
def targetOf (c : Cfg) (b : Blk) (epoch : BitVec 16) (node : BitVec 17) (block : BitVec 10) (obj : BitVec 16) : SyncTarget :=
  let n := redirectNode c (tableFor b epoch) node
  if n = c.node && block == c.block then .here obj else .remote n block obj

/-- A target word's checks (R206, R209): true when a reserved bit, a reserved MODE or an unused field is nonzero. -/
def targetIllegal (t : Word) : Bool :=
  let mode := bits t 44 43
  decide (bits t 63 51 ≠ 0) || decide (mode = 3) ||
    (decide (mode ≠ 1) && decide (bits t 42 16 ≠ 0)) || (decide (mode ≠ 2) && decide (bits t 50 45 ≠ 0))

/-- The request of a remote sync operation (R207, R386). -/
def syqRequest (node : BitVec 17) (block : BitVec 10) (obj : BitVec 16) (op : Nat) (x : W32) (world : Bool) (p : Purpose) : Request :=
  { op := .sy, addr := BitVec.ofNat 64 (node.toNat + block.toNat * 2 ^ 17 + obj.toNat * 2 ^ 32), be := BitVec.ofNat 64 op
    operand := x.zeroExtend 64, data := 0, world := world, purpose := p }

/-- The status that a remote response returns to the requester (R207). -/
def syrStatus (op : Nat) (status : BitVec 8) : BitVec 8 :=
  if status = 0 || status = 3 || status = 9 then status
  else if status = 1 && op == 1 then 1
  else if status = 2 && op == 3 then 2
  else 9

/-- rd of a sync result (R205, R212): value [31:0], status [39:32], handle [55:40]. -/
def syncRd (value : W32) (status : BitVec 8) (handle : BitVec 16) : Word :=
  BitVec.ofNat 64 (value.toNat + status.toNat * 2 ^ 32 + handle.toNat * 2 ^ 40)

/-- The lowest-numbered FREE entry of the wait table (R210). -/
def freeWait (b : Blk) : Option Nat := (List.range 256).find? fun n => !b.sync.waits.any fun w => w.num.toNat == n

/-- Arm a wait in an entry: its generation increments (R211). Answers the handle. -/
def armWait (b : Blk) (n : Nat) (kind : WaitKind) (obj : BitVec 16) (world : Bool) (cond : BitVec 2) (consume : Bool)
    (tgt tmo : W32) : BitVec 16 × Blk :=
  let gen := b.sync.gens.get n + 1
  let w : WaitEntry := { num := BitVec.ofNat 8 n, gen := gen, state := .armed, kind := kind, obj := obj, world := world, cond := cond
                         consume := consume, tgt := tgt, tmo := tmo, armedAt := b.pwr.sclk, order := b.sync.order, value := 0 }
  (BitVec.ofNat 16 (n + 256 * gen.toNat),
   { b with sync := { b.sync with waits := b.sync.waits ++ [w], gens := b.sync.gens.set n gen, order := b.sync.order + 1 } })

def freeWaitEntry (b : Blk) (num : BitVec 8) : Blk :=
  { b with sync := { b.sync with waits := b.sync.waits.filter fun w => w.num != num } }

def WaitEntry.handle (w : WaitEntry) : BitVec 16 := BitVec.ofNat 16 (w.num.toNat + 256 * w.gen.toNat)

/-- What arming answers at once, or the handle of an entry armed (R210). -/
inductive ArmResult where
  | now (status : BitVec 8) (value : W32)
  | armed (handle : BitVec 16)
deriving DecidableEq, Repr

/-- SWAIT's and a job wait's arming (R210, R339). With status 0x05 the value given is the object's, which the spec does not state, nor the handle of
a result at once, which is 0 (log 90). -/
def arm (c : Cfg) (kind : WaitKind) (obj : BitVec 16) (world : Bool) (cond : BitVec 2) (consume : Bool) (tgt tmo : W32) (b : Blk) :
    ArmResult × Blk :=
  if objWorld c b obj ≠ world then (.now 3 0, b)
  else
    let k := tryCross world 1 b
    if !k.1 then (.now 9 0, k.2)
    else
    let b := k.2
    let v := b.sync.objs.get obj.toNat
    if condHolds cond v tgt then
      (.now 0 v, if consume then evalWaits { b with sync := { b.sync with objs := b.sync.objs.set obj.toNat (v - tgt) } } obj else b)
    else if tmo = 0 then (.now 4 v, b)
    else match freeWait b with
      | none => (.now 5 v, b)
      | some n =>
        let r := armWait b n kind obj world cond consume tgt tmo
        (.armed r.1, r.2)

end Sys2Proof.Machine
end

