-- ==== Sys2Proof/Machine/TileOps.lean ====
section
/-! DEFINITION. Tiles, Tun rows and groups, spills, and the checks of tile instructions (03, 04, 05). -/

namespace Sys2Proof.Machine

/-- Fields of the second word (R62). -/
structure Shape where
  m : Nat
  n : Nat
  kb : Nat
  fmt : Nat
  bsc : Bool
  bsz : Bool
  grp : Nat
  tfeed : Bool
deriving DecidableEq, Repr

def shapeOf (w2 : W32) : Shape :=
  { m := bits w2 5 0 + 1, n := bits w2 11 6 + 1, kb := bits w2 15 12, fmt := bits w2 19 16, bsc := bit w2 20, bsz := bit w2 21
    grp := bits w2 25 22, tfeed := bit w2 26 }

/-- First-word fields of R110. -/
def fRA (w1 : BitVec 21) : BitVec 5 := BitVec.ofNat 5 (bits w1 20 16)
def fRB (w1 : BitVec 21) : BitVec 5 := BitVec.ofNat 5 (bits w1 15 11)
def fRC (w1 : BitVec 21) : BitVec 5 := BitVec.ofNat 5 (bits w1 6 2)
def fTD (w1 : BitVec 21) : Nat := bits w1 10 7
def fTB (w1 : BitVec 21) : Nat := bits w1 6 3

/-- The block size BSZ names (R29). -/
def blockSize (bsz : Bool) : Nat := if bsz then 32 else 16

/-- K_e of R63 for a format code. -/
def kElems (fmt kb : Nat) : Nat :=
  let k := 4 * (kb + 1)
  if fmt = 0 then k / 2 else if fmt = 3 then 2 * k else k

/-- Products per step (R52). -/
def stepWidth (fmt : Nat) : Nat := if fmt = 0 then 2 else if fmt = 3 then 8 else 4

/-! Tiles (R56–R58). -/

def TileFile.used (tf : TileFile) (t : Nat) : Bool := bit tf.inuse t

/-- Row r of tile t as it reads (R58). -/
def TileFile.row (tf : TileFile) (t r : Nat) : Piece := if tf.used t then tf.rows.get (64 * t + r) else 0
/-- Row r's scale area as it reads. -/
def TileFile.scale (tf : TileFile) (t r : Nat) : Word := if tf.used t then tf.scales.get (64 * t + r) else 0
/-- The tag byte as it reads: FMT [3:0], BSC [4], BSZ [5]; 0 for a released tile. -/
def TileFile.tag (tf : TileFile) (t : Nat) : BitVec 6 := if tf.used t then tf.tags.get t else 0

def mkTag (fmt : Nat) (bsc bsz : Bool) : BitVec 6 := BitVec.ofNat 6 (fmt + 16 * bsc.toNat + 32 * bsz.toNat)

/-- The tag comparison of R57; a released tile matches anything (R58). -/
def TileFile.tagOk (tf : TileFile) (t fmt : Nat) (bsc bsz : Bool) : Bool := !tf.used t || tf.tags.get t == mkTag fmt bsc bsz

/-- A tile's storage made zero. -/
def TileFile.zero (tf : TileFile) (t : Nat) : TileFile :=
  { tf with rows := tf.rows.clear (64 * t) (64 * t + 64), scales := tf.scales.clear (64 * t) (64 * t + 64), tags := tf.tags.set t 0 }

/-- An instruction begins to write a tile: its in-use and dirty bits and its tag (R57, R58, R74, R75). -/
def TileFile.begin_ (tf : TileFile) (t : Nat) (tag : BitVec 6) : TileFile :=
  let tf := if tf.used t then tf else tf.zero t
  { tf with inuse := setBit tf.inuse t true, dirty := setBit tf.dirty t true, tags := tf.tags.set t tag }

def TileFile.putRow (tf : TileFile) (t r : Nat) (v : Piece) : TileFile := { tf with rows := tf.rows.set (64 * t + r) v }
def TileFile.putScale (tf : TileFile) (t r : Nat) (v : Word) : TileFile := { tf with scales := tf.scales.set (64 * t + r) v }

/-- A tile released (R74, R123). -/
def TileFile.release (tf : TileFile) (t : Nat) : TileFile :=
  { tf with inuse := setBit tf.inuse t false, dirty := setBit tf.dirty t false }

/-! Vector registers as moves see them (R136, R162). -/

def readV (v : BitVec 5) : M VReg := do return (← get).vec.v.get v.toNat

def Vec.put (x : Vec) (v : Nat) (d : VReg) : Vec := { x with v := x.v.set v d, vdirty := setBit x.vdirty (v / 4) true }

def writeV (v : BitVec 5) (d : VReg) : M Unit := modVec fun x => x.put v.toNat d

/-! Closes (R100, R102). -/

/-- One row of a close (R100). -/
def closeRow (c : Cfg) (g : Nat) (v : Word) (i : Nat) : M Unit := do
  if gSpilled v then bufReady c (512 * gSbuf v + 512 * i)
  tunCross (2 * gHeld v 1)
  let bad ← if gSpilled v then liftBlk (bufBeats c (512 * gSbuf v + 512 * i)) else pure []
  let b ← get
  let main := b.tun.rows.get (gBase v + i)
  let comp := if gClass v = 1 then b.tun.rows.get (gBase v + gCap v + i) else 0
  let r := (List.range 64).foldl (fun (a : (List W32 × Bool × Bool × Bool) × Blk) j =>
    let q : (Word × Bool) × Blk :=
      if gSpilled v then readBuf c bad (512 * gSbuf v + 512 * i + 8 * j) a.2 else ((0, true), a.2)
    let z := closeEntry (decide (gClass v = 1)) (entry main j) (entry comp j) (if gSpilled v then some q.1.1 else none)
    ((a.1.1 ++ [z.1], a.1.2.1 || z.2.1, a.1.2.2.1 || z.2.2, a.1.2.2.2 && q.1.2), q.2)) (([], false, false, true), b)
  set r.2
  modTun fun t =>
    let rows := t.rows.set (gBase v + i) (ofLanes 2048 r.1.1)
    let rows := if gClass v = 1 then rows.set (gBase v + gCap v + i) 0 else rows
    (({ t with rows := rows }.mark 0 g r.1.2.1).mark 1 g r.1.2.2.1).mark 2 g (!r.1.2.2.2)

/-- TGCLOSE with release bit 0 (R90, R128). -/
def closeGroup (c : Cfg) (g : Nat) : M Unit := do
  let v := (← get).tun.grp g
  if gFinal v then return ()
  let folds := gSums v && (gSpilled v || decide (gClass v = 1))
  if folds then
    needPds (halves (gBase v) (gRows v))
    (List.range (gCap v)).forM (closeRow c g v)
  modTun fun t =>
    let t := t.setGrp g (setBit (t.grp g) 22 true)
    if folds then { t with dirty := setBit t.dirty g true } else t

/-- The tile engine accepts an instruction: a pending epoch applies to it (R346). -/
def tileAccept : M Unit := modify fun b =>
  match epochReady b with
  | some e => { b with rings := { b.rings with epTile := e } }
  | none => b

/-- The steps that the array makes for `m` output rows, each pass of `n` steps (R55, R68), are counted (R474). -/
def countSteps (c : Cfg) (m n : Nat) (b : Blk) : Blk :=
  countFixed b b.core.ps 2 (ceilDiv (ceilDiv m 8) c.rgroups.toNat * n)

/-! Checks (R78). -/

/-- A reserved bit or encoding: code 0x01. -/
def need01 (p : Bool) : M Unit := check p (tileFault 1 0 0)

/-- Second-word bits outside a mask must be zero (R62, R112). -/
def onlyBits (w : BitVec w') (mask : Nat) : Bool := decide (w.toNat &&& mask = w.toNat)

/-- Second-word fields as masks (R62). -/
def mROWS : Nat := 0x3F
def mCOLS : Nat := 0xFC0
def mKB : Nat := 0xF000
def mFMT : Nat := 0xF0000
def mBSC : Nat := 0x100000
def mBSZ : Nat := 0x200000
def mGRP : Nat := 0x3C00000
def mTFEED : Nat := 0x4000000

/-- Check 0x02: FMT is one of those accepted. -/
def need02 (fmt : Nat) (ok : List Nat) : M Unit := check (ok.contains fmt) (tileFault 2 0 0)

/-- Formats of moves and TEPI: W16, K8, K8W, Q4, B32 (R112). -/
def moveFmts : List Nat := [0, 1, 2, 3, 8]

/-- Check 0x05 on a list of tiles: the first that fails is recorded. Of several the spec names none first: they are taken in the order A, B, B + 1
(TBWD: G, then W's pair, then X's), the model's own (log 86). -/
def need05 (fmt : Nat) (bsc bsz : Bool) (ts : List Nat) : M Unit :=
  ts.forM fun t => do check ((← get).tile.tagOk t fmt bsc bsz) (tileFault 5 t 0)

/-- The tiles of an operand that may be a pair (R66, R78). -/
def pairOf (wide : Bool) (t : Nat) : List Nat := if wide && decide (t % 2 = 0) then [t, t + 1] else [t]

/-- Check 0x06: a pair named by an odd tile. -/
def need06 (wide : Bool) (t : Nat) : M Unit := check (!(wide && decide (t % 2 = 1))) (tileFault 6 t 0)

/-- Check 0x08. -/
def need08 (p : Bool) (g : Nat) : M Unit := check p (tileFault 8 0 g)

/-- Check 0x09: rows up to `n` lie in the group. -/
def need09 (v : Word) (n g : Nat) : M Unit := check (decide (n ≤ gCap v)) (tileFault 9 0 g)

/-- A group's state for TEPI and TSTORE from Tun rows (R89). -/
def readableGroup (v : Word) : Bool :=
  gOpen v && (!(decide (gClass v = 1) || (decide (gClass v = 0) && decide (gSpill v ≠ 0))) || gFinal v)

/-- Domains of the tile file and of the row groups in use (R54, R59). -/
def pdsMove : List Nat := [14]
def pdsArray (c : Cfg) : List Nat := 14 :: (List.range c.rgroups.toNat).map fun k => 6 + k

/-! Memory side of moves (R116–R118, R73). -/

/-- Read the running context. -/
def runningCtx : M (BitVec 2 × Bool) := do return ctxOf (← get)

/-- Translate and check `n` bytes within a piece at `va` for a move; faults carry `faddr`. Answers the LTS offset. -/
def locateLts (c : Cfg) (acc : Acc) (va : Word) (n : Nat) (faddr : Word) : M Nat := do
  let (l, w) ← runningCtx
  let g ← try translateCore c acc l w va
    catch
      | .trap t => throw (.trap { t with faddr := faddr })
      | e => throw e
  let b ← get
  let a := redirect c b b.rings.epCore g
  if inOwnLts c a then
    match route c a with
    | .lts o =>
      if l ≠ 2 && !inPartition c b w o n then raise 0x0E 3 faddr
      if !(quarterOk c o && quarterOk c (o + n - 1)) then raise 0x0E 4 faddr
      return o
    | _ => raise 0x0E 2 faddr
  else match resolve c b a n w (l == 2) acc.need true with
    | .error (.region r d) => raise 0x0D (regionDetail acc.code w d r false) faddr
    | .error .unassigned => raiseWalk { stage2 := l != 2, level := 0, reason := 11, walk := false, ipa := 0 } acc faddr
    | _ => raise 0x0E 2 faddr

/-- The LTS offsets of the 64-byte pieces of a row of `n` pieces at `va`. -/
def locateRow (c : Cfg) (acc : Acc) (va : Word) (n : Nat) : M (List Nat) :=
  (List.range n).mapM fun q => locateLts c acc (va + BitVec.ofNat 64 (64 * q)) 64 va

/-- Row r's address (R117). -/
def rowAddr (ra rb : Word) (r : Nat) : Word := ra + BitVec.ofNat 64 r * rb

/-- The pieces (address, length) of a byte range. -/
def rangePieces : Nat → Word → Nat → List (Word × Nat)
  | 0, _, _ => []
  | f + 1, a, n =>
    if n = 0 then []
    else
      let k := Nat.min n (64 - a.toNat % 64)
      (a, k) :: rangePieces f (a + BitVec.ofNat 64 k) (n - k)

/-- The misaligned reason, found before any translation (R118). -/
def moveAligned (ra rb : Word) (rc : Option Word) : M Unit := do
  check (ra.toNat % 64 == 0) (raise 0x0E 1 ra)
  check (rb.toNat % 64 == 0) (raise 0x0E 1 (ra + rb))
  match rc with
  | some a => check (a.toNat % 8 == 0) (raise 0x0E 1 a)
  | none => pure ()

/-- Read `n` LTS bytes for TLOAD; an uncorrectable word raises cause 0x15 (R73). -/
def readLtsFor (va : Word) (o n : Nat) : M (List Byte) := do
  let w := (← get).core.ps.world
  let r ← liftBlk (ltsRead w o n)
  match r.2 with
  | some _ => accessFail 2 0 va
  | none => return r.1

/-- Write LTS bytes for a move. -/
def writeLtsFor (o : Nat) (bs : List Byte) : M Unit :=
  liftBlk fun b => ((), (ltsWrite b.core.ps.world o bs b).2)

/-- The LTS offsets (VA, offset, length) of the scale range. -/
def locateScales (c : Cfg) (acc : Acc) (rc : Word) (m : Nat) : M (List (Word × Nat × Nat)) :=
  (rangePieces (m + 1) rc (8 * m)).mapM fun p => do return (p.1, ← locateLts c acc p.1 p.2 p.1, p.2)

/-! Operands of multiplies (R65–R67). -/

/-- The format of a code that the checks have accepted. -/
def fmtOf (code : Nat) : Fmt := (Fmt.ofCode code).getD .w16

/-- Element k of tile row r, scaled where BSC is 1. -/
def tileElem (tf : TileFile) (s : Shape) (t r k : Nat) : Ex :=
  let F := fmtOf s.fmt
  scaledElem F s.bsc ((lane 8 (tf.scale t r) (k / blockSize s.bsz)).toNat) (elemCode F (tf.row t r) k)

/-- Element k of the reduction vector of column j of a transposed operand named by tile t (R66). -/
def tileDown (tf : TileFile) (s : Shape) (t j k : Nat) : Ex :=
  let F := fmtOf s.fmt
  if s.fmt = 0 then decodeEx F (elemCode F (tf.row (t + j / 32) k) (j % 32)) else decodeEx F (elemCode F (tf.row t k) j)

/-- Element k of output column j of operand B. -/
def operandB (tf : TileFile) (s : Shape) (t j k : Nat) : Ex := if s.tfeed then tileDown tf s t j k else tileElem tf s t j k

/-- Accumulate a row of products into group row `row`: `xs j` are the products of column j (R95, R98). -/
def commitRow (v : Word) (d S n row : Nat) (xs : Nat → List Ex) (t : Tun) : Tun × Bool × Bool :=
  let comp := decide (gClass v = 1)
  let main := t.rows.get (gBase v + row)
  let cmp := if comp then t.rows.get (gBase v + gCap v + row) else 0
  let outs := (List.range n).map fun j => accumulate comp (gP v) d S (xs j) (entry main j) (entry cmp j)
  let rows := t.rows.set (gBase v + row) (replaceEntries main (outs.map fun o => o.main))
  let rows := if comp then rows.set (gBase v + gCap v + row) (replaceEntries cmp (outs.map fun o => o.comp)) else rows
  ({ t with rows := rows }, outs.any (fun o => o.sat), outs.any (fun o => o.nan))

/-- Keep the best candidates of a row in group row `row` (R103, R125). -/
def commitBest (v : Word) (isMax : Bool) (ibase n row : Nat) (xs : Nat → List Ex) (t : Tun) : Tun × Bool × Bool :=
  let main := t.rows.get (gBase v + row)
  let cmp := t.rows.get (gBase v + gCap v + row)
  let outs := (List.range n).map fun j =>
    let r := bestCand isMax ibase (xs j)
    let old : Cand := { v := entry main j, i := entry cmp j }
    let new := match r.1 with
      | some k => if beats isMax k old then k else old
      | none => old
    (new, r.2, !(new.v == old.v && (new.i == old.i)) && (decodeEx .b32 new.v.toNat).isNaN)
  let rows := t.rows.set (gBase v + row) (replaceEntries main (outs.map fun o => o.1.v))
  let rows := rows.set (gBase v + gCap v + row) (replaceEntries cmp (outs.map fun o => o.1.i))
  ({ t with rows := rows }, outs.any (fun o => o.2.1), outs.any (fun o => o.2.2))

/-- Commit rows one after the other, gathering the flags. -/
def commitRows (f : Nat → Tun → Tun × Bool × Bool) (m : Nat) (t : Tun) : Tun × Bool × Bool :=
  (List.range m).foldl (fun a i =>
    let q := f i a.1
    (q.1, a.2.1 || q.2.1, a.2.2 || q.2.2)) (t, false, false)

/-- The products of output row i and column j (R93). -/
def products (a b : Nat → Ex) (n : Nat) : List Ex := (List.range n).map fun k => cellProduct (a k) (b k)

/-- Lane j's state (R42). -/
def laneState (e : Epi) (j : Nat) : W32 := e.laneX.get j ^^^ seedLane 0 j
def setLaneState (e : Epi) (j : Nat) (v : W32) : Epi := { e with laneX := e.laneX.set j (v ^^^ seedLane 0 j) }

end Sys2Proof.Machine
end

