-- ==== Sys2Proof/Machine/ChainOps.lean ====
section
/-! DEFINITION. The running-sum chain: buffers, matching entries, sends and arrivals (08, R192–R202). -/

namespace Sys2Proof.Machine

/-- Rows of a transfer as they travel (R193). -/
def Transfer.size (t : Transfer) : Nat := t.rows.length

def rowsHeld (ts : List Transfer) : Nat := ts.foldl (fun a t => a + t.size) 0

/-- Transmit and receive buffers by port: 1 West, 2 East (R189, R194). -/
def txBuf (b : Blk) (side : BitVec 2) : List Transfer := if side = 1 then b.chain.txW else b.chain.txE
def rxBuf (b : Blk) (side : BitVec 2) : List Transfer := if side = 1 then b.chain.rxW else b.chain.rxE
def setTx (b : Blk) (side : BitVec 2) (ts : List Transfer) : Blk :=
  { b with chain := if side = 1 then { b.chain with txW := ts } else { b.chain with txE := ts } }
def setRx (b : Blk) (side : BitVec 2) (ts : List Transfer) : Blk :=
  { b with chain := if side = 1 then { b.chain with rxW := ts } else { b.chain with rxE := ts } }

/-- The link of a chain side: Chain Port East is link 2, West link 3 (R398). -/
def chainPort (side : BitVec 2) : BitVec 2 := if side = 1 then 3 else 2

/-- Return a transfer's header and row credits (R389, R394). -/
def returnCredit (b : Blk) (side : BitVec 2) (t : Transfer) : Blk :=
  modLink b (chainPort side) fun l => (l.free 0 1).free 1 t.size

/-- The rows held in a receive buffer: of whole transfers, and of the one that is arriving (R194, R195). -/
def rxRows (b : Blk) (side : BitVec 2) : Nat := rowsHeld (rxBuf b side) + (getLink b (chainPort side)).chainRows.length

/-- Is there room for `n` rows in a transmit buffer (R194, R199)? -/
def txRoom (b : Blk) (side : BitVec 2) (n : Nat) : Bool := decide (rowsHeld (txBuf b side) + n ≤ 64)

/-- The chain operand (R192). -/
structure ChainArg where
  e : Nat
  grp : Nat
  m : Nat
  roff : Nat
deriving DecidableEq, Repr

def chainArg (x : Word) : ChainArg :=
  { e := bits x 5 0, grp := bits x 9 6, m := bits x 15 10 + 1, roff := bits x 26 16 }

/-- Transfer class of a group class: SUM 0, MAX 1, MIN 2 (R193). -/
def transferClass (cls : Nat) : BitVec 2 := if cls < 2 then 0 else if cls = 2 then 1 else 2

/-- Checks 0x01 to 0x06 of R197. -/
def chainChecks (b : Blk) (x : Word) (send : Bool) : M Unit := do
  let a := chainArg x
  check (decide (bits x 63 27 = 0)) (chainFault 1 0)
  let e := cge b a.e
  check (e.valid && (e.world == b.core.ps.world)) (chainFault 2 a.e)
  check (!e.fwd && (if send then e.chout != 0 else e.chin != 0)) (chainFault 3 a.e)
  let v := b.tun.grp a.grp
  check (if send then readableGroup v else gOpen v && !gFinal v) (chainFault 4 a.e)
  check (decide (a.roff + a.m ≤ gCap v)) (chainFault 5 a.e)
  check (gSums v || decide (a.m ≤ 32)) (chainFault 6 a.e)

/-- The rows that CHSEND reads (R193). -/
def sendRows (t : Tun) (a : ChainArg) : List TunRow :=
  let v := t.grp a.grp
  (List.range a.m).flatMap fun i =>
    let main := t.rows.get (gBase v + a.roff + i)
    if gSums v then [main] else [main, t.rows.get (gBase v + gCap v + a.roff + i)]

/-- A load of the table waits for an entry: CHSEND and CHRECV that name it stall (R191). -/
def entryAwaited (b : Blk) (n : Nat) : Bool :=
  match b.chain.cmd with
  | some m => !m.save && m.loaded.isSome && decide (m.next.toNat = n)
  | none => false

/-- One incoming entry of a sum (R200). -/
def arriveSum (comp : Bool) (t c z : W32) : AccOut :=
  let T := decodeEx .b32 t.toNat
  let Z := decodeEx .b32 z.toNat
  if comp then
    let (v, e, f) := roundErr (Ex.add T Z)
    let (k, g) := tunRound (Ex.add (decodeEx .b32 c.toNat) e)
    { main := tunCode v, comp := tunCode k, sat := f || g, nan := v.isNaN }
  else
    let (v, f) := tunRound (Ex.add T Z)
    { main := tunCode v, comp := c, sat := f, nan := v.isNaN }

/-- One arriving row committed into group row `row` (R200). -/
def arriveRow (v : Word) (row : Nat) (z zi : TunRow) (t : Tun) : Tun × Bool × Bool :=
  let main := t.rows.get (gBase v + row)
  let paired := decide (gClass v ≠ 0)
  let cmp := if paired then t.rows.get (gBase v + gCap v + row) else 0
  let outs := (List.range 64).map fun j =>
    if gSums v then arriveSum (decide (gClass v = 1)) (entry main j) (entry cmp j) (entry z j)
    else
      let old : Cand := { v := entry main j, i := entry cmp j }
      let new : Cand := { v := entry z j, i := entry zi j }
      let won := beats (decide (gClass v = 2)) new old
      let k := if won then new else old
      { main := k.v, comp := k.i, sat := false, nan := won && (decodeEx .b32 k.v.toNat).isNaN }
  let rows := t.rows.set (gBase v + row) (ofLanes 2048 (outs.map fun o => o.main))
  let rows := if paired then rows.set (gBase v + gCap v + row) (ofLanes 2048 (outs.map fun o => o.comp)) else rows
  ({ t with rows := rows }, outs.any (fun o => o.sat), outs.any (fun o => o.nan))

/-- The commit of a whole transfer (R200). -/
def arrive (a : ChainArg) (x : Transfer) (t : Tun) : Tun :=
  let v := t.grp a.grp
  let k := if gSums v then 1 else 2
  let r := commitRows (fun i t => arriveRow v (a.roff + i) (x.rows.getD (k * i) 0) (x.rows.getD (k * i + 1) 0) t) a.m t
  r.1.committed a.grp r.2.1 r.2.2 (gSums v)

/-- The blocks of a transfer (R193, R394): its header and two for each row. -/
def Transfer.blocks (t : Transfer) : Nat := 1 + 2 * t.size

/-- Number and send blocks of a transfer, its header alone and then a row of two blocks at a time, while the retry buffer has room for them
(R390, R394). -/
def chainGo (p : BitVec 2) (t : Transfer) : Nat → Link → Link
  | 0, l => l
  | n + 1, l =>
    let k := t.blocks - l.toSend
    let m := if k = 0 then 1 else 2
    if l.toSend = 0 || decide (64 < l.retry.length + m) then l
    else
      let ss : List SentBlock := (List.range m).map fun i => { seq := l.txSeq + BitVec.ofNat 7 i, packets := [], transfers := [t], part := k + i }
      chainGo p t n ({ l with toSend := l.toSend - m, txSeq := l.txSeq + BitVec.ofNat 7 m, retry := l.retry ++ ss }.sendBlocks p ss)

/-- Send of the transfer at the head of a transmit buffer what can be sent now; after its last block it leaves the buffer (R193). -/
def pumpChain (b : Blk) (side : BitVec 2) : Blk :=
  let p := chainPort side
  let l := getLink b p
  match txBuf b side with
  | [] => b
  | t :: rest =>
    if l.state ≠ stUp || l.toSend = 0 then b
    else
      let l := chainGo p t (t.size + 1) l
      let b := setLink b p l
      if l.toSend = 0 then setTx b side rest else b

/-- The valid entry that an arriving transfer matches (R194). -/
def matchEntry (b : Blk) (side : BitVec 2) (t : Transfer) : Option CgtEntry :=
  (b.chain.cgt.find? fun x => x.2.valid && x.2.tag == t.tag && (x.2.world == t.world) && x.2.chin == side).map fun x => x.2

/-- Remove the first transfer equal to one. -/
def removeFirst (t : Transfer) : List Transfer → List Transfer
  | [] => []
  | x :: xs => if x = t then xs else x :: removeFirst t xs

/-- A transfer leaves its receive buffer and its credits return. -/
def takeTransfer (b : Blk) (side : BitVec 2) (t : Transfer) : Blk :=
  returnCredit (setRx b side (removeFirst t (rxBuf b side))) side t

/-- Forward what the receive buffer of a side holds for forwarding entries, in arrival order, as far as the transmit buffer of
each entry's CHOUT has room (R194). -/
def forwardHeld (b : Blk) (side : BitVec 2) : Blk :=
  ((rxBuf b side).foldl (fun (r : Blk × List (BitVec 2)) t =>
    match matchEntry r.1 side t with
    | some e =>
      if !e.fwd then r
      else if r.2.contains e.chout || !txRoom r.1 e.chout t.size then (r.1, e.chout :: r.2)
      else (setTx (takeTransfer r.1 side t) e.chout (txBuf r.1 e.chout ++ [t]), r.2)
    | none => r) (b, [])).1

/-- A transfer arrives (R194): held, forwarded, or discarded with its credit returned. -/
def chainArrive (b : Blk) (side : BitVec 2) (t : Transfer) : Blk :=
  match matchEntry b side t with
  | none =>
    let b := returnCredit b side t
    { b with chain := if side = 1 then { b.chain with dropW := true } else { b.chain with dropE := true } }
  | some _ => forwardHeld (setRx b side (rxBuf b side ++ [t])) side

/-- May a transfer of a header stand (R193, R387, R394): CLASS 0 to 2, 1 to 64 rows, pairs of rows for MAX and MIN? -/
def Transfer.legal (t : Transfer) : Bool :=
  t.cls != 3 && decide (1 ≤ t.size) && decide (t.size ≤ 64) && (t.cls == 0 || decide (t.size % 2 = 0))

/-- CHAIN_TRANSFER_SEND (R193, R389, R396): the oldest waiting transfer begins on an UP link that holds its credits; a dead port
discards what waits. -/
def chainSend (c : Cfg) (b : Blk) (side : BitVec 2) : Blk :=
  let p := chainPort side
  let l := getLink b p
  match txBuf b side with
  | [] => b
  | t :: _ =>
    if portDead c b p then forwardHeld (forwardHeld (setTx (setLink b p { l with toSend := 0 }) side []) 1) 2
    else if l.state ≠ stUp || !pdRuns b 19 || b.err.fatal || l.toSend ≠ 0 || l.credit0 = 0 || decide (l.credit1 < t.size) then b
    else forwardHeld (forwardHeld (pumpChain (setLink b p { (l.spend 0 1).spend 1 t.size with toSend := t.blocks }) side) 1) 2

/-- The oldest held transfer of an entry's TAG and WORLD (R200). -/
def heldFor (b : Blk) (e : CgtEntry) : Option Transfer :=
  (rxBuf b e.chin).find? fun t => t.tag == e.tag && (t.world == e.world)

end Sys2Proof.Machine
end

