-- ==== Sys2Proof/Machine/ExecChain.lean ====
section
/-! DEFINITION. CHSEND and CHRECV (08, R192–R202). -/

namespace Sys2Proof.Machine

/-- Begin the count of CHTMO when CHRECV is first held (R201). -/
def holdRecv (b : Blk) : Blk :=
  { b with chain := { b.chain with recvSince := some (b.chain.recvSince.getD b.pwr.sclk) } }

/-- CHSEND (R197, R199), which the tile engine accepts once the transmit buffer has room (R192). -/
def execChsend (rs1 : BitVec 5) (mbz : BitVec 13) (s : State) : Host.Outcome State Fault Refusal :=
  coreSeq s (.chsend rs1 mbz) (do
    mustBeZero mbz
    let x ← readReg rs1
    let b ← get
    chainChecks b x true
    let a := chainArg x
    let e := cge b a.e
    if entryAwaited b a.e then waitFor .other
    let v := b.tun.grp a.grp
    needPds (19 :: halves (gBase v) (gRows v))
    let rows := sendRows b.tun a
    if !txRoom b e.chout rows.length then waitFor .other
    tileAccept
    tunCross rows.length
    let t : Transfer := { world := e.world, cls := transferClass (gClass v), tag := e.tag, rows := rows }
    modify fun b => setTx (setCge b a.e { e with txCount := e.txCount + 1 }) e.chout (txBuf b e.chout ++ [t]))

/-- CHRECV (R197, R200, R201). -/
def execChrecv (rs1 : BitVec 5) (mbz : BitVec 13) (s : State) : Host.Outcome State Fault Refusal :=
  coreSeq s (.chrecv rs1 mbz) (do
    mustBeZero mbz
    let x ← readReg rs1
    let b ← get
    chainChecks b x false
    let a := chainArg x
    let e := cge b a.e
    modify holdRecv
    if entryAwaited b a.e then waitFor .other
    let v := b.tun.grp a.grp
    needPds (19 :: halves (gBase v) (gRows v))
    match heldFor b e with
    | none => waitFor .other
    | some t =>
      tileAccept
      modify fun b =>
        let b := takeTransfer b e.chin t
        { b with chain := { b.chain with recvSince := none } }
      if t.cls ≠ transferClass (gClass v) || decide (t.size ≠ (if gSums v then a.m else 2 * a.m)) then chainFault 7 a.e
      tunCross (2 * t.size)
      modTun (arrive a t)
      modify fun b => setCge b a.e { e with rxCount := e.rxCount + 1 })

end Sys2Proof.Machine
end

