-- ==== Sys2Proof/Machine/DescOps.lean ====
section
/-! DEFINITION. Descriptors and ring context images: byte order, containers, and the checks and clamps of their fields (07, 13, 14). -/

namespace Sys2Proof.Machine

/-- The byte-order mark (R326). -/
def byteMark : Nat := 0x4B5A

/-- The byte order of an item: big-endian or not, none when it is unreadable (R326). -/
def byteOrder (bs : List Byte) : Option Bool :=
  if natOfLE (bs.take 2) = byteMark then some false
  else if natOfLE ((bs.drop 2).take 2).reverse = byteMark then some true
  else none

/-- The item's bytes with every container turned round: `c64` lists the offsets of its 64-bit containers (R326). -/
def swapGo (c64 : List Nat) : Nat → Nat → List Byte → List Byte
  | 0, _, _ => []
  | n + 1, off, bs =>
    if bs.isEmpty then []
    else
      let k := if c64.contains off then 8 else 4
      (bs.take k).reverse ++ swapGo c64 n (off + k) (bs.drop k)

/-- An item's bytes in little-endian containers, or from little-endian containers to the item's order. -/
def reorder (c64 : List Nat) (big : Bool) (bs : List Byte) : List Byte := if big then swapGo c64 bs.length 0 bs else bs

/-- The offsets of 64-bit containers by ring kind (R339, R351, R166), of an image (R323), of a completion and event entry. -/
def containersOf (kind : Nat) : List Nat :=
  if kind = 1 then [0x08, 0x10, 0x18, 0x20, 0x28, 0x30, 0x50]
  else if kind = 2 then [0x10, 0x18, 0x20, 0x28, 0x30, 0x38]
  else if kind = 3 then [0x18, 0x20, 0x38]
  else [0x08, 0x10, 0x18, 0x30, 0x38, 0x40]

/-- An item being checked: its bytes as one little-endian number, and the clamps so far in check order. -/
structure Chk where
  d : Nat
  clamps : List Clamp
deriving DecidableEq, Repr

/-- Field `[hi:lo]` of the container at byte offset `off`. -/
def fld (d off hi lo : Nat) : Nat := (d >>> (8 * off + lo)) % 2 ^ (hi + 1 - lo)

/-- The item with a field replaced. -/
def putFld (d off hi lo v : Nat) : Nat :=
  let k := 8 * off + lo
  let w := hi + 1 - lo
  d % 2 ^ k + (v % 2 ^ w) <<< k + (d >>> (k + w)) <<< (k + w)

/-- Check one field: a value that `f` changes is clamped to it and reported (R328). -/
def Chk.fix (k : Chk) (off hi lo code : Nat) (f : Nat → Nat) : Chk :=
  let v := fld k.d off hi lo
  let w := f v
  if w = v then k else { d := putFld k.d off hi lo w, clamps := k.clamps ++ [(code, v, w)] }

/-- The reserved bits of aligned 32-bit words: one report for each word that holds one (R328). -/
def Chk.rsvd (k : Chk) (code : Nat) (masks : List (Nat × Nat)) : Chk :=
  masks.foldl (fun k m =>
    let w := fld k.d m.1 31 0
    let bad := w &&& m.2
    if bad = 0 then k else { d := putFld k.d m.1 31 0 (w - bad), clamps := k.clamps ++ [(code, bad, 0)] }) k

def chkOf (bs : List Byte) : Chk := { d := natOfLE bs, clamps := [] }

/-- The common header's checks (R327). -/
def checkHeader (kind : Nat) (k : Chk) : Chk := (k.fix 0 19 16 1 (fun _ => kind)).rsvd 2 [(0, 0xFFC00000)]

/-- Bits [63:48] made copies of bit [47]. -/
def canonize (v : Nat) : Nat := let v := v % 2 ^ 48; if v.testBit 47 then v + 0xFFFF * 2 ^ 48 else v

def clearLow (n v : Nat) : Nat := v / 2 ^ n * 2 ^ n

/-- The clamp of a sync target: a reserved MODE becomes 0, and unused fields are cleared (R339). -/
def clampSigt (v : Nat) : Nat :=
  let m := fld v 0 44 43
  let m := if m = 3 then 0 else m
  v % 2 ^ 16 + m * 2 ^ 43 + (if m = 1 then fld v 0 42 16 * 2 ^ 16 else 0) + (if m = 2 then fld v 0 50 45 * 2 ^ 45 else 0)

/-- A job descriptor's checks after the header (R339). -/
def checkJob (k : Chk) : Chk :=
  let k := k.fix 0x08 63 0 0x11 (fun v => clearLow 2 (canonize v))
  let k := k.fix 0x30 63 0 0x12 (fun v => clearLow 12 (canonize v))
  let k := k.fix 0x40 17 16 0x13 (fun v => if v = 3 then 0 else v)
  let k := k.fix 0x40 19 19 0x14 (fun v => if fld k.d 0x40 17 16 ≠ 0 then 0 else v)
  let k := k.fix 0x50 63 0 0x15 clampSigt
  let k := k.fix 0x58 2 0 0x16 (Nat.min 4)
  k.rsvd 0x10 ([(0x38, 0xFFF00000), (0x3C, 0xFFFFFFFF), (0x40, 0xFFF00000), (0x4C, 0xFFFFFFFF), (0x58, 0xFFFFFFF0), (0x60, 0xFFFE0000)]
    ++ (List.range 7).map fun i => (0x64 + 4 * i, 0xFFFFFFFF))

/-- The bound of a length from an address (R167, R352). -/
def lenBound (ten : Bool) (a : Nat) : Nat := if ten && a.testBit 63 then 2 ^ 64 - a else 2 ^ 47 - a % 2 ^ 47

/-- The smallest distance between the starts of overlapping ranges of one length, if any overlap (R352). -/
def overlap (len : Nat) : List Nat → Option Nat
  | [] => none
  | a :: as =>
    let dist (x : Nat) : Nat := if x ≤ a then a - x else x - a
    (as.foldl (fun best x =>
      if dist x < len then (match best with | some m => some (Nat.min m (dist x)) | none => some (dist x)) else best) (overlap len as))

/-- The clamp of DONE (R351). -/
def clampDone (len dst v : Nat) : Nat :=
  if len < v then len
  else if v = 0 ∨ v = len ∨ (dst + v) % 64 = 0 then v
  else if v < (dst + v) % 64 then 0 else v - (dst + v) % 64

/-- A DMA descriptor's checks after the header (R351, R352). -/
def checkDma (ten : Bool) (k : Chk) : Chk :=
  let k := k.fix 0x08 1 0 0x71 (Nat.min 2)
  let op := fld k.d 0x08 1 0
  let canon (k : Chk) (off code : Nat) : Chk := if ten then k.fix off 63 0 code canonize else k
  let k := if op = 2 then k else canon (canon k 0x10 0x72) 0x18 0x73
  let k := if op = 1 then canon k 0x20 0x74 else k
  let addrs := [fld k.d 0x10 63 0, fld k.d 0x18 63 0] ++ (if op = 1 then [fld k.d 0x20 63 0] else [])
  let bound := addrs.foldl (fun m a => Nat.min m (lenBound ten a)) (2 ^ 47)
  let k := if op = 2 then k else k.fix 0x28 47 0 0x75 (Nat.min bound)
  let k := if op = 2 then k else k.fix 0x28 47 0 0x76 (fun v => (overlap v addrs).getD v)
  let k := k.fix 0x30 63 0 0x77 clampSigt
  let k := k.fix 0x08 5 3 0x78 (Nat.min 4)
  let k := if op = 2 then k else k.fix 0x38 47 0 0x79 (clampDone (fld k.d 0x28 47 0) (fld k.d 0x18 63 0))
  k.rsvd 0x70 [(0x08, 0xFF80), (0x2C, 0xFFFF0000), (0x3C, 0xFFFF0000)]

/-- The partition of a world in the LTS (R313). -/
def partition (c : Cfg) (b : Blk) (world : Bool) : Nat × Nat :=
  if world then (0, 65536 * effSec c b) else (65536 * effSec c b, ltsSize)

/-- The place of an area of `size` bytes in a partition: the value with its low bits cleared when the area lies inside, else the
highest multiple of the granule at which it does (R166). DESIGN CHOICE (logs 63, 89): in a partition too small for the area nothing
is placed, and the value keeps its high bits. -/
def placeIn (p : Nat × Nat) (size gran v : Nat) : Nat :=
  let v := v / gran * gran
  if p.1 ≤ v ∧ v + size ≤ p.2 then v
  else if p.1 + size ≤ p.2 then (p.2 - size) / gran * gran
  else v

/-- BUFSZ lowered until the buffer fits (R166). -/
def lowerBuf (span : Nat) : Nat → Nat
  | 0 => 0
  | n + 1 => if 16384 * 2 ^ (n + 1) ≤ span then n + 1 else lowerBuf span n

/-- Input row bytes per output row byte (R167): IFMT 1 is B32; OFMT 0 W16, 1 K8, 2 K8W, 3 Q4. -/
def streamRatio (ifmt : Bool) (ofmt : Nat) : Nat := (if ofmt = 0 then 1 else if ofmt = 3 then 4 else 2) * (if ifmt then 2 else 1)

/-- A stream descriptor's checks after the header (R166, R167, R186). -/
def checkStream (c : Cfg) (b : Blk) (world ten : Bool) (k : Chk) : Chk :=
  let p := partition c b world
  let k := k.fix 0x08 2 0 0x41 (fun v => lowerBuf (p.2 - p.1) (Nat.min 6 v))
  let s := 16384 * 2 ^ fld k.d 0x08 2 0
  let k := k.fix 0x08 7 4 0x42 (Nat.min (fld k.d 0x08 2 0 + 1))
  let k := k.fix 0x0C 21 0 0x43 (placeIn p s 4096)
  let k := k.fix 0x10 21 0 0x44 (placeIn p (s / 8) 512)
  let k := k.fix 0x18 63 0 0x45 (fun v => clearLow 3 (if ten then canonize v else v))
  let mode := fld k.d 0x28 1 0
  let conv := decide (2 ≤ mode)
  let k := if conv then k.fix 0x28 7 4 0x47 (Nat.min 3) else k
  let ratio := if conv then streamRatio ((fld k.d 0x28 2 2) == 1) (fld k.d 0x28 7 4) else 1
  let gran := if mode = 0 then 64 else if mode = 2 then 64 * ratio else 8
  let k := k.fix 0x20 47 0 0x46 (fun v => Nat.min v (lenBound ten (fld k.d 0x18 63 0)) / gran * gran)
  let k := if conv then k.fix 0x28 10 9 0x48 (Nat.min 1) else k
  let len := fld k.d 0x20 47 0
  let ch := 4096 * 2 ^ fld k.d 0x08 7 4
  let k :=
    if mode % 2 = 0 then
      let k := k.fix 0x34 31 0 0x49 (Nat.min (ceilDiv (len / ratio) ch))
      k.fix 0x38 47 0 0x4A (fun _ => Nat.min (fld k.d 0x34 31 0 * ch * ratio) len)
    else k.fix 0x38 47 0 0x4A (fun v => clearLow 3 (Nat.min v len))
  k.rsvd 0x40 [(0x08, 0xFFFFFF08), (0x0C, 0xFFC00000), (0x10, 0xFFC00000), (0x14, 0xFFFFFFFF), (0x24, 0xFFFF0000), (0x28, 0xFFFFF008),
    (0x2C, 0xFFFE0000), (0x30, 0xFFFE0000), (0x3C, 0xFFFF0000)]

/-- KZ_WORLD_RINGSEC in force (R433). -/
def ringsecBit (c : Cfg) (b : Blk) (n : Nat) : Bool := !secureForcedZero b && bit c.ringsec n

/-- A ring context image's checks (R323, R435). -/
def checkImage (c : Cfg) (b : Blk) (n : Nat) (k : Chk) : Chk :=
  let kind := ringKind n
  let k := k.fix 0 19 16 0x20 (fun _ => kind)
  let k := k.fix 0x04 4 0 0x21 (fun v => clampNat 4 16 v)
  let k := k.fix 0x04 5 5 0x22 (fun v => if ringsecBit c b n then v else 0)
  let ew := (getRing b (28 + fld k.d 0x04 12 11)).ctx.world
  let k := k.fix 0x04 13 13 0x23 (fun v => if kind = 4 || ew != (fld k.d 0x04 5 5 == 1) then 0 else v)
  let here (low v : Nat) : Nat := clearLow low (v % 2 ^ 47) + c.node.toNat * 2 ^ 47
  let k := if kind = 4 then k else k.fix 0x08 63 0 0x24 (here 12)
  let k := k.fix 0x10 63 0 0x25 (here 12)
  let k := k.fix 0x18 63 0 0x26 (here 2)
  let k := k.fix 0x24 0 0 0x27 (fun v => if kind = 1 || kind = 4 then 0 else v)
  let root (v : Nat) : Nat := clearLow 12 (v % 2 ^ 52)
  let k := k.fix 0x30 63 0 0x28 root
  let k := k.fix 0x38 63 0 0x28 root
  let k := k.fix 0x40 63 0 0x29 (clearLow 16)
  k.rsvd 0x2A ([(0, 0xFFF00000), (0x04, 0xFFFFC000), (0x24, 0xFFF8), (0x28, 0xFFFF0000), (0x2C, 0xFFFFFFFF)]
    ++ (List.range 14).map fun i => (0x48 + 4 * i, 0xFFFFFFFF))

/-- The context of a checked image (R323). -/
def ctxOfImage (d : Nat) : RingCtx :=
  let w (off : Nat) : Word := BitVec.ofNat 64 (fld d off 63 0)
  { log2 := fld d 0x04 4 0, world := fld d 0x04 5 5 == 1, prio := BitVec.ofNat 3 (fld d 0x04 8 6), corder := fld d 0x04 9 9 == 1
    irqen := fld d 0x04 10 10 == 1, evring := BitVec.ofNat 2 (fld d 0x04 12 11), even := fld d 0x04 13 13 == 1
    dbase := w 0x08, cbase := w 0x10, msgaddr := w 0x18, msgdata := BitVec.ofNat 32 (fld d 0x20 31 0), ten := fld d 0x24 0 0 == 1
    level := fld d 0x24 1 1 == 1, had := fld d 0x24 2 2 == 1, asid := BitVec.ofNat 16 (fld d 0x24 31 16)
    vmid := BitVec.ofNat 16 (fld d 0x28 15 0), s1lo := w 0x30, s1hi := w 0x38, s2root := w 0x40 }

/-- A descriptor's checks by its ring (R327, R328). -/
def checkDesc (c : Cfg) (b : Blk) (n : Nat) (k : Chk) : Chk :=
  let ctx := (getRing b n).ctx
  let k := checkHeader (ringKind n) k
  if ringKind n = 1 then checkJob k else if ringKind n = 2 then checkDma ctx.ten k else checkStream c b ctx.world ctx.ten k

/-- Field of a ring's checked descriptor. -/
def Ring.fld (r : Ring) (off hi lo : Nat) : Nat := Machine.fld (natOfLE r.desc) off hi lo

/-- A completion entry (R330) or event entry (R334): six 32-bit containers and TIME, in a byte order. -/
def entryBytes (big : Bool) (ws : List W32) (time : Nat) : List Byte :=
  (ws.flatMap fun w => if big then (leOfNat 4 w.toNat).reverse else leOfNat 4 w.toNat) ++
    (if big then (leOfNat 8 time).reverse else leOfNat 8 time)

end Sys2Proof.Machine
end

