-- ==== Sys2Proof/Machine/RingOps.lean ====
section
/-! DEFINITION. The ring front end: its memory accesses, descriptor fetch, completions, events, messages, doorbells and job waits (13). -/

namespace Sys2Proof.Machine

/-- The front end works: its domain is on, the block is in Run and not in fatal state (R308, R407). -/
def frontRuns (b : Blk) : Bool := pdRuns b 16 && !b.err.fatal && b.pwr.state == .run

/-- The ring a front-end purpose belongs to. -/
def Purpose.ring : Purpose → Option Nat
  | .ctxImage n => some n
  | .descriptor n => some n
  | .completion n => some n
  | .event n => some n
  | .message n => some n
  | .progress n => some n
  | _ => none

def markErr (b : Blk) (n : Nat) (ok : Bool) : Blk := if ok then b else modRing b n fun r => { r with err := true }

/-- The IRQ and EVT bits and TAG of a ring's descriptor (R327); an item that was not read has none. -/
def Ring.irq (r : Ring) : Bool := !r.desc.isEmpty && r.fld 0 20 20 == 1
def Ring.evt (r : Ring) : Bool := !r.desc.isEmpty && r.fld 0 21 21 == 1
def Ring.tag (r : Ring) : W32 := BitVec.ofNat 32 (r.fld 4 31 0)

/-- The completion of a ring's head descriptor is acknowledged: its events, its message, and the head advances, but from where a SETUP has put
it since (R333–R335, R342). A STOP that let it complete is over (R324). -/
def completed (b : Blk) (n : Nat) : Blk :=
  let r := getRing b n
  let next : BitVec 16 := if r.own.isSome then r.head else BitVec.ofNat 16 ((r.head.toNat + 1) % r.size)
  let b := setRing b n { r with
    st := .idle, head := next, own := none, busy := r.busy && (r.run || ringKind n == 1), desc := [], nclamp := 0, firstCode := 0
    msgOwed := if r.irq && r.ctx.irqen then r.msgOwed + 1 else r.msgOwed }
  let e := r.ctx.evring.toNat
  let src : BitVec 8 := BitVec.ofNat 8 n
  let b := if r.evt && r.ctx.even then
      pushEvent b e { ty := 1, src := src, status := r.status, index := r.cur, a := r.tag, b := r.result }
    else b
  if r.status = 4 && r.ctx.even then
    pushEvent b e { ty := 4, src := src, status := 4, index := r.cur, a := r.detail, b := 0 }
  else b

/-- The DMA channel of a ring, if a descriptor is in progress there. -/
def dmaCh (b : Blk) (ch : Nat) : Option DmaCh := (b.dma.chs.find? fun e => e.1 == ch).map fun e => e.2
def setDmaCh (b : Blk) (ch : Nat) (x : DmaCh) : Blk := { b with dma := { b.dma with chs := alPut b.dma.chs ch x } }
def dropDmaCh (b : Blk) (ch : Nat) : Blk := { b with dma := { b.dma with chs := b.dma.chs.filter fun e => e.1 != ch } }

/-- The stream of a stream ring 0–3, if one is in progress. -/
def streamOf (b : Blk) (n : Nat) : Option Stream := (b.sparge.streams.find? fun e => e.1 == n).map fun e => e.2
def setStream (b : Blk) (n : Nat) (x : Stream) : Blk := { b with sparge := { b.sparge with streams := alPut b.sparge.streams n x } }

/-- Sparge applies the pending epoch (R187). -/
def spargeEpoch (b : Blk) : Blk := { b with rings := { b.rings with epSparge := (epochReady b).getD b.rings.epSparge } }

/-- An idle Sparge, one with no stream in progress, applies it at any edge (R187, log 89). -/
def spargeIdle (b : Blk) : Blk := { b with rings := if b.sparge.streams.isEmpty then (spargeEpoch b).rings else b.rings }

def dropStream (b : Blk) (n : Nat) : Blk :=
  spargeIdle { b with sparge := { b.sparge with streams := b.sparge.streams.filter fun e => e.1 != n } }

/-- A stop of a ring is complete: the head stays at the stopped descriptor (R324, R343). -/
def ringStopped (b : Blk) (n : Nat) : Blk :=
  modRing b n fun r => { r with st := .idle, desc := [], halting := false, busy := false }

/-- The write-back of progress is answered (R185, R357, R358): the stop is complete, or the failed descriptor ends. -/
def progressDone (b : Blk) (n : Nat) : Blk :=
  if ringKind n = 2 then
    match dmaCh b (n - 8) with
    | some ch =>
      let b := dropDmaCh b (n - 8)
      if ch.dstat ≠ 0 then
        finishDesc (modRing b n fun r => { r with halting := false, busy := false }) n 1 (ch.dstat.zeroExtend 32) 0 ch.epoch
      else ringStopped b n
    | none => ringStopped b n
  else ringStopped (dropStream b (n - 24)) n

/-- A write of the front end is answered (R333–R337, R365). -/
def frontWriteDone (b : Blk) (p : Purpose) (ok : Bool) : Blk :=
  match p with
  | .completion n => completed (markErr b n ok) n
  | .event n => modRing (markErr b n ok) n fun r => if r.ctx.irqen then { r with msgOwed := r.msgOwed + 1 } else r
  | .message n => markErr b n ok
  | .progress n => progressDone (markErr b n ok) n
  | _ => b

/-- A write of the front end in a ring's world, checked there (R323, R439): to this block's LTS or on the Memory Port. -/
def frontWrite (c : Cfg) (b : Blk) (world : Bool) (a : Word) (bs : List Byte) (p : Purpose) : Blk :=
  match resolve c b a bs.length world false needW false with
  | .error _ => frontWriteDone b p false
  | .ok (.lts o) =>
    let r := ltsWrite world o bs b
    frontWriteDone r.2 p (!r.1)
  | .ok _ =>
    issueReq c false { op := .wr, addr := BitVec.ofNat 64 (a.toNat / 64 * 64), be := byteMask (a.toNat % 64) bs.length, operand := 0
                       data := pieceOfBytes (a.toNat % 64) bs, world := world, purpose := p } b

/-- Can the completion of a ring be written: its event ring has room for its events, beside those of the completions not yet
acknowledged (R336)? -/
def completionRoom (b : Blk) (r : Ring) : Bool :=
  let due (x : Ring) : Nat := if x.status = 4 then 2 else 1
  let open_ := b.rings.rings.foldl (fun a x =>
    if x.2.st = .completing && x.2.ctx.even && x.2.ctx.evring == r.ctx.evring then a + due x.2 else a) 0
  !r.ctx.even || eventRoom b r.ctx.evring.toNat (open_ + due r)

/-- COMPLETION_WRITE: the completion entry of a ring whose descriptor has ended (R330–R333). In fatal state only the running
job's completion is written (R308). -/
def writeCompletion (c : Cfg) (b : Blk) (n : Nat) : Blk :=
  let r := getRing b n
  if r.st ≠ .done || !pdRuns b 16 || b.pwr.state ≠ .run || (b.err.fatal && r.status ≠ 5) || !(b.err.fatal || completionRoom b r) then b
  else
    let ws : List W32 :=
      [BitVec.ofNat 32 (byteMark + 65536 * r.phase.toNat + (if r.nclamp = 0 then 0 else 131072) + 2 ^ 24 * r.status.toNat),
       BitVec.ofNat 32 (r.cur.toNat + 65536 * r.firstCode.toNat + 2 ^ 24 * r.nclamp.toNat), r.tag, r.result,
       r.epoch.zeroExtend 32, r.detail]
    let a := r.ctx.cbase + BitVec.ofNat 64 (32 * r.cur.toNat)
    let b := setRing b n { r with st := .completing, phase := if r.cur.toNat + 1 = r.size then !r.phase else r.phase }
    let b := emitDesc b r.ctx.world n r.status r.cur
    frontWrite c b r.ctx.world a (entryBytes r.big ws b.pwr.sclk) (.completion n)

/-- Write one event entry at an event ring's tail (R331, R334). -/
def writeEvent (c : Cfg) (b : Blk) (e : Nat) (ev : Event) : Blk :=
  let n := 28 + e
  let r := getRing b n
  let ws : List W32 :=
    [BitVec.ofNat 32 (byteMark + 65536 * r.phase.toNat + 2 ^ 24 * ev.ty.toNat),
     BitVec.ofNat 32 (ev.src.toNat + 256 * ev.status.toNat + 65536 * ev.index.toNat), ev.a, ev.b, 0, 0]
  let a := r.ctx.cbase + BitVec.ofNat 64 (32 * r.head.toNat)
  let b := setRing b n { r with head := BitVec.ofNat 16 ((r.head.toNat + 1) % r.size)
                                phase := if r.head.toNat + 1 = r.size then !r.phase else r.phase }
  frontWrite c b r.ctx.world a (entryBytes r.ctx.corder ws b.pwr.sclk) (.event n)

/-- EVENT_WRITE: the oldest queued event of an event ring with a free slot (R334, R336, R337). -/
def writeQueuedEvent (c : Cfg) (b : Blk) (e : Nat) : Blk :=
  match getEq b e with
  | [] => b
  | ev :: rest =>
    if !eventSlot b e || !pdRuns b 16 || b.pwr.state ≠ .run || (b.err.fatal && ev.ty ≠ 3) then b
    else writeEvent c (setEq b e rest) e ev

/-- INTERRUPT_MESSAGE: MSGDATA to MSGADDR, little-endian (R335). -/
def writeMessage (c : Cfg) (b : Blk) (n : Nat) : Blk :=
  let r := getRing b n
  if r.msgOwed = 0 || !frontRuns b then b
  else frontWrite c (setRing b n { r with msgOwed := r.msgOwed - 1 }) r.ctx.world r.ctx.msgaddr (leOfNat 4 r.ctx.msgdata.toNat) (.message n)

/-- The address of descriptor slot i of a ring. -/
def slotAddr (n : Nat) (r : Ring) (i : Nat) : Word := r.ctx.dbase + BitVec.ofNat 64 (descSize n * i)

/-- Applied epoch `a` has reached required epoch `e` (R346). -/
def reached (a e : BitVec 16) : Bool := decide ((a - e).toNat < 32768)

/-- Is a job's wait in the table? -/
def jobWaitOf (b : Blk) (n : Nat) : Option WaitEntry :=
  b.sync.waits.find? fun w => match w.kind with
    | .jobWait r => decide (r.toNat = n)
    | _ => false

/-- Arm the wait of the job at the head of a ring, or make it ready when it has none (R339). -/
def armJob (c : Cfg) (b : Blk) (n : Nat) : Blk :=
  let r := getRing b n
  if r.fld 0x40 18 18 = 0 then setRing b n { r with st := .ready }
  else
    let q := arm c (.jobWait (BitVec.ofNat 3 n)) (BitVec.ofNat 16 (r.fld 0x40 15 0)) r.ctx.world (BitVec.ofNat 2 (r.fld 0x40 17 16))
      (r.fld 0x40 19 19 == 1) (BitVec.ofNat 32 (r.fld 0x44 31 0)) (BitVec.ofNat 32 (r.fld 0x48 31 0)) b
    match q.1 with
    | .armed _ => modRing q.2 n fun r => { r with st := .waiting }
    | .now st _ =>
      if st = 0 then modRing q.2 n fun r => { r with st := .ready }
      else if st = 5 then modRing q.2 n fun r => { r with st := .waiting }
      else finishDesc q.2 n 6 0 (st.zeroExtend 32) b.rings.epCore

/-- A fetched descriptor is read: its order and checks (R326–R328); an unreadable one ends with status 0x02. -/
def descRead (c : Cfg) (b : Blk) (n : Nat) : Blk :=
  let r := getRing b n
  match byteOrder r.buf with
  | none => finishDesc (setRing b n { r with desc := [], big := r.ctx.corder }) n 2 0 0 b.rings.epCore
  | some big =>
    let k := checkDesc c b n (chkOf (reorder (containersOf (ringKind n)) big r.buf))
    let b := logClamps b n r.head.toNat k.clamps
    let b := setRing b n { r with
      desc := leOfNat (descSize n) k.d, big := big, nclamp := BitVec.ofNat 8 (Nat.min 255 k.clamps.length)
      firstCode := match k.clamps with | x :: _ => BitVec.ofNat 8 x.1 | [] => 0
      st := .ready, status := 0, result := 0, detail := 0 }
    if ringKind n = 1 then armJob c b n else b

/-- A ring context image is read: its checks, and the ring is set up (R323, R324, R171). -/
def imageRead (c : Cfg) (b : Blk) (n : Nat) : Blk :=
  let r := getRing b n
  match byteOrder r.buf with
  | none => setRing b n { r with busy := false, err := true }
  | some big =>
    let k := checkImage c b n (chkOf (reorder (containersOf 5) big r.buf))
    let b := logClamps b n 0xFFFF k.clamps
    let keep := r.st = .begun || r.st = .ending || r.st = .done || r.st = .completing
    let b := setRing b n { r with
      ctx := ctxOfImage k.d, setUp := true, busy := false, clamped := !k.clamps.isEmpty, head := 0, index := 0, phase := true
      own := if keep then some r.cur else none
      st := if keep then r.st else .idle }
    let b := { b with
      sync := { b.sync with waits := b.sync.waits.filter fun w => match w.kind with | .jobWait m => decide (m.toNat ≠ n) | _ => true }
      mmu := { b.mmu with treqs := b.mmu.treqs.filter fun t => decide (t.requester.toNat + 8 ≠ n) } }
    if ringKind n = 3 then
      { b with sparge := { b.sparge with sprod := b.sparge.sprod.set (n - 24) 0, scons := b.sparge.scons.set (n - 24) 0 } }
    else b

/-- A piece of an image or descriptor is answered: `half` is its place, `data` none for a failure (R324, R332). -/
def frontPiece (c : Cfg) (b : Blk) (image : Bool) (n half : Nat) (data : Option Piece) : Blk :=
  let r := getRing b n
  let r := match data with
    | some d => { r with buf := r.buf.take (64 * half) ++ bytesOf 64 d ++ r.buf.drop (64 * half + 64) }
    | none => { r with bad := true }
  let r := { r with awaited := r.awaited - 1 }
  let b := setRing b n r
  if r.awaited ≠ 0 then b
  else if image then
    if r.bad then setRing b n { r with busy := false, err := true } else imageRead c b n
  else if r.halting then ringStopped b n
  else if r.bad then finishDesc (setRing b n { r with desc := [], big := r.ctx.corder }) n 3 0 0 b.rings.epCore
  else descRead c b n

/-- Read the pieces of an image or descriptor at `a` (R323, R332). -/
def frontRead (c : Cfg) (b : Blk) (image : Bool) (n : Nat) (world : Bool) (a : Word) (pieces : Nat) : Blk :=
  let b := modRing b n fun r =>
    { r with buf := List.replicate (64 * pieces) 0, awaited := BitVec.ofNat 4 pieces, bad := false }
  (List.range pieces).foldl (fun b i =>
    let p := a + BitVec.ofNat 64 (64 * i)
    match resolve c b p 64 world false needR false with
    | .error _ => frontPiece c b image n i none
    | .ok (.lts o) =>
      let q := ltsRead world o 64 b
      frontPiece c q.2 image n i (if q.1.2.isSome then none else some (pieceOfBytes 0 q.1.1))
    | .ok _ => issueReq c false { op := .rd, addr := p, be := BitVec.allOnes 64, operand := 0, data := 0, world := world
                                  purpose := if image then .ctxImage n else .descriptor n } b) b

/-- DESCRIPTOR_FETCH: the descriptor at the head of a started submission ring with one pending (R321, R324, R339). -/
def fetchDescriptor (c : Cfg) (b : Blk) (n : Nat) : Blk :=
  let r := getRing b n
  if ringKind n = 4 || !frontRuns b || !r.run || r.busy || r.halting || r.st ≠ .idle || r.head = r.index then b
  else
    frontRead c (setRing b n { r with st := .fetching, nclamp := 0, firstCode := 0 }) false n r.ctx.world (slotAddr n r r.head.toNat)
      (descSize n / 64)

/-- A doorbell, from the HCP or a tail register (R164, R325, R349): the checked index, and a wake of the block for a running
submission ring. -/
def doorbellWrite (b : Blk) (n : Nat) (v : W32) : Blk :=
  if b.err.fatal then b
  else
  let r := getRing b n
  let i := bits v 15 0
  let top := (if r.setUp then r.size else 16) - 1
  let b := if top < i then logClamp b n 0x30 0xFFFE i top else b
  let b := if bits v 31 16 ≠ 0 then logClamp b n 0x31 0xFFFE (bits v 31 16 * 65536) 0 else b
  let b := modRing b n fun r => { r with index := BitVec.ofNat 16 (Nat.min i top) }
  let b := maltSource b 0
  if r.run && ringKind n ≠ 4 then wake b else b

/-- What making a signal answers at once (R206). -/
inductive SigRes where
  | status (s : BitVec 8)
  | sent
deriving DecidableEq, Repr

/-- Make an end signal on a target word (R206, R354, R341): it joins the engine's queue, or leaves as a remote request. -/
def makeSignal (c : Cfg) (b : Blk) (epoch : BitVec 16) (world : Bool) (t : Word) (op : BitVec 3) (x : W32) (src : SyncSrc) (p : Purpose) :
    SigRes × Blk :=
  let mode := bits t 44 43
  let n := bits t 50 45
  let e := cge b n
  if mode = 2 && !e.valid then (.status 9, b)
  else if mode = 2 && e.world != world then (.status 3, b)
  else
    let obj : BitVec 16 := t.truncate 16
    let tgt :=
      if mode = 0 then SyncTarget.here obj
      else if mode = 1 then targetOf c b epoch (BitVec.ofNat 17 (bits t 42 26)) (BitVec.ofNat 10 (bits t 25 16)) obj
      else targetOf c b epoch e.syncNode e.syncBlk (e.syncBase + obj)
    match tgt with
    | .here o => (.sent, { b with sync := { b.sync with queue := b.sync.queue ++ [{ src := src, op := op, obj := o, x := x, world := world }] } })
    | .remote node block o => (.sent, issueReq c true (syqRequest node block o op.toNat x world p) b)

end Sys2Proof.Machine
end

