-- ==== Sys2Proof/Machine/AgentOps.lean ====
section
/-! DEFINITION. Translation for DMA and Sparge: the L2 TLB, permission checks, parking, and accessed and dirty updates (11, 14). -/

namespace Sys2Proof.Machine

/-- The translation context of a ring (R323). -/
def RingCtx.tctx (r : RingCtx) : TCtx :=
  { kind := .world r.world, level := if r.level then 1 else 0, vmid := r.vmid, asid := r.asid, had := r.had, s1lo := r.s1lo
    s1hi := r.s1hi, s2root := r.s2root }

/-- The level of a ring's accesses as a number of R244. -/
def RingCtx.lv (r : RingCtx) : BitVec 2 := if r.level then 1 else 0

/-- What translating one address of a ring gives (R289, R285, R355). -/
inductive AgentRes where
  /-- the GPA before redirection -/
  | ok (gpa : Word)
  /-- park with a request's REASON -/
  | park (reason : BitVec 2)
  /-- a translation fault -/
  | fault
  /-- an unassigned block-space address -/
  | refused
  /-- an accessed or dirty update first: the leaf's GPA -/
  | update (ad : AdUpdate) (leaf : Word)
deriving DecidableEq, Repr

/-- Translate an address of a ring's context in the L2 TLB (R279, R289). -/
def agentTranslate (b : Blk) (r : RingCtx) (acc : Acc) (va : Word) : AgentRes × Blk :=
  if !r.ten then (if unassigned va then .refused else .ok va, b)
  else
    match bestSlot b.mmu.l2tlb r.tctx va with
    | none => (.park 0, countEvents b 4 r.lv r.world 1)
    | some s =>
      match permFail s.e r.lv r.had acc va with
      | some f =>
        if f.reason = 5 then (.park 1, b) else if f.reason = 6 then (.park 2, b)
        else if f.reason = 11 then (.refused, b) else (.fault, b)
      | none =>
        let want := setBit s.e.leaf 6 true
        let want := if acc.writes then setBit want 7 true else want
        if r.had && want != s.e.leaf then (.update { seq := s.seq, old := s.e.leaf, want := want } s.e.leafAddr, b)
        else (.ok (s.e.gpa va), b)

/-- The page of a virtual address. -/
def pageOf (va : Word) : Nat := va.toNat / 4096

/-- Raise a ring's translation request (R289, R290): `req` is its requester number. -/
def raiseReq (b : Blk) (req : Nat) (write : Bool) (reason : BitVec 2) (r : RingCtx) (va : Word) : Blk :=
  { b with mmu := { b.mmu with treqs := (b.mmu.treqs.filter fun t => decide (t.requester.toNat ≠ req)) ++
      [{ requester := BitVec.ofNat 5 req, kindWrite := write, reason := reason, world := r.world, level := r.level, va := va }] } }

/-- Withdraw a ring's request (R292). -/
def withdrawReq (b : Blk) (req : Nat) : Blk :=
  { b with mmu := { b.mmu with treqs := b.mmu.treqs.filter fun t => decide (t.requester.toNat ≠ req) } }

/-- The result of an update that is made at once; `sent` when its response is awaited. -/
inductive AdRes where
  | done (ok : Bool)
  | failed
  | sent
deriving DecidableEq, Repr

/-- An update that found the expected value records the new one; else its entry leaves the TLBs (R285). -/
def adApply (b : Blk) (ad : AdUpdate) (found : Word) : Bool × Blk :=
  if found = ad.old then (true, { b with mmu := setLeaf b.mmu ad.seq ad.want }) else (false, { b with mmu := dropSeq b.mmu ad.seq })

/-- Make an accessed or dirty update for a ring (R285), checked as a table read: at the LTS bank, or as an atomic of the Memory
Port or Far Port, after the block's own copies of a cacheable line are written back. None: it must wait. -/
def adStart (c : Cfg) (b : Blk) (epoch : BitVec 16) (world : Bool) (req : Nat) (ad : AdUpdate) (leaf : Word) : Option AdRes × Blk :=
  let a := redirect c b epoch leaf
  match resolve c b a 8 world false needRW false with
  | .error _ => (some .failed, b)
  | .ok (.port _ .device) => (some .failed, b)
  | .ok (.lts o) =>
    if !pdRuns b (quarterPd o) || ltsWiping b o 8 then (none, b)
    else
      let r := ltsRead world o 8 b
      if r.1.2.isSome then (some .failed, r.2)
      else
        let found : Word := BitVec.ofNat 64 (natOfLE r.1.1)
        let b := if found = ad.old then (ltsWrite world o (leOfNat 8 ad.want.toNat) r.2).2 else r.2
        let q := adApply b ad found
        (some (.done q.1), q.2)
  | .ok p =>
    let fp := match p with | .port f _ => f | _ => false
    let w := if p = .cached then snoopWrite c b (a.toNat / 64) else (true, b)
    if !w.1 then (none, w.2)
    else (some .sent, issueReq c fp { op := .at, addr := a, be := 8, operand := ad.want, data := ad.old.zeroExtend 512, world := world
                                      purpose := .adUpdate req } w.2)

/-- Bytes of a range split at 64-byte boundaries: position, length, address (R350). -/
def splitRange : Nat → Nat → Word → Nat → List (Nat × Nat × Word)
  | 0, _, _, _ => []
  | f + 1, pos, a, n =>
    if n = 0 then []
    else
      let k := Nat.min n (64 - a.toNat % 64)
      (pos, k, a) :: splitRange f (pos + k) (a + BitVec.ofNat 64 k) (n - k)

end Sys2Proof.Machine
end

