-- ==== Sys2Proof/Machine/DmaOps.lean ====
section
/-! DEFINITION. The DMA engine (14). -/

namespace Sys2Proof.Machine

/-- The applied epoch of a DMA channel group (R345). -/
def epDma (b : Blk) (g : Nat) : BitVec 16 :=
  if g = 0 then b.rings.epDma0 else if g = 1 then b.rings.epDma1 else if g = 2 then b.rings.epDma2 else b.rings.epDma3

def setEpDma (b : Blk) (g : Nat) (e : BitVec 16) : Blk :=
  if g = 0 then { b with rings := { b.rings with epDma0 := e } }
  else if g = 1 then { b with rings := { b.rings with epDma1 := e } }
  else if g = 2 then { b with rings := { b.rings with epDma2 := e } }
  else { b with rings := { b.rings with epDma3 := e } }

/-- A piece that is not finished. -/
def DmaPiece.active (p : DmaPiece) : Bool := decide (p.reads ≠ 0) || !p.todo.isEmpty || decide (p.writes ≠ 0)

/-- The pieces in buffers (R350). -/
def DmaCh.flying (x : DmaCh) : Nat := (x.pieces.filter fun p => p.active).length

/-- Every write of the descriptor is acknowledged (R354, R358). -/
def DmaCh.acked (x : DmaCh) : Bool := decide (x.next = x.len) && x.pieces.isEmpty && x.dstat == 0 && x.ad.isNone

/-- DONE: the largest offset below which every piece had all its writes acknowledged (R357). -/
def DmaCh.doneNow (x : DmaCh) : Nat := x.pieces.foldl (fun m p => Nat.min m p.off) x.next

/-- The descriptor of a channel ends with its completion (R355). -/
def dmaFinish (b : Blk) (ch : Nat) (x : DmaCh) (sigstat : BitVec 8) : Blk :=
  finishDesc (dropDmaCh b ch) (dmaRing ch) 0 (BitVec.ofNat 32 (256 * sigstat.toNat)) 0 x.epoch

/-- Write DONE back into the descriptor's slot (R357, R358). -/
def dmaWriteBack (c : Cfg) (b : Blk) (ch : Nat) (x : DmaCh) : Blk :=
  let n := dmaRing ch
  let r := getRing b n
  let bs := leOfNat 8 x.doneNow
  frontWrite c (setDmaCh b ch { x with writeback := true }) r.ctx.world (slotAddr n r r.head.toNat + 0x38)
    (if r.big then bs.reverse else bs) (.progress n)

/-- A channel with nothing in its buffers goes on to its end: failure, stop, or completion without a signal (R353–R358). -/
def dmaProgress (c : Cfg) (b : Blk) (ch : Nat) : Blk :=
  match dmaCh b ch with
  | none => b
  | some x =>
    if b.err.fatal || x.writeback || x.signalling || x.ad.isSome || decide (x.flying ≠ 0) then b
    else if x.dstat ≠ 0 || x.stopping then dmaWriteBack c b ch x
    else if x.acked && !x.sigen then dmaFinish b ch x 0
    else b

/-- Record a failure: the first detected (R355). -/
def dmaFail (b : Blk) (ch code : Nat) : Blk :=
  match dmaCh b ch with
  | some x => if x.dstat = 0 then setDmaCh b ch { x with dstat := BitVec.ofNat 8 code } else b
  | none => b

/-- The channel's work of a checked descriptor (R351, R357). -/
def Ring.dma (r : Ring) (ep : BitVec 16) : DmaCh :=
  let op := r.fld 0x08 1 0
  let len := if op = 2 then 0 else r.fld 0x28 47 0
  let done := if op = 2 then 0 else Nat.min len (r.fld 0x38 47 0)
  let w (off : Nat) : Word := BitVec.ofNat 64 (r.fld off 63 0)
  { op := BitVec.ofNat 2 op, sigen := r.fld 0x08 2 2 == 1, sigop := BitVec.ofNat 3 (r.fld 0x08 5 3)
    sigx := BitVec.ofNat 32 (r.fld 0x0C 31 0), src := w 0x10, dst := w 0x18, dst2 := w 0x20, len := len, sigt := w 0x30
    done := done, next := done, pieces := [], parked := false, ad := none, dstat := 0, signalling := false, stopping := false
    writeback := false, epoch := ep }

/-- DMA_DESCRIPTOR_BEGIN: the checked descriptor of a running D ring begins once its group's epoch is reached (R348, R359, R360). -/
def dmaBegin (c : Cfg) (b : Blk) (ch : Nat) : Blk :=
  let n := dmaRing ch
  let r := getRing b n
  if 16 ≤ ch || !frontRuns b || r.st ≠ .ready || !r.run || r.halting then b
  else
    let g := ch / 4
    let b := match epochReady b with | some e => setEpDma b g e | none => b
    let ep := epDma b g
    if r.fld 0x08 6 6 = 1 && !reached ep (BitVec.ofNat 16 (r.fld 0x08 31 16)) then b
    else
      dmaProgress c (setDmaCh (setRing b n { r with st := .begun }) ch (r.dma ep)) ch

/-- Replace piece `k` of a channel. -/
def setPiece (b : Blk) (ch : Nat) (p : DmaPiece) : Blk :=
  match dmaCh b ch with
  | some x => setDmaCh b ch { x with pieces := x.pieces.map fun q => if q.k = p.k then p else q }
  | none => b

def getPiece (b : Blk) (ch k : Nat) : Option DmaPiece :=
  match dmaCh b ch with
  | some x => x.pieces.find? fun p => p.k == k
  | none => none

/-- A piece that has finished leaves its buffer; a failed one is kept as the bound of DONE. -/
def pieceDone (c : Cfg) (b : Blk) (ch k : Nat) : Blk :=
  match dmaCh b ch with
  | some x =>
    dmaProgress c (setDmaCh b ch { x with pieces := x.pieces.filter fun p => !(p.k == k && !p.active && !p.failed) }) ch
  | none => b

/-- The access of one segment of a piece after its checks: its path in the ring's world (R355). -/
def segPath (c : Cfg) (b : Blk) (world : Bool) (a : Word) (n : Nat) (write : Bool) : Except Nat Path :=
  match resolve c b a n world false (if write then needW else needR) false with
  | .ok p => .ok p
  | .error .quarter => .error 3
  | .error .unassigned => .error 3
  | .error (.region _ _) => .error (if inBlockSpace a then 3 else 2)

/-- Make one write of a piece: true when it was made, with the failure code of a write that ended at once. -/
def segWrite (c : Cfg) (b : Blk) (ch : Nat) (world : Bool) (p : DmaPiece) (s : DmaSeg) : Bool × Bool × Option Nat × Blk :=
  let bs := pieceBytes p.data s.pos s.len
  match segPath c b world s.addr s.len true with
  | .error e => (true, false, some e, b)
  | .ok (.lts o) =>
    if !pdRuns b (quarterPd o) || ltsWiping b o s.len then (false, false, none, b)
    else
      let r := ltsWrite world o bs b
      (true, false, if r.1 then some (if s.buddy then 6 else 5) else none, r.2)
  | .ok path =>
    let fp := match path with | .port f _ => f | _ => false
    let w := if path = .cached then snoopWrite c b (s.addr.toNat / 64) else (true, b)
    if !w.1 || !pdRuns b 18 then (false, false, none, w.2)
    else
      (true, true, none, issueReq c fp
        { op := .wr, addr := BitVec.ofNat 64 (s.addr.toNat / 64 * 64), be := byteMask (s.addr.toNat % 64) s.len, operand := 0
          data := pieceOfBytes (s.addr.toNat % 64) bs, world := world
          purpose := if s.buddy then .dmaBuddy ch p.k else .dmaHome ch p.k } w.2)

/-- Make the writes of a piece that can be made (R353, R303). -/
def dmaWrites (c : Cfg) (b : Blk) (ch k : Nat) : Blk :=
  match getPiece b ch k with
  | none => b
  | some p =>
    if decide (p.reads ≠ 0) || b.err.fatal then b
    else
      let world := (getRing b (dmaRing ch)).ctx.world
      let b := p.todo.foldl (fun b s =>
        let r := segWrite c b ch world p s
        let b := match r.2.2.1 with | some e => dmaFail r.2.2.2 ch e | none => r.2.2.2
        match getPiece b ch k with
        | some q =>
          setPiece b ch { q with todo := if r.1 then q.todo.filter (fun t => t != s) else q.todo
                                 writes := if r.2.1 then q.writes + 1 else q.writes, failed := q.failed || r.2.2.1.isSome }
        | none => b) b
      pieceDone c b ch k

/-- Bytes of a source segment arrive; when the piece is whole its writes begin (R353). `code`: the failure of a read. -/
def dmaReadDone (c : Cfg) (b : Blk) (ch k pos : Nat) (bs : Except Nat (List Byte)) : Blk :=
  match getPiece b ch k with
  | none => b
  | some p =>
    let p := { p with reads := p.reads - 1 }
    let p := match bs with
      | .ok d => { p with data := mergePiece p.data (pieceOfBytes pos d) (byteMask pos d.length) }
      | .error _ => { p with failed := true }
    let p := if p.reads = 0 && p.failed then { p with todo := [] } else p
    let b := setPiece b ch p
    let b := match bs with | .error e => dmaFail b ch e | .ok _ => b
    if p.reads ≠ 0 then b else dmaWrites c b ch k

/-- A write of a piece is answered. -/
def dmaWriteDone (c : Cfg) (b : Blk) (ch k : Nat) (code : Option Nat) : Blk :=
  match getPiece b ch k with
  | none => b
  | some p =>
    let b := setPiece b ch { p with writes := p.writes - 1, failed := p.failed || code.isSome }
    let b := match code with | some e => dmaFail b ch e | none => b
    pieceDone c b ch k

/-- Make deferred writes of every channel. -/
def dmaFlush (c : Cfg) (b : Blk) : Blk :=
  b.dma.chs.foldl (fun b e => e.2.pieces.foldl (fun b p => if p.todo.isEmpty then b else dmaWrites c b e.1 p.k) b) b

/-- May the engine issue a piece of a channel (R350, R356–R358)? -/
def DmaCh.ready (x : DmaCh) : Bool :=
  !x.parked && x.ad.isNone && x.dstat == 0 && !x.stopping && !x.writeback && !x.signalling && decide (x.next < x.len) &&
    decide (x.flying < 16)

/-- The channel served next (R350). -/
def dmaPick (b : Blk) : Option (Nat × DmaCh) :=
  ((List.range 16).map fun i => (b.dma.lastServed.toNat + 1 + i) % 16).findSome? fun ch =>
    match dmaCh b ch with
    | some x => if x.ready then some (ch, x) else none
    | none => none

/-- A translation problem of a piece: what, and where. -/
structure DmaStop where
  res : AgentRes
  va : Word
  write : Bool
deriving DecidableEq, Repr

/-- Translate the segments of one range of a piece, in order: addresses after redirection, or the first problem. -/
def dmaTranslate (c : Cfg) (ctx : RingCtx) (epoch : BitVec 16) (base : Word) (buddy write : Bool) :
    List (Nat × Nat × Word) → Blk → Except DmaStop (List DmaSeg) × Blk
  | [], b => (.ok [], b)
  | (pos, n, a) :: rest, b =>
    match agentTranslate b ctx (if write then .store else .load) a with
    | (.ok g, b1) =>
      match dmaTranslate c ctx epoch base buddy write rest b1 with
      | (.ok ss, b2) => (.ok ({ pos := pos, len := n, addr := redirect c b2 epoch g, buddy := buddy } :: ss), b2)
      | (.error e, b2) => (.error e, b2)
    | (r, b1) =>
      let page := BitVec.ofNat 64 (pageOf a * 4096)
      (.error { res := r, va := if decide (page.toNat < base.toNat) && decide (pageOf base = pageOf a) then base else page, write := write }, b1)

/-- A piece's translation met a problem: the channel parks, fails, or makes an update (R356, R285). -/
def dmaStopped (c : Cfg) (b : Blk) (ch : Nat) (x : DmaCh) (ctx : RingCtx) (s : DmaStop) : Blk :=
  match s.res with
  | .park reason => raiseReq (setDmaCh b ch { x with parked := true }) ch s.write reason ctx s.va
  | .refused => dmaProgress c (dmaFail b ch 3) ch
  | .update ad leaf =>
    match adStart c b x.epoch ctx.world ch ad leaf with
    | (none, b) => b
    | (some .failed, b) => dmaProgress c (dmaFail b ch 1) ch
    | (some (.done true), b) => b
    | (some (.done false), b) => raiseReq (setDmaCh b ch { x with parked := true }) ch s.write 0 ctx s.va
    | (some .sent, b) => setDmaCh b ch { x with ad := some ad }
  | _ => dmaProgress c (dmaFail b ch 1) ch

/-- Read one source segment (R303, R353). -/
def dmaRead (c : Cfg) (b : Blk) (ch k : Nat) (world : Bool) (s : DmaSeg) : Blk :=
  match segPath c b world s.addr s.len false with
  | .error e => dmaReadDone c b ch k s.pos (.error e)
  | .ok (.lts o) =>
    let r := ltsRead world o s.len b
    dmaReadDone c r.2 ch k s.pos (if r.1.2.isSome then .error 4 else .ok r.1.1)
  | .ok path =>
    let fp := match path with | .port f _ => f | _ => false
    let w := if path = .cached then snoopRead b (s.addr.toNat / 64) else (none, b)
    match w.1 with
    | some d => dmaReadDone c w.2 ch k s.pos (.ok (pieceBytes d (s.addr.toNat % 64) s.len))
    | none =>
      issueReq c fp { op := .rd, addr := BitVec.ofNat 64 (s.addr.toNat / 64 * 64), be := byteMask (s.addr.toNat % 64) s.len, operand := 0
                      data := 0, world := world, purpose := .dmaRead ch k s.pos } w.2

/-- Can a segment's bank or port be used now? -/
def segReady (c : Cfg) (b : Blk) (s : DmaSeg) : Bool :=
  match route c s.addr with
  | .lts o => pdRuns b (quarterPd o) && !ltsWiping b o s.len
  | _ => pdRuns b 18

/-- DMA_PIECE_ISSUE: translate, check and read the next piece of the channel whose turn it is (R350, R353, R356). -/
def dmaIssue (c : Cfg) (b : Blk) : Blk :=
  if !frontRuns b || decide (64 ≤ b.dma.chs.foldl (fun a e => a + e.2.flying) 0) then b
  else match dmaPick b with
  | none => b
  | some (ch, x) =>
    let ctx := (getRing b (dmaRing ch)).ctx
    let at_ (base : Word) : Word := base + BitVec.ofNat 64 x.next
    let n := Nat.min (x.len - x.next) (64 - (at_ x.dst).toNat % 64)
    match dmaTranslate c ctx x.epoch x.src false false (splitRange 2 0 (at_ x.src) n) b with
    | (.error s, b) => dmaStopped c b ch x ctx s
    | (.ok srcs, b) =>
    match dmaTranslate c ctx x.epoch x.dst false true (splitRange 2 0 (at_ x.dst) n) b with
    | (.error s, b) => dmaStopped c b ch x ctx s
    | (.ok dsts, b) =>
    match dmaTranslate c ctx x.epoch x.dst2 true true (if x.op = 1 then splitRange 2 0 (at_ x.dst2) n else []) b with
    | (.error s, b) => dmaStopped c b ch x ctx s
    | (.ok buds, b) =>
      let code (w : Bool) (s : DmaSeg) : Option Nat := match segPath c b ctx.world s.addr s.len w with | .error e => some e | .ok _ => none
      let codes := srcs.filterMap (code false) ++ (dsts ++ buds).filterMap (code true)
      match codes with
      | e :: es => dmaProgress c (dmaFail b ch (es.foldl Nat.min e)) ch
      | [] =>
        if !(srcs ++ dsts ++ buds).all (segReady c b) then b
        else
          let p : DmaPiece := { k := x.next, off := x.next, len := n, data := 0, reads := srcs.length, todo := dsts ++ buds, writes := 0, failed := false }
          let b := setDmaCh { b with dma := { b.dma with lastServed := BitVec.ofNat 4 ch } } ch
            { x with next := x.next + n, pieces := x.pieces ++ [p] }
          let b := countEvents b 0x0B ctx.lv ctx.world 1
          srcs.foldl (fun b s => dmaRead c b ch p.k ctx.world s) b

/-- DMA_END_SIGNAL: the end signal of a descriptor whose writes are all acknowledged (R354). -/
def dmaSignal (c : Cfg) (b : Blk) (ch : Nat) : Blk :=
  match dmaCh b ch with
  | none => b
  | some x =>
    if !frontRuns b || !x.acked || !x.sigen || x.signalling || x.writeback || x.stopping then b
    else
      match makeSignal c b x.epoch (getRing b (dmaRing ch)).ctx.world x.sigt x.sigop x.sigx (.dmaSignal ch) (.syncDma ch) with
      | (.status s, b) => dmaFinish b ch x s
      | (.sent, b) => setDmaCh b ch { x with signalling := true }

/-- The end signal's status has returned. -/
def dmaSignalled (b : Blk) (ch : Nat) (status : BitVec 8) : Blk :=
  match dmaCh b ch with
  | some x => if x.signalling then dmaFinish b ch x status else b
  | none => b

/-- TRQRES reaches a parked channel (R291, R356). -/
def dmaResume (c : Cfg) (b : Blk) (ch : Nat) (abandon : Bool) : Blk :=
  match dmaCh b ch with
  | some x =>
    let b := setDmaCh b ch { x with parked := false }
    if abandon then dmaProgress c (dmaFail b ch 1) ch else b
  | none => b

/-- The response to an update of a channel (R285): the value found, or none for a failure. -/
def dmaAdDone (c : Cfg) (b : Blk) (ch : Nat) (found : Option Word) : Blk :=
  match dmaCh b ch with
  | none => b
  | some x =>
    match x.ad with
    | none => b
    | some ad =>
      let b := setDmaCh b ch { x with ad := none }
      match found with
      | none => dmaProgress c (dmaFail b ch 1) ch
      | some v => dmaProgress c (adApply b ad v).2 ch

/-- Stop a channel (R358): true when a write-back is on its way and the stop is not complete. -/
def dmaStopCh (c : Cfg) (b : Blk) (ch : Nat) : Blk :=
  let n := dmaRing ch
  match dmaCh b ch with
  | none => b
  | some x =>
    if x.acked || x.signalling then b
    else
      let b := withdrawReq (setDmaCh b ch { x with stopping := true, parked := false }) ch
      dmaProgress c (modRing b n fun r => { r with halting := true }) ch

end Sys2Proof.Machine
end

