-- ==== Sys2Proof/Machine/SpargeOps.lean ====
section
/-! DEFINITION. Sparge: stream fetch, frame decoding, conversion, deposit, and stops (07). -/

namespace Sys2Proof.Machine

/-- What the staged input of a chunk gives: more source is needed, a failure (SPSTAT), or the decoded bytes and the source
bytes they took. -/
inductive ChunkIn where
  | need
  | err (code : Nat)
  | ok (bytes : List Byte) (used : Nat)
deriving DecidableEq, Repr

/-- One group of an exponent-coded frame: 34 + 4W source bytes give 64 (R177). -/
def decodeGroup (bs : List Byte) : ChunkIn :=
  let gmin := natOfLE (bs.take 1)
  let w := natOfLE ((bs.drop 1).take 1)
  if bs.length < 2 then .need
  else if 8 < w then .err 1
  else if bs.length < 34 + 4 * w then .need
  else
    let deltas := natOfLE ((bs.drop 2).take (4 * w))
    let sf := (bs.drop (2 + 4 * w)).take 32
    let exps := (List.range 32).map fun i => gmin + (deltas >>> (w * i)) % 2 ^ w
    if exps.any (fun e => decide (255 < e)) then .err 1
    else
      .ok ((exps.zip sf).flatMap fun p => leOfNat 2 ((p.2.toNat / 128) * 32768 + p.1 * 128 + p.2.toNat % 128)) (34 + 4 * w)

/-- The groups of an exponent-coded frame (R177). -/
def decodeGroups : Nat → List Byte → ChunkIn
  | 0, _ => .ok [] 0
  | n + 1, bs =>
    match decodeGroup bs with
    | .ok d u =>
      match decodeGroups n (bs.drop u) with
      | .ok d2 u2 => .ok (d ++ d2) (u + u2)
      | r => r
    | r => r

/-- One frame from the staged bytes, with `rem` source bytes left in the stream (R176–R180): output and padded source bytes. -/
def decodeFrame (bs : List Byte) (rem : Nat) : ChunkIn :=
  if rem < 8 then .err 1
  else if bs.length < 8 then .need
  else
    let h := natOfLE (bs.take 8)
    let ty := h % 4
    let n := (h / 4) % 64 + 1
    let chk := h / 2 ^ 32
    if ty = 3 || (h / 256) % 2 ^ 24 ≠ 0 || (ty = 2 && chk ≠ 0) then .err 1
    else
      let body := bs.drop 8
      let r : ChunkIn :=
        if ty = 0 then (if rem < 8 + 64 * n then .err 1 else if body.length < 64 * n then .need else .ok (body.take (64 * n)) (64 * n))
        else if ty = 2 then .ok (List.replicate (64 * n) 0) 0
        else decodeGroups n (body.take (rem - 8))
      match r with
      | .need => if bs.length < rem then .need else .err 1
      | .err e => .err e
      | .ok d u =>
        let next := roundUp (8 + u) 8
        if rem < 8 + u then .err 1
        else if n < 64 && next < rem then .err 1
        else if ty ≠ 2 && (crc32c d).toNat ≠ chk then .err 2
        else .ok d next

/-- Frames until a chunk's decoded bytes are complete or the source ends. -/
def decodeFrames (target : Nat) : Nat → List Byte → Nat → Nat → ChunkIn
  | 0, _, _, _ => .ok [] 0
  | f + 1, bs, rem, got =>
    if target ≤ got || rem = 0 then .ok [] 0
    else match decodeFrame bs rem with
      | .ok d u =>
        match decodeFrames target f (bs.drop u) (rem - Nat.min u rem) (got + d.length) with
        | .ok d2 u2 => .ok (d ++ d2) (Nat.min u rem + u2)
        | r => r
      | r => r

def Stream.conv (s : Stream) : Bool := bit s.mode 1
def Stream.lossless (s : Stream) : Bool := bit s.mode 0
/-- Chunk and buffer bytes (R166). -/
def Stream.chunk (s : Stream) : Nat := 4096 * 2 ^ s.chsz
def Stream.buf (s : Stream) : Nat := 16384 * 2 ^ s.bufsz
def Stream.ratio (s : Stream) : Nat := if s.conv then streamRatio s.ifmt s.ofmt.toNat else 1
/-- Output with scale bytes (R168). -/
def Stream.narrow (s : Stream) : Bool := s.conv && s.ofmt != 0

/-- The input of the next chunk from what is staged (R167, R176). -/
def Stream.input (s : Stream) : ChunkIn :=
  let rem := s.len - s.donesrc
  let target := s.chunk * s.ratio
  if s.lossless then
    match decodeFrames target (target / 64 + 1) s.staged rem 0 with
    | .ok d u => if s.conv && d.length % (64 * s.ratio) ≠ 0 then .err 1 else .ok d u
    | r => r
  else
    let need := Nat.min target rem
    if s.staged.length < need then .need else .ok (s.staged.take need) need

/-- The four flags of R188 from conversion flags. -/
def streamFlags (f : CvtFlags) : BitVec 4 := BitVec.ofNat 4 (f.inx.toNat + 2 * f.ovf.toNat + 4 * f.flush.toNat + 8 * f.nanblk.toNat)

/-- Runs of `d` consecutive elements of a row. -/
def blocksOf (d : Nat) (xs : List α) : List (List α) := chunks d ((xs.length + d - 1) / d) xs

/-- Convert one row of decoded bytes (R181): 64 output bytes, 8 scale bytes, flags. -/
def convertRow (s : Stream) (row : List Byte) : List Byte × List Byte × CvtFlags :=
  let inF : Fmt := if s.ifmt then .b32 else .w16
  let k := if s.ifmt then 4 else 2
  let xs := (List.range (row.length / k)).map fun i => decodeFlushed inF (natOfLE ((row.drop (k * i)).take k))
  let rm : RMode := if s.rmode = 1 then .rtz else .rne
  let sm : SMode := if s.smode then .ieee else .sat
  let outF := (Fmt.ofCode s.ofmt.toNat).getD .w16
  if s.ofmt = 0 then
    (xs.flatMap fun x => leOfNat 2 (rndFtz x .w16 rm sm 0), [], (xs.foldl (fun (a : CvtFlags) x => a.or (cvtFlags x .w16 rm sm 0)) {}))
  else
    let bl := blocksOf (if s.bsz then 32 else 16) xs
    let es := bl.map fun ys => blockExponent ys outF sm
    let codes := (bl.zip es).flatMap fun p => p.1.map fun x => blockCode p.2 outF rm sm 0 x
    let packed := (codes.foldr (fun (c : Nat) (a : Nat) => c + a * 2 ^ outF.width) 0)
    let flags := (bl.zip es).foldl (fun (a : CvtFlags) p => a.or (blockFlags p.2 outF rm sm p.1 (p.1.map fun _ => 0))) {}
    (leOfNat 64 packed, ((es.map fun e => BitVec.ofNat 8 e) ++ List.replicate 8 0).take 8, flags)

/-- The chunk's data and scale bytes, padded with zeros to the whole chunk (R168, R169, R181). -/
def Stream.output (s : Stream) (dec : List Byte) : List Byte × List Byte × CvtFlags :=
  let pad (n : Nat) (bs : List Byte) : List Byte := (bs ++ List.replicate n 0).take n
  if !s.conv then (pad s.chunk dec, [], {})
  else
    let rows := (blocksOf (64 * s.ratio) dec).map (convertRow s)
    (pad s.chunk (rows.flatMap fun r => r.1), if s.narrow then pad (s.chunk / 8) (rows.flatMap fun r => r.2.1) else [],
     rows.foldl (fun (a : CvtFlags) r => a.or r.2.2) {})

/-- A stream whose source is used up or that failed ends once its signals are answered (R173, R184, R188). -/
def streamFinish (b : Blk) (n : Nat) : Blk :=
  match streamOf b n with
  | none => b
  | some s =>
    match s.ended with
    | none => b
    | some st =>
      if s.signals ≠ 0 || b.err.fatal then b
      else
        finishDesc (dropStream b n) (streamRing n) (if st = 0 then 0 else 1)
          (BitVec.ofNat 32 (s.flags.toNat + 256 * st.toNat + 65536 * s.epoch.toNat)) 0 s.epoch

/-- Responses to a stream that has stopped or ended are dropped. -/
def discardReads (b : Blk) (n : Nat) : Blk :=
  let drop (os : List Outst) : List Outst := os.map fun o => match o.purpose with
    | .sparge m _ => if m = n then { o with purpose := .discard } else o
    | .adUpdate q => if q = 16 + n then { o with purpose := .discard } else o
    | _ => o
  { b with ports := { b.ports with outMp := drop b.ports.outMp, outFp := drop b.ports.outFp } }

/-- End a stream with a status (R184): the chunk in progress is abandoned. -/
def streamEnd (b : Blk) (n : Nat) (st : BitVec 8) : Blk :=
  let b := discardReads b n
  match streamOf b n with
  | some s => streamFinish (setStream b n { s with ended := some st, staged := [], parked := false }) n
  | none => b

/-- Read ahead until a chunk's input is staged: from a dirty copy in the caches at once, else by one read at a time (R183, R184,
R303). -/
def streamFetch (c : Cfg) : Nat → Blk → Nat → Blk
  | 0, b, _ => b
  | f + 1, b, n =>
    match streamOf b n with
    | none => b
    | some s =>
      let off := s.donesrc + s.staged.length
      if b.err.fatal || s.reading || s.parked || s.ended.isSome || s.writeback || s.ad.isSome || decide (s.len ≤ off) || s.input ≠ .need then b
      else
        let ctx := (getRing b (streamRing n)).ctx
        let va := s.src + BitVec.ofNat 64 off
        let k := Nat.min (s.len - off) (64 - va.toNat % 64)
        match agentTranslate b ctx .load va with
        | (.park reason, b) => raiseReq (setStream b n { s with parked := true }) (16 + n) false reason ctx va
        | (.update ad leaf, b) =>
          match adStart c b s.epoch ctx.world (16 + n) ad leaf with
          | (none, b) => b
          | (some .failed, b) => streamEnd b n 3
          | (some (.done true), b) => streamFetch c f b n
          | (some (.done false), b) => raiseReq (setStream b n { s with parked := true }) (16 + n) false 0 ctx va
          | (some .sent, b) => setStream b n { s with ad := some ad }
        | (.ok g, b) =>
          let a := redirect c b s.epoch g
          if nodeOf a != c.node || inBlockSpace a then streamEnd b n 3
          else match regionCheck c a ctx.world false needR false with
            | .deny _ _ => streamEnd b n 3
            | .ok t =>
              let w := if t = .cacheable then snoopRead b (a.toNat / 64) else (none, b)
              match w.1 with
              | some d => streamFetch c f (setStream w.2 n { s with staged := s.staged ++ pieceBytes d (a.toNat % 64) k }) n
              | none =>
                if w.2.err.fatal || !pdRuns b 18 then w.2
                else
                  issueReq c false { op := .rd, addr := BitVec.ofNat 64 (a.toNat / 64 * 64), be := byteMask (a.toNat % 64) k, operand := 0
                                     data := 0, world := ctx.world, purpose := .sparge n off } (setStream w.2 n { s with reading := true })
        | (_, b) => streamEnd b n 3

/-- The most pieces one chunk's input takes. -/
def fetchFuel : Nat := 131072

/-- A source read is answered (R184): its bytes, or none for a failure. -/
def streamReadDone (c : Cfg) (b : Blk) (n off : Nat) (bs : Option (List Byte)) : Blk :=
  match streamOf b n with
  | none => b
  | some s =>
    if !s.reading || off ≠ s.donesrc + s.staged.length || s.ended.isSome then b
    else match bs with
      | none => streamEnd (setStream b n { s with reading := false }) n 4
      | some d => streamFetch c fetchFuel (setStream b n { s with reading := false, staged := s.staged ++ d }) n

/-- The quarters of a range of LTS bytes are available (R312). -/
def rangeOk (c : Cfg) (o n : Nat) : Bool :=
  (List.range (Nat.min 4 ((n + 63) / 64 + 1))).all fun i => decide (n ≤ 64 * i) || quarterOk c (o + 64 * i)

/-- An area of a stream lies in its world's partition, in quarters that are available (R184, R312, R313). -/
def areaOk (c : Cfg) (b : Blk) (world : Bool) (o n : Nat) : Bool :=
  let p := partition c b world
  decide (p.1 ≤ o) && decide (o + n ≤ p.2) && rangeOk c o n

/-- Before a descriptor's first chunk CR_SPRODn is raised to a multiple of C (R168). -/
def sprodAlign (b : Blk) (n : Nat) (s : Stream) : Blk :=
  { b with sparge := { b.sparge with sprod := b.sparge.sprod.set n (BitVec.ofNat 64 (roundUp (b.sparge.sprod.get n).toNat s.chunk)) } }

/-- The stream of a checked descriptor (R166, R167). The flags of a resumed descriptor start at 0 again, which the spec leaves open (log 89). -/
def Ring.stream (r : Ring) (ep : BitVec 16) : Stream :=
  let len := r.fld 0x20 47 0
  { bufsz := r.fld 0x08 2 0, chsz := r.fld 0x08 7 4, bufoff := r.fld 0x0C 21 0, scoff := r.fld 0x10 21 0
    src := BitVec.ofNat 64 (r.fld 0x18 63 0), len := len, mode := BitVec.ofNat 2 (r.fld 0x28 1 0), ifmt := r.fld 0x28 2 2 == 1
    ofmt := BitVec.ofNat 4 (r.fld 0x28 7 4), bsz := r.fld 0x28 8 8 == 1, rmode := BitVec.ofNat 2 (r.fld 0x28 10 9)
    smode := r.fld 0x28 11 11 == 1, syncobj := BitVec.ofNat 16 (r.fld 0x2C 15 0), syncen := r.fld 0x2C 16 16 == 1
    donech := r.fld 0x34 31 0, donesrc := Nat.min len (r.fld 0x38 47 0), staged := [], reading := false, parked := false, ad := none
    ended := none, signals := 0, flags := 0, writeback := false, epoch := ep }

/-- STREAM_BEGIN: the checked descriptor of a running S ring begins once Sparge's epoch is reached (R165, R184, R186, R187). -/
def streamBegin (c : Cfg) (b : Blk) (n : Nat) : Blk :=
  let ring := streamRing n
  let r := getRing b ring
  if 4 ≤ n || !frontRuns b || !pdRuns b 17 || r.st ≠ .ready || !r.run || r.halting then b
  else
    let b := spargeEpoch b
    let ep := b.rings.epSparge
    if r.fld 0x30 16 16 = 1 && !reached ep (BitVec.ofNat 16 (r.fld 0x30 15 0)) then b
    else
      let s := r.stream ep
      let b := setStream (setRing b ring { r with st := .begun }) n s
      let p := partition c b r.ctx.world
      if decide (p.2 - p.1 < 16384) || !areaOk c b r.ctx.world s.bufoff s.buf || (s.narrow && !areaOk c b r.ctx.world s.scoff (s.buf / 8)) then
        streamEnd b n 5
      else if s.len ≤ s.donesrc then streamEnd b n 0
      else streamFetch c fetchFuel (sprodAlign b n s) n

/-- CR_SPRODn at the start of the next chunk (R168). -/
def nextCount (b : Blk) (n : Nat) : Nat := (b.sparge.sprod.get n).toNat

/-- Has a ring a chunk for the decoder: input staged and credit (R170, R175)? Input that fails is met when it is decoded. -/
def chunkReady (b : Blk) (n : Nat) : Bool :=
  match streamOf b n with
  | none => false
  | some s =>
    !s.ended.isSome && !s.writeback && s.input != .need && decide (nextCount b n + s.chunk ≤ (b.sparge.scons.get n).toNat + s.buf)

/-- The ring the decoder serves (R175). -/
def chunkPick (b : Blk) : Option Nat := ((List.range 4).map fun i => (b.sparge.last.toNat + 1 + i) % 4).find? (chunkReady b)

/-- Can bytes of the LTS be written now? -/
def ltsRangeReady (b : Blk) (o n : Nat) : Bool :=
  ((List.range 4).all fun i => decide (n ≤ 64 * i) || pdRuns b (quarterPd (o + 64 * i))) && !ltsWiping b o n

/-- SPARGE_CHUNK: decode and deposit one chunk, advance CR_SPRODn, signal, and end the stream after its last (R168–R175, R181). -/
def spargeChunk (c : Cfg) (b : Blk) : Blk :=
  if b.err.fatal || !pdRuns b 17 || b.pwr.state ≠ .run then b
  else match chunkPick b with
  | none => b
  | some n =>
    match streamOf b n with
    | none => b
    | some s =>
      let served (b : Blk) : Blk := { b with sparge := { b.sparge with last := BitVec.ofNat 2 n } }
      match s.input with
      | .need => b
      | .err e => streamEnd (served b) n (BitVec.ofNat 8 e)
      | .ok dec used =>
        let ctx := (getRing b (streamRing n)).ctx
        let start := nextCount b n
        let o := start % s.buf
        let out := s.output dec
        if !areaOk c b ctx.world (s.bufoff + o) s.chunk || (s.narrow && !areaOk c b ctx.world (s.scoff + o / 8) (s.chunk / 8)) then
          streamEnd (served b) n 5
        else if !ltsRangeReady b (s.bufoff + o) s.chunk || (s.narrow && !ltsRangeReady b (s.scoff + o / 8) (s.chunk / 8)) then b
        else
          let b := (ltsWrite ctx.world (s.bufoff + o) out.1 (served b)).2
          let b := if s.narrow then (ltsWrite ctx.world (s.scoff + o / 8) out.2.1 b).2 else b
          if b.err.fatal then b else
          let b := { b with sparge := { b.sparge with sprod := b.sparge.sprod.set n (BitVec.ofNat 64 (start + s.chunk)) } }
          let b := countEvents b 0x0A ctx.lv ctx.world 1
          let b := if s.syncen then
              { b with sync := { b.sync with queue := b.sync.queue ++
                  [{ src := .stream n, op := 1, obj := s.syncobj, x := 1, world := ctx.world }] } }
            else b
          let b := setStream b n { s with
            donech := s.donech + 1, donesrc := s.donesrc + used, staged := s.staged.drop used
            signals := if s.syncen then s.signals + 1 else s.signals
            flags := if s.conv then s.flags ||| streamFlags out.2.2 else s.flags }
          -- a chunk boundary: a pending mode epoch is applied (R187)
          let b := spargeEpoch b
          if s.len ≤ s.donesrc + used then streamEnd b n 0 else streamFetch c fetchFuel b n

/-- The fetches that could not be made yet are tried again: of a stream that waits for no response and is not parked (R184). -/
def streamRetry (c : Cfg) (b : Blk) : Blk := (List.range 4).foldl (streamFetch c fetchFuel) b

/-- A stream signal's operation is applied (R173). -/
def streamSignalled (b : Blk) (n : Nat) : Blk :=
  match streamOf b n with
  | some s => streamFinish (setStream b n { s with signals := s.signals - 1 }) n
  | none => b

/-- TRQRES reaches a parked stream (R184, R291). -/
def streamResume (c : Cfg) (b : Blk) (n : Nat) (abandon : Bool) : Blk :=
  match streamOf b n with
  | some s =>
    let b := setStream b n { s with parked := false }
    if abandon then streamEnd b n 3 else streamFetch c fetchFuel b n
  | none => b

/-- The response to an update of a stream ring (R285). -/
def streamAdDone (c : Cfg) (b : Blk) (n : Nat) (found : Option Word) : Blk :=
  match streamOf b n with
  | none => b
  | some s =>
    match s.ad with
    | none => b
    | some ad =>
      let b := setStream b n { s with ad := none }
      match found with
      | none => streamEnd b n 3
      | some v => streamFetch c fetchFuel (adApply b ad v).2 n

/-- Stop a stream (R185): the chunk in progress is abandoned and DONECH and DONESRC are written back. A stream that has ended
completes. -/
def streamStop (c : Cfg) (b : Blk) (n : Nat) : Blk :=
  match streamOf b n with
  | none => b
  | some s =>
    if s.ended.isSome then b
    else
      let ring := streamRing n
      let r := getRing b ring
      let lo := leOfNat 4 s.donech
      let hi := leOfNat 8 s.donesrc
      let b := discardReads b n
      let b := { b with
        sync := { b.sync with queue := b.sync.queue.map fun q => if q.src = .stream n then { q with src := .detached } else q } }
      let b := withdrawReq (setStream b n { s with staged := [], reading := false, parked := false, ad := none, writeback := true }) (16 + n)
      frontWrite c (modRing b ring fun r => { r with halting := true }) r.ctx.world (slotAddr ring r r.head.toNat + 0x34)
        (if r.big then lo.reverse ++ hi.reverse else lo ++ hi) (.progress ring)

end Sys2Proof.Machine
end

