-- ==== Sys2Proof/Machine/JobOps.lean ====
section
/-! DEFINITION. Ring commands, job offers, TAKE, END and PREEMPT (13). -/

namespace Sys2Proof.Machine

/-- An HCP command on a secure ring is refused while the world lock is set; machine firmware's is not (R434). -/
def ringLocked (c : Cfg) (b : Blk) (n : Nat) (secure : Bool) : Bool := c.lock && !secure && ringsecBit c b n

def refuseRing (b : Blk) (n : Nat) : Blk := modRing b n fun r => { r with refused := true }

/-- SETUP (R323, R324, R435): the image is read as an access of the secure world when the ring may be secure. In fatal state the front end reads
nothing (R308). -/
def setupRing (c : Cfg) (b : Blk) (n : Nat) (secure : Bool) : Blk :=
  let r := getRing b n
  if ringLocked c b n secure || r.run || r.busy then refuseRing b n
  else if b.err.fatal then b
  else
    frontRead c (wake (setRing b n { r with busy := true })) true n (ringsecBit c b n)
      (BitVec.ofNat 64 (r.ctxHi.toNat * 2 ^ 32 + r.ctxLo.toNat)) 2

/-- A ring begins to fetch, or an event ring to take entries (R324, R337); a job wait that STOP freed is armed afresh. -/
def startUnit (c : Cfg) (b : Blk) (n : Nat) : Blk :=
  let b := modRing b n fun r => { r with run := true }
  if ringKind n = 1 && (getRing b n).st = .waiting && (jobWaitOf b n).isNone then armJob c b n else b

/-- START (R324, R465). -/
def startRing (c : Cfg) (b : Blk) (n : Nat) (secure : Bool) : Blk :=
  let r := getRing b n
  if ringLocked c b n secure || r.busy || !r.setUp || !c.sealed then refuseRing b n
  else if r.run then b
  else startUnit c (wake b) n

/-- A ring stops: its descriptor in progress stops at its transfer boundary, an offer not taken is withdrawn, an ARMED job wait
is freed (R324, R343). -/
def stopUnit (c : Cfg) (b : Blk) (n : Nat) : Blk :=
  let b := modRing b n fun r => { r with run := false }
  let r := getRing b n
  if b.err.fatal then b
  else if r.st = .fetching then setRing b n { r with halting := true }
  else if ringKind n = 1 then
    let b := match b.rings.offer with
      | some j => if j.ring.toNat = n then { b with rings := { b.rings with offer := none, offerResume := false } } else b
      | none => b
    { b with sync := { b.sync with waits := b.sync.waits.filter fun w => match w.kind with
        | .jobWait m => decide (m.toNat ≠ n) || w.state != .armed
        | _ => true } }
  else if ringKind n = 2 then (if r.st = .ready then ringStopped b n else dmaStopCh c b (n - 8))
  else if ringKind n = 3 then (if r.st = .ready then ringStopped b n else streamStop c b (n - 24))
  else b

/-- STOP (R324): BUSY until the write-back is answered, or until the DMA or stream descriptor that it lets complete is completed (R185, R358). -/
def stopRing (c : Cfg) (b : Blk) (n : Nat) (secure : Bool) : Blk :=
  let r := getRing b n
  if ringLocked c b n secure || r.busy then refuseRing b n
  else if !r.run then b
  else modRing (stopUnit c b n) n fun r => { r with busy := r.halting || (ringKind n != 1 && !b.err.fatal && r.st != .idle) }

/-- KZ_RINGn_CMD (R322, R324). -/
def ringCmd (c : Cfg) (b : Blk) (n op : Nat) (secure : Bool) : Blk :=
  if op = 1 then setupRing c b n secure else if op = 2 then startRing c b n secure else if op = 3 then stopRing c b n secure else b

/-- The job at the head of a ring, as it is offered (R339, R340). -/
def jobOf (b : Blk) (n : Nat) : Job :=
  let r := getRing b n
  { ring := BitVec.ofNat 3 n, index := r.head, prio := r.ctx.prio, world := r.ctx.world, desc := r.desc, tag := r.tag, big := r.big
    nclamp := r.nclamp, firstCode := r.firstCode, stopped := 0 }

/-- A job's mode epoch requirement is met by the core, the vector unit and the tile engine (R339). -/
def jobEpochs (b : Blk) (r : Ring) : Bool :=
  r.fld 0x60 16 16 == 0 ||
    (let e : BitVec 16 := BitVec.ofNat 16 (r.fld 0x60 15 0)
     reached b.rings.epCore e && reached b.rings.epVec e && reached b.rings.epTile e)

/-- The new jobs that are ready, in round-robin order after the ring of the last job taken (R340). -/
def newJobs (b : Blk) : List Job :=
  ((List.range 8).map fun i => (b.rings.lastRing.toNat + 1 + i) % 8).filterMap fun n =>
    let r := getRing b n
    if r.run && r.st == .ready && jobEpochs b r then some (jobOf b n) else none

/-- The job the front end offers, and whether it is a preempted one (R340). -/
def jobPick (b : Blk) : Option (Job × Bool) :=
  let back := (b.rings.preempted.filter fun j => (getRing b j.ring.toNat).run).reverse
  let cands : List (Job × Bool) := back.map (fun j => (j, true)) ++ (newJobs b).map (fun j => (j, false))
  let cands : List (Job × Bool) := match b.rings.running with
    | some r => if 7 ≤ b.rings.preempted.length then [] else cands.filter fun x => decide (r.prio.toNat < x.1.prio.toNat)
    | none => cands
  let top := cands.foldl (fun m x => Nat.max m x.1.prio.toNat) 0
  cands.find? fun x => x.1.prio.toNat == top

/-- JOB_OFFER (R340): no offer stands, no lockup or fatal state, and no accepted PREEMPT is unfinished with its offer standing. -/
def offerJob (b : Blk) : Blk :=
  if !frontRuns b || b.rings.offer.isSome || b.rings.noOffers then b
  else match jobPick b with
  | some (j, resume) => { b with rings := { b.rings with offer := some j, offerResume := resume } }
  | none => b

/-- TAKE (R341): the offer becomes the running job; the rings that a resumed job's PREEMPT stopped are started again. -/
def jobTake (c : Cfg) (b : Blk) (j : Job) : Blk :=
  let resume := b.rings.offerResume
  let n := j.ring.toNat
  let b := { b with rings := { b.rings with
    offer := none, offerResume := false, running := some { j with stopped := 0 }, lastRing := j.ring, rring := j.ring, rindex := j.index
    preempted := if resume then b.rings.preempted.filter (fun x => x.ring != j.ring) else b.rings.preempted } }
  let b := modRing b n fun r => { r with st := .begun }
  let b := if resume then
      (List.range 20).foldl (fun b i => if bit j.stopped i then startUnit c b (8 + i) else b) b
    else b
  emitJob b j.world j.ring 1 j.index j.tag

/-- The end of a job whose signal's status is known (R341). -/
def jobSignalled (b : Blk) (n : Nat) (status : BitVec 8) : Blk :=
  let r := getRing b n
  if r.st ≠ .ending then b
  else finishDesc b n 0 r.result (BitVec.ofNat 32 (status.toNat + 65536 * r.epoch.toNat)) r.epoch

/-- END (R341): RUNNING clears; the signal, and the completion after its response. -/
def jobEnd (c : Cfg) (b : Blk) (j : Job) : Blk :=
  let n := j.ring.toNat
  let ep := b.rings.epCore
  let b := emitJob { b with rings := b.rings.noneRuns } j.world j.ring 2 j.index j.tag
  let b := modRing b n fun r => { r with st := .ending, result := b.rings.jobRes.truncate 32, epoch := ep }
  let r := getRing b n
  if r.fld 0x58 3 3 = 0 then jobSignalled b n 0
  else match makeSignal c b ep j.world (BitVec.ofNat 64 (r.fld 0x50 63 0)) (BitVec.ofNat 3 (r.fld 0x58 2 0))
      (BitVec.ofNat 32 (r.fld 0x5C 31 0)) (.jobSignal n) (.syncJob n) with
    | (.status s, b) => jobSignalled b n s
    | (.sent, b) => b

/-- PREEMPT is accepted (R343): the running job joins the preempted set and the running rings of its masks stop. -/
def jobPreempt (c : Cfg) (b : Blk) (j : Job) : Blk :=
  let r := getRing b j.ring.toNat
  let mask := r.fld 0x38 19 0
  let rings := (List.range 20).filter fun i => mask.testBit i && (getRing b (8 + i)).run
  let j := { j with stopped := rings.foldl (fun (m : BitVec 20) i => setBit m i true) 0 }
  let b := emitJob b j.world j.ring 3 j.index j.tag
  let b := { b with rings := { b.rings with running := none, preempted := b.rings.preempted ++ [j], preempting := some j.ring } }
  rings.foldl (fun b i => stopUnit c b (8 + i)) b

/-- Do the rings that an accepted PREEMPT stopped still write back (R343)? -/
def preemptWaits (b : Blk) : Bool :=
  match b.rings.preempting with
  | none => false
  | some ring =>
    match b.rings.preempted.find? (fun j => j.ring == ring) with
    | some j => (List.range 20).any fun i => bit j.stopped i && (getRing b (8 + i)).halting
    | none => false

/-- PREEMPT retires: a type 0x05 event where the job's ring sends events (R343). -/
def preemptDone (b : Blk) : Blk :=
  match b.rings.preempting with
  | none => b
  | some ring =>
    let b := { b with rings := { b.rings with preempting := none } }
    let r := getRing b ring.toNat
    match b.rings.preempted.find? (fun j => j.ring == ring) with
    | some j =>
      if r.ctx.even then
        pushEvent b r.ctx.evring.toNat { ty := 5, src := BitVec.ofNat 8 ring.toNat, status := 0, index := j.index, a := j.tag, b := 0 }
      else b
    | none => b

/-- Room for the event of an accepted PREEMPT. -/
def preemptRoom (b : Blk) : Bool :=
  match b.rings.preempting with
  | none => true
  | some ring =>
    let r := getRing b ring.toNat
    !r.ctx.even || eventRoom b r.ctx.evring.toNat 1

/-- Is an offer or job visible at a level and world (R340, R341)? -/
def jobVisible (level : BitVec 2) (world : Bool) (j : Job) : Bool := level == 2 || j.world == world

/-- CR_JOBSTAT (R340) as a level and world read it. -/
def jobStat (b : Blk) (level : BitVec 2) (world : Bool) : Word :=
  let o := match b.rings.offer with
    | some j =>
      if jobVisible level world j then
        1 + 2 * b.rings.offerResume.toNat + 8 * j.ring.toNat + 64 * j.prio.toNat + 512 * j.world.toNat + 65536 * j.index.toNat
      else 0
    | none => 0
  BitVec.ofNat 64 (o + 4 * b.rings.running.isSome.toNat + 1024 * (b.rings.preempted.length % 8) + 2 ^ 32 * b.rings.rring.toNat
    + 2 ^ 48 * b.rings.rindex.toNat)

/-- CR_JOBDk (R340). -/
def jobDesc (b : Blk) (level : BitVec 2) (world : Bool) (k : Nat) : Word :=
  match b.rings.offer with
  | some j => if jobVisible level world j then BitVec.ofNat 64 (natOfLE ((j.desc.drop (8 * k)).take 8)) else 0
  | none => 0

/-- End every preempted job, the running job and the standing offer at a core-only reset (R342, R452). -/
def jobsAbandon (b : Blk) : Blk :=
  let js := b.rings.preempted ++ b.rings.running.toList ++ b.rings.offer.toList
  let b := { b with rings := { b.rings.noneRuns with offer := none, offerResume := false, preempted := [], preempting := none, noOffers := false } }
  js.foldl (fun b j => finishDesc b j.ring.toNat 7 0 0 b.rings.epCore) b

end Sys2Proof.Machine
end

