-- ==== Sys2Proof/Machine/WaitOps.lean ====
section
/-! DEFINITION. The delivery of a core wait's notification, and hardware tasks (08, 09). -/

namespace Sys2Proof.Machine

/-- The PC at which a task runs next is moved on by one instruction. -/
def Core.stepTask (k : Core) (t : BitVec 6) : Core :=
  if t = k.svcTask then { k with pc := k.pc + 4 } else { k with taskPcs := k.taskPcs.set t.toNat (k.taskPcs.get t.toNat + 4) }

/-- The notification of a core wait (R211, R212, R235): rd takes the value, the status and the handle; the stream or task goes on
past its SWAIT, and the entry is FREE. -/
def deliverCore (b : Blk) (w : WaitEntry) (task : BitVec 6) (rd : BitVec 5) : Blk :=
  let v := syncRd w.value (if w.state = .fired then 0 else 4) w.handle
  let b := freeWaitEntry b w.num
  if b.core.svc then
    let k := { b.core with regs := b.core.regs.set (32 * task.toNat + rd.toNat) v, taskStat := b.core.taskStat.set task.toNat taskReady }
    reschedule { b with core := k.stepTask task }
  else
    let k := b.core.setReg rd v
    retire k.ps { b with core := { k with pc := k.pc + 4, program := k.program.drop 1 } }

/-- The wait of a task that is in the wait table. -/
def taskWaitOf (b : Blk) (t : BitVec 6) : Option (WaitEntry × BitVec 5) :=
  (b.sync.waits.filterMap fun w => match w.kind with
    | .coreWait u rd => if u = t then some (w, rd) else none
    | _ => none).head?

/-- The hardware task instructions are legal only in service mode (R243). -/
def needSvc : M Unit := do
  if !(← getCore).svc then coreFault 4

/-- The task that rs1 names, below the number of banks (R235). -/
def taskArg (v : Word) : M Nat := do
  let k ← getCore
  check (decide (v.toNat < k.banks)) (coreFault 8)
  return v.toNat

end Sys2Proof.Machine
end

