-- ==== Sys2Proof/Machine/ExecCore.lean ====
section
/-! DEFINITION. Meanings of the interrupt entry and of the spill engine's background moves (09, 10). -/

namespace Sys2Proof.Machine

/-- The command leaves the head of the queue when it is tried again; an older instruction behind it is tried after it. -/
def engineStart (b : Blk) : Blk :=
  if b.core.replay then
    let rest := b.core.program.drop 1
    { b with core := { b.core with program := rest, replay := false, blocked := if rest.isEmpty then none else some .other } }
  else b

/-- The responses kept for an instruction that still waits. -/
def engineDone (b0 b1 : Blk) : Blk := if b0.core.program.isEmpty then { b1 with core := { b1.core with resp := [] } } else b1

/-- INTERRUPT_ENTRY (R252, R253, R256): an instruction boundary at which an interrupt is sampled. -/
def takeInterrupt (c : Cfg) (b : Blk) : Blk :=
  let b := awaken (engineStart b)
  (boundaryEntry c b).getD b

def execInterruptEntry (s : State) : Host.Outcome State Fault Refusal := blkNext s (takeInterrupt s.cfg)

/-- The spill engine works: windows in use and not frozen, the main core clocked and neither stopped nor locked up. -/
def engineRuns (b : Blk) : Bool :=
  (b.core.run == .running || b.core.run == .sleeping) && b.pwr.state == .run && !b.core.svc && !b.core.frozen

/-- A background move of the spill engine: `fault` records a move that faulted (R223). -/
def engineMove (i : Instr) (m : M Unit) (fault : Word → Core → Core) (b0 : Blk) : Blk :=
  match m b0 with
  | .ok _ b1 => engineDone b0 { b1 with core := { b1.core with program := b0.core.program, blocked := b0.core.blocked } }
  | .error (.wait w) b1 => waitHead i w b0 b1
  | .error (.trap t) b1 => let b := restoreArch b0 b1; { b with core := fault t.faddr b.core }
  | .error (.lockup r cause) b1 => lockup r cause (restoreArch b0 b1)
  | .error .fatal b1 => stopCore b0 b1

/-- The condition of a spill (R222, R223). -/
def windowDue (k : Core) : Bool := decide (k.free < k.lowater.toNat) && k.res != 0 && !k.spfault

/-- WINDOW_SPILL (R222, R223). -/
def windowSpill (c : Cfg) (b : Blk) : Blk :=
  let b := engineStart b
  if engineRuns b && windowDue b.core then
    engineMove .windowSpill (spillOldest c) (fun a k => { k with spfault := true, spAddr := a }) b
  else b

def execWindowSpill (s : State) : Host.Outcome State Fault Refusal := blkNext s (windowSpill s.cfg)

/-- WINDOW_FILL (R222, R223). -/
def windowFill (c : Cfg) (b : Blk) : Blk :=
  let b := engineStart b
  match fillLevel b.core with
  | none => b
  | some l =>
    if engineRuns b && decide (b.core.res.toNat < 2) && !b.core.flfault then
      engineMove .windowFill (fillOne c l) (fun a k => { k with flfault := true, flAddr := a }) b
    else b

def execWindowFill (s : State) : Host.Outcome State Fault Refusal := blkNext s (windowFill s.cfg)

end Sys2Proof.Machine
end

