-- ==== Sys2Proof/Machine/PowerOps.lean ====
section
/-! DEFINITION. Power and clock domains, links going down and to PAUSED, and the state that Steep and resets return to its reset value (16, 18). -/

namespace Sys2Proof.Machine

/-- The clock domains of the power domains that are on. -/
def cdMask (pd : W32) : BitVec 40 :=
  (List.range 32).foldl (fun (m : BitVec 40) d =>
    if 2 ≤ d ∧ bit pd d then m ||| BitVec.ofNat 40 (maskBits (cdsOf d).2 (cdsOf d).1) else m) 7

/-- CD39 is TCLK and runs only in TEST (R408). -/
def cd39 (b : Blk) : BitVec 40 := if b.sys.lcsValid && b.sys.lcs == 0 && b.pwr.porstN && b.pwr.pgAon then 2 ^ 39 else 0

/-- The clocks of a set of power domains: those that CR_MCDEN has not gated, and CD0–CD2 (R408, R430). -/
def cdsRun (b : Blk) (pd : W32) : BitVec 40 := (cdMask pd &&& ~~~b.malt.cdOff) ||| 7 ||| cd39 b

/-- A change of k, T or STATE gives a POWER packet (R468). -/
def powerChanged (b0 b : Blk) : Blk :=
  if b0.pwr.k = b.pwr.k && b0.pwr.t = b.pwr.t && b0.pwr.state = b.pwr.state then b else emitPower b

/-- The observation unit loses its registers and words when PD20 is off (R473). -/
def obsLost (b : Blk) : Blk := { b with obs := Obs.reset }

/-- Put the power domains to `pd`, and the clocks with them where the block is in Run. -/
def setPds (b : Blk) (pd : W32) : Blk :=
  let pd := pd ||| 3
  let cd := if b.pwr.state = .run then cdsRun b pd else 7 ||| cd39 b
  let b := if bit pd 20 then b else obsLost b
  { b with pwr := { b.pwr with pd := pd, cd := cd } }

/-- Switch a power domain on, with its clocks but those that CR_MCDEN has gated. -/
def powerOn (b : Blk) (d : Nat) : Blk :=
  let m : BitVec 40 := BitVec.ofNat 40 (maskBits (cdsOf d).2 (cdsOf d).1) &&& ~~~b.malt.cdOff
  { b with pwr := { b.pwr with pd := setBit b.pwr.pd d true, cd := if b.pwr.state = .run then b.pwr.cd ||| m else b.pwr.cd } }

/-- Switch a power domain off. -/
def powerOff (b : Blk) (d : Nat) : Blk :=
  let m : BitVec 40 := BitVec.ofNat 40 (maskBits (cdsOf d).2 (cdsOf d).1)
  let b := { b with pwr := { b.pwr with pd := setBit b.pwr.pd d false, cd := b.pwr.cd &&& ~~~m } }
  if d = 20 then obsLost b else b

/-- The domains that the sequencer powers (R458); PD20 stays off while KZ_CLK_EN.OBS is 0 (R473). -/
def allPds (c : Cfg) : W32 := setBit (BitVec.allOnes 32) 20 c.obsClk

/-- A link end in DOWN: its statistics and the level of LREQ_I stay (R393, R399). -/
def Link.down (l : Link) : Link :=
  { Link.reset with lreqI := l.lreqI, trims := l.trims, margin := l.margin, marginSeen := l.marginSeen, crcErr := l.crcErr, protErr := l.protErr
                    retrains := l.retrains, tx := l.tx
                    crcErrs := l.crcErrs, replays := l.replays }

/-- A link moves to a state, with its LINK packet (R468). -/
def linkTo (b : Blk) (p : BitVec 2) (l : Link) : Blk :=
  if (getLink b p).state = l.state then setLink b p l else emitLink (setLink b p l) p l.state

/-- A link goes DOWN; one in UP or PAUSED sends a DOWN block first (R395, R398, R451). -/
def linkDown (b : Blk) (p : BitVec 2) : Blk :=
  let l := getLink b p
  stampAll (linkTo b p (if l.state = stUp || l.state = stPaused then l.driveCtl p 6 else l).down) p

def ports4 : List (BitVec 2) := [0, 1, 2, 3]

def linksDown (b : Blk) : Blk := ports4.foldl linkDown b

/-- The links lose their domain: a FAILED link stays FAILED until RETRAIN, EN or a reset (R393). -/
def linksLost (b : Blk) : Blk := ports4.foldl (fun b p => if (getLink b p).state = stFailed then b else linkDown b p) b

/-- Enter RETRAIN: as REQ, TRAIN and ADVERT in turn, keeping sequence numbers and credits (R393). -/
def Link.retrain (l : Link) : Link :=
  { l with state := stRetrain, retraining := true, trainRow := 0, sawLock := false, advSent := 0, advGot := false, lreqO := true
           replayRow := 0, crcRow := 0, attempts := 0, retrains := if l.retrains = 0xFF then l.retrains else l.retrains + 1 }

/-- Replay every outstanding block (R392): the count of replays, and a link that has replayed 16 times without progress
retrains. -/
def replay (b : Blk) (p : BitVec 2) : Blk :=
  let l := getLink b p
  let l := { l with replayRow := l.replayRow + 1, replays := if l.replays = 0xFFFF then l.replays else l.replays + 1 }
  let b := countEvents b 0x0C 0 false 1
  if 16 ≤ l.replayRow.toNat then linkTo b p l.retrain else setLink b p (l.sendBlocks p l.retry)

/-- Couch: each link in UP sends PAUSE and enters PAUSED (R395). -/
def pauseLinks (b : Blk) : Blk :=
  ports4.foldl (fun b p => let l := getLink b p; if l.state = stUp then linkTo b p ({ l with state := stPaused }.driveCtl p 4) else b) b

/-- Leaving Couch: RESUME on each PAUSED link, and what waited is sent (R395). -/
def resumeLinks (b : Blk) : Blk :=
  pump (ports4.foldl (fun b p => let l := getLink b p; if l.state = stPaused then linkTo b p ({ l with state := stUp }.driveCtl p 5) else b) b)

/-- The main core's control registers in the observation unit (R444, R475–R479). -/
def obsCrReset (b : Blk) : Blk :=
  { b with obs := { b.obs with cnt := [], cntcfg := [], cntuen := 0, inspect := false, hi := [] } }

/-- The main core's records of remote failures (R364). -/
def rstatReset (p : Ports) : Ports :=
  { p with werr := ⟨false, false⟩, wtmo := ⟨false, false⟩, lkind := ⟨0, 0⟩, wcount := ⟨0, 0⟩, raddr := ⟨0, 0⟩ }

/-- The registers that the Kiln sets with tile, Tun, vector and lane state (R444). -/
def wipeUnits (b : Blk) : Blk :=
  { b with tile := { TileFile.reset with tfCode := b.tile.tfCode, tfTile := b.tile.tfTile, tfGroup := b.tile.tfGroup }, tun := Tun.reset
           vec := { Vec.reset with vfCode := b.vec.vfCode, vfReg := b.vec.vfReg }, epi := Epi.reset }

/-- Translation registers, TLBs and walk buffer at reset; the redirect tables are kept. -/
def mmuCore (m : Mmu) : Mmu :=
  { Mmu.reset with live := m.live, older := m.older, copyPend := m.copyPend, treqs := m.treqs }

/-- The logic tier outside PD0 at its cold-reset values after Steep (R416): Tun rows, the L2 with its side and
eviction buffers, the LTS and the sync store keep their contents. -/
def steepLoss (b : Blk) : Blk :=
  { b with core := Core.reset, mmu := { mmuCore b.mmu with treqs := [] }
           caches := { Caches.reset with l2 := b.caches.l2, side := b.caches.side, evict := b.caches.evict }
           dma := { b.dma with lastServed := Dma.reset.lastServed }, sparge := { b.sparge with last := Sparge.reset.last }
           tile := TileFile.reset, tun := { Tun.reset with rows := b.tun.rows }, vec := Vec.reset, epi := Epi.reset
           ports := rstatReset b.ports, chain := { b.chain with chCode := 0, chCge := 0, recvSince := none }
           sync := { b.sync with waits := b.sync.waits.filter fun w => match w.kind with | .coreWait _ _ => false | _ => true
                                 coreDone := none } }

/-- The main core is released at a PC, at M in the secure world (R416, R461). -/
def releaseAt (b : Blk) (pc : Word) : Blk := { b with core := { b.core with run := .running, pc := pc } }

/-- The units that are powered off, and an idle Sparge, apply the pending epoch at once (R187, R346). -/
def offEpochs (b : Blk) : Blk :=
  match epochReady b with
  | none => b
  | some e =>
    let r := b.rings
    let r := if pdOn b 2 then r else { r with epCore := e }
    let r := if pdOn b 5 then r else { r with epVec := e }
    let r := if pdOn b 14 then r else { r with epTile := e }
    let r := if pdOn b 17 && !b.sparge.streams.isEmpty then r else { r with epSparge := e }
    let r := if pdOn b 18 then r else { r with epFar := e }
    let r := if pdOn b 16 then r else { r with epDma0 := e, epDma1 := e, epDma2 := e, epDma3 := e }
    { b with rings := r }

/-- Is an epoch applied by some unit or carried by work in flight (R295)? -/
def epochHeld (b : Blk) (e : BitVec 16) : Bool :=
  let r := b.rings
  [r.epCore, r.epVec, r.epTile, r.epSparge, r.epFar, r.epDma0, r.epDma1, r.epDma2, r.epDma3].contains e ||
    anyOutst b (fun o => o.epoch == e) || b.dma.chs.any (fun x => x.2.epoch == e) || b.sparge.streams.any (fun x => x.2.epoch == e)

/-- Copy the staged table into a live table bound to an epoch (R295): the newer one becomes the older. -/
def copyTable (c : Cfg) (b : Blk) (e : BitVec 16) : Blk :=
  { b with mmu := { b.mmu with older := some b.mmu.live, live := { epoch := e, entries := c.nrt }, copyPend := none } }

/-- Release the older live table when nothing holds its epoch (R295). -/
def releaseTable (b : Blk) : Blk :=
  match b.mmu.older with
  | some t => if epochHeld b t.epoch || t.epoch == b.mmu.live.epoch then b else { b with mmu := { b.mmu with older := none } }
  | none => b

end Sys2Proof.Machine
end

