-- ==== Sys2Proof/Machine/ResetOps.lean ====
section
/-! DEFINITION. The Kiln, the three kinds of reset, life-cycle changes, and the release of the main core (17, 18). -/

namespace Sys2Proof.Machine

/-- The reset kinds of `Sys.resetKind`. -/
def rkNone : BitVec 3 := 0
def rkCold : BitVec 3 := 1
def rkWarm : BitVec 3 := 2
def rkCore : BitVec 3 := 3
def rkLcs : BitVec 3 := 4

/-- Width of coverage: cold, life-cycle, warm, core-only (R450). -/
def rkRank (k : BitVec 3) : Nat := if k = rkCold then 4 else if k = rkLcs then 3 else if k = rkWarm then 2 else if k = rkCore then 1 else 0

/-- The Kiln coverage of a reset kind (R444). -/
def covOf (k : BitVec 3) : BitVec 4 := if k = rkCold || k = rkLcs then 1 else if k = rkWarm then 2 else 4

/-- KZ_KILN_STAT.TRIG of a reset kind (R447). -/
def trigOf (k : BitVec 3) : BitVec 3 := k

/-- A reset is in progress: the sequence has not reached RUNNING or FAILED. -/
def resetInProgress (b : Blk) : Bool := decide (b.sys.phase ≠ 9) && decide (b.sys.phase ≠ 10)

/-- The memories, register files and main-core registers of a reset's wipe (R444). Bit 2 alone (core-only) keeps the sync store,
the Maltster RAM, the wait table and the communication group table. -/
def wipeReset (cov : BitVec 4) (b : Blk) : Blk :=
  let wide := bit cov 0 || bit cov 1
  let b := obsCrReset b
  let b := { b with
    core := { Core.reset with run := b.core.run }
    mmu := mmuCore b.mmu, caches := Caches.reset, lts := Lts.reset, tile := TileFile.reset, tun := Tun.reset, vec := Vec.reset
    epi := Epi.reset, ports := rstatReset b.ports
    chain := { b.chain with txW := [], txE := [], rxW := [], rxE := [], chCode := 0, chCge := 0, recvSince := none
                            cgt := if wide then [] else b.chain.cgt, cmd := if wide then none else b.chain.cmd }
    dma := Dma.reset, sparge := { Sparge.reset with sprod := b.sparge.sprod, scons := b.sparge.scons }
    rings := { b.rings with jobRes := 0 }
    sync := if wide then Sync.reset else { b.sync with coreDone := none }
    malt := if wide then { b.malt with ram := [] } else b.malt
    pwr := { b.pwr with tcmp := 0, wakepc := 0, mnotice := 0 } }
  if bit cov 0 then
    { b with err := { b.err with pend := false, overrun := false, unit := 0, kind := 0, world := false, addr := 0, ccount := 0 }
             rings := { b.rings with clog := [], clogNext := 0, clogTotal := 0 } }
  else b

/-- The LTS bytes of a range and their recorded errors wiped (R313, R444). -/
def wipeLts (b : Blk) (r : Nat × Nat) : Blk :=
  { b with lts := { bytes := Sparse.clear b.lts.bytes r.1 r.2, flips := b.lts.flips.clear (r.1 / 8) (r.2 / 8) } }

/-- The configuration that a warm reset and a life-cycle change return to its reset value (R451). -/
def cfgReset (c : Cfg) (lcs : Bool) : Cfg :=
  { c with lock := false, rgnX := [], featAcc := [], sealed := false
           ringsec := if lcs then 0 else c.ringsec, secobj := if lcs then 0 else c.secobj, cgtsec := if lcs then 0 else c.cgtsec }

/-- The union of the coverages of the wipes under way and a new one (R446). -/
def covUnion (b : Blk) (cov : BitVec 4) : BitVec 4 :=
  (match b.sys.kiln with | some w => w.cov &&& 7 | none => 0) ||| cov

/-- A warm reset or a life-cycle change (R451): everything but the configuration, from the WIPE phase on. -/
def warmBlk (b : Blk) (kind last : BitVec 3) : Blk :=
  let b0 := b
  let cov := covUnion b (covOf kind)
  let b := linksDown b
  let w := wipeReset cov { b with core := Core.reset }
  let rings := { Rings.reset with clog := w.rings.clog, clogNext := w.rings.clogNext, clogTotal := w.rings.clogTotal }
  let held := lcsHeld b
  let b := { w with
    mmu := Mmu.reset, sync := Sync.reset, dma := Dma.reset, sparge := Sparge.reset, rings := rings
    err := { w.err with fatal := false, aonFatal := false }
    ports := { w.ports with outMp := [], outFp := [], failed := [] }
    malt := { w.malt with started := false, regs := [], pcs := [], stat := 1, taskPc := 0, msrc := 0, pdreq := 3, cden := 7, cdOff := 0 }
    pwr := { w.pwr with state := .run, hold := 0, wakeHeld := false, deep := false }
    sys := { w.sys with
      kiln := some { cov := cov, lts := [], uworld := none }, kilnQueue := [], kilnTrig := trigOf kind
      kilnFail := if b.err.fatal then false else w.sys.kilnFail
      phase := if held then 0 else 3, last := last, failcode := 0, resetKind := kind, full := false, entry := none, imgFail := 0
      img := none, locked := false, aonLockup := false, sigfail := false, heldIn := [] } }
  powerChanged b0 (if held then setPds b 3 else b)

/-- A warm reset, unless a reset of wider coverage is in progress (R450). -/
def warmReset (c : Cfg) (b : Blk) (kind last : BitVec 3) : Cfg × Blk :=
  if resetInProgress b && decide (rkRank kind < rkRank b.sys.resetKind) then (c, b)
  else (cfgReset c (kind == rkLcs), warmBlk b kind last)

/-- A cold reset (R451): every state but the input pins and the model's own counters. -/
def coldBlk (b : Blk) : Blk :=
  let pins (l : Link) : Link := { Link.reset with lreqI := l.lreqI }
  { Blk.reset with
    ports := { Ports.reset with tagCount := b.ports.tagCount, mp := pins b.ports.mp, fp := pins b.ports.fp, ce := pins b.ports.ce, cw := pins b.ports.cw }
    pwr := { Power.reset with porstN := b.pwr.porstN, pgAon := b.pwr.pgAon, pgL := b.pwr.pgL, pgM := b.pwr.pgM }
    freeCount := b.freeCount }

/-- The LTS quarters that are available, by their domains (R312). -/
def quarterPds (c : Cfg) : W32 := BitVec.ofNat 32 (c.qen.toNat * 2 ^ 25)

/-- The domains of what a core-only reset writes back and wipes (R444, R445), and of the Memory Port that it reads its image through: the
core's, the vector unit's, the tile file's, DMA's, Sparge's, the ports', the caches' and the Tun's, and the quarters that are available. -/
def corePds (c : Cfg) : W32 :=
  BitVec.ofNat 32 (maskBits 5 2 + maskBits 19 14 + maskBits 24 21 + maskBits 31 29) ||| quarterPds c

/-- Steps 1 to 5 of a core-only reset (R452): the caches' dirty lines are written back, and the Kiln is triggered. In Couch and Steep the
block comes to Run first; PLLs that were stopped start, and the Maltster checks them (R403, log 69). -/
def coreOnly (c : Cfg) (b : Blk) : Blk :=
  let b0 := b
  let start (p : Pll) : Pll := if p.on then p else { p with on := true, lock := false, misses := 0, tries := 0 }
  let b := { b with pwr := { b.pwr with state := .run, hold := 0, wakeHeld := false, deep := false, pllF := start b.pwr.pllF, pllL := start b.pwr.pllL } }
  let b := powerChanged b0 (setPds b (b.pwr.pd ||| corePds c))
  let b := if b0.pwr.state = .run then b else resumeLinks b
  let b := jobsAbandon { b with core := { Core.reset with run := .held } }
  let b := (List.range 28).foldl (fun b n =>
    if 8 ≤ n ∧ (getRing b n).run then modRing (stopUnit c b n) n fun r => { r with busy := r.halting || (r.st != .idle) } else b) b
  let b := { b with sync := { b.sync with
    waits := b.sync.waits.filter fun w => match w.kind with | .coreWait _ _ => false | _ => true
    queue := b.sync.queue.filter fun o => o.src != .core, coreDone := none } }
  let drop (p : BitVec 2) (ts : List Transfer) (b : Blk) : Blk :=
    ts.foldl (fun b t => modLink b p fun l => (l.free 0 1).free 1 t.rows.length) b
  let b := drop 2 b.chain.rxE (drop 3 b.chain.rxW b)
  let b := { b with chain := { b.chain with txW := [], txE := [], rxW := [], rxE := [], recvSince := none } }
  let b := cleanAll c b
  { b with sys := { b.sys with
      kiln := some { cov := covUnion b 4, lts := [], uworld := none }, kilnQueue := [], kilnTrig := 3, phase := 8, last := 3, failcode := 0
      resetKind := rkCore, full := false, entry := none, imgFail := 0, img := none, locked := false, aonLockup := false, sigfail := false } }

/-- A write-back of a core-only reset is still awaited, the completions of the jobs that it ended among them (R452). -/
def coreOnlyWaits (b : Blk) : Bool :=
  !b.caches.evict.isEmpty || b.rings.rings.any (fun r => r.2.halting) ||
    (List.range 8).any (fun n => let r := getRing b n; r.st == .done || r.st == .completing) ||
    anyOutst b (fun o => match o.purpose with
      | .posted => true
      | .writeback _ => true
      | .completion _ => true
      | .progress _ => true
      | _ => false)

/-- The sequence stops in FAILED (R462): the domains outside PD0 and PD1 go off, the links with theirs, and nothing of the sequence is
outstanding any more. -/
def seqFail (b : Blk) (code : BitVec 4) : Blk :=
  let b := linksLost b
  setPds { b with
    sys := { b.sys with phase := 10, failcode := code, entry := none, imgFail := 0, img := none }
    ports := { b.ports with outMp := b.ports.outMp.filter fun o => o.purpose != .boot && o.purpose != .image }
    core := { b.core with run := .held } } 3

def setPhase (b : Blk) (p : BitVec 4) : Blk := { b with sys := { b.sys with phase := p } }

/-- The GPA of this node whose chip-local bits are zero. -/
def nodeBase (c : Cfg) : Word := withNode 0 c.node

/-- RUNNING (R461): the Maltster starts when its image was loaded, and the main core is released at the entry of its image. The Maltster
keeps the domain of an unavailable quarter off (R312). -/
def release (c : Cfg) (b : Blk) (entry : Word) : Blk :=
  let b := setPds b (b.pwr.pd &&& (~~~(15 <<< 25 : W32) ||| quarterPds c))
  let k := { Core.reset with mb := { Bank.reset with vbase := nodeBase c } }
  let k := (k.setReg 8 (b.sys.last.zeroExtend 64)).setReg 9 c.cimg
  let b := releaseAt { b with core := k } entry
  let b := match epochReady b with
    | some e => { b with rings := { b.rings with epCore := e, epVec := e, epTile := e } }
    | none => b
  let b := if b.sys.resetKind = rkCore && !b.sys.full then b
    else
      { b with malt := { b.malt with started := true, regs := [], pcs := Sparse.set [] 0 b.sys.maltEntry, stat := 1, taskPc := 0, msrc := 0 } }
  { b with sys := { b.sys with phase := 9, resetKind := 0, full := false, entry := none, imgFail := 0 } }

/-- The domains that a wipe needs (R444, R445): the Tun's of a world switch, the available quarters of a change of partition. -/
def wipePds (c : Cfg) (w : Wipe) : List Nat :=
  (if bit w.cov 3 then [29, 30] else []) ++ (if w.lts.isEmpty then [] else [25, 26, 27, 28].filter fun d => bit c.qen (d - 25))

/-- The beats of a wipe: the LTS, the L2, the Tun and, in a wipe that is not core-only, the sync store and the Maltster RAM (R444). -/
def wipeBeats (w : Wipe) : Nat :=
  (w.lts.map fun r => piecesOf r.1 (r.2 - r.1)).sum + (if bit w.cov 3 then 8192 else 0) +
    (if bit w.cov 0 || bit w.cov 1 then 70656 else if bit w.cov 2 then 65536 else 0)

/-- The Kiln's writes cross the bond; one whose beat fails puts the block in fatal state and sets KZ_KILN_STAT.FAIL (R445). -/
def kilnCross (b : Blk) (w : Wipe) : Bool × Blk :=
  let x := tryCross false (wipeBeats w) b
  if x.1 then x else (false, { x.2 with sys := { x.2.sys with kilnFail := true } })

/-- The wipe that the Kiln has finished (R444, R445): the domains it needs are powered, what it wipes is wiped, UWORLD takes its new value,
source 11. -/
def kilnFinish (c : Cfg) (b : Blk) (w : Wipe) : Blk :=
  let b := (wipePds c w).foldl (fun b d => if pdOn b d then b else powerOn b d) b
  let b := if bit w.cov 2 then wipeReset w.cov b else b
  let b := if bit w.cov 3 then wipeUnits b else b
  let b := w.lts.foldl wipeLts b
  let b := match w.uworld with
    | some u => { b with core := { b.core with ps := { b.core.ps with uworld := u } } }
    | none => b
  let n := b.sys.kilnCount
  maltSource { b with sys := { b.sys with
    kiln := b.sys.kilnQueue.head?, kilnQueue := b.sys.kilnQueue.drop 1, kilnCount := if n = 0xFFFF then n else n + 1
    kilnTrig := match b.sys.kilnQueue with
      | [] => b.sys.kilnTrig
      | q :: _ => if bit q.cov 3 then 5 else 6 } } 11

/-- The phase after WIPE (R456, R458). -/
def afterWipe (b : Blk) : Blk :=
  if b.sys.full || !(b.pwr.pllF.lock && b.pwr.pllL.lock) then setPhase b 4 else setPhase b 6

/-- WIPE has powered every domain (R458), PD20 as KZ_CLK_EN.OBS has it, with their clocks, and has started the PLLs. -/
def wipePowered (b : Blk) : Bool :=
  setBit b.pwr.pd 20 true == BitVec.allOnes 32 && b.pwr.cd == cdsRun b b.pwr.pd && b.pwr.pllF.on && b.pwr.pllL.on

/-- KILN_DONE (R445): not before a core-only reset's write-backs are acknowledged, nor before WIPE has powered the domains. In a sequence
a write that failed ends it with FAILCODE 10 (R462). -/
def kilnDone (c : Cfg) (b : Blk) : Blk :=
  match b.sys.kiln with
  | none => b
  | some w =>
    if bit w.cov 2 && coreOnlyWaits b then b
    else if b.sys.phase = 3 && !wipePowered b then b
    else
      let x := kilnCross b w
      let b := kilnFinish c x.2 w
      if !x.1 && resetInProgress b then seqFail b 10
      else if b.sys.phase = 3 && b.sys.kiln.isNone then afterWipe b else b

/-- WIPE (R458): the domains are powered, the Kiln wipes with the coverage of the reset, and the PLLs start. -/
def wipePhase (c : Cfg) (b : Blk) : Blk :=
  let wiping := match b.sys.kiln with | some w => decide (w.cov &&& 7 ≠ 0) | none => false
  if b.sys.phase ≠ 3 || (wiping && wipePowered b) then b
  else
    let b := setPds b (allPds c)
    let start (p : Pll) : Pll := if p.lock then p else { p with on := true, misses := 0, tries := 0 }
    let b := { b with pwr := { b.pwr with pllF := start b.pwr.pllF, pllL := start b.pwr.pllL } }
    if wiping then b
    else
      let cov := covOf b.sys.resetKind
      let b := if bit cov 2 then b else wipeReset cov b
      { b with sys := { b.sys with kiln := some { cov := cov, lts := [], uworld := none }, kilnQueue := [], kilnTrig := trigOf b.sys.resetKind } }

/-- KZ_RST_CMD (R454): GO 1, WARM 2, CORE 3. -/
def rstCmd (c : Cfg) (b : Blk) (op : Nat) : Cfg × Blk :=
  let refuse : Cfg × Blk := (c, { b with sys := { b.sys with refused := true } })
  let p := b.sys.phase
  if op = 1 then
    if p = 1 || p = 10 then (c, { b with sys := { b.sys with phase := 2, failcode := 0, full := true } }) else refuse
  else if op = 2 then
    if p = 0 || p = 1 then refuse else warmReset c b rkWarm 2
  else if op = 3 then
    if p = 9 && !b.err.fatal then (c, coreOnly c b) else refuse
  else (c, b)

/-- What a life-cycle change adds in a cold sequence (R441, R446): the logs are cleared, and a wipe in progress starts again with both
coverages. -/
def lcsCold (b : Blk) : Blk :=
  { b with
    err := { b.err with pend := false, overrun := false, unit := 0, kind := 0, world := false, addr := 0, ccount := 0 }
    rings := { b.rings with clog := [], clogNext := 0, clogTotal := 0 }
    sys := if b.sys.kiln.isSome then
        { b.sys with kiln := some { cov := covUnion b 1, lts := [], uworld := none }, kilnQueue := [], kilnTrig := trigOf rkLcs }
      else b.sys }

/-- The life-cycle lines change (R440, R441): absorbed while a cold reset holds the block; during the cold sequence they apply
and the sequence goes on, is held, or waits for GO again (log 72); else a warm reset with life-cycle coverage. -/
def lcsChange (c : Cfg) (b : Blk) (lcs : BitVec 3) (valid : Bool) : Cfg × Blk :=
  if !(b.pwr.porstN && b.pwr.pgAon) then (c, b)
  else if b.sys.lcs = lcs && (b.sys.lcsValid == valid) then (c, b)
  else
    let n := b.sys.changes
    let b := maltSource { b with sys := { b.sys with lcs := lcs, lcsValid := valid, scanOut := 0, changes := if n = 0xFF then n else n + 1 } } 10
    let b := { b with pwr := { b.pwr with cd := setBit b.pwr.cd 39 (cd39 b != 0) } }
    if b.sys.resetKind = rkCold && resetInProgress b then
      let b := lcsCold b
      let c := cfgReset c true
      if lcsHeld b then
        let b := linksDown b
        (c, setPds { b with sys := { b.sys with phase := 0, img := none, entry := none, imgFail := 0 }
                            ports := { b.ports with outMp := [], outFp := [], failed := [] } } 3)
      else if b.sys.phase = 0 then (c, setPhase b 1) else (c, b)
    else
      warmReset c b rkLcs 6

end Sys2Proof.Machine
end

