-- ==== Sys2Proof/Machine/HcpOps.lean ====
section
/-! DEFINITION. The Host Control Port registers: reads, and writes with their checks and clamps (20 and the owning chapters). -/

namespace Sys2Proof.Machine

/-- The block answers on its ports: AON_PORST_N and AON_PG_AON are high (R376, R418). -/
def blockOn (b : Blk) : Bool := b.pwr.porstN && b.pwr.pgAon

/-- CD27 runs, so that the observation range answers (R409). -/
def obsRuns (b : Blk) : Bool := pdOn b 20 && cdRuns b 27

def w32 (n : Nat) : W32 := BitVec.ofNat 32 n

/-- The low and high words of a 64-bit value. -/
def loW (x : BitVec n) : W32 := BitVec.ofNat 32 x.toNat
def hiW (x : BitVec n) : W32 := BitVec.ofNat 32 (x.toNat / 2 ^ 32)

/-- KZ_CLK_STAT.BYPASS: a running domain takes its clock from the bypass (R404). -/
def bypass (b : Blk) : Bool :=
  let f : BitVec 40 := BitVec.ofNat 40 (maskBits 18 3 + maskBits 38 28)
  let l : BitVec 40 := BitVec.ofNat 40 (maskBits 27 19)
  (!b.pwr.pllF.lock && (b.pwr.cd &&& f) != 0) || (!b.pwr.pllL.lock && (b.pwr.cd &&& l) != 0)

def clkStat (b : Blk) : W32 :=
  w32 (b.pwr.pllF.lock.toNat + 2 * b.pwr.pllL.lock.toNat + 4 * b.pwr.pllF.fail.toNat + 8 * b.pwr.pllL.fail.toNat
    + 16 * b.pwr.reflost.toNat + 32 * (bypass b).toNat + 256 * b.pwr.trim.toNat)

/-- KZ_PWR_STAT (R425). -/
def pwrStat (b : Blk) : W32 := w32 (b.pwr.mw.toNat + 4096 * b.pwr.state.code + 65536 * b.pwr.hold.toNat)

def govStat (b : Blk) : W32 := w32 (b.pwr.k.toNat + 256 * b.pwr.t.toNat + 4096 * b.pwr.mv.toNat + 2 ^ 24 * b.pwr.moff.toNat)

def lcsStat (b : Blk) : W32 :=
  w32 (b.sys.lcs.toNat + 8 * b.sys.lcsValid.toNat + 16 * (lcsHeld b).toNat + 32 * b.sys.sigfail.toNat + 256 * b.sys.changes.toNat)

def rstStat (b : Blk) : W32 :=
  w32 (b.sys.phase.toNat + 16 * b.sys.last.toNat + 256 * b.sys.failcode.toNat + 4096 * b.sys.refused.toNat)

def kilnStat (b : Blk) : W32 :=
  w32 (b.sys.kiln.isSome.toNat + 2 * b.sys.kilnTrig.toNat + 16 * b.sys.kilnFail.toNat + 65536 * b.sys.kilnCount.toNat)

def maltStat (b : Blk) : W32 :=
  w32 (b.malt.fault.toNat + 2 * b.malt.ftask.toNat + 32 * b.malt.fcause.toNat + 256 * b.malt.fpc.toNat)

/-- KZ_BOND_STAT (R317): LOW while the measured MARGIN is below 4. -/
def bondStat (b : Blk) : W32 := w32 (b.sys.bondMargin.toNat + 256 * (b.sys.bondSeen && decide (b.sys.bondMargin.toNat < 4)).toNat)

def ringStat (b : Blk) (n : Nat) : W32 :=
  let r := getRing b n
  w32 (r.run.toNat + 2 * r.busy.toNat + 4 * r.refused.toNat + 8 * r.err.toNat + 16 * r.clamped.toNat + 32 * r.lost.toNat
    + 64 * r.phase.toNat + 65536 * r.head.toNat)

/-- KZ_LINKn_STAT and KZ_LINKn_CNT (R399). -/
def linkStat (l : Link) : W32 :=
  w32 (l.state.toNat + 16 * l.margin.toNat + 4096 * (l.marginSeen && decide (l.margin.toNat < 4)).toNat + 8192 * l.crcErr.toNat
    + 16384 * l.protErr.toNat + 65536 * l.retrains.toNat)
def linkCnt (l : Link) : W32 := w32 (l.crcErrs.toNat + 65536 * l.replays.toNat)

def cgtStat (b : Blk) : W32 :=
  w32 (b.chain.cmd.isSome.toNat + 2 * b.chain.done.toNat + 4 * b.chain.err.toNat + 8 * b.chain.refused.toNat + 16 * b.chain.errent.toNat)

/-- KZ_CHAIN_STAT (R195). -/
def chainStat (b : Blk) : W32 :=
  w32 (b.chain.dropW.toNat + 2 * b.chain.dropE.toNat + 256 * rxRows b 1 + 65536 * rxRows b 2)

/-- KZ_OBS_STAT (R471). -/
def obsStat (b : Blk) : W32 := w32 (b.obs.drops.toNat + 65536 * (b.obs.fifo.isEmpty && b.obs.slots.isEmpty).toNat)

/-- The HCP pair of counter n reads zero (R478). -/
def cntHidden (b : Blk) (n : Nat) : Bool := lcsFiltered b && (bit (cntcfg b n) 10 || bit (cntcfg b n) 12)

/-- Counter n as the HCP shows it (R478). -/
def hcpCnt (b : Blk) (n : Nat) : BitVec 64 := if cntHidden b n then 0 else b.obs.cnt.get n

def modeStatus (b : Blk) (k : Nat) : W32 :=
  let r := b.rings
  let p (lo hi : BitVec 16) : W32 := w32 (lo.toNat + 65536 * hi.toNat)
  if k = 0 then p r.epCore r.epVec else if k = 1 then p r.epTile r.epSparge else if k = 2 then p r.epFar r.epDma0
  else if k = 3 then p r.epDma1 r.epDma2 else p r.epDma3 0

def nrtStat (b : Blk) : W32 := w32 (b.mmu.copyPend.isSome.toNat + 65536 * b.mmu.live.epoch.toNat)

/-- KZ_WORLD_CFG as it reads (R433). -/
def effCgtsec (c : Cfg) (b : Blk) : Nat := if secureForcedZero b then 0 else c.cgtsec.toNat
def worldCfg (c : Cfg) (b : Blk) : W32 := w32 (effSecobj c b + 65536 * effCgtsec c b)
def effRingsec (c : Cfg) (b : Blk) : W32 := if secureForcedZero b then 0 else c.ringsec

def ltsCfg (c : Cfg) (b : Blk) : W32 := w32 (c.qen.toNat + 65536 * effSec c b)

def govCfg (c : Cfg) : W32 := w32 (c.kmin.toNat + 256 * c.kmax.toNat + 65536 * c.tlim.toNat + 2 ^ 24 * c.mtgt.toNat)

def nodeId (c : Cfg) : W32 := w32 (c.node.toNat + 2 ^ 17 * c.block.toNat)

/-- The lockup PC and the error address read zero for the secure world (R265, R318). -/
def lockupPc (b : Blk) : Word := if b.sys.lworld then 0 else b.sys.lpc
def errAddrHcp (b : Blk) : Word := if b.err.world then 0 else b.err.addr

/-- Ring registers (R322). -/
def ringRead (b : Blk) (o : Nat) : W32 :=
  let n := o / 16 % 32
  if o % 16 = 0 then (getRing b n).ctxLo else if o % 16 = 4 then (getRing b n).ctxHi else if o % 16 = 12 then ringStat b n else 0

/-- Offsets 0x000 to 0x1FF. -/
def readId (c : Cfg) (b : Blk) (o : Nat) : W32 :=
  if o = 0x000 then 0x4B5A0004
  else if o = 0x004 then 0x00010000
  else if o = 0x010 then 1
  else if 0x020 ≤ o ∧ o ≤ 0x02C then c.featAcc.get ((o - 0x20) / 4)
  else if o = 0x030 then w32 c.sealed.toNat
  else if o = 0x100 then lcsStat b
  else if o = 0x108 then rstStat b
  else if o = 0x110 then loW c.mimg
  else if o = 0x114 then hiW c.mimg
  else if o = 0x118 then loW c.cimg
  else if o = 0x11C then hiW c.cimg
  else if o = 0x140 then kilnStat b
  else if o = 0x180 then lockupStatWord b
  else if o = 0x188 then loW (lockupPc b)
  else if o = 0x18C then hiW (lockupPc b)
  else 0

/-- Offsets 0x200 to 0x3FF. -/
def readPower (c : Cfg) (b : Blk) (o : Nat) : W32 :=
  if o = 0x200 then w32 c.refMhz.toNat
  else if o = 0x204 then clkStat b
  else if o = 0x208 then w32 c.obsClk.toNat
  else if o = 0x20C then b.pwr.pd
  else if o = 0x210 then loW b.pwr.cd
  else if o = 0x214 then hiW b.pwr.cd
  else if o = 0x218 then w32 c.cap.toNat
  else if o = 0x21C then govCfg c
  else if o = 0x220 then govStat b
  else if o = 0x224 then pwrStat b
  else if o = 0x228 then c.idle
  else if o = 0x230 then loW b.pwr.energy
  else if o = 0x234 then b.pwr.energyHi
  else if o = 0x238 then w32 b.pwr.sclk
  else if o = 0x23C then b.pwr.sclkHi
  else if o = 0x240 then w32 c.rgroups.toNat
  else if o = 0x244 then ltsCfg c b
  else if o = 0x248 then w32 (b.pwr.temp.toNat + 256 * b.pwr.vsup.toNat + 2 ^ 20 * b.pwr.droops.toNat)
  else if o = 0x250 then maltStat b
  else if o = 0x300 then bondStat b
  else if o = 0x304 then w32 (b.sys.bondRetries.toNat + 2 ^ 24 * b.sys.bondFails.toNat)
  else if o = 0x308 then w32 (b.pwr.margin.toNat + 256 * b.pwr.minEver.toNat)
  else 0

/-- Offsets 0x400 to 0x5FF. -/
def readWorld (c : Cfg) (b : Blk) (o : Nat) : W32 :=
  if o = 0x400 then effRingsec c b
  else if o = 0x404 then worldCfg c b
  else if o = 0x408 then w32 c.lock.toNat
  else if 0x500 ≤ o then (if o % 8 = 0 then loW (rgn c ((o - 0x500) / 8)) else hiW (rgn c ((o - 0x500) / 8)))
  else 0

/-- Offsets 0x900 to 0xBFF. -/
def readRest (c : Cfg) (b : Blk) (o : Nat) : W32 :=
  if o < 0x9C0 then b.rings.clog.get ((o - 0x900) / 4)
  else if o = 0x9C0 then errStatWord b
  else if o = 0x9C4 then loW (errAddrHcp b)
  else if o = 0x9C8 then hiW (errAddrHcp b)
  else if o = 0x9CC then b.err.ccount
  else if o = 0x9D0 then w32 (b.rings.clogNext.toNat + 65536 * b.rings.clogTotal.toNat)
  else if o = 0x9D4 then w32 b.rings.epPend.toNat
  else if 0x9D8 ≤ o ∧ o ≤ 0x9E8 then modeStatus b ((o - 0x9D8) / 4)
  else if o = 0xA00 then nodeId c
  else if o = 0xA04 then nrtStat b
  else if o = 0xA10 then c.fpTmo
  else if o = 0xA14 then w32 (b.ports.late.toNat + 65536 * b.ports.iref.toNat)
  else if o = 0xA20 then w32 c.linkEn.toNat
  else if 0xA24 ≤ o ∧ o ≤ 0xA30 then linkStat (getLink b (BitVec.ofNat 2 ((o - 0xA24) / 4)))
  else if 0xA34 ≤ o ∧ o ≤ 0xA40 then linkCnt (getLink b (BitVec.ofNat 2 ((o - 0xA34) / 4)))
  else if o = 0xA80 then loW c.cgtBase
  else if o = 0xA84 then hiW c.cgtBase
  else if o = 0xA8C then cgtStat b
  else if o = 0xA90 then chainStat b
  else 0

/-- Offsets 0xC00 to 0xFFF (R409, R471, R478). -/
def readObs (b : Blk) (o : Nat) : W32 :=
  if !obsRuns b then 0
  else if o = 0xC00 then b.obs.cfg
  else if o = 0xC04 then obsStat b
  else if 0xC40 ≤ o ∧ o < 0xCA0 then
    let n := (o - 0xC40) / 8
    if o % 8 = 0 then loW (hcpCnt b n) else if cntHidden b n then 0 else b.obs.hi.get n
  else 0

/-- While the block is held under R440, only the identity registers, with the feature registers, which R464 has readable in every life-cycle
state, KZ_LCS_STAT and KZ_KILN_STAT answer (log 95). -/
def heldVisible (o : Nat) : Bool := o == 0 || o == 4 || o == 0x100 || o == 0x140 || (decide (0x10 ≤ o) && decide (o ≤ 0x30))

/-- The value of an HCP read at a word offset (R376, R409, R440, R482). Reserved offsets and write-only registers read zero. -/
def hcpRead (c : Cfg) (b : Blk) (off : BitVec 16) : W32 :=
  let o := off.toNat / 4 * 4
  if !blockOn b || (lcsHeld b && !heldVisible o) then 0
  else if o < 0x200 then readId c b o
  else if o < 0x400 then readPower c b o
  else if o < 0x600 then readWorld c b o
  else if o < 0x800 then ringRead b o
  else if o < 0x880 then w32 (getRing b ((o - 0x800) / 4)).index.toNat
  else if o < 0x900 then 0
  else if o < 0xC00 then readRest c b o
  else if o < 0x1000 then readObs b o
  else if o < 0x1400 then c.nrt.get ((o - 0x1000) / 4)
  else 0

/-- The offsets whose read latches a HI word (R482). -/
def latchingLo (o : Nat) : Bool := o == 0x230 || o == 0x238 || (decide (0xC40 ≤ o ∧ o < 0xCA0) && o % 8 == 0)

/-- The latch that a read of a LO word makes (R425, R478). -/
def hcpLatch (b : Blk) (off : BitVec 16) : Blk :=
  let o := off.toNat / 4 * 4
  if !blockOn b || lcsHeld b then b
  else if o = 0x230 then { b with pwr := { b.pwr with energyHi := hiW b.pwr.energy } }
  else if o = 0x238 then { b with pwr := { b.pwr with sclkHi := w32 (b.pwr.sclk / 2 ^ 32) } }
  else if latchingLo o && obsRuns b then
    let n := (o - 0xC40) / 8
    { b with obs := { b.obs with hi := b.obs.hi.set n (hiW (hcpCnt b n)) } }
  else b

/-- A clamp of a setup register, with its index (R329). -/
def clampSet (b : Blk) (index : Nat) (cs : List Clamp) : Blk := logClamps b 0xFF index cs

/-- One field of a write: clamp code, supplied, applied; no report when the value stands. -/
def fixF (code v w : Nat) : List Clamp := if v = w then [] else [(code, v, w)]

/-- The reserved bits of a written word under a mask. -/
def fixR (code : Nat) (v : W32) (mask : Nat) : List Clamp := let bad := v.toNat &&& mask; if bad = 0 then [] else [(code, bad, 0)]

abbrev CB := Cfg × Blk

/-- Power and clock registers (R425, R54, R409); KZ_LTS_CFG has its own write. -/
def writePower (c : Cfg) (b : Blk) (o : Nat) (v : W32) : CB :=
  let f (hi lo : Nat) : Nat := bits v hi lo
  if o = 0x200 then
    let r := clampNat 25 200 (f 7 0)
    ({ c with refMhz := BitVec.ofNat 8 r }, clampSet b 0 (fixF 0x6F (f 7 0) r ++ fixR 0x80 v 0xFFFFFF00))
  else if o = 0x208 then
    let b := clampSet b 0 (fixR 0x80 v 0xFFFFFFFE)
    ({ c with obsClk := bit v 0 }, if bit v 0 then b else powerOff b 20)
  else if o = 0x218 then
    let m := clampNat 500 3000 (f 11 0)
    ({ c with cap := BitVec.ofNat 12 m }, clampSet b 0 (fixF 0x6C (f 11 0) m ++ fixR 0x80 v 0xFFFFF000))
  else if o = 0x21C then
    let kmin := clampNat 16 64 (f 6 0)
    let kmax := clampNat kmin 64 (f 14 8)
    let tlim := clampNat 60 110 (f 22 16)
    let mtgt := Nat.max 2 (f 28 24)
    ({ c with kmin := BitVec.ofNat 7 kmin, kmax := BitVec.ofNat 7 kmax, tlim := BitVec.ofNat 7 tlim, mtgt := BitVec.ofNat 5 mtgt },
     clampSet b 0 (fixF 0x6D (f 6 0) kmin ++ fixF 0x6D (f 14 8) kmax ++ fixF 0x6E (f 22 16) tlim ++ fixF 0x81 (f 28 24) mtgt
       ++ fixR 0x80 v 0xE0808080))
  else if o = 0x228 then ({ c with idle := v }, b)
  else if o = 0x240 then
    let g := clampNat 1 8 (f 3 0)
    let b := clampSet b 0 (fixF 0x88 (f 3 0) g)
    ({ c with rgroups := BitVec.ofNat 4 g }, (List.range 8).foldl (fun b k => if g ≤ k then powerOff b (6 + k) else b) b)
  else if o = 0x250 then (c, if bit v 0 then { b with malt := { b.malt with fault := false } } else b)
  else (c, b)

/-- KZ_LTS_CFG (R312, R313, R433, R434): the bytes that change partition are wiped before the new value is used; an unavailable
quarter's domain goes off. -/
def writeLtsCfg (c : Cfg) (b : Blk) (v : W32) (secure : Bool) : CB :=
  let q := if bits v 3 0 = 0 then 1 else bits v 3 0
  let old := c.ltsSec.toNat
  let s := Nat.min 48 (bits v 21 16)
  let locked := c.lock && !secure
  let forced := secureForcedZero b
  let secClamps : List Clamp :=
    if locked then [(0x95, bits v 21 16, effSec c b)] else if forced then [] else fixF 0x65 (bits v 21 16) s
  let new := if forced || locked then old else s
  let b := clampSet b 0 (fixF 0x64 (bits v 3 0) q ++ fixR 0x66 v 0xFFF0 ++ secClamps ++ fixR 0x66 v 0xFFC00000)
  let b := (List.range 4).foldl (fun b i => if q.testBit i then b else powerOff b (25 + i)) b
  let b :=
    if new = old || (match b.sys.kiln with | some w => decide (w.cov &&& 7 ≠ 0) | none => false) then b
    else
      let w : Wipe := { cov := 0, lts := [(65536 * Nat.min old new, 65536 * Nat.max old new)], uworld := none }
      if b.sys.kiln.isSome then { b with sys := { b.sys with kilnQueue := b.sys.kilnQueue ++ [w] } }
      else { b with sys := { b.sys with kiln := some w, kilnTrig := 6 } }
  ({ c with qen := BitVec.ofNat 4 q, ltsSec := BitVec.ofNat 6 new }, b)

/-- One region descriptor word (R436): the pair is checked with the SIZE in force after the write. -/
def writeRgn (c : Cfg) (b : Blk) (o : Nat) (v : W32) : CB :=
  let n := (o - 0x500) / 8
  let d := rgn c n
  let put (lo hi : W32) : Cfg := { c with rgnX := c.rgnX.set n (BitVec.ofNat 64 (lo.toNat + 2 ^ 32 * hi.toNat) ^^^ 0x000C000000000000) }
  let base (lo hi : W32) (size : Nat) : Nat := (bits lo 31 12 * 4096 + bits hi 14 0 * 2 ^ 32) / 2 ^ size * 2 ^ size
  if o % 8 = 0 then
    let ty := Nat.min 2 (bits v 3 2)
    let hi := hiW d
    let a := base v hi (rgnSize d)
    let lo := setBits (setBits (setBits v 3 2 ty) 11 10 0) 31 12 (a / 4096)
    (put lo hi, clampSet b n (fixF 0x96 (bits v 3 2) ty ++ fixR 0x99 v 0xC00 ++ fixF 0x98 (bits v 31 12) (bits lo 31 12)))
  else
    let size := clampNat 12 47 (bits v 21 16)
    let lo := loW d
    let v' := setBits (setBits (setBits v 21 16 size) 15 15 0) 31 22 0
    let a := base lo v' size
    let lo' := setBits lo 31 12 (a / 4096)
    let hi := setBits v' 14 0 (a / 2 ^ 32)
    (put lo' hi, clampSet b n (fixF 0x97 (bits v 21 16) size ++ fixF 0x98 (bits v 14 0) (bits hi 14 0) ++ fixR 0x99 v 0x8000 ++ fixR 0x99 v 0xFFC00000
      ++ fixF 0x98 (bits lo 31 12) (bits lo' 31 12)))

/-- World assignment and region registers (R433, R434, R436). -/
def writeWorld (c : Cfg) (b : Blk) (o : Nat) (v : W32) (secure : Bool) : CB :=
  if c.lock && !secure then
    (c, if o ≠ 0x408 || bit v 0 then
      clampSet b (if 0x500 ≤ o then (o - 0x500) / 8 else 0) [(0x95, v.toNat, (readWorld c b o).toNat)] else b)
  else if o = 0x400 then (if secureForcedZero b then (c, b) else ({ c with ringsec := v }, b))
  else if o = 0x404 then
    if secureForcedZero b then (c, clampSet b 0 (fixR 0x94 v 0xFE00 ++ fixR 0x94 v 0xFF800000))
    else
      let s := Nat.min 256 (bits v 8 0)
      let g := Nat.min 64 (bits v 22 16)
      ({ c with secobj := BitVec.ofNat 9 s, cgtsec := BitVec.ofNat 7 g },
       clampSet b 0 (fixF 0x90 (bits v 8 0) s ++ fixR 0x94 v 0xFE00 ++ fixF 0x91 (bits v 22 16) g ++ fixR 0x94 v 0xFF800000))
  else if o = 0x408 then ({ c with lock := c.lock || bit v 0 }, b)
  else if 0x500 ≤ o then writeRgn c b o v
  else (c, b)

/-- Boot image addresses, life-cycle and feature registers (R453, R464). -/
def writeId (c : Cfg) (b : Blk) (o : Nat) (v : W32) : CB :=
  let lo (w : Word) : Word := setBits w 31 0 (v.toNat / 64 * 64)
  let hi (w : Word) : Word := setBits w 63 32 v.toNat
  if 0x020 ≤ o ∧ o ≤ 0x02C then
    let k := (o - 0x20) / 4
    let cap := if k = 0 then 1 else 0
    if c.sealed then (c, clampSet b k [(0x85, v.toNat, (c.featAcc.get k).toNat)])
    else ({ c with featAcc := c.featAcc.set k (w32 (v.toNat &&& cap)) }, clampSet b k (fixF 0x84 v.toNat (v.toNat &&& cap)))
  else if o = 0x030 then
    let ok := bit (c.featAcc.get 0) 0
    ({ c with sealed := c.sealed || (bit v 0 && ok) },
     clampSet b 0 ((if bit v 0 && !ok && !c.sealed then [(0x86, 1, 0)] else []) ++ fixR 0x87 v 0xFFFFFFFE))
  else if o = 0x104 then rstCmd c (clampSet b 0 (fixR 0x82 v 0xFFFFFFFC)) (bits v 1 0)
  else if o = 0x108 then (c, if bit v 12 then { b with sys := { b.sys with refused := false } } else b)
  else if o = 0x110 then ({ c with mimg := lo c.mimg }, clampSet b 0 (fixR 0x83 v 0x3F))
  else if o = 0x114 then ({ c with mimg := hi c.mimg }, b)
  else if o = 0x118 then ({ c with cimg := lo c.cimg }, clampSet b 0 (fixR 0x83 v 0x3F))
  else if o = 0x11C then ({ c with cimg := hi c.cimg }, b)
  else (c, b)

/-- Ring registers (R322): the context address, a command, and the write-one-to-clear flags. -/
def writeRing (c : Cfg) (b : Blk) (o : Nat) (v : W32) (secure : Bool) : Blk :=
  let n := o / 16 % 32
  if o % 16 = 0 then modRing b n fun r => { r with ctxLo := w32 (v.toNat / 128 * 128) }
  else if o % 16 = 4 then modRing b n fun r => { r with ctxHi := v }
  else if o % 16 = 8 then ringCmd c b n (bits v 1 0) secure
  else
    modRing b n fun r => { r with refused := r.refused && !bit v 2, err := r.err && !bit v 3, clamped := r.clamped && !bit v 4
                                  lost := r.lost && !bit v 5 }

/-- The oldest applied epoch, by its distance behind the pending one (R344). -/
def oldestEpoch (b : Blk) : BitVec 16 :=
  let r := b.rings
  [r.epCore, r.epVec, r.epTile, r.epSparge, r.epFar, r.epDma0, r.epDma1, r.epDma2, r.epDma3].foldl
    (fun m e => if (r.epPend - m).toNat < (r.epPend - e).toNat then e else m) r.epPend

/-- KZ_MODE_PEND (R344, R295). -/
def writeModePend (c : Cfg) (b : Blk) (v : W32) : CB :=
  if b.mmu.copyPend.isSome then (c, clampSet b 0 [(0x68, bits v 15 0, b.rings.epPend.toNat)])
  else
    let old := b.rings.epPend
    let oldest := oldestEpoch b
    let e : BitVec 16 := v.truncate 16
    let ok := decide (1 ≤ (e - old).toNat ∧ (e - old).toNat ≤ 32767) && decide ((e - oldest).toNat ≤ 32767)
    let new := if ok then e else if (old - oldest).toNat < 32767 then old + 1 else oldest + 32767
    let b := clampSet b 0 (fixF 0x67 e.toNat new.toNat ++ fixR 0x69 v 0xFFFF0000)
    let b := { b with rings := { b.rings with epPend := new } }
    let b := releaseTable b
    (c, if b.mmu.older.isSome then { b with mmu := { b.mmu with copyPend := some new } } else offEpochs (copyTable c b new))

/-- KZ_CGT_CMD (R191, R434): the first entry's read or write is issued by CGT_LOAD and CGT_SAVE. -/
def cgtStart (c : Cfg) (b : Blk) (v : W32) (secure : Bool) : Bool × Blk :=
  let op := Nat.min 2 (bits v 1 0)
  let first := bits v 9 4
  let last := Nat.max first (bits v 17 12)
  let b := clampSet b 0 (fixF 0x54 (bits v 1 0) op ++ fixF 0x55 (bits v 17 12) last)
  if op = 0 then (false, b)
  else if b.chain.cmd.isSome || (c.lock && !secure && decide (first < effCgtsec c b)) then
    (false, { b with chain := { b.chain with refused := true } })
  else
    (true, { b with chain := { b.chain with cmd := some { save := decide (op = 2), next := BitVec.ofNat 6 first, last := BitVec.ofNat 6 last
                                                          world := secure, loaded := none } } })

/-- KZ_LINK_CTL (R398, R393, R396). -/
def writeLinkCtl (c : Cfg) (b : Blk) (v : W32) : CB :=
  let b := clampSet b 0 (fixR 0x6B v 0xF0 ++ fixR 0x6B v 0xFFFFF000)
  let b := ports4.foldl (fun b p =>
    let i := p.toNat
    let l := getLink b p
    let b := if !bit v i then linkDown b p else b
    let l := if bit v i then l else getLink b p
    if bit v (8 + i) && (l.state = stUp || l.state = stFailed) then linkTo b p l.retrain else b) b
  ({ c with linkEn := BitVec.ofNat 4 (bits v 3 0) }, b)

/-- KZ_OBS_CFG (R471): writing EN 1 while it is 0 fills the SYNC slot. -/
def writeObsCfg (b : Blk) (v : W32) : Blk :=
  let pclog := clampNat 8 24 (bits v 20 16)
  let types := (bits v 15 1 ||| 3) &&& 0x1FF
  let b := clampSet b 0 ((if bits v 15 10 = 0 then [] else [(0xA1, bits v 15 1, types)]) ++ fixF 0xA2 (bits v 20 16) pclog ++ fixR 0xA3 v 0xFFE00000)
  let was := bit b.obs.cfg 0
  let b := { b with obs := { b.obs with cfg := w32 ((bit v 0).toNat + 2 * types + 65536 * pclog) } }
  if bit v 0 && !was then emitSync b else b

/-- Registers from 0x9C0 to 0xBFF but KZ_CGT_CMD. -/
def writeRest (c : Cfg) (b : Blk) (o : Nat) (v : W32) : CB :=
  if o = 0x9C0 then (c, { b with err := { b.err with pend := b.err.pend && !bit v 0, overrun := b.err.overrun && !bit v 1 } })
  else if o = 0x9D0 then (c, if bits v 31 16 ≠ 0 then { b with rings := { b.rings with clogTotal := 0 } } else b)
  else if o = 0x9D4 then writeModePend c b v
  else if o = 0xA00 then
    if c.sealed then (c, clampSet b 0 [(0x62, v.toNat, (nodeId c).toNat)])
    else ({ c with node := v.truncate 17, block := BitVec.ofNat 10 (bits v 26 17) }, clampSet b 0 (fixR 0x63 v 0xF8000000))
  else if o = 0xA10 then
    let t := Nat.max 48 v.toNat
    ({ c with fpTmo := w32 t }, clampSet b 0 (fixF 0x6A v.toNat t))
  else if o = 0xA14 then
    (c, { b with ports := { b.ports with late := if bits v 15 0 ≠ 0 then 0 else b.ports.late, iref := if bits v 31 16 ≠ 0 then 0 else b.ports.iref } })
  else if o = 0xA20 then writeLinkCtl c b v
  else if 0xA24 ≤ o ∧ o ≤ 0xA30 then
    (c, modLink b (BitVec.ofNat 2 ((o - 0xA24) / 4)) fun l =>
      { l with crcErr := l.crcErr && !bit v 13, protErr := l.protErr && !bit v 14, retrains := if bits v 23 16 ≠ 0 then 0 else l.retrains })
  else if o = 0xA80 then ({ c with cgtBase := setBits c.cgtBase 31 0 (v.toNat / 32 * 32) }, b)
  else if o = 0xA84 then ({ c with cgtBase := setBits c.cgtBase 63 32 v.toNat }, b)
  else if o = 0xA8C then
    (c, { b with chain := { b.chain with done := b.chain.done && !bit v 1, err := b.chain.err && !bit v 2, refused := b.chain.refused && !bit v 3 } })
  else if o = 0xA90 then (c, { b with chain := { b.chain with dropW := b.chain.dropW && !bit v 0, dropE := b.chain.dropE && !bit v 1 } })
  else (c, b)

/-- KZ_NRTn (R294, R295). -/
def writeNrt (c : Cfg) (b : Blk) (n : Nat) (v : W32) : CB :=
  if b.mmu.copyPend.isSome then (c, clampSet b n [(0x61, v.toNat, (c.nrt.get n).toNat)])
  else ({ c with nrt := c.nrt.set n (v &&& 0x07FFFFFF) }, clampSet b n (fixR 0x60 v 0xF8000000))

/-- A group table entry's image in the world of the command (R191, R439): its address after the checks of the world. -/
def cgtAddr (c : Cfg) (m : CgtCmd) : Word := c.cgtBase + BitVec.ofNat 64 (32 * m.next.toNat)

/-- The command ends (R191). -/
def cgtEnd (b : Blk) (failed : Bool) : Blk :=
  match b.chain.cmd with
  | none => b
  | some m =>
    { b with chain := { b.chain with cmd := none, done := true, err := b.chain.err || failed
                                     errent := if failed then m.next else b.chain.errent } }

/-- Two entries that may both take an arrival (R190). -/
def cgeClash (e f : CgtEntry) : Bool :=
  e.valid && f.valid && e.chin != 0 && e.tag == f.tag && e.chin == f.chin && e.world == f.world

/-- A loaded entry image's fields, checked and clamped (R189). -/
def cgtParse (bs : List Byte) : CgtEntry × List Clamp :=
  let k : Chk := (chkOf bs).fix 0 3 2 0x51 (Nat.min 2)
  let k := k.fix 0 5 4 0x52 (Nat.min 2)
  let chin := fld k.d 0 3 2
  let chout := fld k.d 0 5 4
  let k := k.fix 0 6 6 0x53 (fun v => if chin = 0 || chout = 0 || chin = chout then 0 else v)
  let k := k.rsvd 0x50 [(0, 0xFF80), (8, 0xF8000000), (0x0C, 0xFFFF0000), (0x18, 0xFFFFFFFF), (0x1C, 0xFFFFFFFF)]
  let w (off : Nat) : W32 := BitVec.ofNat 32 (fld k.d off 31 0)
  ({ valid := fld k.d 0 0 0 == 1, world := fld k.d 0 1 1 == 1, chin := BitVec.ofNat 2 chin, chout := BitVec.ofNat 2 chout
     fwd := fld k.d 0 6 6 == 1, tag := BitVec.ofNat 16 (fld k.d 0 31 16), chtmo := w 4, syncNode := BitVec.ofNat 17 (fld k.d 8 16 0)
     syncBlk := BitVec.ofNat 10 (fld k.d 8 26 17), syncBase := BitVec.ofNat 16 (fld k.d 0x0C 15 0), txCount := w 0x10, rxCount := w 0x14 },
   k.clamps)

/-- The image of an entry (R189). -/
def cgtImage (e : CgtEntry) : List Byte :=
  leOfNat 4 (e.valid.toNat + 2 * e.world.toNat + 4 * e.chin.toNat + 16 * e.chout.toNat + 64 * e.fwd.toNat + 65536 * e.tag.toNat) ++
  leOfNat 4 e.chtmo.toNat ++ leOfNat 4 (e.syncNode.toNat + 2 ^ 17 * e.syncBlk.toNat) ++ leOfNat 4 e.syncBase.toNat ++
  leOfNat 4 e.txCount.toNat ++ leOfNat 4 e.rxCount.toNat ++ leOfNat 8 0

/-- An entry's image has been read: it is checked and waits to be applied (R191, R435), or the command ends at it. -/
def cgtLoaded (c : Cfg) (b : Blk) (bs : Option (List Byte)) : Blk :=
  match b.chain.cmd, bs with
  | some m, some d =>
    let (e, cs) := cgtParse d
    let b := logClamps b 0xFE m.next.toNat cs
    let bad := e.world && decide (effCgtsec c b ≤ m.next.toNat)
    let b := if bad then logClamps b 0xFE m.next.toNat [(0x92, 1, 0)] else b
    { b with chain := { b.chain with cmd := some { m with loaded := some (if bad then { e with world := false } else e) } } }
  | _, _ => cgtEnd b true

/-- Read or write the image of the command's next entry, after the checks of its world (R191, R439); nothing in fatal state (R308). -/
def cgtIssue (c : Cfg) (b : Blk) : Blk :=
  match b.chain.cmd with
  | none => b
  | some m =>
    let a := cgtAddr c m
    if b.err.fatal then b else
    match resolve c b a 32 m.world false (if m.save then needW else needR) false with
    | .error _ => cgtEnd b true
    | .ok (.lts o) =>
      if m.save then
        let r := ltsWrite m.world o (cgtImage (cge b m.next.toNat)) b
        r.2
      else
        let r := ltsRead m.world o 32 b
        cgtLoaded c r.2 (if r.1.2.isSome then none else some r.1.1)
    | .ok _ =>
      let pa := BitVec.ofNat 64 (a.toNat / 64 * 64)
      let be := byteMask (a.toNat % 64) 32
      issueReq c false
        (if m.save then
          { op := .wr, addr := pa, be := be, operand := 0, data := pieceOfBytes (a.toNat % 64) (cgtImage (cge b m.next.toNat))
            world := m.world, purpose := .cgtSave m.next.toNat }
        else { op := .rd, addr := pa, be := be, operand := 0, data := 0, world := m.world, purpose := .cgtLoad m.next.toNat }) b

/-- The command goes on to its next entry, or ends (R191). -/
def cgtNext (c : Cfg) (b : Blk) : Blk :=
  match b.chain.cmd with
  | none => b
  | some m =>
    if m.next = m.last then cgtEnd b false
    else cgtIssue c { b with chain := { b.chain with cmd := some { m with next := m.next + 1, loaded := none } } }

/-- A save of entries whose images lie in this block's own LTS is made entry by entry at once (R191). -/
def cgtRun (c : Cfg) : Nat → Blk → Blk
  | 0, b => b
  | n + 1, b =>
    match b.chain.cmd with
    | some m =>
      let sent := b.ports.outMp.any fun o => match o.purpose with | .cgtSave _ => true | .cgtLoad _ => true | _ => false
      if m.save && !sent then cgtRun c n (cgtNext c b) else b
    | none => b

/-- KZ_CGT_CMD (R191): the command is accepted, and its first entry is read or written; in fatal state the front end does nothing (R308). -/
def cgtCommand (c : Cfg) (b : Blk) (v : W32) (secure : Bool) : Blk :=
  if b.err.fatal then b else
  let r := cgtStart c b v secure
  if r.1 then cgtRun c 64 (cgtIssue c r.2) else r.2

/-- CGT_ENTRY_APPLY (R190, R191): the loaded entry is applied, and of a pair of entries that clash the higher-numbered loses VALID. A CHSEND or CHRECV is in progress from its acceptance on, and is complete
with it here, so none that names the entry is. -/
def cgtApply (c : Cfg) (b : Blk) : Blk :=
  match b.chain.cmd with
  | some m =>
    match m.loaded with
    | none => b
    | some e =>
      let n := m.next.toNat
      let others := (b.chain.cgt.filter fun x => x.1 != n)
      let clash := others.filter fun x => cgeClash e x.2
      let selfBad := clash.any fun x => decide (x.1 < n)
      let hit (x : Nat × CgtEntry) : Bool := cgeClash e x.2 && !selfBad
      let b := setCge b n (if selfBad then { e with valid := false } else e)
      let b := if selfBad then logClamps b 0xFE n [(0x57, 1, 0)] else b
      let b := others.foldl (fun b x =>
        if hit x then logClamps (setCge b x.1 { x.2 with valid := false }) 0xFE x.1 [(0x57, 1, 0)] else b) b
      cgtNext c b
  | none => b

/-- An HCP write (R376, R377): to every register, with its checks. `secure`: through CR_HCPD (R434). -/
def hcpWrite (c : Cfg) (b : Blk) (off : BitVec 16) (v : W32) (secure : Bool) : CB :=
  let o := off.toNat / 4 * 4
  if !blockOn b || lcsHeld b then (c, b)
  else if o < 0x200 then writeId c b o v
  else if o < 0x400 then
    let r := if o = 0x244 then writeLtsCfg c b v secure else writePower c b o v
    (r.1, maltSource r.2 15)
  else if o < 0x600 then writeWorld c b o v secure
  else if o < 0x800 then (c, writeRing c b o v secure)
  else if o < 0x880 then (c, doorbellWrite b ((o - 0x800) / 4) v)
  else if o < 0x9C0 then (c, b)
  else if o = 0xA88 then (c, cgtCommand c b v secure)
  else if o < 0xC00 then writeRest c b o v
  else if o < 0x1000 then
    (c, if !obsRuns b then b
      else if o = 0xC00 then writeObsCfg b v
      else if o = 0xC04 then (if bits v 15 0 ≠ 0 then { b with obs := { b.obs with drops := 0 } } else b)
      else b)
  else if o < 0x1400 then writeNrt c b ((o - 0x1000) / 4) v
  else (c, b)

end Sys2Proof.Machine
end

