-- ==== Sys2Proof/Machine/CrOps.lean ====
section
/-! DEFINITION. The control registers of the main core: access, reading and writing of each (20, and the owning chapters). -/

namespace Sys2Proof.Machine

/-- A level bit set: U, S, M of the running context, or one world's S with M. -/
def atS (b : Blk) : Bool := b.core.ps.level != 0
def atM (b : Blk) : Bool := b.core.ps.level == 2
def atWorld (b : Blk) (w : Bool) : Bool := atM b || (b.core.ps.level == 1 && b.core.ps.world == w)

/-- IROUTE of a source is S of the running world (R257). -/
def routedHere (b : Blk) (i : Nat) : Bool :=
  bits b.core.iroute (2 * i + 1) (2 * i) == b.core.ps.world.toNat

/-- Registers that read only, and ignore a write where they may be read (R3). -/
def crRo (n : Nat) : Bool :=
  [0x13, 0x1B, 0x23, 0x30, 0x4A, 0x4B, 0x4D, 0x71, 0x72, 0x73, 0x88, 0x92, 0xA0, 0xD2, 0xD3, 0x104, 0x107, 0x123].contains n ||
    decide (0xB0 ≤ n ∧ n ≤ 0xBF) || decide (0xE0 ≤ n ∧ n ≤ 0xE3) || decide (0x110 ≤ n ∧ n ≤ 0x11F)

/-- May the running context read a control register? A write-only register reads zero where it may be written (R3, R483). -/
def crMayRead (b : Blk) (n : Nat) : Bool :=
  if n = 0x00 then true
  else if 0x10 ≤ n ∧ n ≤ 0x15 then atWorld b false
  else if 0x18 ≤ n ∧ n ≤ 0x1D then atWorld b true
  else if 0x20 ≤ n ∧ n ≤ 0x25 then atM b
  else if n = 0x30 ∨ n = 0x31 then atS b
  else if n = 0x32 ∨ n = 0x33 then atM b
  else if n = 0x34 ∨ n = 0x35 then atS b
  else if n = 0x40 then true
  else if 0x41 ≤ n ∧ n ≤ 0x44 then atS b
  else if n = 0x45 ∨ n = 0x46 then atM b
  else if n = 0x47 ∨ n = 0x48 then true
  else if 0x49 ≤ n ∧ n ≤ 0x4C then atM b
  else if n = 0x4D then atS b
  else if 0x60 ≤ n ∧ n ≤ 0x62 then atWorld b false
  else if 0x68 ≤ n ∧ n ≤ 0x6A then atWorld b true
  else if n = 0x63 ∨ n = 0x64 ∨ n = 0x6B ∨ n = 0x6C ∨ n = 0x70 ∨ n = 0x71 then atM b
  else if n = 0x72 ∨ n = 0x73 then atS b
  else if n = 0x80 ∨ n = 0x81 ∨ n = 0x82 ∨ n = 0x84 ∨ n = 0x85 then true
  else if n = 0x83 then atS b
  else if n = 0x86 ∨ n = 0x87 ∨ n = 0x88 then atM b
  else if n = 0x90 ∨ n = 0x94 then atS b
  else if n = 0x91 then atM b
  else if n = 0x92 then true
  else if n = 0x93 then atM b || (b.core.ps.level == 1 && routedHere b 3)
  else if n = 0x98 ∨ n = 0x99 then atM b
  else if (0xA0 ≤ n ∧ n ≤ 0xA2) ∨ (0xB0 ≤ n ∧ n ≤ 0xBF) ∨ (0xC0 ≤ n ∧ n ≤ 0xCF) then atS b
  else if n = 0xD0 ∨ n = 0xD2 then atWorld b false
  else if n = 0xD1 ∨ n = 0xD3 then atWorld b true
  else if 0xE0 ≤ n ∧ n ≤ 0xE7 then true
  else if 0xE8 ≤ n ∧ n ≤ 0xEB then atS b
  else if (0x100 ≤ n ∧ n ≤ 0x103) ∨ n = 0x105 ∨ n = 0x106 ∨ (0x110 ≤ n ∧ n ≤ 0x11F) then true
  else if n = 0x104 ∨ n = 0x107 then atS b
  else if 0x120 ≤ n ∧ n ≤ 0x124 then n != 0x123 || atS b
  else if n = 0x140 then true
  else if n = 0x141 then atS b
  else if n = 0x142 then atM b
  else if 0x150 ≤ n ∧ n ≤ 0x15B then atS b || bit b.obs.cntuen (n - 0x150)
  else if 0x164 ≤ n ∧ n ≤ 0x16B then atS b
  else false

/-- May the running context write a control register? Readable there, and for some registers only at S and M, or only at M. -/
def crMayWrite (b : Blk) (n : Nat) : Bool :=
  crMayRead b n &&
    (if [0x00, 0x40, 0x48, 0x80, 0x102, 0x103, 0x106, 0x122, 0x124].contains n || decide (0x150 ≤ n ∧ n ≤ 0x15B) then atS b
     else if n = 0x34 ∨ n = 0x35 then atM b
     else true)

/-- CR_PSTATE (R244). -/
def pstateWord (p : Pstate) : Nat := p.level.toNat + 4 * p.world.toNat + 8 * p.uworld.toNat + 16 * p.mask.toNat

/-- CR_WSTATE (R224). -/
def wstateWord (k : Core) : Nat :=
  k.cwp.toNat + 256 * k.res.toNat + 65536 * k.lowater.toNat + 2 ^ 24 * k.frozen.toNat + 2 ^ 25 * k.spfault.toNat + 2 ^ 26 * k.flfault.toNat

/-- Register i of a shadow bank (R249–R251). -/
def bankRead (x : Bank) (i : Nat) : Word :=
  if i = 0 then x.epc
  else if i = 1 then BitVec.ofNat 64 (x.epwLevel.toNat + 4 * x.epwWorld.toNat + 16 * x.epwMask.toNat)
  else if i = 2 then BitVec.ofNat 64 (estatWord x.cause x.detail x.olevel x.oworld x.occ + 2 ^ 32 * x.depth.toNat)
  else if i = 3 then x.faddr
  else if i = 4 then x.sp
  else x.vbase

/-- CR_TRQ (R290). -/
def trqWord : Option TrReq → Word
  | none => 0
  | some r => BitVec.ofNat 64 (1 + 2 * r.requester.toNat + 64 * r.kindWrite.toNat + 256 * r.reason.toNat + 1024 * r.world.toNat + 2048 * r.level.toNat)

/-- CR_TASKSTAT0 and 1 (R235): two bits a task from task `t0`. -/
def taskStatWord (k : Core) (t0 : Nat) : Word := ofLanes 64 ((List.range 32).map fun t => k.taskStat.get (t0 + t))

/-- CR_RSTAT_x (R364). -/
def rstatWord (p : Ports) (w : Bool) : Word :=
  let g {α : Type} (x : ByWorld α) : α := if w then x.s else x.n
  BitVec.ofNat 64 ((g p.werr).toNat + 2 * (g p.wtmo).toNat + 16 * (g p.lkind).toNat + 65536 * (g p.wcount).toNat)

/-- Registers 0x000–0x04D. -/
def crReadCore (b : Blk) (n : Nat) : Word :=
  let k := b.core
  if n = 0x00 then BitVec.ofNat 64 (pstateWord k.ps)
  else if n < 0x16 then bankRead k.sn (n - 0x10)
  else if n < 0x1E then bankRead k.ss (n - 0x18)
  else if n < 0x26 then bankRead k.mb (n - 0x20)
  else if n = 0x30 then (ipend b).zeroExtend 64
  else if n = 0x31 then k.ienable.zeroExtend 64
  else if n = 0x32 then k.iroute.zeroExtend 64
  else if n = 0x33 then k.ilevel
  else if n = 0x34 then k.gbaseN
  else if n = 0x35 then k.gbaseS
  else if n = 0x40 then BitVec.ofNat 64 (wstateWord k)
  else if n = 0x41 then k.wspill.u
  else if n = 0x42 then k.wcnt.u.zeroExtend 64
  else if n = 0x43 then k.wspill.s
  else if n = 0x44 then k.wcnt.s.zeroExtend 64
  else if n = 0x45 then k.wspill.m
  else if n = 0x46 then k.wcnt.m.zeroExtend 64
  else if n = 0x47 then k.fcsr.zeroExtend 64
  else if n = 0x48 then k.fdirty.zeroExtend 64
  else if n = 0x49 then BitVec.ofNat 64 (k.svcBanks.toNat + 256 * k.svcTask.toNat)
  else if n = 0x4A then taskStatWord k 0
  else if n = 0x4B then taskStatWord k 32
  else if n = 0x4C then k.taskPc
  else BitVec.ofNat 64 (k.cfCode.toNat + 256 * k.cfCr.toNat)

/-- Registers 0x060–0x0EB. CR_HCPD reads the Host Control Port (R434). -/
def crReadMid (c : Cfg) (b : Blk) (n : Nat) : Word :=
  let t := if n < 0x68 then b.mmu.tn else b.mmu.ts
  let lv := b.core.ps.level
  let w := b.core.ps.world
  if n = 0x60 ∨ n = 0x68 then t.s1lo
  else if n = 0x61 ∨ n = 0x69 then t.s1hi
  else if n = 0x62 ∨ n = 0x6A then t.tctl
  else if n = 0x63 ∨ n = 0x6B then t.s2root
  else if n = 0x64 ∨ n = 0x6C then t.vmid
  else if n = 0x70 then b.mmu.mroot
  else if n = 0x71 then b.mmu.tfipa
  else if n = 0x72 then trqWord (shownReq b lv w)
  else if n = 0x73 then (match shownReq b lv w with | some r => r.va | none => 0)
  else if n = 0x80 then b.caches.ctl.zeroExtend 64
  else if n = 0x87 then (errStatWord b).zeroExtend 64
  else if n = 0x88 then b.err.addr
  else if n = 0x91 then b.pwr.wakepc
  else if n = 0x92 then BitVec.ofNat 64 b.pwr.sclk
  else if n = 0x93 then b.pwr.tcmp
  else if n = 0x94 then b.pwr.mnotice.zeroExtend 64
  else if n = 0x98 then b.core.hcpa.zeroExtend 64
  else if n = 0x99 then (hcpRead c b b.core.hcpa).zeroExtend 64
  else if n = 0xA0 then jobStat b lv w
  else if n = 0xA2 then b.rings.jobRes
  else if 0xB0 ≤ n ∧ n ≤ 0xBF then jobDesc b lv w (n - 0xB0)
  else if n = 0xD0 then rstatWord b.ports false
  else if n = 0xD1 then rstatWord b.ports true
  else if n = 0xD2 then b.ports.raddr.n
  else if n = 0xD3 then b.ports.raddr.s
  else if 0xE0 ≤ n ∧ n ≤ 0xE3 then b.sparge.sprod.get (n - 0xE0)
  else if 0xE4 ≤ n ∧ n ≤ 0xE7 then b.sparge.scons.get (n - 0xE4)
  else 0

/-- Registers 0x100–0x16B. -/
def crReadUnits (b : Blk) (n : Nat) : Word :=
  if n = 0x100 then b.epi.seed.zeroExtend 64
  else if n = 0x101 then b.epi.cvt.zeroExtend 64
  else if n = 0x102 then b.tile.inuse.zeroExtend 64
  else if n = 0x103 then (b.tile.dirty &&& b.tile.inuse).zeroExtend 64
  else if n = 0x104 then BitVec.ofNat 64 (b.tile.tfCode.toNat + 256 * b.tile.tfTile.toNat + 4096 * b.tile.tfGroup.toNat)
  else if n = 0x105 then b.tun.flag
  else if n = 0x106 then b.tun.dirty.zeroExtend 64
  else if n = 0x107 then BitVec.ofNat 64 (b.chain.chCode.toNat + 256 * b.chain.chCge.toNat)
  else if 0x110 ≤ n ∧ n ≤ 0x11F then b.tun.grp (n - 0x110)
  else if n = 0x120 then b.vec.vl.zeroExtend 64
  else if n = 0x121 then b.vec.vcsr.zeroExtend 64
  else if n = 0x122 then b.vec.vresume.zeroExtend 64
  else if n = 0x123 then BitVec.ofNat 64 (b.vec.vfCode.toNat + 256 * b.vec.vfReg.toNat)
  else if n = 0x124 then b.vec.vdirty.zeroExtend 64
  else if n = 0x141 then b.obs.cntuen.zeroExtend 64
  else if n = 0x142 then BitVec.ofNat 64 b.obs.inspect.toNat
  else if 0x150 ≤ n ∧ n ≤ 0x15B then b.obs.cnt.get (n - 0x150)
  else if 0x164 ≤ n ∧ n ≤ 0x16B then (b.obs.cntcfg.get (n - 0x160)).zeroExtend 64
  else 0

/-- The value of a control register that may be read. -/
def crRead (c : Cfg) (b : Blk) (n : Nat) : Word :=
  if n < 0x60 then crReadCore b n else if n < 0x100 then crReadMid c b n else crReadUnits b n

/-- Read a control register: an unassigned or inaccessible number fails code 0x02 (R483); a read of CR_HCPD is an HCP read. -/
def crGet (c : Cfg) (cr : BitVec 12) : M Word := do
  let b ← get
  if !crMayRead b cr.toNat then coreFault 2 cr
  if cr = 0x99 then modify fun b => hcpLatch b b.core.hcpa
  return crRead c b cr.toNat

/-- W1C bits of a control register, which CRS and CRC write as zero (R232). -/
def crW1c (n : Nat) : Word :=
  if n = 0x87 then 3
  else if n = 0x94 then 0x3F
  else if n = 0xD0 ∨ n = 0xD1 then 0xFFFF0003
  else if n = 0x101 then 0x1F
  else if n = 0x105 then BitVec.allOnes 64
  else 0

/-- `v` with the bits below `n` zero. -/
def alignedTo (v : Word) (n : Nat) : Word := BitVec.ofNat 64 (v.toNat / n * n)

/-- Write register i of the bank of a level and world (R249–R251). -/
def bankWrite (cr : BitVec 12) (level : BitVec 2) (world : Bool) (i : Nat) (v : Word) : M Unit := do
  let k ← getCore
  let x := bankOf k level world
  let put (y : Bank) : M Unit := modCore fun k => setBank k level world y
  if i = 0 then
    check (v.toNat % 4 == 0) (crValueFault cr)
    put { x with epc := v }
  else if i = 1 then
    check (bits v 1 0 != 3) (crValueFault cr)
    put { x with epwLevel := BitVec.ofNat 2 (bits v 1 0), epwWorld := bit v 2, epwMask := BitVec.ofNat 4 (bits v 7 4) }
  else if i = 2 then
    if level = 2 then
      check (bits v 25 24 != 3) (crValueFault cr)
      put { x with olevel := BitVec.ofNat 2 (bits v 25 24), oworld := bit v 26 }
  else if i = 4 then
    check (v.toNat % 32 == 0) (crValueFault cr)
    put { x with sp := v }
  else if i = 5 then put { x with vbase := alignedTo v 512 }

/-- Write CR_SVC (R233). -/
def writeSvc (v : Word) : M Unit := do
  let k ← getCore
  let n := bits v 2 0
  check (decide (n ≤ 4)) (crValueFault 0x49)
  if n = k.svcBanks.toNat then return ()
  let me := if k.svc then k.svcTask.toNat else 64
  if (List.range 64).any (fun t => t != me && k.taskStat.get t != taskHalt) then coreFault 9
  modCore fun k => { k with svcBanks := BitVec.ofNat 3 n, svcTask := 0, taskStat := if n = 0 then [] else Sparse.set [] 0 taskRun
                            regs := [], cwp := 0, res := 0, wcnt := ⟨0, 0, 0⟩ }

/-- Registers 0x000–0x04C. -/
def crWriteCore (cr : BitVec 12) (v : Word) : M Unit := do
  let n := cr.toNat
  let b ← get
  if n = 0x00 then modCore fun k => { k with ps := { k.ps with mask := BitVec.ofNat 4 (bits v 7 4) } }
  else if n < 0x16 then bankWrite cr 1 false (n - 0x10) v
  else if n < 0x1E then bankWrite cr 1 true (n - 0x18) v
  else if n < 0x26 then bankWrite cr 2 true (n - 0x20) v
  else if n = 0x31 then
    modCore fun k => { k with ienable := (List.range 16).foldl (fun m i => if atM b || routedHere b i then setBit m i (bit v i) else m) k.ienable }
  else if n = 0x32 then
    check ((List.range 16).all fun i => bits v (2 * i + 1) (2 * i) != 3) (crValueFault cr)
    modCore fun k => { k with iroute := v.truncate 32 }
  else if n = 0x33 then modCore fun k => { k with ilevel := v }
  else if n = 0x34 then modCore fun k => { k with gbaseN := alignedTo v 4096 }
  else if n = 0x35 then modCore fun k => { k with gbaseS := alignedTo v 4096 }
  else if n = 0x40 then
    check (bits v 21 16 != 0) (crValueFault cr)
    modCore fun k => { k with lowater := BitVec.ofNat 6 (bits v 21 16) }
  else if n = 0x41 ∨ n = 0x43 ∨ n = 0x45 then
    check (v.toNat % 128 == 0) (crValueFault cr)
    modCore fun k => { k with wspill := setByLevel k.wspill (BitVec.ofNat 2 ((n - 0x41) / 2)) v }
  else if n = 0x42 ∨ n = 0x44 ∨ n = 0x46 then
    modCore fun k => { k with wcnt := setByLevel k.wcnt (BitVec.ofNat 2 ((n - 0x42) / 2)) (v.truncate 32) }
  else if n = 0x47 then modCore fun k => { k with fcsr := v.truncate 7 }
  else if n = 0x48 then modCore fun k => { k with fdirty := v.truncate 4 }
  else if n = 0x49 then writeSvc v
  else if n = 0x4C then
    check (v.toNat % 4 == 0) (crValueFault cr)
    modCore fun k => { k with taskPc := v }

/-- Write CR_SLEEP (R412): fetch stops unless a source is already pending and enabled. -/
def writeSleep (v : Word) : M Unit := do
  let b ← get
  check (!(bit v 0 && !atM b)) (crValueFault 0x90)
  if !anyPendingEnabled b then
    modify fun b => { b with core := { b.core with run := .sleeping }, pwr := { b.pwr with deep := bit v 0 } }

/-- TAKE (R341). -/
def jobctlTake (c : Cfg) : M Unit := do
  let b ← get
  match b.rings.offer with
  | some j =>
    check (b.rings.running.isNone && jobVisible b.core.ps.level b.core.ps.world j) (crValueFault 0xA1)
    modify fun b => jobTake c b j
  | none => crValueFault 0xA1

/-- END (R341). -/
def jobctlEnd (c : Cfg) : M Unit := do
  let b ← get
  match b.rings.running with
  | some j =>
    check (jobVisible b.core.ps.level b.core.ps.world j) (crValueFault 0xA1)
    modify fun b => jobEnd c b j
  | none => crValueFault 0xA1

/-- PREEMPT (R343): accepted once; it retires when the stopped rings' write-backs are answered. -/
def jobctlPreempt (c : Cfg) : M Unit := do
  let b ← get
  if b.rings.preempting.isNone then
    match b.rings.running with
    | some j =>
      check (b.rings.offer.isSome && decide (b.rings.preempted.length < 7)) (crValueFault 0xA1)
      modify fun b => jobPreempt c b j
    | none => crValueFault 0xA1
  let b ← get
  if preemptWaits b || !preemptRoom b then waitFor .other
  modify preemptDone

/-- Write CR_JOBCTL (R341). -/
def writeJobctl (c : Cfg) (v : Word) : M Unit :=
  if bits v 1 0 = 1 then jobctlTake c
  else if bits v 1 0 = 2 then jobctlEnd c
  else if bits v 1 0 = 3 then jobctlPreempt c
  else crValueFault 0xA1

/-- The ring's world as its context gives it (R349). -/
def ringWorld (b : Blk) (n : Nat) : Bool := (getRing b n).setUp && (getRing b n).ctx.world

/-- Write CR_DTAILn (R349). -/
def writeDtail (n : Nat) (v : Word) : M Unit := do
  let b ← get
  check (atM b || ringWorld b (8 + n) == b.core.ps.world) (crValueFault (BitVec.ofNat 12 (0xC0 + n)))
  modify fun b => doorbellWrite b (8 + n) (BitVec.ofNat 32 (bits v 15 0))

/-- Write CR_STAILn (R164, R171). -/
def writeStail (n : Nat) (v : Word) : M Unit := modify fun b => doorbellWrite b (24 + n) (BitVec.ofNat 32 (bits v 15 0))

/-- Write CR_SCONSn (R171). -/
def writeScons (n : Nat) (v : Word) : M Unit := do
  let b ← get
  check (decide ((b.sparge.scons.get n).toNat ≤ v.toNat ∧ v.toNat ≤ (b.sparge.sprod.get n).toNat))
    (crValueFault (BitVec.ofNat 12 (0xE4 + n)))
  modify fun b => { b with sparge := { b.sparge with scons := b.sparge.scons.set n v } }

/-- Where a maintenance operation's address leads: the GPA's line and path (R304). -/
def cmoLocate (c : Cfg) (acc : Acc) (va : Word) (n : Nat) (normal : Bool) : M (Nat × Path) := do
  let (l, w) := ctxOf (← get)
  let (a, p) ← locate c acc l w va n normal
  return (a.toNat / 64, p)

/-- CR_CMO_CLEAN and CR_CMO_FLUSH (R304): nothing happens to an address that is not cached. -/
def cmoClean (c : Cfg) (flush : Bool) (va : Word) : M Unit := do
  let (t, p) ← cmoLocate c .load va 1 false
  let w := (← get).core.ps.world
  if p = .cached then liftBlk fun b => ((), if flush then flushLine c b t w else cleanLine c b t w)

/-- CR_CMO_INVAL (R304). -/
def cmoInval (c : Cfg) (va : Word) : M Unit := do
  let (t, p) ← cmoLocate c .store va 1 false
  if p = .cached then liftBlk fun b => ((), invalLine b t b.core.ps.world)

/-- CR_CMO_IINV (R304). -/
def cmoIinv (c : Cfg) (va : Word) : M Unit := do
  let (t, p) ← cmoLocate c .fetch va 1 false
  if p = .cached then liftBlk fun b => ((), dropLine (scrubSet b .l1i (CacheId.l1i.set t)) .l1i t b.core.ps.world)

/-- CR_CMO_ZERO (R304, R305). -/
def cmoZero (c : Cfg) (va : Word) : M Unit := do
  check (va.toNat % 64 == 0) (raise 4 2 va)
  let (t, p) ← cmoLocate c .store va 64 true
  let (l, w) := ctxOf (← get)
  match p with
  | .cached => zeroLine c t w
  | p =>
    match ← physWrite c (lineAddr t) (List.replicate 64 0) w (l == 2) p with
    | .ok _ => return ()
    | .bad k => accessFail 1 k va

/-- CR_CMO_ALL (R304). -/
def cmoAll (c : Cfg) (flush : Bool) : M Unit := liftBlk fun b => ((), if flush then flushAll c b else cleanAll c b)

/-- Write CR_TINUSE (R74, R75). -/
def writeTinuse (v : Word) : M Unit :=
  modTile fun tf => (List.range 16).foldl (fun tf t =>
    if bit v t then (if tf.used t then tf else tf.begin_ t 0) else tf.release t) tf

/-- Write CR_SEED (R45, R48). -/
def writeSeed (v : Word) : M Unit :=
  modEpi fun e => (List.range 64).foldl (fun e j => setLaneState e j (seedLane (v.truncate 32) j)) { e with seed := v.truncate 32 }

/-- Clear the W1C bits of CR_RSTAT_x that a write names (R364). -/
def writeRstat (w : Bool) (v : Word) : M Unit :=
  modify fun b =>
    let p := b.ports
    let up {α : Type} (x : ByWorld α) (z : α) (go : Bool) : ByWorld α := if !go then x else if w then { x with s := z } else { x with n := z }
    { b with ports := { p with werr := up p.werr false (bit v 0), wtmo := up p.wtmo false (bit v 1), wcount := up p.wcount 0 (bits v 31 16 != 0) } }

/-- Registers 0x060–0x0EB. -/
def crWriteMid (c : Cfg) (cr : BitVec 12) (v : Word) : M Unit := do
  let n := cr.toNat
  let tr (f : TrRegs → TrRegs) : M Unit := modMmu fun m => if n < 0x68 then { m with tn := f m.tn } else { m with ts := f m.ts }
  if n = 0x60 ∨ n = 0x68 then tr fun t => { t with s1lo := BitVec.ofNat 64 (bits v 51 12 * 4096) }
  else if n = 0x61 ∨ n = 0x69 then tr fun t => { t with s1hi := BitVec.ofNat 64 (bits v 51 12 * 4096) }
  else if n = 0x62 ∨ n = 0x6A then tr fun t => { t with tctl := BitVec.ofNat 64 (bits v 16 0) }
  else if n = 0x63 ∨ n = 0x6B then tr fun t => { t with s2root := alignedTo v 65536 }
  else if n = 0x64 ∨ n = 0x6C then tr fun t => { t with vmid := BitVec.ofNat 64 (bits v 15 0) }
  else if n = 0x70 then modMmu fun m => { m with mroot := alignedTo v 4096 ||| BitVec.ofNat 64 (bits v 0 0) }
  else if n = 0x80 then
    modCaches fun k => { k with ctl := v.truncate 3, side := if bit v 0 then k.side else [] }
  else if n = 0x81 then cmoClean c false v
  else if n = 0x82 then cmoClean c true v
  else if n = 0x83 then cmoInval c v
  else if n = 0x84 then cmoIinv c v
  else if n = 0x85 then cmoZero c v
  else if n = 0x86 then cmoAll c (bit v 0)
  else if n = 0x87 then
    modify fun b => { b with err := { b.err with pend := b.err.pend && !bit v 0, overrun := b.err.overrun && !bit v 1 } }
  else if n = 0x90 then writeSleep v
  else if n = 0x91 then
    check (v.toNat % 4 == 0) (crValueFault cr)
    modify fun b => { b with pwr := { b.pwr with wakepc := v } }
  else if n = 0x93 then modify fun b => { b with pwr := { b.pwr with tcmp := v } }
  else if n = 0x94 then modify fun b => { b with pwr := { b.pwr with mnotice := b.pwr.mnotice &&& ~~~(v.truncate 6) } }
  else if n = 0x98 then modCore fun k => { k with hcpa := BitVec.ofNat 16 (bits v 15 2 * 4) }
  else if n = 0x99 then modCore fun k => { k with hcpOut := some (k.hcpa, v.truncate 32) }
  else if n = 0xA1 then writeJobctl c v
  else if n = 0xA2 then modify fun b => { b with rings := { b.rings with jobRes := v } }
  else if 0xC0 ≤ n ∧ n ≤ 0xCF then writeDtail (n - 0xC0) v
  else if n = 0xD0 then writeRstat false v
  else if n = 0xD1 then writeRstat true v
  else if 0xE4 ≤ n ∧ n ≤ 0xE7 then writeScons (n - 0xE4) v
  else if 0xE8 ≤ n ∧ n ≤ 0xEB then writeStail (n - 0xE8) v

/-- An observation register is written only while PD20 is on (R473). -/
def modObs (f : Obs → Obs) : M Unit := modify fun b => if pdOn b 20 then { b with obs := f b.obs } else b

/-- Write CR_TRACEW (R472). -/
def writeTracew (v : Word) : M Unit :=
  modify fun b => emit b { ty := 8, world := b.core.ps.world, level := b.core.ps.level, ts := BitVec.ofNat 16 b.pwr.sclk
                           payload := words2 v.toNat }

/-- Registers 0x100–0x16B. -/
def crWriteUnits (cr : BitVec 12) (v : Word) : M Unit := do
  let n := cr.toNat
  if n = 0x100 then writeSeed v
  else if n = 0x101 then modEpi fun e => { e with cvt := e.cvt &&& ~~~(v.truncate 5) }
  else if n = 0x102 then writeTinuse v
  else if n = 0x103 then modTile fun t => { t with dirty := v.truncate 16 &&& t.inuse }
  else if n = 0x105 then modTun fun t => { t with flag := t.flag &&& ~~~v }
  else if n = 0x106 then modTun fun t => { t with dirty := v.truncate 16 }
  else if n = 0x120 then
    check (decide (bits v 10 0 ≤ 1024)) (vecFault 3 0)
    modVec fun x => { x with vl := v.truncate 11 }
  else if n = 0x121 then modVec fun x => { x with vcsr := v.truncate 7 }
  else if n = 0x122 then
    check (decide (bits v 10 0 ≤ 1024)) (vecFault 3 0)
    modVec fun x => { x with vresume := v.truncate 11 }
  else if n = 0x124 then modVec fun x => { x with vdirty := v.truncate 8 }
  else if n = 0x140 then writeTracew v
  else if n = 0x141 then modObs fun o => { o with cntuen := v.truncate 12 }
  else if n = 0x142 then modObs fun o => { o with inspect := bit v 0 }
  else if 0x150 ≤ n ∧ n ≤ 0x15B then modObs fun o => { o with cnt := o.cnt.set (n - 0x150) v }
  else if 0x164 ≤ n ∧ n ≤ 0x16B then
    let b ← get
    check (decide (bits v 7 0 ≤ 0x12) && (atM b || !(bit v 10 || bit v 12))) (crValueFault cr)
    modObs fun o => { o with cntcfg := o.cntcfg.set (n - 0x160) (v.truncate 13) }

/-- Write a control register (R3, R232, R483): an unassigned or inaccessible number fails code 0x02; a read-only register
ignores the write; a value outside its Checked range raises its exception and writes nothing. -/
def crPut (c : Cfg) (cr : BitVec 12) (v : Word) : M Unit := do
  let b ← get
  let n := cr.toNat
  if !crMayWrite b n then coreFault 2 cr
  if crRo n then return ()
  if n < 0x60 then crWriteCore cr v else if n < 0x100 then crWriteMid c cr v else crWriteUnits cr v

/-- exec of a write of CR_HCPD: the HCP write is made with the retirement, as a write of machine firmware (R434). -/
def coreSeqHcp (s : State) (i : Instr) (body : M Unit) : Host.Outcome State Fault Refusal :=
  let b := offered s i (seqOp s.cfg 1 body)
  match b.core.hcpOut with
  | none => .next { s with blk := b }
  | some (o, v) =>
    let r := hcpWrite s.cfg { b with core := { b.core with hcpOut := none } } o v true
    .next { s with cfg := r.1, blk := r.2 }

/-- exec of an instruction that writes the control register `cr`. -/
def coreSeqCr (s : State) (cr : BitVec 12) (i : Instr) (body : M Unit) : Host.Outcome State Fault Refusal :=
  if cr = 0x99 then coreSeqHcp s i body else coreSeq s i body

end Sys2Proof.Machine
end

