-- ==== Sys2Proof/Machine/ExecCr.lean ====
section
/-! DEFINITION. Meanings of CRR, CRW, CRS and CRC, and of the control-register writes that act on a unit (09, 20). -/

namespace Sys2Proof.Machine

/-- CRR (R232). -/
def execCrr (rd : BitVec 5) (cr : BitVec 12) (mbz : BitVec 5) (s : State) : Host.Outcome State Fault Refusal :=
  coreSeq s (.crr rd cr mbz) (do
    mustBeZero mbz
    let v ← crGet s.cfg cr
    writeReg rd v)

/-- A CRW of a register's value (R232). -/
def crwBody (c : Cfg) (cr : BitVec 12) (rs1 : BitVec 5) : M Unit := do
  let v ← readReg rs1
  crPut c cr v

/-- CRW (R232). -/
def execCrw (rs1 : BitVec 5) (cr : BitVec 12) (mbz : BitVec 5) (s : State) : Host.Outcome State Fault Refusal :=
  coreSeqCr s cr (.crw rs1 cr mbz) (do
    mustBeZero mbz
    crwBody s.cfg cr rs1)

/-- CRS and CRC (R232): rd takes the old value, then the register the new one, W1C fields zero. -/
def crModify (c : Cfg) (rd rs1 : BitVec 5) (cr : BitVec 12) (f : Word → Word → Word) : M Unit := do
  let x ← readReg rs1
  let old ← crGet c cr
  writeReg rd old
  crPut c cr (f old x &&& ~~~(crW1c cr.toNat))

def execCrs (rd rs1 : BitVec 5) (cr : BitVec 12) (s : State) : Host.Outcome State Fault Refusal :=
  coreSeqCr s cr (.crs rd rs1 cr) (crModify s.cfg rd rs1 cr fun old x => old ||| x)

def execCrc (rd rs1 : BitVec 5) (cr : BitVec 12) (s : State) : Host.Outcome State Fault Refusal :=
  coreSeqCr s cr (.crc rd rs1 cr) (crModify s.cfg rd rs1 cr fun old x => old &&& ~~~x)

/-- CR_SEED write (R45). -/
def execSeedWrite (rs1 : BitVec 5) (s : State) : Host.Outcome State Fault Refusal :=
  coreSeq s (.seedWrite rs1) (crwBody s.cfg 0x100 rs1)
/-- CR_TINUSE write (R74). -/
def execTinuseWrite (rs1 : BitVec 5) (s : State) : Host.Outcome State Fault Refusal :=
  coreSeq s (.tinuseWrite rs1) (crwBody s.cfg 0x102 rs1)
/-- CR_SVC write (R233). -/
def execSvcWrite (rs1 : BitVec 5) (s : State) : Host.Outcome State Fault Refusal :=
  coreSeq s (.svcWrite rs1) (crwBody s.cfg 0x49 rs1)
/-- CR_SLEEP write (R412). -/
def execSleepWrite (rs1 : BitVec 5) (s : State) : Host.Outcome State Fault Refusal :=
  coreSeq s (.sleepWrite rs1) (crwBody s.cfg 0x90 rs1)
/-- CR_SCONSn write (R171). -/
def execSconsWrite (n : BitVec 2) (rs1 : BitVec 5) (s : State) : Host.Outcome State Fault Refusal :=
  coreSeq s (.sconsWrite n rs1) (crwBody s.cfg (BitVec.ofNat 12 (0xE4 + n.toNat)) rs1)
/-- CR_STAILn write (R164). -/
def execStailWrite (n : BitVec 2) (rs1 : BitVec 5) (s : State) : Host.Outcome State Fault Refusal :=
  coreSeq s (.stailWrite n rs1) (crwBody s.cfg (BitVec.ofNat 12 (0xE8 + n.toNat)) rs1)
/-- CR_DTAILn write (R349). -/
def execDtailWrite (n : BitVec 4) (rs1 : BitVec 5) (s : State) : Host.Outcome State Fault Refusal :=
  coreSeq s (.dtailWrite n rs1) (crwBody s.cfg (BitVec.ofNat 12 (0xC0 + n.toNat)) rs1)

/-- A write of CR_JOBCTL whose OP the row fixes, the other bits being rs1's (R341). -/
def jobctlBody (c : Cfg) (op : Nat) (rs1 : BitVec 5) : M Unit := do
  let v ← readReg rs1
  crPut c 0xA1 (setBits v 1 0 op)

/-- TAKE (R341). -/
def execTake (rs1 : BitVec 5) (s : State) : Host.Outcome State Fault Refusal := coreSeq s (.take rs1) (jobctlBody s.cfg 1 rs1)
/-- END (R341). -/
def execEndJob (rs1 : BitVec 5) (s : State) : Host.Outcome State Fault Refusal := coreSeq s (.endJob rs1) (jobctlBody s.cfg 2 rs1)
/-- PREEMPT (R341, R343). -/
def execPreempt (rs1 : BitVec 5) (s : State) : Host.Outcome State Fault Refusal := coreSeq s (.preempt rs1) (jobctlBody s.cfg 3 rs1)

/-- CR_CMO_CLEAN (R304). -/
def execCmoClean (rs1 : BitVec 5) (s : State) : Host.Outcome State Fault Refusal := coreSeq s (.cmoClean rs1) (crwBody s.cfg 0x81 rs1)
/-- CR_CMO_FLUSH (R304). -/
def execCmoFlush (rs1 : BitVec 5) (s : State) : Host.Outcome State Fault Refusal := coreSeq s (.cmoFlush rs1) (crwBody s.cfg 0x82 rs1)
/-- CR_CMO_INVAL (R304). -/
def execCmoInval (rs1 : BitVec 5) (s : State) : Host.Outcome State Fault Refusal := coreSeq s (.cmoInval rs1) (crwBody s.cfg 0x83 rs1)
/-- CR_CMO_IINV (R304). -/
def execCmoIinv (rs1 : BitVec 5) (s : State) : Host.Outcome State Fault Refusal := coreSeq s (.cmoIinv rs1) (crwBody s.cfg 0x84 rs1)
/-- CR_CMO_ZERO (R305). -/
def execCmoZero (rs1 : BitVec 5) (s : State) : Host.Outcome State Fault Refusal := coreSeq s (.cmoZero rs1) (crwBody s.cfg 0x85 rs1)

/-- A write of CR_CMO_ALL whose OP the row fixes (R304). -/
def cmoAllBody (c : Cfg) (op : Bool) (rs1 : BitVec 5) : M Unit := do
  let v ← readReg rs1
  crPut c 0x86 (setBit v 0 op)

def execCmoAllClean (rs1 : BitVec 5) (s : State) : Host.Outcome State Fault Refusal := coreSeq s (.cmoAllClean rs1) (cmoAllBody s.cfg false rs1)
def execCmoAllFlush (rs1 : BitVec 5) (s : State) : Host.Outcome State Fault Refusal := coreSeq s (.cmoAllFlush rs1) (cmoAllBody s.cfg true rs1)

/-- A read of CR_HCPD (R434). -/
def execHcpdRead (rd : BitVec 5) (s : State) : Host.Outcome State Fault Refusal :=
  coreSeq s (.hcpdRead rd) (do
    let v ← crGet s.cfg 0x99
    writeReg rd v)
/-- A write of CR_HCPD (R434). -/
def execHcpdWrite (rs1 : BitVec 5) (s : State) : Host.Outcome State Fault Refusal :=
  coreSeqHcp s (.hcpdWrite rs1) (crwBody s.cfg 0x99 rs1)
/-- CR_TRACEW (R472). -/
def execTracewWrite (rs1 : BitVec 5) (s : State) : Host.Outcome State Fault Refusal :=
  coreSeq s (.tracewWrite rs1) (crwBody s.cfg 0x140 rs1)

end Sys2Proof.Machine
end

