-- ==== Sys2Proof/Machine/ExecFp.lean ====
section
/-! DEFINITION. Meanings of the floating-point instructions (09, R226, R231). -/

namespace Sys2Proof.Machine

/-- A two-operand FP instruction under CR_FCSR.RD, its flags accumulated (R227, R231). -/
def fp2 (f : Fmt → Nat → Nat → Nat → Nat × FFlags) (d : Bool) (fd fs1 fs2 : BitVec 5) : M Unit := do
  let a ← readFp d fs1
  let b ← readFp d fs2
  let r := f (fpFmt d) (← fcsrRd) a b
  accFcsr r.2
  writeFp fd r.1

/-- A fused multiply-add: the product's and the addend's signs are chosen by the instruction, one rounding (R231). -/
def fp3 (negProd negAdd : Bool) (d : Bool) (fd fs1 fs2 fs3 : BitVec 5) : M Unit := do
  let F := fpFmt d
  let a ← readFp d fs1
  let b ← readFp d fs2
  let x ← readFp d fs3
  let r := ieeeFma F (← fcsrRd) (if negProd then flipSign F a else a) b (if negAdd then flipSign F x else x)
  accFcsr r.2
  writeFp fd r.1

/-- A compare into an integer register (R147, R231): 0 equal, 1 less, 2 less or equal. -/
def fpCmp (cond : Nat) (d : Bool) (rd : BitVec 5) (fs1 fs2 : BitVec 5) : M Unit := do
  let a ← readFp d fs1
  let b ← readFp d fs2
  let r := fpCompare (fpFmt d) cond a b
  accFcsr r.2
  writeReg rd (if r.1 then 1 else 0)

/-- FADD (R231). -/
def execFadd (d : Bool) (fd fs1 fs2 : BitVec 5) (s : State) : Host.Outcome State Fault Refusal :=
  coreSeq s (.fadd d fd fs1 fs2) (fp2 ieeeAdd d fd fs1 fs2)

/-- FSUB (R231). -/
def execFsub (d : Bool) (fd fs1 fs2 : BitVec 5) (s : State) : Host.Outcome State Fault Refusal :=
  coreSeq s (.fsub d fd fs1 fs2) (fp2 ieeeSub d fd fs1 fs2)

/-- FMUL (R231). -/
def execFmul (d : Bool) (fd fs1 fs2 : BitVec 5) (s : State) : Host.Outcome State Fault Refusal :=
  coreSeq s (.fmul d fd fs1 fs2) (fp2 ieeeMul d fd fs1 fs2)

/-- FDIV (R231). -/
def execFdiv (d : Bool) (fd fs1 fs2 : BitVec 5) (s : State) : Host.Outcome State Fault Refusal :=
  coreSeq s (.fdiv d fd fs1 fs2) (fp2 ieeeDiv d fd fs1 fs2)

/-- FSQRT (R231). -/
def execFsqrt (d : Bool) (fd fs1 : BitVec 5) (s : State) : Host.Outcome State Fault Refusal :=
  coreSeq s (.fsqrt d fd fs1) (do
    let a ← readFp d fs1
    let r := ieeeSqrt (fpFmt d) (← fcsrRd) a
    accFcsr r.2
    writeFp fd r.1)

/-- FMIN (R143, R231). -/
def execFmin (d : Bool) (fd fs1 fs2 : BitVec 5) (s : State) : Host.Outcome State Fault Refusal :=
  coreSeq s (.fmin d fd fs1 fs2) (fp2 (fun F _ a b => ieeeMinMax false F a b) d fd fs1 fs2)

/-- FMAX (R143, R231). -/
def execFmax (d : Bool) (fd fs1 fs2 : BitVec 5) (s : State) : Host.Outcome State Fault Refusal :=
  coreSeq s (.fmax d fd fs1 fs2) (fp2 (fun F _ a b => ieeeMinMax true F a b) d fd fs1 fs2)

/-- FABS (R143, R231). -/
def execFabs (d : Bool) (fd fs1 : BitVec 5) (s : State) : Host.Outcome State Fault Refusal :=
  coreSeq s (.fabs d fd fs1) (do writeFp fd (fpAbs (fpFmt d) (← readFp d fs1)))

/-- FNEG (R143, R231). -/
def execFneg (d : Bool) (fd fs1 : BitVec 5) (s : State) : Host.Outcome State Fault Refusal :=
  coreSeq s (.fneg d fd fs1) (do writeFp fd (fpNeg (fpFmt d) (← readFp d fs1)))

/-- FEQ (R231). -/
def execFeq (d : Bool) (rd fs1 fs2 : BitVec 5) (s : State) : Host.Outcome State Fault Refusal :=
  coreSeq s (.feq d rd fs1 fs2) (fpCmp 0 d rd fs1 fs2)

/-- FLT (R231). -/
def execFlt (d : Bool) (rd fs1 fs2 : BitVec 5) (s : State) : Host.Outcome State Fault Refusal :=
  coreSeq s (.flt d rd fs1 fs2) (fpCmp 1 d rd fs1 fs2)

/-- FLE (R231). -/
def execFle (d : Bool) (rd fs1 fs2 : BitVec 5) (s : State) : Host.Outcome State Fault Refusal :=
  coreSeq s (.fle d rd fs1 fs2) (fpCmp 2 d rd fs1 fs2)

/-- FCLASS (R231): the bit of the class. -/
def execFclass (d : Bool) (rd fs1 : BitVec 5) (s : State) : Host.Outcome State Fault Refusal :=
  coreSeq s (.fclass d rd fs1) (do writeReg rd (BitVec.ofNat 64 (2 ^ fpClass (fpFmt d) (← readFp d fs1))))

/-- FCVT.F (R231): from the other width into width D. -/
def execFcvtF (d : Bool) (fd fs1 : BitVec 5) (s : State) : Host.Outcome State Fault Refusal :=
  coreSeq s (.fcvtF d fd fs1) (do
    let r := cvtToIeee (fpFmt d) (fpFmt (!d)) (← fcsrRd) (← readFp (!d) fs1)
    accFcsr r.2
    writeFp fd r.1)

/-- FCVT.I (R146, R231). -/
def execFcvtI (d : Bool) (rd fs1 : BitVec 5) (s : State) : Host.Outcome State Fault Refusal :=
  coreSeq s (.fcvtI d rd fs1) (do
    let r := cvtToInt 64 (fpFmt d) (← fcsrRd) (← readFp d fs1)
    accFcsr r.2
    writeReg rd r.1)

/-- FCVT.FI (R231). -/
def execFcvtFi (d : Bool) (fd rs1 : BitVec 5) (s : State) : Host.Outcome State Fault Refusal :=
  coreSeq s (.fcvtFi d fd rs1) (do
    let r := cvtOfInt (fpFmt d) (← fcsrRd) (← readReg rs1).toInt
    accFcsr r.2
    writeFp fd r.1)

/-- FMV.X (R226, R231): raw bits, zero-extended for B32. -/
def execFmvX (d : Bool) (rd fs1 : BitVec 5) (s : State) : Host.Outcome State Fault Refusal :=
  coreSeq s (.fmvX d rd fs1) (do writeReg rd (BitVec.ofNat 64 (← readFp d fs1)))

/-- FMV.F (R226, R231). -/
def execFmvF (d : Bool) (fd rs1 : BitVec 5) (s : State) : Host.Outcome State Fault Refusal :=
  coreSeq s (.fmvF d fd rs1) (do writeFp fd ((← readReg rs1).toNat % 2 ^ (fpFmt d).width))

/-- FMADD (R231). -/
def execFmadd (d : Bool) (fd fs1 fs2 fs3 : BitVec 5) (s : State) : Host.Outcome State Fault Refusal :=
  coreSeq s (.fmadd d fd fs1 fs2 fs3) (fp3 false false d fd fs1 fs2 fs3)

/-- FMSUB (R231). -/
def execFmsub (d : Bool) (fd fs1 fs2 fs3 : BitVec 5) (s : State) : Host.Outcome State Fault Refusal :=
  coreSeq s (.fmsub d fd fs1 fs2 fs3) (fp3 false true d fd fs1 fs2 fs3)

/-- FNMADD (R231). -/
def execFnmadd (d : Bool) (fd fs1 fs2 fs3 : BitVec 5) (s : State) : Host.Outcome State Fault Refusal :=
  coreSeq s (.fnmadd d fd fs1 fs2 fs3) (fp3 true true d fd fs1 fs2 fs3)

/-- FNMSUB (R231). -/
def execFnmsub (d : Bool) (fd fs1 fs2 fs3 : BitVec 5) (s : State) : Host.Outcome State Fault Refusal :=
  coreSeq s (.fnmsub d fd fs1 fs2 fs3) (fp3 true false d fd fs1 fs2 fs3)

end Sys2Proof.Machine
end

