-- ==== Sys2Proof/Machine/ExecHcp.lean ====
section
/-! DEFINITION. Meanings of the Host Control Port's commands (15, 20). -/

namespace Sys2Proof.Machine

/-- exec of a command that also may change the configuration. -/
def cbNext (s : State) (f : Cfg → Blk → Cfg × Blk) : Host.Outcome State Fault Refusal :=
  let r := f s.cfg s.blk
  .next { s with cfg := r.1, blk := r.2 }

/-- An HCP write at an offset, as a non-secure agent (R377, R435). -/
def hostWrite (s : State) (off : Nat) (v : W32) : Host.Outcome State Fault Refusal :=
  cbNext s fun c b => hcpWrite c b (BitVec.ofNat 16 off) v false

/-- HCP_WRITE (R377). -/
def execHcpWrite (off : BitVec 16) (v : W32) (s : State) : Host.Outcome State Fault Refusal := hostWrite s off.toNat v

/-- LATCHING_LO_READ (R482): the HI word of the pair is latched; a read of any other offset latches nothing. -/
def execLatchingLoRead (off : BitVec 16) (s : State) : Host.Outcome State Fault Refusal := blkNext s fun b => hcpLatch b off

/-- DOORBELL (R325). -/
def execDoorbell (n : BitVec 5) (v : W32) (s : State) : Host.Outcome State Fault Refusal := hostWrite s (0x800 + 4 * n.toNat) v

/-- SETUP (R324). -/
def execSetup (n : BitVec 5) (s : State) : Host.Outcome State Fault Refusal := hostWrite s (0x608 + 16 * n.toNat) 1
/-- START (R324). -/
def execStart (n : BitVec 5) (s : State) : Host.Outcome State Fault Refusal := hostWrite s (0x608 + 16 * n.toNat) 2
/-- STOP (R324). -/
def execStop (n : BitVec 5) (s : State) : Host.Outcome State Fault Refusal := hostWrite s (0x608 + 16 * n.toNat) 3

/-- KZ_CGT_CMD's word (R191). -/
def cgtWord (op : Nat) (first last : BitVec 6) : W32 := BitVec.ofNat 32 (op + 16 * first.toNat + 4096 * last.toNat)

/-- CGT_LOAD (R191). -/
def execCgtLoad (first last : BitVec 6) (s : State) : Host.Outcome State Fault Refusal := hostWrite s 0xA88 (cgtWord 1 first last)
/-- CGT_SAVE (R191). -/
def execCgtSave (first last : BitVec 6) (s : State) : Host.Outcome State Fault Refusal := hostWrite s 0xA88 (cgtWord 2 first last)
/-- CGT_ENTRY_APPLY (R191). -/
def execCgtEntryApply (s : State) : Host.Outcome State Fault Refusal := blkNext s (cgtApply s.cfg)

/-- GO (R454). -/
def execGo (s : State) : Host.Outcome State Fault Refusal := hostWrite s 0x104 1
/-- WARM (R449). -/
def execWarm (s : State) : Host.Outcome State Fault Refusal := hostWrite s 0x104 2
/-- CORE (R452). -/
def execCore (s : State) : Host.Outcome State Fault Refusal := hostWrite s 0x104 3

/-- FEAT_SEAL_WRITE (R465). -/
def execFeatSealWrite (v : W32) (s : State) : Host.Outcome State Fault Refusal := hostWrite s 0x30 v
/-- MODE_PEND_WRITE (R344). -/
def execModePendWrite (v : W32) (s : State) : Host.Outcome State Fault Refusal := hostWrite s 0x9D4 v

/-- The waiting copy of the staged table, once the older live table is released (R295). -/
def tableCopy (c : Cfg) (b : Blk) : Blk :=
  let b := releaseTable b
  match b.mmu.older, b.mmu.copyPend with
  | none, some e => offEpochs (copyTable c b e)
  | _, _ => b

/-- NRT_TABLE_COPY (R295). -/
def execNrtTableCopy (s : State) : Host.Outcome State Fault Refusal := blkNext s (tableCopy s.cfg)

/-- LTS_CFG_WRITE (R312). -/
def execLtsCfgWrite (v : W32) (s : State) : Host.Outcome State Fault Refusal := hostWrite s 0x244 v
/-- WORLD_LOCK_WRITE (R434). -/
def execWorldLockWrite (v : W32) (s : State) : Host.Outcome State Fault Refusal := hostWrite s 0x408 v
/-- LINK_ENABLE_WRITE (R398). -/
def execLinkEnableWrite (en : BitVec 4) (s : State) : Host.Outcome State Fault Refusal := hostWrite s 0xA20 (en.zeroExtend 32)
/-- RETRAIN (R398): the enables as they stand. -/
def execRetrain (mask : BitVec 4) (s : State) : Host.Outcome State Fault Refusal :=
  hostWrite s 0xA20 (BitVec.ofNat 32 (s.cfg.linkEn.toNat + 256 * mask.toNat))
/-- OBS_CFG_WRITE (R471). -/
def execObsCfgWrite (v : W32) (s : State) : Host.Outcome State Fault Refusal := hostWrite s 0xC00 v

end Sys2Proof.Machine
end

