-- ==== Sys2Proof/Machine/Alu.lean ====
section
/-! DEFINITION. Integer operations of OP and OPW by FUNCT, on any width (R217, R229, R230). -/

namespace Sys2Proof.Machine

/-- Signed division that never faults (R217). -/
def sdivK (a b : BitVec w) : BitVec w :=
  if b = 0 then BitVec.allOnes w
  else if a = BitVec.ofNat w (2 ^ (w - 1)) && b == BitVec.allOnes w then a
  else BitVec.ofInt w (a.toInt.tdiv b.toInt)

/-- Signed remainder that never faults (R217). -/
def sremK (a b : BitVec w) : BitVec w :=
  if b = 0 then a
  else if a = BitVec.ofNat w (2 ^ (w - 1)) && b == BitVec.allOnes w then 0
  else BitVec.ofInt w (a.toInt.tmod b.toInt)

/-- Unsigned division and remainder that never fault (R217). -/
def udivK (a b : BitVec w) : BitVec w := if b = 0 then BitVec.allOnes w else BitVec.ofNat w (a.toNat / b.toNat)
def uremK (a b : BitVec w) : BitVec w := if b = 0 then a else BitVec.ofNat w (a.toNat % b.toNat)

/-- The bytes of a register in the opposite order. -/
def bswapK (a : BitVec w) : BitVec w := BitVec.ofNat w (natOfLE (leOfNat (w / 8) a.toNat).reverse)

def boolBv (w : Nat) (p : Bool) : BitVec w := if p then 1 else 0

/-- The functions of R230 by FUNCT; none for a reserved FUNCT. -/
def aluOp (funct : Nat) (a b : BitVec w) : Option (BitVec w) :=
  match funct with
  | 0x000 => some (a + b)
  | 0x001 => some (a - b)
  | 0x002 => some (a &&& b)
  | 0x003 => some (a ||| b)
  | 0x004 => some (a ^^^ b)
  | 0x005 => some (a <<< (b.toNat % w))
  | 0x006 => some (a >>> (b.toNat % w))
  | 0x007 => some (a.sshiftRight (b.toNat % w))
  | 0x008 => some (boolBv w (decide (a.toInt < b.toInt)))
  | 0x009 => some (boolBv w (decide (a.toNat < b.toNat)))
  | 0x00A => some (if a.toInt < b.toInt then a else b)
  | 0x00B => some (if a.toInt < b.toInt then b else a)
  | 0x00C => some (if a.toNat < b.toNat then a else b)
  | 0x00D => some (if a.toNat < b.toNat then b else a)
  | 0x010 => some (a * b)
  | 0x011 => some (BitVec.ofInt w (a.toInt * b.toInt / 2 ^ w))
  | 0x012 => some (BitVec.ofNat w (a.toNat * b.toNat / 2 ^ w))
  | 0x014 => some (sdivK a b)
  | 0x015 => some (udivK a b)
  | 0x016 => some (sremK a b)
  | 0x017 => some (uremK a b)
  | 0x020 => some (BitVec.ofNat w (leadingZeros a))
  | 0x021 => some (BitVec.ofNat w (trailingZeros a))
  | 0x022 => some (BitVec.ofNat w (popCount a))
  | 0x023 => some (bswapK a)
  | _ => none

/-- The FUNCTs that take one operand: rs2 must be 0 (R230). -/
def unaryFunct (funct : Nat) : Bool := decide (0x20 ≤ funct ∧ funct ≤ 0x23)

/-- The immediate of IMM16, sign-extended or zero-extended (R228). -/
def sext16 (imm : BitVec 16) : Word := imm.signExtend 64
def zext16 (imm : BitVec 16) : Word := imm.zeroExtend 64

/-- sext(IMM21) × 65,536 (R228). -/
def upper21 (imm : BitVec 21) : Word := (imm.signExtend 64) <<< 16

/-- A branch offset, IMM × 4, and a J offset, sext(OFF26) × 4 (R228). -/
def branchOff (imm : BitVec 16) : Word := (imm.signExtend 64) <<< 2
def jumpOff (off : BitVec 26) : Word := (off.signExtend 64) <<< 2

end Sys2Proof.Machine
end

