-- ==== Sys2Proof/Machine/ExecInt.lean ====
section
/-! DEFINITION. Meanings of the integer register, immediate and upper-immediate instructions (09). -/

namespace Sys2Proof.Machine

/-- An OP instruction: rd from rs1 and rs2 by FUNCT; the one-operand functions need an rs2 field of 0 (R229, R230). -/
def opBody (funct : Nat) (rd rs1 rs2 : BitVec 5) : M Unit := do
  if unaryFunct funct then mustBeZero rs2
  let a ← readReg rs1
  let b ← readReg rs2
  match aluOp funct a b with
  | some v => writeReg rd v
  | none => coreFault 1

/-- An OPW instruction: the function on bits [31:0], sign-extended from bit 31 (R229). -/
def opwBody (funct : Nat) (rd rs1 rs2 : BitVec 5) : M Unit := do
  if unaryFunct funct then mustBeZero rs2
  let a ← readReg rs1
  let b ← readReg rs2
  match aluOp funct (a.truncate 32) (b.truncate 32) with
  | some v => writeReg rd (v.signExtend 64)
  | none => coreFault 1

/-- An immediate instruction: rd from rs1 and the immediate (R229). -/
def immBody (funct : Nat) (rd rs1 : BitVec 5) (imm : Word) : M Unit := do
  let a ← readReg rs1
  match aluOp funct a imm with
  | some v => writeReg rd v
  | none => coreFault 1

/-- ADD (R230). -/
def execAdd (rd rs1 rs2 : BitVec 5) (s : State) : Host.Outcome State Fault Refusal :=
  coreSeq s (.add rd rs1 rs2) (opBody 0x000 rd rs1 rs2)

/-- SUB (R230). -/
def execSub (rd rs1 rs2 : BitVec 5) (s : State) : Host.Outcome State Fault Refusal :=
  coreSeq s (.sub rd rs1 rs2) (opBody 0x001 rd rs1 rs2)

/-- AND (R230). -/
def execAnd_ (rd rs1 rs2 : BitVec 5) (s : State) : Host.Outcome State Fault Refusal :=
  coreSeq s (.and_ rd rs1 rs2) (opBody 0x002 rd rs1 rs2)

/-- OR (R230). -/
def execOr_ (rd rs1 rs2 : BitVec 5) (s : State) : Host.Outcome State Fault Refusal :=
  coreSeq s (.or_ rd rs1 rs2) (opBody 0x003 rd rs1 rs2)

/-- XOR (R230). -/
def execXor (rd rs1 rs2 : BitVec 5) (s : State) : Host.Outcome State Fault Refusal :=
  coreSeq s (.xor rd rs1 rs2) (opBody 0x004 rd rs1 rs2)

/-- SHL (R230). -/
def execShl (rd rs1 rs2 : BitVec 5) (s : State) : Host.Outcome State Fault Refusal :=
  coreSeq s (.shl rd rs1 rs2) (opBody 0x005 rd rs1 rs2)

/-- SHR (R230). -/
def execShr (rd rs1 rs2 : BitVec 5) (s : State) : Host.Outcome State Fault Refusal :=
  coreSeq s (.shr rd rs1 rs2) (opBody 0x006 rd rs1 rs2)

/-- SAR (R230). -/
def execSar (rd rs1 rs2 : BitVec 5) (s : State) : Host.Outcome State Fault Refusal :=
  coreSeq s (.sar rd rs1 rs2) (opBody 0x007 rd rs1 rs2)

/-- SLT (R230). -/
def execSlt (rd rs1 rs2 : BitVec 5) (s : State) : Host.Outcome State Fault Refusal :=
  coreSeq s (.slt rd rs1 rs2) (opBody 0x008 rd rs1 rs2)

/-- SLTU (R230). -/
def execSltu (rd rs1 rs2 : BitVec 5) (s : State) : Host.Outcome State Fault Refusal :=
  coreSeq s (.sltu rd rs1 rs2) (opBody 0x009 rd rs1 rs2)

/-- MIN (R230). -/
def execMin (rd rs1 rs2 : BitVec 5) (s : State) : Host.Outcome State Fault Refusal :=
  coreSeq s (.min rd rs1 rs2) (opBody 0x00A rd rs1 rs2)

/-- MAX (R230). -/
def execMax (rd rs1 rs2 : BitVec 5) (s : State) : Host.Outcome State Fault Refusal :=
  coreSeq s (.max rd rs1 rs2) (opBody 0x00B rd rs1 rs2)

/-- MINU (R230). -/
def execMinu (rd rs1 rs2 : BitVec 5) (s : State) : Host.Outcome State Fault Refusal :=
  coreSeq s (.minu rd rs1 rs2) (opBody 0x00C rd rs1 rs2)

/-- MAXU (R230). -/
def execMaxu (rd rs1 rs2 : BitVec 5) (s : State) : Host.Outcome State Fault Refusal :=
  coreSeq s (.maxu rd rs1 rs2) (opBody 0x00D rd rs1 rs2)

/-- MUL (R230). -/
def execMul (rd rs1 rs2 : BitVec 5) (s : State) : Host.Outcome State Fault Refusal :=
  coreSeq s (.mul rd rs1 rs2) (opBody 0x010 rd rs1 rs2)

/-- MULH (R230). -/
def execMulh (rd rs1 rs2 : BitVec 5) (s : State) : Host.Outcome State Fault Refusal :=
  coreSeq s (.mulh rd rs1 rs2) (opBody 0x011 rd rs1 rs2)

/-- MULHU (R230). -/
def execMulhu (rd rs1 rs2 : BitVec 5) (s : State) : Host.Outcome State Fault Refusal :=
  coreSeq s (.mulhu rd rs1 rs2) (opBody 0x012 rd rs1 rs2)

/-- DIV (R230). -/
def execDiv (rd rs1 rs2 : BitVec 5) (s : State) : Host.Outcome State Fault Refusal :=
  coreSeq s (.div rd rs1 rs2) (opBody 0x014 rd rs1 rs2)

/-- DIVU (R230). -/
def execDivu (rd rs1 rs2 : BitVec 5) (s : State) : Host.Outcome State Fault Refusal :=
  coreSeq s (.divu rd rs1 rs2) (opBody 0x015 rd rs1 rs2)

/-- REM (R230). -/
def execRem (rd rs1 rs2 : BitVec 5) (s : State) : Host.Outcome State Fault Refusal :=
  coreSeq s (.rem rd rs1 rs2) (opBody 0x016 rd rs1 rs2)

/-- REMU (R230). -/
def execRemu (rd rs1 rs2 : BitVec 5) (s : State) : Host.Outcome State Fault Refusal :=
  coreSeq s (.remu rd rs1 rs2) (opBody 0x017 rd rs1 rs2)

/-- CLZ (R230). -/
def execClz (rd rs1 rs2 : BitVec 5) (s : State) : Host.Outcome State Fault Refusal :=
  coreSeq s (.clz rd rs1 rs2) (opBody 0x020 rd rs1 rs2)

/-- CTZ (R230). -/
def execCtz (rd rs1 rs2 : BitVec 5) (s : State) : Host.Outcome State Fault Refusal :=
  coreSeq s (.ctz rd rs1 rs2) (opBody 0x021 rd rs1 rs2)

/-- POPC (R230). -/
def execPopc (rd rs1 rs2 : BitVec 5) (s : State) : Host.Outcome State Fault Refusal :=
  coreSeq s (.popc rd rs1 rs2) (opBody 0x022 rd rs1 rs2)

/-- BSWAP (R230). -/
def execBswap (rd rs1 rs2 : BitVec 5) (s : State) : Host.Outcome State Fault Refusal :=
  coreSeq s (.bswap rd rs1 rs2) (opBody 0x023 rd rs1 rs2)

/-- OPW (R229): a reserved FUNCT fails code 0x01. -/
def execOpw (funct : BitVec 11) (rd rs1 rs2 : BitVec 5) (s : State) : Host.Outcome State Fault Refusal :=
  coreSeq s (.opw funct rd rs1 rs2) (opwBody funct.toNat rd rs1 rs2)

/-- ADDI (R228, R229). -/
def execAddi (rd rs1 : BitVec 5) (imm : BitVec 16) (s : State) : Host.Outcome State Fault Refusal :=
  coreSeq s (.addi rd rs1 imm) (immBody 0x000 rd rs1 (sext16 imm))

/-- ANDI (R228, R229). -/
def execAndi (rd rs1 : BitVec 5) (imm : BitVec 16) (s : State) : Host.Outcome State Fault Refusal :=
  coreSeq s (.andi rd rs1 imm) (immBody 0x002 rd rs1 (zext16 imm))

/-- ORI (R228, R229). -/
def execOri (rd rs1 : BitVec 5) (imm : BitVec 16) (s : State) : Host.Outcome State Fault Refusal :=
  coreSeq s (.ori rd rs1 imm) (immBody 0x003 rd rs1 (zext16 imm))

/-- XORI (R228, R229). -/
def execXori (rd rs1 : BitVec 5) (imm : BitVec 16) (s : State) : Host.Outcome State Fault Refusal :=
  coreSeq s (.xori rd rs1 imm) (immBody 0x004 rd rs1 (zext16 imm))

/-- SLTI (R228, R229). -/
def execSlti (rd rs1 : BitVec 5) (imm : BitVec 16) (s : State) : Host.Outcome State Fault Refusal :=
  coreSeq s (.slti rd rs1 imm) (immBody 0x008 rd rs1 (sext16 imm))

/-- SLTIU (R228, R229). -/
def execSltiu (rd rs1 : BitVec 5) (imm : BitVec 16) (s : State) : Host.Outcome State Fault Refusal :=
  coreSeq s (.sltiu rd rs1 imm) (immBody 0x009 rd rs1 (sext16 imm))

/-- Shift immediate SHL: IMM[15:8] must be 0, the amount is IMM[5:0] (R229). -/
def execShiftImmediateShl (rd rs1 : BitVec 5) (amt : BitVec 6) (mbz : BitVec 8) (s : State) : Host.Outcome State Fault Refusal :=
  coreSeq s (.shiftImmediateShl rd rs1 amt mbz) (do mustBeZero mbz; immBody 0x005 rd rs1 (amt.zeroExtend 64))

/-- Shift immediate SHR: IMM[15:8] must be 0, the amount is IMM[5:0] (R229). -/
def execShiftImmediateShr (rd rs1 : BitVec 5) (amt : BitVec 6) (mbz : BitVec 8) (s : State) : Host.Outcome State Fault Refusal :=
  coreSeq s (.shiftImmediateShr rd rs1 amt mbz) (do mustBeZero mbz; immBody 0x006 rd rs1 (amt.zeroExtend 64))

/-- Shift immediate SAR: IMM[15:8] must be 0, the amount is IMM[5:0] (R229). -/
def execShiftImmediateSar (rd rs1 : BitVec 5) (amt : BitVec 6) (mbz : BitVec 8) (s : State) : Host.Outcome State Fault Refusal :=
  coreSeq s (.shiftImmediateSar rd rs1 amt mbz) (do mustBeZero mbz; immBody 0x007 rd rs1 (amt.zeroExtend 64))

/-- LUI (R228). -/
def execLui (rd : BitVec 5) (imm : BitVec 21) (s : State) : Host.Outcome State Fault Refusal :=
  coreSeq s (.lui rd imm) (writeReg rd (upper21 imm))

/-- AUIPC (R228): added to the instruction's own address. -/
def execAuipc (rd : BitVec 5) (imm : BitVec 21) (s : State) : Host.Outcome State Fault Refusal :=
  coreSeq s (.auipc rd imm) (do writeReg rd ((← getCore).pc + upper21 imm))

/-- ADDIW (R229): a 32-bit add, sign-extended. -/
def execAddiw (rd rs1 : BitVec 5) (imm : BitVec 16) (s : State) : Host.Outcome State Fault Refusal :=
  coreSeq s (.addiw rd rs1 imm) (do writeReg rd (((← readReg rs1).truncate 32 + imm.signExtend 32).signExtend 64))

end Sys2Proof.Machine
end

