-- ==== Sys2Proof/Machine/ImageOps.lean ====
section
/-! DEFINITION. The firmware images as the Memory Port returns them, piece by piece (18, R460). -/

namespace Sys2Proof.Machine

/-! Firmware images (R443, R460). -/

/-- A field of an image, little-endian at a byte offset. -/
def imgField (bs : List Byte) (off n : Nat) : Nat := natOfLE ((bs.drop off).take n)

def imgLen (bs : List Byte) : Nat := imgField bs 8 4
def imgLoad (bs : List Byte) : Nat := imgField bs 0x10 8
def imgEntry (bs : List Byte) : Nat := imgField bs 0x18 8
def imgBody (bs : List Byte) : List Byte := (bs.drop 256).take (imgLen bs)

/-- Are the header's fields legal for a kind of image (R443, R460)? -/
def imgLegal (c : Cfg) (kind : Nat) (bs : List Byte) : Bool :=
  let len := imgLen bs
  let load := imgLoad bs
  let entry := imgEntry bs
  decide (imgField bs 0 4 = 0x4B5A4657) && decide (imgField bs 4 1 = kind) && decide (imgField bs 6 2 = 0) && decide (len % 64 = 0) &&
  (bs.drop 0xE0).take 32 == List.replicate 32 0 && decide (entry % 4 = 0) &&
  (if kind = 0 then
    decide (len ≤ 65536) && decide (load + len ≤ 0x10000) && decide (load ≤ entry) && decide (entry < load + len)
   else
    let l := load % 2 ^ 47
    decide (load % 64 = 0) && decide (load / 2 ^ 47 = c.node.toNat) && decide (l + len ≤ 2 ^ 47) && decide (entry < 2 ^ 47) &&
      decide (l ≤ entry) && decide (entry < l + len))

/-- Does the image still want bytes: its header, and the body of a header that is legal? -/
def imgWants (c : Cfg) (kind : Nat) (bs : List Byte) : Bool :=
  decide (bs.length < 256) || (imgLegal c kind bs && decide (bs.length < 256 + imgLen bs))

/-- The signature engine's time for an image, in SCLK edges (R460). -/
def imgTime (bs : List Byte) : Nat := 16 * (imgLen bs / 64) + 32 + 96000

/-- Is there no verdict on the image yet? A header that is not legal is rejected without the engine's time (log 11). -/
def imgWaits (c : Cfg) (kind : Nat) (m : Image) (edges : Nat) : Bool :=
  m.failed || imgWants c kind m.bytes || (imgLegal c kind m.bytes && decide (edges < imgTime m.bytes))

/-- The read of the image's next piece: untranslated, not redirected, in the secure world (log 11). -/
def imgAsk (c : Cfg) (b : Blk) (m : Image) : Blk :=
  issueReq c false { op := .rd, addr := m.base + BitVec.ofNat 64 m.bytes.length, be := BitVec.allOnes 64, operand := 0, data := 0, world := true
                     purpose := .image } { b with sys := { b.sys with img := some m } }

/-- The phase begins to read its image. -/
def imgStart (c : Cfg) (b : Blk) (base : Word) : Blk := imgAsk c b { base := base, bytes := [], failed := false }

/-- A piece of the body goes to the Maltster RAM, or to chip memory as a secure posted write (R460). `off`: its offset in the body. -/
def imgStore (c : Cfg) (b : Blk) (bs : List Byte) (off : Nat) (data : Piece) : Blk :=
  if b.sys.phase = 7 then
    let x := tryCross false 1 b
    if x.1 then { x.2 with malt := { x.2.malt with ram := Sparse.setAll x.2.malt.ram (imgLoad bs + off) (bytesOf 64 data) } } else x.2
  else
    issueReq c false { op := .wr, addr := BitVec.ofNat 64 (imgLoad bs + off), be := BitVec.allOnes 64, operand := 0, data := data, world := true
                       purpose := .boot } b

/-- The response to an image's read (R460, R462): a piece more, stored when it is of the body; the next read follows while bytes are
wanted. A read that fails ends the sequence, a machine image's once what was written of it is acknowledged. -/
def imageArrives (c : Cfg) (b : Blk) (data : Option Piece) : Blk :=
  match b.sys.img, data with
  | none, _ => b
  | some m, none =>
    if b.sys.phase = 7 then seqFail b 6
    else { b with sys := { b.sys with img := some { m with failed := true }, entry := some 0, imgFail := 8 } }
  | some m, some d =>
    let n := m.bytes.length
    let m := { m with bytes := m.bytes ++ bytesOf 64 d }
    let b := if 256 ≤ n then imgStore c b m.bytes (n - 256) d else b
    if imgWants c (if b.sys.phase = 7 then 0 else 1) m.bytes && !b.err.fatal then imgAsk c b m else { b with sys := { b.sys with img := some m } }

end Sys2Proof.Machine
end

