-- ==== Sys2Proof/Machine/PortOps.lean ====
section
/-! DEFINITION. Responses to the block's requests, requests arriving at the Far Port, and what a delivered packet does (14, 15). -/

namespace Sys2Proof.Machine

/-- Keep a response for the instruction that waits for it. -/
def keepResp (b : Blk) (r : CoreResp) : Blk := wakeCore { b with core := { b.core with resp := b.core.resp ++ [r] } }

/-- The value of a world, and the pair with it replaced. -/
def byWorld (x : ByWorld α) (w : Bool) : α := if w then x.s else x.n
def setByWorld (x : ByWorld α) (w : Bool) (v : α) : ByWorld α := if w then { x with s := v } else { x with n := v }

/-- A posted write or write-back failed (R363, R364, R365). -/
def writeFailed (b : Blk) (o : Outst) (timeout : Bool) : Blk :=
  let w := o.world
  let p := b.ports
  let first := !byWorld p.werr w && !byWorld p.wtmo w
  let n := byWorld p.wcount w
  { b with ports := { p with
      werr := if timeout then p.werr else setByWorld p.werr w true
      wtmo := if timeout then setByWorld p.wtmo w true else p.wtmo
      wcount := setByWorld p.wcount w (if n = 0xFFFF then n else n + 1)
      raddr := if first then setByWorld p.raddr w o.addr else p.raddr } }

/-- A demand fill's data arrives: it is allocated, or waits for room in the eviction buffer (R298, R302). -/
def fillArrive (c : Cfg) (b : Blk) (instr : Bool) (line : Nat) (world : Bool) (data : Piece) : Blk :=
  if (findLine b .l2 line world).isSome then b
  else match fillBoth c b instr line world data with
    | some b => b
    | none => { b with caches := { b.caches with heldFills := b.caches.heldFills ++ [(line, world, data, instr)] } }

/-- A prefetched line enters the side buffer of 16 lines, the oldest leaving it; the L2 and the buffer hold one copy of it at most (R298,
R300). -/
def sideArrive (b : Blk) (line : Nat) (world : Bool) (data : Piece) : Blk :=
  if (findLine b .l2 line true).isSome || (findLine b .l2 line false).isSome then b
  else
    let b := mustCrossAt world (lineAddr line) 1 (dropSide b line none)
    let side := b.caches.side ++ [{ tag := line, world := world, data := data, perr := false }]
    { b with caches := { b.caches with side := side.drop (side.length - 16) } }

/-- The bytes of a read's piece under its mask. -/
def Outst.bytes (o : Outst) (data : Piece) : List Byte := pieceBytes data (trailingZeros o.be) (popCount o.be)

/-- DSTAT of a read (R355, R365). -/
def dmaReadCode (st : BitVec 8) : Nat := if st = 2 then 4 else if st = 3 then 7 else 5

/-- The status that a sync operation's requester sees (R207, R365): 0x08 stands for no response alone. -/
def syncOutcome (o : Outst) (st : BitVec 8) (timeout : Bool) : BitVec 8 := if timeout then 8 else syrStatus (bits o.be 2 0) st

/-- The response to an outstanding request reaches its requester (R363–R365): STATUS 0 done, 1 error, 2 uncorrectable, 3 timed out;
for a sync operation the SYR's STATUS, or a timeout. -/
def respond (c : Cfg) (b : Blk) (o : Outst) (st : BitVec 8) (timeout : Bool) (data : Piece) (old : Word) : Blk :=
  let st : BitVec 8 := if timeout then 3 else if o.op = .sy || st = 0 || st = 2 then st else 1
  let ok := st == 0
  let write (b : Blk) : Blk := wakeCore (if ok then b else writeFailed b o timeout)
  match o.purpose with
  | .core => keepResp b { op := o.op, addr := o.addr, be := o.be, status := st, data := if o.op = .at then old.zeroExtend 512 else data, used := false }
  | .fill line instr =>
    if ok then wakeCore (fillArrive c b instr line o.world data)
    else
      let b := if st = 2 then logErr b 6 8 o.world (lineAddr line) else b
      keepResp b { op := .sy, addr := lineAddr line, be := 0, status := st, data := 0, used := false }
  | .prefetch line => wakeCore (if ok then sideArrive b line o.world data else b)
  | .posted => write b
  | .writeback _ =>
    write { b with caches := { b.caches with evict := b.caches.evict.filter fun e => e.rtag != some o.rtag.toNat } }
  | .ctxImage n => frontPiece c b true n (o.addr.toNat / 64 % 2) (if ok then some data else none)
  | .descriptor n => frontPiece c b false n (if ringKind n = 1 then o.addr.toNat / 64 % 2 else 0) (if ok then some data else none)
  | .completion n => frontWriteDone b (.completion n) ok
  | .event n => frontWriteDone b (.event n) ok
  | .message n => frontWriteDone b (.message n) ok
  | .progress n => frontWriteDone b (.progress n) ok
  | .cgtLoad _ => cgtLoaded c b (if ok then some (o.bytes data) else none)
  | .cgtSave _ => if ok then cgtRun c 64 (cgtNext c b) else cgtEnd b true
  | .dmaRead ch k pos => dmaReadDone c b ch k pos (if ok then .ok (o.bytes data) else .error (dmaReadCode st))
  | .dmaHome ch k => dmaWriteDone c b ch k (if ok then none else some (if timeout then 7 else 5))
  | .dmaBuddy ch k => dmaWriteDone c b ch k (if ok then none else some (if timeout then 8 else 6))
  | .sparge n off => streamReadDone c b n off (if ok then some (o.bytes data) else none)
  | .syncCore => keepResp b { op := .sy, addr := o.addr, be := 1, status := syncOutcome o st timeout, data := old.zeroExtend 512, used := false }
  | .syncDma ch => dmaSignalled b ch (syncOutcome o st timeout)
  | .syncJob n => jobSignalled b n (syncOutcome o st timeout)
  | .adUpdate q => if q < 16 then dmaAdDone c b q (if ok then some old else none) else streamAdDone c b (q - 16) (if ok then some old else none)
  | .boot => if ok || b.sys.imgFail != 0 then b else seqFail b 8
  | .image => imageArrives c b (if ok then some data else none)
  | .discard => b

/-- The machine image's body is written once no write of it is outstanding: the block is released, or the sequence of an image that was
rejected or not read whole fails (R460–R462). -/
def bootDone (c : Cfg) (b : Blk) : Blk :=
  match b.sys.entry with
  | some e =>
    if b.sys.phase = 8 && !b.err.fatal && !anyOutst b (fun o => o.purpose == .boot) then
      if b.sys.imgFail = 0 then release c b e else seqFail b b.sys.imgFail
    else b
  | none => b

/-- Take an outstanding request from its port's table. -/
def takeOutst (b : Blk) (fp : Bool) (rtag : BitVec 16) (p : Outst → Bool) : Option (Outst × Blk) :=
  let os := if fp then b.ports.outFp else b.ports.outMp
  match os.find? (fun o => o.rtag == rtag && p o) with
  | none => none
  | some o =>
    let rest := os.filter fun x => x.rtag != rtag
    some (o, { b with ports := if fp then { b.ports with outFp := rest } else { b.ports with outMp := rest } })

/-- An outstanding request ends with a response or without one; a redirect table that nothing holds any more is released (R295). -/
def endRequest (c : Cfg) (b : Blk) (o : Outst) (st : BitVec 8) (timeout : Bool) (data : Piece) (old : Word) : Blk :=
  releaseTable (bootDone c (respond c b o st timeout data old))

/-- The request kind that a response opcode answers (R387). -/
def answers (opc : BitVec 5) : ReqOp → Bool
  | .rd => opc == 0x09
  | .wr => opc == 0x0A
  | .at => opc == 0x0B
  | .sy => opc == 0x12

/-- Note a malformed packet (R388). -/
def protErr (b : Blk) (p : BitVec 2) : Blk := modLink b p fun l => { l with protErr := true }

/-- Has a request's count not passed its timeout (R365)? A response that arrives at the very edge is taken. -/
def Outst.inTime (o : Outst) (sclk : Nat) : Bool := match o.issued with | some t => decide (sclk ≤ t + o.tmo.toNat) | none => true

/-- A response packet (R365, R387, R388): malformed when it carries bytes outside the request's BE; counted in LATE when it matches
no outstanding request, or one whose count has passed its timeout. -/
def takeResponse (c : Cfg) (b : Blk) (fp : Bool) (pk : Packet) : Blk :=
  match takeOutst b fp pk.h.rtag (fun o => answers pk.h.opc o.op && o.inTime b.pwr.sclk) with
  | none => { b with ports := { b.ports with late := if b.ports.late = 0xFFFF then b.ports.late else b.ports.late + 1 } }
  | some (o, b1) =>
    if o.op = .rd && pk.h.status = 0 && mergePiece pk.data 0 o.be != 0 then protErr b (if fp then 1 else 0)
    else endRequest c b1 o pk.h.status false pk.data pk.h.operand

/-- REQUEST_TIMEOUT (R365): a request's count reaches its timeout. -/
def requestExpires (c : Cfg) (b : Blk) (fp : Bool) (rtag : BitVec 16) : Blk :=
  match takeOutst b fp rtag (fun o => o.issued.isSome) with
  | none => b
  | some (o, b) =>
    endRequest c (elapse (o.issued.getD b.pwr.sclk + o.tmo.toNat) b) o 3 true 0 0

/-- A dead port answers the oldest request issued to it (R396): STATUS 0x01, or 0x09 for a sync operation. -/
def failedAnswer (c : Cfg) (b : Blk) : Blk :=
  match b.ports.failed with
  | [] => b
  | (fp, tag) :: rest =>
    let b := { b with ports := { b.ports with failed := rest } }
    match takeOutst b fp tag (fun _ => true) with
    | none => b
    | some (o, b) => endRequest c b o (if o.op = .sy then 9 else 1) false 0 0

/-! Requests arriving at the Far Port. -/

/-- A response packet to an inbound request (R386). -/
def responsePacket (h : Hdr) (opc : BitVec 5) (status : BitVec 8) (data : Piece) (old : Word) : Packet :=
  { h := { opc := opc, world := h.world, status := status, rtag := h.rtag, snode := 0, sblock := 0, addr := 0, be := 0, operand := old }
    data := data }

/-- The response opcode of a request opcode. -/
def respOpc (opc : BitVec 5) : BitVec 5 := if opc = 0x01 then 0x09 else if opc = 0x02 then 0x0A else if opc = 0x03 then 0x0B else 0x12

def answer (b : Blk) (h : Hdr) (status : BitVec 8) (data : Piece) (old : Word) : Blk :=
  sendPacket b true (responsePacket h (respOpc h.opc) status data old)

/-- Is an inbound request malformed (R387, R388, R368)? -/
def inboundMalformed (h : Hdr) : Bool :=
  if h.opc = 0x03 then
    decide (8 < bits h.be 3 0) || decide (h.addr.toNat % (if bit h.be 4 then 4 else 8) ≠ 0)
  else if h.opc = 0x11 then decide (5 ≤ bits h.be 2 0)
  else decide (h.addr.toNat % 64 ≠ 0) || h.be == 0

/-- Count a refused inbound request (R366, R368). -/
def countIref (b : Blk) : Blk := { b with ports := { b.ports with iref := if b.ports.iref = 0xFFFF then b.ports.iref else b.ports.iref + 1 } }

/-- The LTS bytes that a request reaches: offset and length, of the piece for a read or write. -/
def inboundSpan (h : Hdr) (o : Nat) : Nat × Nat :=
  if h.opc = 0x03 then (o, if bit h.be 4 then 4 else 8) else (o, 64)

/-- Read the words of a piece that a mask touches (R314, R368): the bytes, and whether a word was uncorrectable. -/
def ltsReadMasked (world : Bool) (o : Nat) (be : Word) (b : Blk) : (Piece × Bool) × Blk :=
  let x := ltsCross world o 64 b
  (List.range 8).foldl (fun r i =>
    if bits be (8 * i + 7) (8 * i) = 0 then r
    else
      let q := ltsBankRead world x.1 (o + 8 * i) 8 r.2
      ((r.1.1 ||| pieceOfBytes (8 * i) q.1.1, r.1.2 || q.1.2.isSome), q.2)) ((0, false), x.2)

/-- An inbound read, write or atomic is performed at its bank (R368). -/
def inboundPerform (b : Blk) (pk : Packet) (o : Nat) : Blk :=
  let h := pk.h
  if h.opc = 0x01 then
    let r := ltsReadMasked h.world o h.be b
    if r.1.2 then answer r.2 h 2 0 0 else answer r.2 h 0 (mergePiece 0 r.1.1 h.be) 0
  else if h.opc = 0x02 then
    let r := ltsWriteMasked h.world o pk.data h.be b
    answer r.2 h (if r.1 then 1 else 0) 0 0
  else
    let n := if bit h.be 4 then 4 else 8
    let r := ltsRead h.world o n b
    if r.1.2.isSome then answer r.2 h 2 0 0
    else
      let old := natOfLE r.1.1
      let new := atomicNew (bits h.be 3 0) (8 * n) old h.operand.toNat (pk.data.toNat % 2 ^ 64)
      answer (ltsWrite h.world o (leOfNat n new) r.2).2 h 0 0 (BitVec.ofNat 64 old)

/-- The checks of R368 in order: none when one fails, else the LTS offset. -/
def inboundCheck (c : Cfg) (b : Blk) (h : Hdr) : Option Nat :=
  if b.err.fatal then none
  else match route c h.addr with
    | .lts o =>
      let s := inboundSpan h o
      if inPartition c b h.world s.1 s.2 && quarterOk c o then some o else none
    | _ => none

/-- Serve an inbound read, write or atomic: refused, performed, or held while its bank is off or wiped, or behind an earlier
request to its piece (R368, R410, R445). -/
def inboundServe (c : Cfg) (b : Blk) (pk : Packet) : Blk :=
  match inboundCheck c b pk.h with
  | none => answer (countIref b) pk.h 1 0 0
  | some o =>
    if !pdRuns b (quarterPd o) || ltsWiping b o 64 || b.sys.heldIn.any (fun q => q.h.addr.toNat / 64 == pk.h.addr.toNat / 64) then
      { b with sys := { b.sys with heldIn := b.sys.heldIn ++ [pk] } }
    else inboundPerform b pk o

/-- The held requests are offered again, in arrival order. -/
def inboundRetry (c : Cfg) (b : Blk) : Blk :=
  b.sys.heldIn.foldl (inboundServe c) { b with sys := { b.sys with heldIn := [] } }

/-- An inbound sync request (R368, R388). -/
def inboundSync (c : Cfg) (b : Blk) (h : Hdr) : Blk :=
  if b.err.fatal || BitVec.ofNat 17 (bits h.addr 16 0) != c.node || BitVec.ofNat 10 (bits h.addr 26 17) != c.block then answer (countIref b) h 9 0 0
  else
    { b with sync := { b.sync with queue := b.sync.queue ++
        [{ src := .farPort h.rtag, op := BitVec.ofNat 3 (bits h.be 2 0), obj := BitVec.ofNat 16 (bits h.addr 47 32)
           x := h.operand.truncate 32, world := h.world }] } }

/-- A request at the Far Port. -/
def takeRequest (c : Cfg) (b : Blk) (pk : Packet) : Blk :=
  if inboundMalformed pk.h then answer (protErr b 1) pk.h (if pk.h.opc = 0x11 then 9 else 1) 0 0
  else if pk.h.opc = 0x11 then inboundSync c b pk.h
  else inboundServe c b pk

/-- A packet delivered on the Memory Port or Far Port (R385, R387, R388): its credits are freed. -/
def deliverPacket (c : Cfg) (b : Blk) (fp : Bool) (pk : Packet) : Blk :=
  let p : BitVec 2 := if fp then 1 else 0
  match channelOf pk.h.opc with
  | none => protErr (modLink b p fun l => l.free (if fp then 0 else 1) 1) p
  | some ch =>
    let b := modLink b p fun l => l.free ch (1 + dataFlits pk.h)
    if pk.h.opc = 0x09 || pk.h.opc = 0x0A || pk.h.opc = 0x0B || (pk.h.opc = 0x12 && fp) then takeResponse c b fp pk
    else if fp then takeRequest c b pk
    else protErr b p

/-- A packet that arrives whole on a port whose link is UP. -/
def packetArrives (c : Cfg) (b : Blk) (fp : Bool) (pk : Packet) : Blk :=
  if (getLink b (if fp then 1 else 0)).state = stUp && pdRuns b 18 && b.pwr.state = .run then deliverPacket c b fp pk else b

end Sys2Proof.Machine
end

