-- ==== Sys2Proof/Machine/LinkOps.lean ====
section
/-! DEFINITION. Received link blocks, bring-up, re-send and the other events of the Drumet links (15). -/

namespace Sys2Proof.Machine

/-- The CRC of a block is correct (R384). -/
def Block.good (k : Block) (p : BitVec 2) : Bool := blockCrc p k.ctl k.data k.hdr == k.crc

/-- Fields of the control word (R383). -/
def Block.btype (k : Block) : Nat := bits k.ctl 16 15
def Block.sub (k : Block) : Nat := bits k.ctl 6 0

/-- The power domain of a port (R382). -/
def portPd (p : BitVec 2) : Nat := if p.toNat < 2 then 18 else 19

/-- The port's receiver is powered and clocked. -/
def portRuns (b : Blk) (p : BitVec 2) : Bool := pdRuns b (portPd p) && b.pwr.state == .run

/-- A side of the chain of a port. -/
def portSide (p : BitVec 2) : BitVec 2 := if p = 2 then 2 else 1

/-- Send what a port can send now. -/
def pumpPort (b : Blk) (p : BitVec 2) : Blk :=
  if p.toNat < 2 then pumpOne b (p == 1) else forwardHeld (forwardHeld (pumpChain b (portSide p)) 1) 2

/-- Enter NAK state: NAK is owed in one trailer (R391). -/
def Link.enterNak (l : Link) : Link := if l.nak then l else { l with nak := true, nakOwed := true }

/-- A block whose CRC is wrong is discarded whole (R384, R391, R392). -/
def badBlock (b : Blk) (p : BitVec 2) : Blk :=
  let l := getLink b p
  let l : Link := { l with crcErr := true, crcErrs := if l.crcErrs = 0xFFFF then l.crcErrs else l.crcErrs + 1 }
  if l.state = stUp then
    let l : Link := { l.enterNak with crcRow := l.crcRow + 1 }
    if 16 ≤ l.crcRow.toNat then linkTo b p l.retrain else setLink b p l
  else setLink b p { l with trainRow := if l.trainRow = 64 then 64 else 0 }

/-- Is a block of SEQ s covered by an ACK a (R390)? -/
def covered (a s : BitVec 7) : Bool := decide ((a - s).toNat < 64)

/-- New credit on a channel: the rise of its cumulative count (R389). -/
def Link.credited (l : Link) (ch : Nat) (ccnt : BitVec 7) : Link :=
  if ch = 0 then { l with credit0 := l.credit0 + (ccnt - l.ccnt0).toNat, ccnt0 := ccnt }
  else if ch = 1 then { l with credit1 := l.credit1 + (ccnt - l.ccnt1).toNat, ccnt1 := ccnt }
  else if ch = 2 then { l with credit2 := l.credit2 + (ccnt - l.ccnt2).toNat, ccnt2 := ccnt }
  else l

/-- Act on the trailer of a correct data or idle block (R389, R391, R392): the CCNT of a discarded one is lost. -/
def trailer (b : Blk) (p : BitVec 2) (k : Block) (taken : Bool) : Blk :=
  let l := getLink b p
  let a : BitVec 7 := BitVec.ofNat 7 (bits k.ctl 13 7)
  let rest := l.retry.filter fun x => !covered a x.seq
  let l := { l with retry := rest, replayRow := if rest.length < l.retry.length then 0 else l.replayRow }
  let l := if taken then l.credited (bits k.ctl 24 23) (BitVec.ofNat 7 (bits k.ctl 31 25)) else l
  let b := setLink b p l
  let b := if bit k.ctl 14 && !rest.isEmpty then replay b p else b
  pumpPort b p

/-- A header flit's fields (R386). -/
def hdrOf (f : BitVec 256) : Hdr :=
  { opc := BitVec.ofNat 5 (bits f 4 0), world := bit f 5, status := BitVec.ofNat 8 (bits f 15 8), rtag := BitVec.ofNat 16 (bits f 31 16)
    snode := BitVec.ofNat 17 (bits f 48 32), sblock := BitVec.ofNat 10 (bits f 58 49), addr := BitVec.ofNat 64 (bits f 127 64)
    be := BitVec.ofNat 64 (bits f 191 128), operand := BitVec.ofNat 64 (bits f 255 192) }

/-- Give a data flit to the oldest header still owed data (R385): none when no header is. -/
def giveFlit (f : BitVec 256) : List (Hdr × List (BitVec 256)) → Option (List (Hdr × List (BitVec 256)))
  | [] => none
  | (h, fs) :: rest =>
    if fs.length < dataFlits h then some ((h, fs ++ [f]) :: rest)
    else (giveFlit f rest).map fun r => (h, fs) :: r

/-- Deliver the oldest packets that are whole. -/
def deliverWhole (c : Cfg) (fp : Bool) : List (Hdr × List (BitVec 256)) → Blk → Blk
  | [], b => modLink b (if fp then 1 else 0) fun l => { l with owed := [] }
  | (h, fs) :: rest, b =>
    if fs.length < dataFlits h then modLink b (if fp then 1 else 0) fun l => { l with owed := (h, fs) :: rest }
    else deliverWhole c fp rest (deliverPacket c b fp { h := h, data := ofLanes 512 fs })

/-- The flits of an accepted block on the Memory Port or Far Port (R385, R388). -/
def portFlits (c : Cfg) (b : Blk) (fp : Bool) (k : Block) : Blk :=
  let p : BitVec 2 := if fp then 1 else 0
  let hs := ((List.range 2).filter fun i => bit k.ctl (21 + i)).map fun i => (hdrOf (lane 256 k.hdr i), ([] : List (BitVec 256)))
  let fs := ((List.range 4).filter fun i => bit k.ctl (17 + i)).map fun i => (lane 256 k.data i : BitVec 256)
  let r := fs.foldl (fun (r : List (Hdr × List (BitVec 256)) × Blk) f =>
    match giveFlit f r.1 with
    | some o => (o, r.2)
    | none => (r.1, protErr (modLink r.2 p fun l => l.free (if fp then 0 else 1) 1) p)) ((getLink b p).owed ++ hs, b)
  deliverWhole c fp r.1 r.2

/-- The header of a chain transfer (R394): WORLD, CLASS, M − 1, TAG and the rows that follow; none when it is malformed. -/
def chainHeader (f : BitVec 256) : Option (Transfer × Nat) :=
  let cls : BitVec 2 := BitVec.ofNat 2 (bits f 7 6)
  let m := bits f 15 8 + 1
  let n := if cls = 0 then m else 2 * m
  if bits f 4 0 = 0x18 && cls != 3 && decide (n ≤ 64) then
    some ({ world := bit f 5, cls := cls, tag := BitVec.ofNat 16 (bits f 31 16), rows := [] }, n)
  else none

/-- The flits of an accepted block on a Chain Port (R394): a header in slot 0, or half a row in all four slots. A half row owed to no
header is malformed, and so is a block that is no half row while rows are owed: its credit is returned, a header's for a second header, a row's
for any other (R388, log 81). -/
def chainFlits (b : Blk) (p : BitVec 2) (k : Block) : Blk :=
  let l := getLink b p
  let dv := bits k.ctl 20 17
  match l.chainHdr with
  | none =>
    if dv = 1 then
      let f : BitVec 256 := lane 256 k.data 0
      match chainHeader f with
      | some _ => setLink b p { l with chainHdr := some f, half := none, chainRows := [] }
      | none => protErr (modLink b p fun l => l.free 0 1) p
    else
      -- a row of a discarded header: its credit is returned with its second half
      protErr (setLink b p (match l.half with
        | none => { l with half := some k.data }
        | some _ => { l.free 1 1 with half := none })) p
  | some f =>
    if dv ≠ 15 then protErr (setLink b p (l.free (if dv = 1 then 0 else 1) 1)) p
    else match l.half with
    | none => setLink b p { l with half := some k.data }
    | some lo =>
      let rows := l.chainRows ++ [ofLanes 2048 [lo, k.data]]
      match chainHeader f with
      | none => b
      | some (t, n) =>
        if rows.length < n then setLink b p { l with half := none, chainRows := rows }
        else
          let b := setLink b p { l with half := none, chainRows := [], chainHdr := none }
          chainArrive b (portSide p) { t with rows := rows }

/-- A correct data block in UP (R391): accepted in order; a duplicate or a block ahead is discarded. -/
def dataBlock (c : Cfg) (b : Blk) (p : BitVec 2) (k : Block) : Blk :=
  let l := getLink b p
  let d := (BitVec.ofNat 7 (bits k.ctl 6 0) - l.eseq).toNat
  let b :=
    if d = 0 then
      let b := setLink b p { l with eseq := l.eseq + 1, nak := false, crcRow := 0 }
      if p.toNat < 2 then portFlits c b (p == 1) k else chainFlits b p k
    else if 64 ≤ d then setLink b p { l with crcRow := 0 }
    else setLink b p { l.enterNak with crcRow := 0 }
  trailer b p k (d = 0)

/-- The state in which a link receives blocks. -/
def receiving (b : Blk) (p : BitVec 2) : Bool :=
  let s := (getLink b p).state
  portRuns b p && s != stDown && s != stFailed && s != stPaused

/-- Is it a TRAIN block? -/
def Block.isTrain (k : Block) : Bool := k.btype == 2 && k.sub == 1

/-- A correct block ends the row of blocks with a wrong CRC, and one that is no TRAIN block the row of TRAIN blocks (R392, R393). -/
def Link.goodBlock (l : Link) (train : Bool) : Link :=
  { l with crcRow := 0, trainRow := if train || l.trainRow == 64 then l.trainRow else 0 }

/-- A block is received: one with a wrong CRC is discarded whole; a correct one of the named kind does what `f` says. -/
def receive (b : Blk) (p : BitVec 2) (k : Block) (kind : Bool) (f : Blk → Blk) : Blk :=
  if !receiving b p then b
  else if !k.good p then badBlock b p
  else
    let b := modLink b p fun l => l.goodBlock k.isTrain
    if kind then f b else b

/-- A DESKEW block is received: it carries nothing (R397). -/
def deskewBlock (b : Blk) (p : BitVec 2) : Blk := if receiving b p then modLink b p fun l => l.goodBlock false else b

/-- A port whose link is UP inserts a DESKEW block (R397). -/
def deskewInsert (b : Blk) (p : BitVec 2) : Blk :=
  if (getLink b p).state = stUp && portRuns b p then modLink b p (Link.driveDeskew p) else b

/-- The pattern of a TRAIN block (R393): every slot byte 0x55 for an even COUNT and 0xAA for an odd one. -/
def trainPattern (p : BitVec 2) (k : Block) : Bool :=
  let even := bits k.ctl 13 8 % 2 == 0
  let v : Byte := if even then 0x55 else 0xAA
  (toLanes 8 128 k.data).all (fun x => x == v) && (decide (2 ≤ p.toNat) || (toLanes 8 64 k.hdr).all (fun x => x == v))

/-- Lock and a TRAIN block with LOCK 1: the link sends ADVERT blocks (R393, log 27). -/
def advertPhase (p : BitVec 2) (l : Link) : Link :=
  if l.trainRow = 64 && l.sawLock && l.lreqI && l.advSent = 0 && (l.state = stTrain || l.state = stRetrain) then
    { l with advSent := 4, state := if l.state = stTrain then stAdvert else l.state }.driveAdvert p
  else l

/-- A correct TRAIN block (R392, R393): in UP the link retrains. -/
def trainBlock (b : Blk) (p : BitVec 2) (k : Block) : Blk :=
  let l := getLink b p
  if l.state = stUp then linkTo b p l.retrain
  else
    let row := if l.trainRow = 64 then 64 else if trainPattern p k then l.trainRow + 1 else 0
    linkTo b p (advertPhase p { l with trainRow := row, sawLock := l.sawLock || bit k.ctl 7 })

/-- The channels on which a port transmits (R385, R389). -/
def usedChannels (p : BitVec 2) : List Nat := if p = 0 then [0] else if p = 1 then [0, 1, 2] else [0, 1]

/-- An ADVERT block's credits (R393). -/
def advertCredit (k : Block) (ch : Nat) : Nat := bits k.data (32 + 16 * ch + 15) (32 + 16 * ch)

/-- Is an ADVERT block correct: version 1 or above, the port's kind, credits on every channel used? -/
def advertOk (p : BitVec 2) (k : Block) : Bool :=
  decide (1 ≤ bits k.data 15 0) && decide (bits k.data 31 16 = if p.toNat < 2 then p.toNat else 2) &&
    (usedChannels p).all fun ch => decide (advertCredit k ch ≠ 0)

/-- The link enters UP (R393): afresh with the advertised credits and SEQ 0, or from RETRAIN with a replay of what is outstanding. -/
def linkUp (b : Blk) (p : BitVec 2) (k : Block) : Blk :=
  let l := getLink b p
  let up : Link := { l with
    state := stUp, trainRow := 0, sawLock := false, advSent := 0, advGot := true, retraining := false, attempts := 0, lreqO := false
    lreqI := false, crcRow := 0, nak := false, nakOwed := false }
  let up : Link :=
    if l.retraining then up
    else { up with txSeq := 0, retry := [], replayRow := 0, credit0 := advertCredit k 0, credit1 := advertCredit k 1
                   credit2 := if p.toNat < 2 then advertCredit k 2 else 0, ccnt0 := 0, ccnt1 := 0, ccnt2 := 0, eseq := 0, freed0 := 0
                   freed1 := 0, freed2 := 0, rep0 := 0, rep1 := 0, rep2 := 0, turn := 0, owed := [], half := none, chainHdr := none, chainRows := [], farPaused := false }
  let b := linkTo b p up
  pumpPort (if l.retraining && !up.retry.isEmpty then replay b p else b) p

/-- A correct ADVERT block in ADVERT, or in that part of RETRAIN (R393, R395). -/
def advertBlock (b : Blk) (p : BitVec 2) (k : Block) : Blk :=
  let l := getLink b p
  if l.advSent = 4 && (l.state = stAdvert || l.state = stRetrain) && advertOk p k then linkUp b p k
  else setLink b p { l with lreqO := false }

/-- Move from REQ to TRAIN once X_LREQ_I is sampled 1 (R393). -/
def reqToTrain (b : Blk) (p : BitVec 2) : Blk :=
  let l := getLink b p
  if l.state = stReq && l.lreqI then linkTo b p { l with state := stTrain } else b

/-- Does the block need a DOWN link (R393)? -/
def linkNeeded (b : Blk) (p : BitVec 2) : Bool :=
  let l := getLink b p
  l.lreqI || (if p.toNat < 2 then !l.sendQ.isEmpty || (p == 0 && b.sys.phase == 6) else !(txBuf b (portSide p)).isEmpty)

/-- LINK_REQUEST (R393). -/
def linkRequest (c : Cfg) (b : Blk) (p : BitVec 2) : Blk :=
  let l := getLink b p
  if l.state ≠ stDown || !portEnabled c p || !portRuns b p || !linkNeeded b p then b
  else reqToTrain (linkTo b p ({ l with state := stReq, lreqO := true }.driveTrain p)) p

/-- BRINGUP_ATTEMPT_EXPIRY (R393): the attempt starts again from REQ; the fourth in a row enters FAILED. -/
def attemptExpires (b : Blk) (p : BitVec 2) : Blk :=
  let l := getLink b p
  if !portRuns b p || !(l.state = stReq || l.state = stTrain || l.state = stAdvert || l.state = stRetrain) then b
  else
    let n := l.attempts + 1
    let l : Link := { l with attempts := n, retrains := if l.retrains = 0xFF then l.retrains else l.retrains + 1, trainRow := 0, sawLock := false
                             advSent := 0, advGot := false }
    if n = 4 then stampAll (linkTo b p { l with state := stFailed, attempts := 0, lreqO := false }) p
    else reqToTrain (linkTo b p { l with state := if l.retraining then stRetrain else stReq, lreqO := true }) p

/-- REPLAY_TIMER_EXPIRY (R392). -/
def replayExpires (b : Blk) (p : BitVec 2) : Blk :=
  let l := getLink b p
  if l.state = stUp && portRuns b p && !l.retry.isEmpty then replay b p else b

/-- A sampling delay moved by at most one step of 1/64 UI; it stays within its 64 steps (R316, R397, log 85). -/
def trimMove (t : BitVec 6) : Option Bool → BitVec 6
  | none => t
  | some true => if t = 63 then t else t + 1
  | some false => if t = 0 then t else t - 1

/-- A lane of a receiver is trimmed (R397), and its margin measured: the smallest since the cold reset, while the port's domain is on (R399). -/
def laneTrim (b : Blk) (p : BitVec 2) (lane : Nat) (move : Option Bool) (m : Byte) : Blk :=
  if !pdOn b (portPd p) then b
  else modLink b p fun l => { l with trims := l.trims.set lane (trimMove (l.trims.get lane) move)
                                     margin := if l.marginSeen && decide (l.margin.toNat ≤ m.toNat) then l.margin else m, marginSeen := true }

/-- A bond margin is measured: KZ_BOND_STAT.MARGIN keeps the smallest since the cold reset (R317). -/
def bondMeasured (b : Blk) (m : Byte) : Blk :=
  { b with sys := { b.sys with
    bondMargin := if b.sys.bondSeen && decide (b.sys.bondMargin.toNat ≤ m.toNat) then b.sys.bondMargin else m, bondSeen := true } }

/-- A bond lane is trimmed and its margin measured, while PD31 is on (R316, R317). -/
def bondLane (b : Blk) (lane : Nat) (move : Option Bool) (m : Byte) : Blk :=
  if !pdOn b 31 then b
  else bondMeasured { b with sys := { b.sys with bondTrims := b.sys.bondTrims.set lane (trimMove (b.sys.bondTrims.get lane) move) } } m

/-- One cycle of a port that sends and has no data block to send (R393): TRAIN, ADVERT or idle blocks by the link's state. -/
def linkCycle (b : Blk) (p : BitVec 2) : Blk :=
  let l := getLink b p
  if !portRuns b p then b
  else if l.state = stUp then setLink b p (l.driveIdle p)
  else if l.state = stReq || l.state = stTrain || (l.state = stRetrain && l.advSent = 0) then setLink b p (l.driveTrain p)
  else if l.state = stAdvert || l.state = stRetrain then setLink b p (l.driveAdvert p)
  else b

/-- LREQ_IN_RISE (R393, R395): each rise raises Maltster source 2 (R429), and wakes the block where the link is DOWN or PAUSED. -/
def lreqRise (b : Blk) (p : BitVec 2) : Blk :=
  if !blockOn b || lcsHeld b then modLink b p fun l => { l with lreqI := true }
  else
    let l := getLink b p
    let b := maltSource (setLink b p { l with lreqI := true }) 2
    if l.state = stDown || l.state = stPaused then wake b
    else if portRuns b p then linkTo (reqToTrain b p) p (advertPhase p (getLink (reqToTrain b p) p)) else b

end Sys2Proof.Machine
end

