-- ==== Sys2Proof/Machine/GovOps.lean ====
section
/-! DEFINITION. PLL checks, oscillator trim, the governor, idleness, Couch and Steep, and domain power-up (16). -/

namespace Sys2Proof.Machine

/-- Does a window of 32 SCLK show an output stable (R403)? The expected count at point k is 50k ÷ 3; the limits at 2 % are rounded
outward to the next integers (log 28). -/
def pllStable (k count : Nat) : Bool := decide ((49 * k + 2) / 3 ≤ count + 1) && decide (count ≤ 17 * k + 1)

/-- Restart checks after which a PLL has failed (R403). -/
def pllTries : BitVec 3 := 4

/-- One check of a PLL that is being restarted: locked, or one more failed restart, the fourth setting FAIL (R403). -/
def Pll.judge (p : Pll) (stable : Bool) : Pll :=
  if stable then { p with lock := true, fail := false, misses := 0, tries := 0 }
  else if p.tries + 1 = pllTries then { p with lock := false, fail := true, tries := 0 } else { p with lock := false, tries := p.tries + 1 }

/-- The periodic check of a PLL (R403): two failures in succession put its domains in bypass and restart it. -/
def Pll.periodic (p : Pll) (stable : Bool) : Pll :=
  if !p.on || p.fail then p
  else if !p.lock then p.judge stable
  else if stable then { p with misses := 0 }
  else if p.misses = 1 then { p with lock := false, misses := 0, tries := 0 } else { p with misses := p.misses + 1 }

/-- The retry of a PLL whose FAIL bit is 1 (R404). -/
def Pll.retry (p : Pll) (stable : Bool) : Pll := if p.on && p.fail && stable then { p with lock := true, fail := false, tries := 0, misses := 0 } else p

/-- Put new PLL states in place; a FAIL bit that changes sets CR_MNOTICE.PLL (R403, R404). -/
def setPlls (b : Blk) (f l : Pll) : Blk :=
  let n := if f.fail ≠ b.pwr.pllF.fail || l.fail ≠ b.pwr.pllL.fail then setBit b.pwr.mnotice 3 true else b.pwr.mnotice
  { b with pwr := { b.pwr with pllF := f, pllL := l, mnotice := n } }

/-- The two PLLs' windows (R403): ACLK at the operating point, LCLK at 1.6 GHz. -/
def bothPlls (b : Blk) (cf cl : BitVec 16) (f : Pll → Bool → Pll) : Blk :=
  maltSource (setPlls b (f b.pwr.pllF (pllStable b.pwr.k.toNat cf.toNat)) (f b.pwr.pllL (pllStable 64 cl.toNat))) 8

/-- PLL_RETRY (R404): every 2^20 SCLK while REFLOST is 0. -/
def pllRetryAt (b : Blk) (cf cl : BitVec 16) : Blk :=
  if b.pwr.reflost || !(b.pwr.state = .run || b.pwr.state = .couch) || !(b.pwr.pllF.fail || b.pwr.pllL.fail) then b
  else bothPlls b cf cl Pll.retry

/-- The successive approximation of the trim code (R457): eight windows of 1,024 SCLK, the most significant bit first; a bit stands
when its window counts at least the expected REFCLK edges (log 30). None: a window sees no edge. -/
def sarTrim (refmhz : Nat) (w : BitVec 128) : Option Byte :=
  (List.range 8).foldl (fun (r : Option Byte) i =>
    match r with
    | none => none
    | some v =>
      let n := bits w (16 * i + 15) (16 * i)
      if n = 0 then none else some (if refmhz * 1024 ≤ n * 48 then setBit v (7 - i) true else v)) (some 0)

/-- OSCILLATOR_TRIM (R402): the periodic window counts REFCLK edges over 2^14 SCLK; the code moves by at most one step. The window
after a lost REFCLK starts the successive approximation, and REFLOST is set again where one of its windows sees no edge. -/
def trimPeriod (c : Cfg) (b : Blk) (count : BitVec 16) (w : BitVec 128) : Blk :=
  let b := maltSource b 7
  let e := c.refMhz.toNat * 16384
  let n := count.toNat * 48
  if count = 0 then { b with pwr := { b.pwr with reflost := true } }
  else if b.pwr.reflost then
    match sarTrim c.refMhz.toNat w with
    | some t => { b with pwr := { b.pwr with reflost := false, trim := t } }
    | none => b
  else
    let t := b.pwr.trim
    { b with pwr := { b.pwr with trim := if e < n then (if t = 0xFF then t else t + 1) else if n < e then (if t = 0 then t else t - 1) else t } }

/-- VBASE(k) in mV (R419). -/
def vbase (k : Nat) : Nat := 550 + 5 * (((k - 16) * 5 + 5) / 6)

/-- MOFF in mV (R423). -/
def moffMv (b : Blk) : Int := 5 * b.pwr.moff.toInt

/-- The delivered voltage (R419). -/
def delivered (b : Blk) : Nat :=
  Nat.min (Int.toNat (max ((vbase b.pwr.k.toNat : Int) + moffMv b) 550)) b.pwr.vsup.toNat

/-- Step the point down: k to KMIN, then T to 7 (R421). -/
def stepDown (kmin : Nat) : Nat → Nat × Nat → Nat × Nat
  | 0, x => x
  | n + 1, (k, t) => stepDown kmin n (if kmin < k then (k - 1, t) else (k, Nat.min 7 (t + 1)))

/-- The governor's law (R421): new k, T, low, and the notice bits of a negative step. -/
def governorLaw (c : Cfg) (b : Blk) (p : Nat) (temp : Byte) (vsup : BitVec 12) : Nat × Nat × Nat × Nat :=
  let cap := c.cap.toNat
  let k := b.pwr.k.toNat
  let t := b.pwr.t.toNat
  let kmax := c.kmax.toNat
  let hot := decide ((c.tlim.toNat : Int) < temp.toInt)
  let need := decide ((vsup.toNat : Int) < (vbase k : Int) + moffMv b)
  let down (n notes : Nat) : Nat × Nat × Nat × Nat :=
    let r := stepDown c.kmin.toNat n (k, t)
    (Nat.min r.1 kmax, r.2, 0, notes)
  if 11 * cap < 10 * p then down 4 1
  else if cap < p || hot || need then down 1 ((if cap < p then 1 else 0) + (if hot then 2 else 0) + (if need then 4 else 0))
  else if 20 * p < 19 * cap then
    let low := b.pwr.low.toNat + 1
    if 8 ≤ low then
      if t ≠ 0 then (Nat.min k kmax, t - 1, 0, 0) else (Nat.min (k + 1) kmax, t, 0, 0)
    else (Nat.min k kmax, t, low, 0)
  else (Nat.min k kmax, t, 0, 0)

/-- MOFF after a period with smallest slack `m` (R423): −50 to +100 mV in steps of 5 mV. -/
def moffNext (c : Cfg) (b : Blk) (m : Nat) : Byte × BitVec 5 :=
  let run : BitVec 5 := if c.mtgt.toNat + 4 ≤ m then (if 16 ≤ b.pwr.marginRun.toNat then 16 else b.pwr.marginRun + 1) else 0
  let v := b.pwr.moff.toInt
  let v := if m < c.mtgt.toNat then min (v + 1) 20 else if run = 16 then max (v - 1) (-10) else v
  (BitVec.ofInt 8 v, run)

/-- GOVERNOR_PERIOD (R403, R419–R425): the period's estimate in mW, temperature, supplied voltage, smallest slack and PLL windows. In
Steep, and while the Maltster does not run, only what the sensors report changes. -/
def governorStep (c : Cfg) (b : Blk) (mw : BitVec 12) (temp : Byte) (vsup : BitVec 12) (slack : Byte) (cf cl : BitVec 16) : Blk :=
  let b0 := b
  let b := { b with pwr := { b.pwr with
    mw := mw, temp := temp, vsup := vsup, energy := b.pwr.energy + BitVec.ofNat 64 (10 * mw.toNat) } }
  if !(b.pwr.state = .run || b.pwr.state = .couch) || !b.malt.started then maltSource b 6
  else
    let r := governorLaw c b mw.toNat temp vsup
    let m := moffNext c b slack.toNat
    let b := bothPlls b cf cl Pll.periodic
    let b := { b with pwr := { b.pwr with
      k := BitVec.ofNat 7 r.1, t := BitVec.ofNat 3 r.2.1, low := BitVec.ofNat 4 r.2.2.1, moff := m.1, marginRun := m.2
      mnotice := b.pwr.mnotice ||| BitVec.ofNat 6 r.2.2.2, margin := slack
      minEver := if slack.toNat < b.pwr.minEver.toNat then slack else b.pwr.minEver } }
    let v : BitVec 12 := BitVec.ofNat 12 (delivered b)
    powerChanged b0 (maltSource { b with pwr := { b.pwr with mv := v }, malt := { b.malt with mv := v } } 6)

/-- DROOP (R424). -/
def droopEvent (b : Blk) : Blk :=
  if !(b.pwr.state = .run || b.pwr.state = .couch) then b
  else { b with pwr := { b.pwr with droops := if b.pwr.droops = 0xFFF then b.pwr.droops else b.pwr.droops + 1 } }

/-! Idleness (R411). -/

/-- The main core waits in CR_SLEEP or an armed blocking SWAIT, or is locked up. -/
def coreIdle (b : Blk) : Bool :=
  b.core.run == .sleeping || b.core.run == .lockedUp ||
    (b.core.run == .running &&
      (if b.core.svc then
        !(List.range b.core.banks).any fun t => b.core.taskStat.get t == taskReady || b.core.taskStat.get t == taskRun
       else ownArmed b))

/-- A ring has a descriptor pending or in progress (R321). -/
def Ring.holds (r : Ring) : Bool := r.head != r.index || r.st != .idle

/-- No descriptor is pending, in progress or parked on a running D or S ring. -/
def ringsIdle (b : Blk) : Bool :=
  (List.range 20).all fun i =>
    let r := getRing b (8 + i)
    !r.run || !r.holds

/-- A D or S ring, running or stopped, holds a descriptor that is not complete (R165, R348). -/
def ringHolds (b : Blk) (lo n : Nat) : Bool := (List.range n).any fun i => (getRing b (lo + i)).holds

/-- The ring front end has no command, completion, event, message or notification to make. -/
def frontIdle (b : Blk) : Bool :=
  b.rings.rings.all (fun x => !x.2.busy && !x.2.halting && x.2.msgOwed == 0 && x.2.st != .completing && x.2.st != .fetching &&
    !(x.2.st == .done && completionRoom b x.2)) &&
  b.chain.cmd.isNone && (List.range 4).all (fun e => (getEq b e).isEmpty || !eventSlot b e) &&
  b.sync.queue.isEmpty &&
  b.sync.waits.all (fun w => w.state == .armed || (match w.kind with | .eventWait e => !eventSlot b e.toNat | _ => false))

/-- No request is outstanding and no inbound request is in progress. -/
def portsIdle (b : Blk) : Bool :=
  b.ports.outMp.isEmpty && b.ports.outFp.isEmpty && b.sys.heldIn.isEmpty && b.ports.mp.owed.isEmpty && b.ports.fp.owed.isEmpty

/-- The block is idle (R411). -/
def blockIdle (b : Blk) : Bool :=
  coreIdle b && !anyPendingEnabled b && ringsIdle b && portsIdle b && frontIdle b && b.sys.kiln.isNone

/-- ENTER_COUCH (R395, R411): not while a link is in NAK state. -/
def enterCouchAt (b : Blk) : Blk :=
  if b.pwr.state ≠ .run || b.sys.phase ≠ 9 || !blockIdle b || ports4.any (fun p => (getLink b p).state == stUp && (getLink b p).nak) then b
  else
    let b0 := b
    let b := pauseLinks b
    let b := { b with pwr := { b.pwr with state := .couch, idleSince := b.pwr.sclk, hold := 0 } }
    powerChanged b0 (maltSource (setPds b b.pwr.pd) 4)

/-- WAKE_FROM_COUCH (R411, R413, R417): a wake cause, or the block is not idle. -/
def wakeCouchAt (b : Blk) : Blk :=
  if b.pwr.state ≠ .couch || !(b.pwr.wakeHeld || !blockIdle b) then b
  else
    let b0 := b
    let b := { b with pwr := { b.pwr with state := .run, wakeHeld := false, hold := 0 } }
    powerChanged b0 (maltSource (resumeLinks (setPds b b.pwr.pd)) 4)

/-- The conditions of R414 that fail, by their HOLD bits. -/
def holdBits (b : Blk) : BitVec 7 :=
  let fwd := b.chain.cgt.any fun x => x.2.valid && x.2.fwd
  let rows := !b.chain.txW.isEmpty || !b.chain.txE.isEmpty || !b.chain.rxW.isEmpty || !b.chain.rxE.isEmpty || rxRows b 1 + rxRows b 2 != 0
  let bad : List Bool :=
    [!(b.core.run == .sleeping && b.pwr.deep), b.tile.inuse != 0, (List.range 16).any (fun g => gOpen (b.tun.grp g)), fwd || rows,
     b.core.run == .lockedUp, b.err.fatal,
     ports4.any fun p => !(getLink b p).retry.isEmpty || !(getLink b p).sendQ.isEmpty]
  BitVec.ofNat 7 (bad.foldr (fun x n => x.toNat + 2 * n) 0)

/-- STEEP_DESCENT (R414): the idle timer expires in Couch. A held wake cause cancels it; a condition that fails sets HOLD. -/
def descend (c : Cfg) (b : Blk) : Blk :=
  if b.pwr.state ≠ .couch || c.idle = 0xFFFFFFFF || b.pwr.wakeHeld || !blockIdle b then b
  else
    let b := maltSource (elapse (b.pwr.idleSince + c.idle.toNat) b) 5
    let h := holdBits b
    if h ≠ 0 then { b with pwr := { b.pwr with hold := h } }
    else
      let b0 := b
      let b := linksLost b
      let b := b.caches.l1d.foldl (fun b l => if l.valid && l.dirty then mergeL1d b l.tag l.world else b) b
      if b.err.fatal then b
      else
        let off (p : Pll) : Pll := { p with on := false, lock := false, misses := 0, tries := 0 }
        let b := { b with
          core := { b.core with run := .steep }
          pwr := { b.pwr with state := .steep, hold := 0, deep := false, pllF := off b.pwr.pllF, pllL := off b.pwr.pllL } }
        powerChanged b0 (maltSource (offEpochs (setPds b 3)) 4)

/-- The domains that a wake from Steep powers (R415). -/
def wakePds (c : Cfg) : W32 :=
  BitVec.ofNat 32 (maskBits 4 2 + 2 ^ 16 + 2 ^ 18 + maskBits 24 21 + 2 ^ 31 + c.qen.toNat * 2 ^ 25)

/-- WAKE_FROM_STEEP (R404, R415, R416): the wake waits for AON_PG_L, starts the PLLs and checks them; a PLL that is not stable
restarts. With both judged, or failed and in bypass, the block is in Run and the main core starts at CR_WAKEPC. -/
def wakeSteepAt (c : Cfg) (b : Blk) (cf cl : BitVec 16) : Blk :=
  if !(b.pwr.state = .waking || (b.pwr.state = .steep && (b.pwr.wakeHeld || anyPendingEnabled b))) then b
  else
    let b0 := b
    let b := { b with pwr := { b.pwr with state := .waking } }
    if !b.pwr.pgL then powerChanged b0 b
    else
      let start (p : Pll) : Pll := { p with on := true }
      let b := { b with pwr := { b.pwr with pllF := start b.pwr.pllF, pllL := start b.pwr.pllL } }
      let b := bothPlls b cf cl fun p ok => if p.fail then p.retry ok else if p.lock then p else p.judge ok
      let done (p : Pll) : Bool := p.lock || p.fail
      if !(done b.pwr.pllF && done b.pwr.pllL) then powerChanged b0 b
      else
        let b := { b with pwr := { b.pwr with state := .run, wakeHeld := false } }
        powerChanged b0 (maltSource (releaseAt (setPds (steepLoss b) (wakePds c)) b.pwr.wakepc) 4)

/-- TIMER_COMPARE (R417, R426): CR_TIME reaches an enabled compare value; outside Run it wakes the block. -/
def timerAt (b : Blk) : Blk :=
  if !bit b.pwr.tcmp 63 then b
  else
    let b := elapse (b.pwr.tcmp.toNat % 2 ^ 63) b
    if b.pwr.state = .run then b else wake (maltSource b 14)

/-! Domains on demand (R407, R410). -/

/-- Is a domain on in Run by R407 (R54, R59, R84, R165, R196)? -/
def pdRule (c : Cfg) (b : Blk) (d : Nat) : Bool :=
  if d ≤ 5 || d = 15 || d = 16 || d = 18 || d = 19 || (21 ≤ d && d ≤ 24) || d = 31 then true
  else if d ≤ 13 then decide (d - 6 < c.rgroups.toNat)
  else if d = 14 then b.tile.inuse != 0
  else if d = 17 then ringHolds b 24 4
  else if d = 20 then c.obsClk
  else if d ≤ 28 then bit c.qen (d - 25)
  else (List.range 16).any fun g => gOpen (b.tun.grp g) && (halves (gBase (b.tun.grp g)) (gRows (b.tun.grp g))).contains d

/-- May a domain be powered at all: PD20 while KZ_CLK_EN.OBS is 1, an LTS quarter while available, a row group below g? -/
def pdAllowed (c : Cfg) (d : Nat) : Bool :=
  if d = 20 then c.obsClk else if 25 ≤ d && d ≤ 28 then bit c.qen (d - 25) else if 6 ≤ d && d ≤ 13 then decide (d - 6 < c.rgroups.toNat)
  else decide (d < 32)

/-- The domain that the waiting instruction needs (R410). -/
def pdAsked (b : Blk) (d : Nat) : Bool := match b.core.blocked with | some (.power m) => bit m d | _ => false

/-- DOMAIN_POWER_UP (R407, R410): a domain that is asked for, requested or due ramps up and its clocks run. It stands for the
Maltster's handler: CR_MPDREQ and CR_MCDEN follow (log 31). -/
def pdUp (c : Cfg) (b : Blk) (pd : BitVec 5) : Blk :=
  let d := pd.toNat
  if b.pwr.state ≠ .run || b.sys.phase ≠ 9 || pdRuns b d || !pdAllowed c d || !(pdAsked b d || bit b.malt.pdreq d || pdRule c b d) then b
  else
    let m : BitVec 40 := BitVec.ofNat 40 (maskBits (cdsOf d).2 (cdsOf d).1)
    let b := { b with malt := { b.malt with pdreq := setBit b.malt.pdreq d true, cden := b.malt.cden ||| m, cdOff := b.malt.cdOff &&& ~~~m } }
    maltSource (powerOn b d) 3

/-- Does a unit in a domain hold work, so that the Maltster does not switch it off (R59, R84, R137, R196, R348, R407, R430)? -/
def pdBusy (c : Cfg) (b : Blk) (d : Nat) : Bool :=
  if d < 2 || d = 5 || d = 19 || (21 ≤ d && d ≤ 24) || d = 31 then true
  else if d ≤ 4 then b.core.run == .running || b.core.run == .sleeping
  else if d = 14 || d = 29 || d = 30 then pdRule c b d
  else if d = 16 then ringHolds b 8 16 || !b.dma.chs.isEmpty || !ringsIdle b || !frontIdle b || b.rings.running.isSome || b.rings.offer.isSome
  else if d = 17 then !b.sparge.streams.isEmpty || ringHolds b 24 4
  else if d = 18 then !portsIdle b || (getLink b 0).state != stDown || (getLink b 1).state != stDown
  else if 25 ≤ d && d ≤ 28 then bit c.qen (d - 25)
  else false

/-- A domain that CR_MPDREQ switches off. With PD4 the L1 caches go: their dirty lines are written into the L2 first (R298). -/
def switchOff (b : Blk) (d : Nat) : Blk :=
  if d ≠ 4 then powerOff b d
  else
    let b := b.caches.l1d.foldl (fun b l => if l.valid && l.dirty then mergeL1d b l.tag l.world else b) b
    powerOff { b with caches := { b.caches with l1i := [], l1d := [] } } d

/-- CR_MPDREQ (R430): domains whose bit goes to 0 are switched off unless they hold work; those whose bit is 1 ramp up by
DOMAIN_POWER_UP. -/
def pdRequest (c : Cfg) (b : Blk) (v : W32) : Blk :=
  let b := { b with malt := { b.malt with pdreq := v ||| 3 } }
  offEpochs ((List.range 32).foldl (fun b d => if !bit (v ||| 3) d && pdOn b d && !pdBusy c b d then switchOff b d else b) b)

end Sys2Proof.Machine
end

