-- ==== Sys2Proof/Machine/MaltOps.lean ====
section
/-! DEFINITION. One instruction of the Maltster: its tasks, its decoder, its address space and its control registers (16, 20). -/

namespace Sys2Proof.Machine

/-- The state of task i: 0 HALT, 1 READY, 2 RUN, 3 WAIT (R235). -/
def taskOf (m : Malt) (i : Nat) : Nat := bits m.stat (2 * i + 1) (2 * i)
def setTask (m : Malt) (i v : Nat) : Malt := { m with stat := setBits m.stat (2 * i + 1) (2 * i) v }

/-- Register n of task i (R429). -/
def maltReg (m : Malt) (i n : Nat) : Word := m.regs.get (32 * i + n)
def setMaltReg (m : Malt) (i n : Nat) (v : Word) : Malt := { m with regs := m.regs.set (32 * i + n) v }

/-- The task that runs: the lowest-numbered that is READY or RUN (R429). -/
def maltPick (m : Malt) : Option Nat := (List.range 16).find? fun i => taskOf m i == 1 || taskOf m i == 2

/-- Give the Maltster to task i: a task that it outranks goes back to READY (R235, R429). -/
def maltRun (m : Malt) (i : Nat) : Malt :=
  setTask ((List.range 16).foldl (fun m j => if taskOf m j = 2 then setTask m j 1 else m) m) i 2

/-- A fault of the running task: it halts, and the first one since FAULT was cleared is recorded (R431). -/
def maltFault (b : Blk) (i : Nat) (cause : Nat) (pc : Word) : Blk :=
  let m := setTask b.malt i 0
  let m := if m.fault then m else
    { m with fault := true, ftask := BitVec.ofNat 4 i, fcause := BitVec.ofNat 3 cause, fpc := pc.truncate 16 }
  { b with malt := m, pwr := { b.pwr with mnotice := setBit b.pwr.mnotice 5 true } }

/-- An instruction's end: the next block, or a fault's cause (R431). -/
abbrev MaltR := Except Nat CB

/-- The instruction writes rd and goes on at `pc`. -/
def maltPut (c : Cfg) (b : Blk) (i rd : Nat) (v pc : Word) : CB :=
  let m := setMaltReg b.malt i rd v
  (c, { b with malt := { m with pcs := m.pcs.set i pc } })

/-- The instruction only goes on at `pc`. -/
def maltGo (b : Blk) (i : Nat) (pc : Word) : Blk := { b with malt := { b.malt with pcs := b.malt.pcs.set i pc } }

/-- OP and OPW without the divisions; the one-operand functions need an rs2 of 0 (R230, R428). -/
def maltAlu (funct rs2 : Nat) (a b : BitVec w) : Option (BitVec w) :=
  if (0x14 ≤ funct ∧ funct ≤ 0x17) ∨ (unaryFunct funct ∧ rs2 ≠ 0) then none else aluOp funct a b

/-- The immediate majors 0x04 to 0x0A and 0x0D (R229). -/
def maltImm (major : Nat) (a : Word) (imm : BitVec 16) : Option Word :=
  match major with
  | 0x04 => some (a + sext16 imm)
  | 0x05 => some (a &&& zext16 imm)
  | 0x06 => some (a ||| zext16 imm)
  | 0x07 => some (a ^^^ zext16 imm)
  | 0x08 => some (boolBv 64 (decide (a.toInt < (sext16 imm).toInt)))
  | 0x09 => some (boolBv 64 (decide (a.toNat < (sext16 imm).toNat)))
  | 0x0A =>
    if bits imm 15 8 ≠ 0 then none
    else match bits imm 7 6 with
      | 0 => some (a <<< bits imm 5 0)
      | 1 => some (a >>> bits imm 5 0)
      | 2 => some (a.sshiftRight (bits imm 5 0))
      | _ => none
  | 0x0D => some (((a.truncate 32 : W32) + (sext16 imm).truncate 32).signExtend 64)
  | _ => none

/-- The comparisons of majors 0x20 to 0x25 (R229). -/
def maltCmp (major : Nat) (a b : Word) : Bool :=
  match major with
  | 0x20 => a == b
  | 0x21 => a != b
  | 0x22 => decide (a.toInt < b.toInt)
  | 0x23 => decide (b.toInt ≤ a.toInt)
  | 0x24 => decide (a.toNat < b.toNat)
  | _ => decide (b.toNat ≤ a.toNat)

/-- An HCP word as the Maltster reads it: PD0 registers only, with the latch of a LO word (R430, R482). -/
def maltHcpRead (c : Cfg) (b : Blk) (off : Nat) : W32 × Blk :=
  if 0xC00 ≤ off ∧ off < 0x1000 then (0, b) else (hcpRead c b (BitVec.ofNat 16 off), hcpLatch b (BitVec.ofNat 16 off))

/-- An HCP word as the Maltster writes it (R430); the Maltster is of neither world, so the lock of R434 holds (log 33). -/
def maltHcpWrite (c : Cfg) (b : Blk) (off : Nat) (v : W32) : CB :=
  if 0xC00 ≤ off ∧ off < 0x1000 then (c, b) else hcpWrite c b (BitVec.ofNat 16 off) v false

/-- The fault of an access: misaligned 2, unmapped 3 (R431). -/
def maltBad (a : Word) (n : Nat) : Option Nat :=
  if a.toNat % n ≠ 0 then some 2 else if 0x20000 ≤ a.toNat then some 3 else none

/-- The beat of an access to the Maltster RAM (R315). -/
def maltCross (b : Blk) (a : Word) : Bool × Blk := if a.toNat < 0x10000 then tryCross false 1 b else (true, b)

/-- A load of n bytes (R430). -/
def maltLoad (c : Cfg) (b : Blk) (a : Word) (n : Nat) : Nat × Blk :=
  if a.toNat < 0x10000 then (natOfLE (b.malt.ram.range a.toNat n), b)
  else
    let off := a.toNat - 0x10000
    let r := maltHcpRead c b (off / 4 * 4)
    if n ≤ 4 then ((r.1.toNat >>> (8 * (off % 4))) % 2 ^ (8 * n), r.2)
    else
      let r2 := maltHcpRead c r.2 (off + 4)
      (r.1.toNat + 2 ^ 32 * r2.1.toNat, r2.2)

/-- A store of n bytes (R430). The bytes of an HCP word that a narrower store does not name are free values (log 34). -/
def maltStore (c : Cfg) (b : Blk) (a : Word) (n : Nat) (v : Word) : CB :=
  if a.toNat < 0x10000 then (c, { b with malt := { b.malt with ram := b.malt.ram.setAll a.toNat (leOfNat n v.toNat) } })
  else
    let off := a.toNat - 0x10000
    if n < 4 then
      let k := 8 * (off % 4)
      let w := setBits (Config.maltLanes b.freeCount) (k + 8 * n - 1) k v.toNat
      maltHcpWrite c { b with freeCount := b.freeCount + 1 } (off / 4 * 4) w
    else
      let r := maltHcpWrite c b off (v.truncate 32)
      if n = 8 then maltHcpWrite r.1 r.2 (off + 4) (hiW v) else r

/-- The Maltster's control registers (R484); none for a number it does not decode. -/
def maltCrGet (b : Blk) (n : Nat) : Option Word :=
  if n = 0x04A then some (b.malt.stat.zeroExtend 64)
  else if n = 0x04C then some b.malt.taskPc
  else if n = 0x092 then some (BitVec.ofNat 64 b.pwr.sclk)
  else if n = 0x800 then some (b.malt.pdreq.zeroExtend 64)
  else if n = 0x801 then some (b.malt.cden.zeroExtend 64)
  else if n = 0x802 then some (b.malt.msrc.zeroExtend 64)
  else if n = 0x803 then some (BitVec.ofNat 64 (b.pwr.k.toNat + 256 * b.pwr.t.toNat + 4096 * b.malt.mv.toNat))
  else none

/-- CR_MCDEN (R430): a domain's clock runs while its bit and its power domain are 1. -/
def cdEnable (b : Blk) (v : BitVec 40) : Blk :=
  let en : BitVec 40 := setBit (v ||| 7) 39 (bit b.malt.cden 39)
  let b := { b with malt := { b.malt with cden := en, cdOff := setBit (~~~en) 39 false } }
  { b with pwr := { b.pwr with cd := if b.pwr.state = .run then cdsRun b b.pwr.pd else b.pwr.cd } }

/-- A write of a control register (R430, R431, R484): none for an illegal value or number. -/
def maltCrPut (c : Cfg) (b : Blk) (n : Nat) (v : Word) : Option Blk :=
  if n = 0x04A || n = 0x092 then some b
  else if n = 0x04C then
    if v.toNat % 4 ≠ 0 || decide (0x10000 ≤ v.toNat) then none else some { b with malt := { b.malt with taskPc := v } }
  else if n = 0x800 then some (pdRequest c b (loW v))
  else if n = 0x801 then some (cdEnable b (v.truncate 40))
  else if n = 0x802 then some { b with malt := { b.malt with msrc := b.malt.msrc &&& ~~~(v.truncate 16) } }
  else if n = 0x803 then
    let k := bits v 6 0
    let mv := bits v 23 12
    if k < 16 ∨ 64 < k ∨ mv < 550 ∨ b.pwr.vsup.toNat < mv then none
    else
      some (powerChanged b
        { b with malt := { b.malt with mv := BitVec.ofNat 12 mv }
                 pwr := { b.pwr with k := BitVec.ofNat 7 k, t := BitVec.ofNat 3 (bits v 10 8), mv := BitVec.ofNat 12 mv } })
  else none

/-- CRR, CRW, CRS and CRC of the Maltster (R232, R484). -/
def maltCr (c : Cfg) (b : Blk) (i sysop n rd rs1 : Nat) (next : Word) : MaltR :=
  let x := maltReg b.malt i rs1
  let put (b : Blk) (v : Word) : MaltR :=
    match maltCrPut c b n v with
    | some b => .ok (c, b)
    | none => .error 4
  match maltCrGet b n with
  | none => .error 4
  | some old =>
    if sysop = 0 then (if rs1 ≠ 0 then .error 1 else .ok (maltPut c b i rd old next))
    else if sysop = 1 then (if rd ≠ 0 then .error 1 else put (maltGo b i next) x)
    else
      let v := if sysop = 2 then old ||| x else old &&& ~~~x
      put (maltPut c b i rd old next).2 (if n = 0x802 then 0 else v)

/-- TSLEEP, TSTOP, TSTART and TWAKE of the Maltster (R235, R429); what R235 fails with a code is cause 1 here (log 35). -/
def maltTask (c : Cfg) (b : Blk) (i arg rd rs1 : Nat) (next : Word) : MaltR :=
  let b := maltGo b i next
  let m := b.malt
  let t := (maltReg m i rs1).toNat
  let done (m : Malt) : MaltR := .ok (c, { b with malt := m })
  if rd ≠ 0 ∨ (arg ≤ 9 ∧ rs1 ≠ 0) then .error 1
  else if arg = 8 then
    if bit m.msrc i then done { m with msrc := setBit m.msrc i false } else done (setTask m i 3)
  else if arg = 9 then
    if (List.range 16).any fun j => j != i && taskOf m j != 0 then done (setTask m i 0) else .error 1
  else if arg = 10 then
    if t < 16 ∧ taskOf m t = 0 then done { setTask m t 1 with pcs := m.pcs.set t m.taskPc } else .error 1
  else if t < 16 ∧ taskOf m t = 3 then done (setTask m t 1)
  else .error 1

/-- One instruction word of task i at `pc` (R228–R232, R428). An access whose beat fails has no effect, and the word is executed again (log 78). -/
def maltWord (c : Cfg) (b : Blk) (i : Nat) (pc : Word) (w : W32) : MaltR :=
  let major := bits w 31 26
  let rd := bits w 25 21
  let rs1 := bits w 20 16
  let rs2 := bits w 15 11
  let x := maltReg b.malt i rs1
  let y := maltReg b.malt i rs2
  let imm : BitVec 16 := BitVec.ofNat 16 (bits w 15 0)
  let simm : BitVec 16 := BitVec.ofNat 16 (2048 * rd + bits w 10 0)
  let next := pc + 4
  let rdPut (v : Option Word) : MaltR :=
    match v with
    | some v => .ok (maltPut c b i rd v next)
    | none => .error 1
  if major = 0x01 then rdPut (maltAlu (bits w 10 0) rs2 x y)
  else if major = 0x02 then rdPut ((maltAlu (bits w 10 0) rs2 (x.truncate 32 : W32) (y.truncate 32)).map fun v => v.signExtend 64)
  else if (4 ≤ major ∧ major ≤ 0x0A) ∨ major = 0x0D then rdPut (maltImm major x imm)
  else if major = 0x0B then rdPut (some (upper21 (BitVec.ofNat 21 (bits w 20 0))))
  else if major = 0x0C then rdPut (some (pc + upper21 (BitVec.ofNat 21 (bits w 20 0))))
  else if 0x10 ≤ major ∧ major ≤ 0x16 then
    let n := 2 ^ ((major - 0x10) % 4)
    let a := x + sext16 imm
    match maltBad a n with
    | some e => .error e
    | none =>
      let k := maltCross b a
      if !k.1 then .ok (c, k.2) else
      let r := maltLoad c k.2 a n
      .ok (maltPut c r.2 i rd (if major < 0x14 then sextNat (8 * n) r.1 else BitVec.ofNat 64 r.1) next)
  else if 0x18 ≤ major ∧ major ≤ 0x1B then
    let n := 2 ^ (major - 0x18)
    let a := x + sext16 simm
    match maltBad a n with
    | some e => .error e
    | none =>
      let k := maltCross b a
      .ok (if k.1 then maltStore c (maltGo k.2 i next) a n y else (c, k.2))
  else if 0x20 ≤ major ∧ major ≤ 0x25 then
    .ok (c, maltGo b i (if maltCmp major x y then pc + branchOff simm else next))
  else if major = 0x26 then .ok (c, maltGo b i (pc + jumpOff (BitVec.ofNat 26 (bits w 25 0))))
  else if major = 0x27 then .ok (maltPut c b i rd next (x + sext16 imm))
  else if major = 0x38 then
    let sysop := bits w 15 12
    let arg := bits w 11 0
    if sysop ≤ 3 then maltCr c b i sysop arg rd rs1 next
    else if sysop = 5 ∧ 8 ≤ arg ∧ arg ≤ 11 then maltTask c b i arg rd rs1 next
    else .error 1
  else .error 1

/-- The Maltster executes one instruction of its running task (R428–R431). -/
def maltStep (c : Cfg) (b : Blk) : CB :=
  match maltPick b.malt with
  | none => (c, b)
  | some i =>
    let b := { b with malt := maltRun b.malt i }
    let pc := b.malt.pcs.get i
    let r : MaltR :=
      if pc.toNat % 4 ≠ 0 then .error 2
      else if 0x10000 ≤ pc.toNat then .error 3
      else
        let k := tryCross false 1 b
        if k.1 then maltWord c k.2 i pc (BitVec.ofNat 32 (natOfLE (k.2.malt.ram.range pc.toNat 4))) else .ok (c, k.2)
    match r with
    | .ok cb => cb
    | .error e => (c, maltFault b i e pc)

end Sys2Proof.Machine
end

