-- ==== Sys2Proof/Machine/ExecMalt.lean ====
section
/-! DEFINITION. Meaning of the Maltster's instruction step (16). -/

namespace Sys2Proof.Machine

/-- MALTSTER_INSTRUCTION (R428): nothing before the Maltster has started, or while the block is held. -/
def execMaltsterInstruction (s : State) : Host.Outcome State Fault Refusal :=
  cbNext s fun c b => if blockOn b && b.malt.started then maltStep c b else (c, b)

end Sys2Proof.Machine
end

