-- ==== Sys2Proof/Machine/ExecMem.lean ====
section
/-! DEFINITION. Meanings of loads, stores, branches, jumps and calls (09). -/

namespace Sys2Proof.Machine

/-- An integer load of `n` bytes at rs1 + IMM, sign- or zero-extended (R228, R229). -/
def loadBody (c : Cfg) (n : Nat) (signed : Bool) (rd rs1 : BitVec 5) (imm : BitVec 16) : M Unit := do
  let v ← load c ((← readReg rs1) + sext16 imm) n
  writeReg rd (if signed then sextNat (8 * n) v else BitVec.ofNat 64 v)

/-- An integer store of `n` bytes at rs1 + IMM (R228, R229). -/
def storeBody (c : Cfg) (n : Nat) (rs2 rs1 : BitVec 5) (imm : BitVec 16) : M Unit := do
  let a := (← readReg rs1) + sext16 imm
  store c a n (← readReg rs2).toNat

/-- A branch: to its own address + IMM × 4 when taken (R228). -/
def branchBody (p : Word → Word → Bool) (rs1 rs2 : BitVec 5) (imm : BitVec 16) : M Word := do
  let a ← readReg rs1
  let b ← readReg rs2
  let pc := (← getCore).pc
  modify countBranch
  return if p a b then pc + branchOff imm else pc + 4

/-- LB (R229). -/
def execLb (rd rs1 : BitVec 5) (imm : BitVec 16) (s : State) : Host.Outcome State Fault Refusal :=
  coreSeq s (.lb rd rs1 imm) (loadBody s.cfg 1 true rd rs1 imm)

/-- LH (R229). -/
def execLh (rd rs1 : BitVec 5) (imm : BitVec 16) (s : State) : Host.Outcome State Fault Refusal :=
  coreSeq s (.lh rd rs1 imm) (loadBody s.cfg 2 true rd rs1 imm)

/-- LW (R229). -/
def execLw (rd rs1 : BitVec 5) (imm : BitVec 16) (s : State) : Host.Outcome State Fault Refusal :=
  coreSeq s (.lw rd rs1 imm) (loadBody s.cfg 4 true rd rs1 imm)

/-- LD (R229). -/
def execLd (rd rs1 : BitVec 5) (imm : BitVec 16) (s : State) : Host.Outcome State Fault Refusal :=
  coreSeq s (.ld rd rs1 imm) (loadBody s.cfg 8 true rd rs1 imm)

/-- LBU (R229). -/
def execLbu (rd rs1 : BitVec 5) (imm : BitVec 16) (s : State) : Host.Outcome State Fault Refusal :=
  coreSeq s (.lbu rd rs1 imm) (loadBody s.cfg 1 false rd rs1 imm)

/-- LHU (R229). -/
def execLhu (rd rs1 : BitVec 5) (imm : BitVec 16) (s : State) : Host.Outcome State Fault Refusal :=
  coreSeq s (.lhu rd rs1 imm) (loadBody s.cfg 2 false rd rs1 imm)

/-- LWU (R229). -/
def execLwu (rd rs1 : BitVec 5) (imm : BitVec 16) (s : State) : Host.Outcome State Fault Refusal :=
  coreSeq s (.lwu rd rs1 imm) (loadBody s.cfg 4 false rd rs1 imm)

/-- SB (R229). -/
def execSb (rs2 rs1 : BitVec 5) (imm : BitVec 16) (s : State) : Host.Outcome State Fault Refusal :=
  coreSeq s (.sb rs2 rs1 imm) (storeBody s.cfg 1 rs2 rs1 imm)

/-- SH (R229). -/
def execSh (rs2 rs1 : BitVec 5) (imm : BitVec 16) (s : State) : Host.Outcome State Fault Refusal :=
  coreSeq s (.sh rs2 rs1 imm) (storeBody s.cfg 2 rs2 rs1 imm)

/-- SW (R229). -/
def execSw (rs2 rs1 : BitVec 5) (imm : BitVec 16) (s : State) : Host.Outcome State Fault Refusal :=
  coreSeq s (.sw rs2 rs1 imm) (storeBody s.cfg 4 rs2 rs1 imm)

/-- SD (R229). -/
def execSd (rs2 rs1 : BitVec 5) (imm : BitVec 16) (s : State) : Host.Outcome State Fault Refusal :=
  coreSeq s (.sd rs2 rs1 imm) (storeBody s.cfg 8 rs2 rs1 imm)

/-- FLW (R226, R229). -/
def execFlw (fd rs1 : BitVec 5) (imm : BitVec 16) (s : State) : Host.Outcome State Fault Refusal :=
  coreSeq s (.flw fd rs1 imm) (do writeFp fd (← load s.cfg ((← readReg rs1) + sext16 imm) 4))

/-- FLD (R226, R229). -/
def execFld (fd rs1 : BitVec 5) (imm : BitVec 16) (s : State) : Host.Outcome State Fault Refusal :=
  coreSeq s (.fld fd rs1 imm) (do writeFp fd (← load s.cfg ((← readReg rs1) + sext16 imm) 8))

/-- FSW (R226, R229). -/
def execFsw (fs2 rs1 : BitVec 5) (imm : BitVec 16) (s : State) : Host.Outcome State Fault Refusal :=
  coreSeq s (.fsw fs2 rs1 imm) (do
    let a := (← readReg rs1) + sext16 imm
    store s.cfg a 4 (← readF fs2).toNat)

/-- FSD (R226, R229). -/
def execFsd (fs2 rs1 : BitVec 5) (imm : BitVec 16) (s : State) : Host.Outcome State Fault Refusal :=
  coreSeq s (.fsd fs2 rs1 imm) (do
    let a := (← readReg rs1) + sext16 imm
    store s.cfg a 8 (← readF fs2).toNat)

/-- BEQ (R229). -/
def execBeq (rs1 rs2 : BitVec 5) (imm : BitVec 16) (s : State) : Host.Outcome State Fault Refusal :=
  coreJump s (.beq rs1 rs2 imm) (branchBody (fun a b => a == b) rs1 rs2 imm)

/-- BNE (R229). -/
def execBne (rs1 rs2 : BitVec 5) (imm : BitVec 16) (s : State) : Host.Outcome State Fault Refusal :=
  coreJump s (.bne rs1 rs2 imm) (branchBody (fun a b => a != b) rs1 rs2 imm)

/-- BLT (R229). -/
def execBlt (rs1 rs2 : BitVec 5) (imm : BitVec 16) (s : State) : Host.Outcome State Fault Refusal :=
  coreJump s (.blt rs1 rs2 imm) (branchBody (fun a b => decide (a.toInt < b.toInt)) rs1 rs2 imm)

/-- BGE (R229). -/
def execBge (rs1 rs2 : BitVec 5) (imm : BitVec 16) (s : State) : Host.Outcome State Fault Refusal :=
  coreJump s (.bge rs1 rs2 imm) (branchBody (fun a b => decide (b.toInt ≤ a.toInt)) rs1 rs2 imm)

/-- BLTU (R229). -/
def execBltu (rs1 rs2 : BitVec 5) (imm : BitVec 16) (s : State) : Host.Outcome State Fault Refusal :=
  coreJump s (.bltu rs1 rs2 imm) (branchBody (fun a b => decide (a.toNat < b.toNat)) rs1 rs2 imm)

/-- BGEU (R229). -/
def execBgeu (rs1 rs2 : BitVec 5) (imm : BitVec 16) (s : State) : Host.Outcome State Fault Refusal :=
  coreJump s (.bgeu rs1 rs2 imm) (branchBody (fun a b => decide (b.toNat ≤ a.toNat)) rs1 rs2 imm)

/-- J (R228). -/
def execJ (off : BitVec 26) (s : State) : Host.Outcome State Fault Refusal :=
  coreJump s (.j off) (do return (← getCore).pc + jumpOff off)

/-- JALR (R229): the target is formed from rs1 before rd is written. -/
def execJalr (rd rs1 : BitVec 5) (imm : BitVec 16) (s : State) : Host.Outcome State Fault Refusal :=
  coreJump s (.jalr rd rs1 imm) (do
    let t := (← readReg rs1) + sext16 imm
    let pc := (← getCore).pc
    writeReg rd (pc + 4)
    return t)

/-- A window instruction fails code 0x04 in service mode and code 0x03 while FROZEN is 1 (R223, R234, R243). -/
def windowAllowed : M Unit := do
  let k ← getCore
  if k.svc then coreFault 4
  if k.frozen then coreFault 3

/-- p7 of the current window. -/
def p7 : BitVec 5 := 31
/-- a7 of the current window. -/
def a7 : BitVec 5 := 15

/-- The call of R220: p7, then the advance at the current level, then the target. -/
def callBody (c : Cfg) (target : Word) : M Word := do
  windowAllowed
  let k ← getCore
  writeReg p7 (k.pc + 4)
  advance c k.ps.level
  return target

/-- CALL (R220). -/
def execCall (off : BitVec 26) (s : State) : Host.Outcome State Fault Refusal :=
  coreJump s (.call off) (do
    let pc := (← getCore).pc
    callBody s.cfg (pc + jumpOff off))

/-- CALLR (R220): the target is the value of rs1 before the call. -/
def execCallr (rs1 : BitVec 5) (mbz : BitVec 21) (s : State) : Host.Outcome State Fault Refusal :=
  coreJump s (.callr rs1 mbz) (do
    mustBeZero mbz
    let t ← readReg rs1
    callBody s.cfg t)

/-- RET (R220). -/
def execRet (mbz : BitVec 26) (s : State) : Host.Outcome State Fault Refusal :=
  coreJump s (.ret mbz) (do
    mustBeZero mbz
    windowAllowed
    let t ← readReg a7
    retreat s.cfg
    return t)

end Sys2Proof.Machine
end

