-- ==== Sys2Proof/Machine/ExecPower.lean ====
section
/-! DEFINITION. Meanings of the power, clock and governor events (16). -/

namespace Sys2Proof.Machine

/-- exec of an event of a block that is powered and out of cold reset (R376, R418). -/
def onNext (s : State) (f : Blk → Blk) : Host.Outcome State Fault Refusal := blkNext s fun b => if blockOn b then f b else b

/-- DOMAIN_POWER_UP (R410). -/
def execDomainPowerUp (pd : BitVec 5) (s : State) : Host.Outcome State Fault Refusal := onNext s fun b => pdUp s.cfg b pd

/-- ENTER_COUCH (R411). -/
def execEnterCouch (s : State) : Host.Outcome State Fault Refusal := onNext s enterCouchAt

/-- STEEP_DESCENT (R414). -/
def execSteepDescent (s : State) : Host.Outcome State Fault Refusal := onNext s (descend s.cfg)

/-- WAKE_FROM_COUCH (R413). -/
def execWakeFromCouch (s : State) : Host.Outcome State Fault Refusal := onNext s wakeCouchAt

/-- WAKE_FROM_STEEP (R415), with the PLLs' windows of R403. -/
def execWakeFromSteep (cf cl : BitVec 16) (s : State) : Host.Outcome State Fault Refusal := onNext s fun b => wakeSteepAt s.cfg b cf cl

/-- GOVERNOR_PERIOD (R421). -/
def execGovernorPeriod (mw : BitVec 12) (temp : Byte) (vsup : BitVec 12) (slack : Byte) (cf cl : BitVec 16) (s : State) :
    Host.Outcome State Fault Refusal := onNext s fun b => governorStep s.cfg b mw temp vsup slack cf cl

/-- OSCILLATOR_TRIM (R402): the window's count, and the windows of the successive approximation that may follow. -/
def execOscillatorTrim (count : BitVec 16) (w : BitVec 128) (s : State) : Host.Outcome State Fault Refusal :=
  onNext s fun b => if b.sys.phase.toNat < 3 then b else trimPeriod s.cfg b count w

/-- PLL_RETRY (R404). -/
def execPllRetry (cf cl : BitVec 16) (s : State) : Host.Outcome State Fault Refusal := onNext s fun b => pllRetryAt b cf cl

/-- DROOP (R424). -/
def execDroop (s : State) : Host.Outcome State Fault Refusal := onNext s droopEvent

/-- TIMER_COMPARE (R426). -/
def execTimerCompare (s : State) : Host.Outcome State Fault Refusal := onNext s timerAt

/-- MPDREQ_WRITE (R430): the Maltster writes CR_MPDREQ. -/
def execMpdreqWrite (v : W32) (s : State) : Host.Outcome State Fault Refusal :=
  onNext s fun b => if b.malt.started then pdRequest s.cfg b v else b

/-- MALTSTER_SOURCE (R429): source i latches. -/
def execMaltsterSource (i : BitVec 4) (s : State) : Host.Outcome State Fault Refusal := onNext s fun b => maltSource b i.toNat

end Sys2Proof.Machine
end

