-- ==== Sys2Proof/Machine/ExecObs.lean ====
section
/-! DEFINITION. Meanings of the observation unit's events (19). -/

namespace Sys2Proof.Machine

/-- TRACE_SYNC (R468): the count reaches its next multiple of 65,536. -/
def execTraceSync (s : State) : Host.Outcome State Fault Refusal := onNext s (toMultiple 65536)

/-- PC_SAMPLE (R468, R471): the count reaches its next multiple of 2^PCLOG. -/
def execPcSample (s : State) : Host.Outcome State Fault Refusal := onNext s fun b => toMultiple (pcsEvery b) b

/-- TRACE_PACKET_ACCEPT (R380, R470). -/
def execTracePacketAccept (s : State) : Host.Outcome State Fault Refusal := onNext s obsEdge

end Sys2Proof.Machine
end

