-- ==== Sys2Proof/Machine/ExecPort.lean ====
section
/-! DEFINITION. Meanings of the packets, blocks and events of the Memory Port, Far Port and Chain Ports (14, 15). -/

namespace Sys2Proof.Machine

/-- RD, WR, AT and SYQ at the Far Port (R368, R387). -/
def execRdIn (h : Hdr) (s : State) : Host.Outcome State Fault Refusal :=
  blkNext s fun b => packetArrives s.cfg b true { h := { h with opc := 0x01 }, data := 0 }
def execWr (h : Hdr) (data : Piece) (s : State) : Host.Outcome State Fault Refusal :=
  blkNext s fun b => packetArrives s.cfg b true { h := { h with opc := 0x02 }, data := data }
def execAtIn (h : Hdr) (data : Piece) (s : State) : Host.Outcome State Fault Refusal :=
  blkNext s fun b => packetArrives s.cfg b true { h := { h with opc := 0x03 }, data := data }
def execSyq (h : Hdr) (s : State) : Host.Outcome State Fault Refusal :=
  blkNext s fun b => packetArrives s.cfg b true { h := { h with opc := 0x11 }, data := 0 }

/-- RDR, WRA and ATR on the Memory Port or Far Port, SYR on the Far Port (R365, R387). -/
def execRdr (fp : Bool) (h : Hdr) (data : Piece) (s : State) : Host.Outcome State Fault Refusal :=
  blkNext s fun b => packetArrives s.cfg b fp { h := { h with opc := 0x09 }, data := data }
def execWra (fp : Bool) (h : Hdr) (s : State) : Host.Outcome State Fault Refusal :=
  blkNext s fun b => packetArrives s.cfg b fp { h := { h with opc := 0x0A }, data := 0 }
def execAtr (fp : Bool) (h : Hdr) (s : State) : Host.Outcome State Fault Refusal :=
  blkNext s fun b => packetArrives s.cfg b fp { h := { h with opc := 0x0B }, data := 0 }
def execSyr (h : Hdr) (s : State) : Host.Outcome State Fault Refusal :=
  blkNext s fun b => packetArrives s.cfg b true { h := { h with opc := 0x12 }, data := 0 }

/-- REQUEST_TIMEOUT (R365). -/
def execRequestTimeout (fp : Bool) (rtag : BitVec 16) (s : State) : Host.Outcome State Fault Refusal :=
  blkNext s fun b => requestExpires s.cfg b fp rtag

/-- DATA_BLOCK and IDLE_BLOCK (R391). -/
def execDataBlock (p : BitVec 2) (ctl : W32) (data : BitVec 1024) (hdr : BitVec 512) (crc : W32) (s : State) :
    Host.Outcome State Fault Refusal :=
  let k : Block := ⟨ctl, data, hdr, crc⟩
  blkNext s fun b => receive b p k (k.btype == 0 && (getLink b p).state == stUp) fun b => dataBlock s.cfg b p k
def execIdleBlock (p : BitVec 2) (ctl : W32) (data : BitVec 1024) (hdr : BitVec 512) (crc : W32) (s : State) :
    Host.Outcome State Fault Refusal :=
  let k : Block := ⟨ctl, data, hdr, crc⟩
  blkNext s fun b => receive b p k (k.btype == 1 && (getLink b p).state == stUp) fun b => trailer b p k true

/-- TRAIN and ADVERT (R393). -/
def execTrain (p : BitVec 2) (ctl : W32) (data : BitVec 1024) (hdr : BitVec 512) (crc : W32) (s : State) :
    Host.Outcome State Fault Refusal :=
  let k : Block := ⟨ctl, data, hdr, crc⟩
  blkNext s fun b => receive b p k (k.btype == 2 && k.sub == 1) fun b => trainBlock b p k
def execAdvert (p : BitVec 2) (ctl : W32) (data : BitVec 1024) (hdr : BitVec 512) (crc : W32) (s : State) :
    Host.Outcome State Fault Refusal :=
  let k : Block := ⟨ctl, data, hdr, crc⟩
  blkNext s fun b => receive b p k (k.btype == 2 && k.sub == 2) fun b => advertBlock b p k

/-- PAUSE, RESUME and DOWN of the far end's direction (R395). -/
def execPause (p : BitVec 2) (ctl : W32) (data : BitVec 1024) (hdr : BitVec 512) (crc : W32) (s : State) :
    Host.Outcome State Fault Refusal :=
  let k : Block := ⟨ctl, data, hdr, crc⟩
  blkNext s fun b => receive b p k (k.btype == 2 && k.sub == 4 && (getLink b p).state == stUp) fun b =>
    modLink b p fun l => { l with farPaused := true, crcRow := 0 }
def execResume (p : BitVec 2) (ctl : W32) (data : BitVec 1024) (hdr : BitVec 512) (crc : W32) (s : State) :
    Host.Outcome State Fault Refusal :=
  let k : Block := ⟨ctl, data, hdr, crc⟩
  blkNext s fun b => receive b p k (k.btype == 2 && k.sub == 5 && (getLink b p).state == stUp) fun b =>
    modLink b p fun l => { l with farPaused := false, lreqO := false, lreqI := false, crcRow := 0 }
def execDown (p : BitVec 2) (ctl : W32) (data : BitVec 1024) (hdr : BitVec 512) (crc : W32) (s : State) :
    Host.Outcome State Fault Refusal :=
  let k : Block := ⟨ctl, data, hdr, crc⟩
  blkNext s fun b => receive b p k (k.btype == 2 && k.sub == 6 && (getLink b p).state == stUp) fun b => linkDown b p

/-- DESKEW (R397): the block carries nothing, whatever its bits. -/
def execDeskew (p : BitVec 2) (s : State) : Host.Outcome State Fault Refusal := blkNext s fun b => deskewBlock b p

/-- LINK_REQUEST (R393). -/
def execLinkRequest (p : BitVec 2) (s : State) : Host.Outcome State Fault Refusal := blkNext s fun b => linkRequest s.cfg b p

/-- REPLAY_TIMER_EXPIRY (R392). -/
def execReplayTimerExpiry (p : BitVec 2) (s : State) : Host.Outcome State Fault Refusal := blkNext s fun b => replayExpires b p

/-- BRINGUP_ATTEMPT_EXPIRY (R393). -/
def execBringupAttemptExpiry (p : BitVec 2) (s : State) : Host.Outcome State Fault Refusal := blkNext s fun b => attemptExpires b p

/-- DESKEW_INSERT (R397): the inserted block is not numbered and carries no flit. -/
def execDeskewInsert (p : BitVec 2) (s : State) : Host.Outcome State Fault Refusal := blkNext s fun b => deskewInsert b p

/-- LINK_LANE_TRIM (R397, R399). -/
def execLinkLaneTrim (p : BitVec 2) (lane : Nat) (move : Option Bool) (margin : Byte) (s : State) : Host.Outcome State Fault Refusal :=
  blkNext s fun b => laneTrim b p lane move margin

/-- BOND_TRAINING_BEAT (R316): the beat carries no data. -/
def execBondTrainingBeat (s : State) : Host.Outcome State Fault Refusal := .next s

/-- BOND_LANE_TRIM (R316, R317). -/
def execBondLaneTrim (lane : Nat) (move : Option Bool) (margin : Byte) (s : State) : Host.Outcome State Fault Refusal :=
  blkNext s fun b => bondLane b lane move margin

/-- LREQ_IN_RISE (R395). -/
def execLreqInRise (p : BitVec 2) (s : State) : Host.Outcome State Fault Refusal := blkNext s fun b => lreqRise b p

/-- WAKE_IN_RISE (R417): a rise of AON_WAKE_IN wakes the block and raises Maltster source 1. -/
def execWakeInRise (s : State) : Host.Outcome State Fault Refusal :=
  blkNext s fun b => if blockOn b && !lcsHeld b then wake (maltSource b 1) else b

end Sys2Proof.Machine
end

