-- ==== Sys2Proof/Machine/Crypto.lean ====
section
/-! DEFINITION. SHA-384 (FIPS 180-4) and ECDSA P-384 verification (FIPS 186-5), which the signature engine of R443 applies. -/

namespace Sys2Proof.Machine

/-- The round constants of SHA-384 (FIPS 180-4, 4.2.3). -/
def shaK : List Word :=
  [0x428a2f98d728ae22, 0x7137449123ef65cd, 0xb5c0fbcfec4d3b2f, 0xe9b5dba58189dbbc, 0x3956c25bf348b538] ++
  [0x59f111f1b605d019, 0x923f82a4af194f9b, 0xab1c5ed5da6d8118, 0xd807aa98a3030242, 0x12835b0145706fbe] ++
  [0x243185be4ee4b28c, 0x550c7dc3d5ffb4e2, 0x72be5d74f27b896f, 0x80deb1fe3b1696b1, 0x9bdc06a725c71235] ++
  [0xc19bf174cf692694, 0xe49b69c19ef14ad2, 0xefbe4786384f25e3, 0x0fc19dc68b8cd5b5, 0x240ca1cc77ac9c65] ++
  [0x2de92c6f592b0275, 0x4a7484aa6ea6e483, 0x5cb0a9dcbd41fbd4, 0x76f988da831153b5, 0x983e5152ee66dfab] ++
  [0xa831c66d2db43210, 0xb00327c898fb213f, 0xbf597fc7beef0ee4, 0xc6e00bf33da88fc2, 0xd5a79147930aa725] ++
  [0x06ca6351e003826f, 0x142929670a0e6e70, 0x27b70a8546d22ffc, 0x2e1b21385c26c926, 0x4d2c6dfc5ac42aed] ++
  [0x53380d139d95b3df, 0x650a73548baf63de, 0x766a0abb3c77b2a8, 0x81c2c92e47edaee6, 0x92722c851482353b] ++
  [0xa2bfe8a14cf10364, 0xa81a664bbc423001, 0xc24b8b70d0f89791, 0xc76c51a30654be30, 0xd192e819d6ef5218] ++
  [0xd69906245565a910, 0xf40e35855771202a, 0x106aa07032bbd1b8, 0x19a4c116b8d2d0c8, 0x1e376c085141ab53] ++
  [0x2748774cdf8eeb99, 0x34b0bcb5e19b48a8, 0x391c0cb3c5c95a63, 0x4ed8aa4ae3418acb, 0x5b9cca4f7763e373] ++
  [0x682e6ff3d6b2b8a3, 0x748f82ee5defb2fc, 0x78a5636f43172f60, 0x84c87814a1f0ab72, 0x8cc702081a6439ec] ++
  [0x90befffa23631e28, 0xa4506cebde82bde9, 0xbef9a3f7b2c67915, 0xc67178f2e372532b, 0xca273eceea26619c] ++
  [0xd186b8c721c0c207, 0xeada7dd6cde0eb1e, 0xf57d4f7fee6ed178, 0x06f067aa72176fba, 0x0a637dc5a2c898a6] ++
  [0x113f9804bef90dae, 0x1b710b35131c471b, 0x28db77f523047d84, 0x32caab7b40c72493, 0x3c9ebe0a15c9bebc] ++
  [0x431d67c49c100d4c, 0x4cc5d4becb3e42b6, 0x597f299cfc657e2a, 0x5fcb6fab3ad6faec, 0x6c44198c4a475817]

/-- The initial hash value of SHA-384 (FIPS 180-4, 5.3.4). -/
def shaH0 : List Word :=
  [0xcbbb9d5dc1059ed8, 0x629a292a367cd507, 0x9159015a3070dd17, 0x152fecd8f70e5939, 0x67332667ffc00b31] ++
  [0x8eb44a8768581511, 0xdb0c2e0d64f98fa7, 0x47b5481dbefa4fa4]

def rotr (x : Word) (n : Nat) : Word := x.rotateRight n

/-- The eight working variables. -/
structure Sha where
  a : Word
  b : Word
  c : Word
  d : Word
  e : Word
  f : Word
  g : Word
  h : Word
deriving DecidableEq, Repr

/-- One round (FIPS 180-4, 6.4.2). -/
def shaRound (s : Sha) (kw : Word × Word) : Sha :=
  let t1 := s.h + (rotr s.e 14 ^^^ rotr s.e 18 ^^^ rotr s.e 41) + ((s.e &&& s.f) ^^^ (~~~s.e &&& s.g)) + kw.1 + kw.2
  let t2 := (rotr s.a 28 ^^^ rotr s.a 34 ^^^ rotr s.a 39) + ((s.a &&& s.b) ^^^ (s.a &&& s.c) ^^^ (s.b &&& s.c))
  { a := t1 + t2, b := s.a, c := s.b, d := s.c, e := s.d + t1, f := s.e, g := s.f, h := s.g }

/-- The message schedule: `w` holds the last sixteen words, the oldest first. -/
def shaSchedule : Nat → List Word → List Word
  | 0, _ => []
  | n + 1, w =>
    let x := w.getD 14 0
    let y := w.getD 1 0
    let next := (rotr x 19 ^^^ rotr x 61 ^^^ (x >>> 6)) + w.getD 9 0 + (rotr y 1 ^^^ rotr y 8 ^^^ (y >>> 7)) + w.getD 0 0
    w.getD 0 0 :: shaSchedule n (w.drop 1 ++ [next])

/-- The number that bytes spell, the first byte most significant. -/
def natOfBE (bs : List Byte) : Nat := natOfLE bs.reverse

/-- The compression of one 128-byte block. -/
def shaBlock (h : List Word) (bs : List Byte) : List Word :=
  let w := (List.range 16).map fun i => BitVec.ofNat 64 (natOfBE ((bs.drop (8 * i)).take 8))
  let s0 : Sha := ⟨h.getD 0 0, h.getD 1 0, h.getD 2 0, h.getD 3 0, h.getD 4 0, h.getD 5 0, h.getD 6 0, h.getD 7 0⟩
  let s := (shaK.zip (shaSchedule 80 w)).foldl shaRound s0
  [s0.a + s.a, s0.b + s.b, s0.c + s.c, s0.d + s.d, s0.e + s.e, s0.f + s.f, s0.g + s.g, s0.h + s.h]

def shaGo : Nat → List Word → List Byte → List Word
  | 0, h, _ => h
  | n + 1, h, bs => shaGo n (shaBlock h (bs.take 128)) (bs.drop 128)

/-- The padding of a message of `n` bytes (FIPS 180-4, 5.1.2). -/
def shaPad (n : Nat) : List Byte := 0x80 :: List.replicate ((239 - n % 128) % 128) 0 ++ (leOfNat 16 (8 * n)).reverse

/-- SHA-384 of a byte string, as a 384-bit number. -/
def sha384 (bs : List Byte) : Nat :=
  let m := bs ++ shaPad bs.length
  ((shaGo (m.length / 128) shaH0 m).take 6).foldl (fun a w => a * 2 ^ 64 + w.toNat) 0

/-! P-384: y² = x³ − 3x + b over the field of p elements, with base point G of order n. -/

def p384 : Nat := 2 ^ 384 - 2 ^ 128 - 2 ^ 96 + 2 ^ 32 - 1
def p384b : Nat := 0xb3312fa7e23ee7e4988e056be3f82d19181d9c6efe8141120314088f5013875ac656398d8a2ed19d2a85c8edd3ec2aef
def p384n : Nat := 0xffffffffffffffffffffffffffffffffffffffffffffffffc7634d81f4372ddf581a0db248b0a77aecec196accc52973
def p384Gx : Nat := 0xaa87ca22be8b05378eb1c71ef320ad746e1d3b628ba79b9859f741e082542a385502f25dbf55296c3a545e3872760ab7
def p384Gy : Nat := 0x3617de4a96262c6f5d9e98bf9292dc29f8f41dbd289a147ce9da3113b5f0b8c00a60b1ce1d7e819d7a431d7c90ea0e5f

/-- A power modulo `m`, over the bits of the exponent from the top. -/
def powMod (m b : Nat) : Nat → Nat → Nat → Nat
  | 0, _, acc => acc
  | i + 1, e, acc => powMod m b i e (if e.testBit i then acc * acc % m * b % m else acc * acc % m)

/-- The inverse modulo a prime of at most 384 bits. -/
def invMod (m b : Nat) : Nat := powMod m b 384 (m - 2) 1

def subP (a b : Nat) : Nat := (a + p384 - b) % p384

/-- A point in Jacobian coordinates; z = 0 is the point at infinity. -/
structure Jac where
  x : Nat
  y : Nat
  z : Nat
deriving DecidableEq, Repr

def Jac.double (q : Jac) : Jac :=
  if q.z = 0 ∨ q.y = 0 then ⟨1, 1, 0⟩
  else
    let yy := q.y * q.y % p384
    let zz := q.z * q.z % p384
    let s := 4 * q.x * yy % p384
    let m := 3 * subP q.x zz * ((q.x + zz) % p384) % p384
    let x := subP (m * m % p384) (2 * s % p384)
    ⟨x, subP (m * subP s x % p384) (8 * yy * yy % p384), 2 * q.y * q.z % p384⟩

def Jac.add (q r : Jac) : Jac :=
  if q.z = 0 then r
  else if r.z = 0 then q
  else
    let z1 := q.z * q.z % p384
    let z2 := r.z * r.z % p384
    let u1 := q.x * z2 % p384
    let u2 := r.x * z1 % p384
    let s1 := q.y * z2 % p384 * r.z % p384
    let s2 := r.y * z1 % p384 * q.z % p384
    if u1 = u2 then (if s1 = s2 then q.double else ⟨1, 1, 0⟩)
    else
      let h := subP u2 u1
      let t := subP s2 s1
      let hh := h * h % p384
      let hhh := hh * h % p384
      let v := u1 * hh % p384
      let x := subP (subP (t * t % p384) hhh) (2 * v % p384)
      ⟨x, subP (t * subP v x % p384) (s1 * hhh % p384), q.z * r.z % p384 * h % p384⟩

/-- k times a point, over the bits of k from the top. -/
def jacMul (k : Nat) (q : Jac) : Nat → Jac → Jac
  | 0, acc => acc
  | i + 1, acc => jacMul k q i (if k.testBit i then acc.double.add q else acc.double)

/-- ECDSA P-384 verification of (r, s) over a digest with public key (x, y) (FIPS 186-5, 6.4.2): a key that is no point of the curve
is refused. -/
def ecdsaVerify (digest x y r s : Nat) : Bool :=
  decide (x < p384) && decide (y < p384) && decide (y * y % p384 = subP ((x * x % p384 * x + p384b) % p384) (3 * x % p384)) &&
  decide (0 < r) && decide (r < p384n) && decide (0 < s) && decide (s < p384n) &&
  (let w := invMod p384n s
   let u1 := digest * w % p384n
   let u2 := r * w % p384n
   let q := (jacMul u1 ⟨p384Gx, p384Gy, 1⟩ 384 ⟨1, 1, 0⟩).add (jacMul u2 ⟨x, y, 1⟩ 384 ⟨1, 1, 0⟩)
   q.z != 0 &&
   (let zi := invMod p384 q.z
    decide (q.x * (zi * zi % p384) % p384 % p384n = r)))

end Sys2Proof.Machine
end

