-- ==== Sys2Proof/Machine/BootOps.lean ====
section
/-! DEFINITION. Start-up phases, firmware images, and the supply lines (16, 17, 18). -/

namespace Sys2Proof.Machine

/-- TRIM (R402, R457): eight windows; one that sees no REFCLK edge sets REFLOST and fails with code 1. -/
def trimPhase (c : Cfg) (b : Blk) (w : BitVec 128) : Blk :=
  if b.sys.phase ≠ 2 then b
  else match sarTrim c.refMhz.toNat w with
    | some t => setPhase { b with pwr := { b.pwr with trim := t, reflost := false } } 3
    | none => seqFail { b with pwr := { b.pwr with reflost := true } } 1

/-- PLL (R404, R456, R458): the PLLs that are not yet stable are checked; four failed attempts fail with code 2 or 3. One whose FAIL bit is 1 is
retried: it clears the bit only when it passes. -/
def pllPhase (b : Blk) (cf cl : BitVec 16) : Blk :=
  if b.sys.phase ≠ 4 then b
  else
    let step (p : Pll) (ok : Bool) : Pll := if p.lock then p else p.judge ok
    let b := bothPlls b cf cl step
    let ended (p : Pll) : Bool := !p.lock && p.fail && p.tries == 0
    if ended b.pwr.pllF then seqFail b 2
    else if ended b.pwr.pllL then seqFail b 3
    else if b.pwr.pllF.lock && b.pwr.pllL.lock then setPhase b (if b.sys.full then 5 else 6)
    else b

/-- Length of the run of passing steps of a sweep that begins at step i; the sweep does not wrap (log 5). -/
def passRun (s : BitVec 64) : Nat → Nat → Nat
  | 0, _ => 0
  | n + 1, i => if bit s i then passRun s n (i + 1) + 1 else 0

/-- The widest passing window of a lane's sweep (R459): its first step and its length; of equal ones the lowest (log 5). -/
def widestWindow (s : BitVec 64) : Nat × Nat :=
  (List.range 64).foldl (fun w i => let n := passRun s (64 - i) i; if w.2 < n then (i, n) else w) (0, 0)

/-- BONDCAL (R317, R459): `sweeps` holds, lane by lane, the steps of the sampling delay at which the training pattern passed. Each lane stands
at the middle of its widest window; MARGIN takes the smallest half-window, and one below 4 fails with code 4. -/
def bondPhase (b : Blk) (sweeps : List (BitVec 64)) (cycles : Nat) : Blk :=
  if b.sys.phase ≠ 5 || cycles < 16384 then b
  else
    let ws := sweeps.map widestWindow
    let m := ws.foldl (fun m w => Nat.min m (w.2 / 2)) 32
    let b := bondMeasured { b with sys := { b.sys with bondTrims := Sparse.setAll [] 0 (ws.map fun w => BitVec.ofNat 6 (w.1 + w.2 / 2)) } } (BitVec.ofNat 8 m)
    if m < 4 then seqFail b 4 else setPhase b 6

/-- LINK (R456, R462): the Memory Port is UP, or has reached FAILED. -/
def linkPhase (b : Blk) : Blk :=
  if b.sys.phase ≠ 6 then b
  else if b.ports.mp.state = stUp then setPhase b 7
  else if b.ports.mp.state = stFailed then seqFail b 5
  else b

/-- The signature engine's verdict in the applied life-cycle state (R440, R443). -/
def imgSigned (b : Blk) (bs : List Byte) : Bool :=
  bit (BitVec.ofNat 8 (imgField bs 5 1)) b.sys.lcs.toNat && !lcsHeld b &&
  decide (sha384 ((bs.drop 0x20).take 96) = Config.keyDigest b.sys.lcs) &&
  (let be (off : Nat) : Nat := natOfBE ((bs.drop off).take 48)
   ecdsaVerify (sha384 (bs.take 128 ++ imgBody bs)) (be 0x20) (be 0x50) (be 0x80) (be 0xB0))

/-- An image is rejected: SIGFAIL, and the sequence fails (R443, R462). -/
def imgReject (b : Blk) (code : BitVec 4) : Blk := seqFail { b with sys := { b.sys with sigfail := true } } code

/-- MIMG (R460): the Maltster image is read from KZ_BOOT_MIMG on, its body put into the Maltster RAM as it arrives; when it is there it is
verified, and a rejected one is wiped from the RAM. -/
def mimgPhase (c : Cfg) (b : Blk) (edges : Nat) : Blk :=
  if b.sys.phase ≠ 7 || b.err.fatal then b
  else match b.sys.img with
    | none => imgStart c b c.mimg
    | some m =>
      if imgWaits c 0 m edges then b
      else if imgLegal c 0 m.bytes && imgSigned b m.bytes then
        { b with sys := { b.sys with img := none, maltEntry := BitVec.ofNat 64 (imgEntry m.bytes), phase := 8 } }
      else imgReject { b with malt := { b.malt with ram := [] } } 7

/-- CIMG (R460, R461): the machine image is read from KZ_BOOT_CIMG on, its body written to chip memory as it arrives; when it is there it is
verified, and the main core is released once each write is acknowledged. A rejected image stays in memory where it was written; one whose
header is not legal is written nowhere (log 12). After a core-only reset the phase follows the Kiln's wipe. -/
def cimgPhase (c : Cfg) (b : Blk) (edges : Nat) : Blk :=
  if b.sys.phase ≠ 8 || b.err.fatal || b.sys.kiln.isSome || b.sys.entry.isSome then b
  else match b.sys.img with
    | none => imgStart c b c.cimg
    | some m =>
      if imgWaits c 1 m edges then b
      else
        let good := imgLegal c 1 m.bytes && imgSigned b m.bytes
        bootDone c { b with sys := { b.sys with
          img := none, entry := some (BitVec.ofNat 64 (imgEntry m.bytes)), imgFail := if good then 0 else 9, sigfail := b.sys.sigfail || !good } }

/-! Supply-good lines (R418). -/

/-- A change of a supply-good line: CR_MNOTICE.SUPPLY and the Maltster's source 9. -/
def supplyChange (b : Blk) : Blk := maltSource { b with pwr := { b.pwr with mnotice := setBit b.pwr.mnotice 4 true } } 9

/-- AON_PG_L falls: a warm reset in Run and Couch. -/
def pgLLow (c : Cfg) (b : Blk) : Cfg × Blk :=
  let b := { b with pwr := { b.pwr with pgL := false } }
  if !blockOn b then (c, b)
  else
    let b := supplyChange b
    if b.pwr.state = .run || b.pwr.state = .couch then warmReset c b rkWarm 4 else (c, b)

/-- AON_PG_M falls: memory is lost and a warm reset wipes it. A reset of wider coverage goes on instead (R450), and finds the memories as a warm
reset's wipe would leave them (log 32). -/
def pgMLow (c : Cfg) (b : Blk) : Cfg × Blk :=
  let b := { b with pwr := { b.pwr with pgM := false } }
  if !blockOn b then (c, b)
  else
    let b := supplyChange b
    warmReset c (if resetInProgress b && decide (rkRank rkWarm < rkRank b.sys.resetKind) then wipeReset 2 b else b) rkWarm 5

/-- AON_PG_L or AON_PG_M rises. -/
def pgRise (b : Blk) (m : Bool) : Blk :=
  if (if m then b.pwr.pgM else b.pwr.pgL) then b
  else
    let b := { b with pwr := if m then { b.pwr with pgM := true } else { b.pwr with pgL := true } }
    if blockOn b then supplyChange b else b

/-- The cold reset ends (R440, R455): every supply-good line is high and the life-cycle lines are applied. -/
def resetRelease (b : Blk) (lcs : BitVec 3) (valid : Bool) : Blk :=
  if blockOn b then b
  else
    let b := { b with pwr := { b.pwr with porstN := true, pgAon := true, pgL := true, pgM := true }
                      sys := { b.sys with lcs := lcs, lcsValid := valid } }
    setPds (setPhase b (if lcsHeld b then 0 else 1)) 3

end Sys2Proof.Machine
end

