-- ==== Sys2Proof/Machine/ExecReset.lean ====
section
/-! DEFINITION. Meanings of the resets, start-up phases, supply lines, life-cycle lines and the scan pins (16, 17, 18). -/

namespace Sys2Proof.Machine

/-- exec of an event that may also change the configuration, of a block that is powered and out of cold reset. -/
def cbOn (s : State) (f : Cfg → Blk → Cfg × Blk) : Host.Outcome State Fault Refusal :=
  cbNext s fun c b => if blockOn b then f c b else (c, b)

/-- KILN_DONE (R445). -/
def execKilnDone (s : State) : Host.Outcome State Fault Refusal := onNext s (kilnDone s.cfg)

/-- COLD_RESET (R449): AON_PORST_N is low. -/
def execColdReset (s : State) : Host.Outcome State Fault Refusal :=
  cbNext s fun _ b => (Cfg.reset, coldBlk { b with pwr := { b.pwr with porstN := false } })

/-- POWER_GOOD_AON_LOW (R418). -/
def execPowerGoodAonLow (s : State) : Host.Outcome State Fault Refusal :=
  cbNext s fun _ b => (Cfg.reset, coldBlk { b with pwr := { b.pwr with pgAon := false } })

/-- POWER_GOOD_L_LOW (R418). -/
def execPowerGoodLLow (s : State) : Host.Outcome State Fault Refusal := cbNext s pgLLow

/-- POWER_GOOD_M_LOW (R418). -/
def execPowerGoodMLow (s : State) : Host.Outcome State Fault Refusal := cbNext s pgMLow

/-- LIFE_CYCLE_CHANGE (R441). -/
def execLifeCycleChange (lcs : BitVec 3) (valid : Bool) (s : State) : Host.Outcome State Fault Refusal :=
  cbOn s fun c b => lcsChange c b lcs valid

/-- TRIM (R457). -/
def execTrim (w : BitVec 128) (s : State) : Host.Outcome State Fault Refusal := onNext s fun b => trimPhase s.cfg b w

/-- WIPE (R458). -/
def execWipe (s : State) : Host.Outcome State Fault Refusal := onNext s (wipePhase s.cfg)

/-- PLL (R458). -/
def execPll (cf cl : BitVec 16) (s : State) : Host.Outcome State Fault Refusal := onNext s fun b => pllPhase b cf cl

/-- BONDCAL (R459). -/
def execBondcal (sweeps : List (BitVec 64)) (cycles : Nat) (s : State) : Host.Outcome State Fault Refusal :=
  onNext s fun b => bondPhase b sweeps cycles

/-- LINK (R456). -/
def execLink (s : State) : Host.Outcome State Fault Refusal := onNext s linkPhase

/-- MIMG (R460). -/
def execMimg (edges : Nat) (s : State) : Host.Outcome State Fault Refusal := onNext s fun b => mimgPhase s.cfg b edges

/-- CIMG (R460). -/
def execCimg (edges : Nat) (s : State) : Host.Outcome State Fault Refusal := onNext s fun b => cimgPhase s.cfg b edges

/-- POWER_ON_RESET_RELEASE (R455). -/
def execPowerOnResetRelease (lcs : BitVec 3) (valid : Bool) (s : State) : Host.Outcome State Fault Refusal :=
  blkNext s fun b => resetRelease b lcs valid

/-- SUPPLY_GOOD_RISE (R415, R418): AON_PG_L, or AON_PG_M. -/
def execSupplyGoodRise (m : Bool) (s : State) : Host.Outcome State Fault Refusal := blkNext s fun b => pgRise b m

/-- SCAN_SHIFT (R20, R379, R440): in TEST the scan outputs show words that the spec does not give; elsewhere the pins are ignored and
the outputs stay 0. -/
def execScanShift (scanIn : Word) (s : State) : Host.Outcome State Fault Refusal :=
  onNext s fun b =>
    if b.sys.lcsValid && b.sys.lcs == 0 then
      { b with sys := { b.sys with scanOut := Config.scanOut b.freeCount scanIn }, freeCount := b.freeCount + 1 }
    else b

end Sys2Proof.Machine
end

