-- ==== Sys2Proof/Machine/ExecRing.lean ====
section
/-! DEFINITION. Meanings of the ring front end's, Sparge's and the DMA engine's own steps (07, 13, 14). -/

namespace Sys2Proof.Machine

/-- DESCRIPTOR_FETCH (R321). -/
def execDescriptorFetch (n : BitVec 5) (s : State) : Host.Outcome State Fault Refusal := blkNext s fun b => fetchDescriptor s.cfg b n.toNat

/-- JOB_OFFER (R340). -/
def execJobOffer (s : State) : Host.Outcome State Fault Refusal := blkNext s offerJob

/-- A job wait that found the wait table full is armed again (R339). -/
def retryJob (c : Cfg) (b : Blk) (n : Nat) : Blk :=
  let r := getRing b n
  if frontRuns b && r.run && r.st == .waiting && (jobWaitOf b n).isNone then armJob c b n else b

/-- JOB_WAIT_ARM_RETRY (R339). -/
def execJobWaitArmRetry (n : BitVec 3) (s : State) : Host.Outcome State Fault Refusal := blkNext s fun b => retryJob s.cfg b n.toNat

/-- COMPLETION_WRITE (R333). -/
def execCompletionWrite (n : BitVec 5) (s : State) : Host.Outcome State Fault Refusal := blkNext s fun b => writeCompletion s.cfg b n.toNat

/-- EVENT_WRITE (R334). -/
def execEventWrite (e : BitVec 2) (s : State) : Host.Outcome State Fault Refusal := blkNext s fun b => writeQueuedEvent s.cfg b e.toNat

/-- INTERRUPT_MESSAGE (R335). -/
def execInterruptMessage (n : BitVec 5) (s : State) : Host.Outcome State Fault Refusal := blkNext s fun b => writeMessage s.cfg b n.toNat

/-- STREAM_BEGIN (R187). -/
def execStreamBegin (n : BitVec 2) (s : State) : Host.Outcome State Fault Refusal := blkNext s fun b => streamBegin s.cfg b n.toNat

/-- SPARGE_CHUNK (R173). -/
def execSpargeChunk (s : State) : Host.Outcome State Fault Refusal := blkNext s (spargeChunk s.cfg)

/-- DMA_DESCRIPTOR_BEGIN (R360). -/
def execDmaDescriptorBegin (ch : BitVec 4) (s : State) : Host.Outcome State Fault Refusal := blkNext s fun b => dmaBegin s.cfg b ch.toNat

/-- DMA_PIECE_ISSUE (R350). -/
def execDmaPieceIssue (s : State) : Host.Outcome State Fault Refusal := blkNext s (dmaIssue s.cfg)

/-- DMA_END_SIGNAL (R354). -/
def execDmaEndSignal (ch : BitVec 4) (s : State) : Host.Outcome State Fault Refusal := blkNext s fun b => dmaSignal s.cfg b ch.toNat

end Sys2Proof.Machine
end

