-- ==== Sys2Proof/Machine/ExecSync.lean ====
section
/-! DEFINITION. Meanings of the atomics, the sync instructions and the fences (08, 09, 14). -/

namespace Sys2Proof.Machine

/-- An atomic instruction (R230): the old value to rd; a 32-bit old value is zero-extended, as ATR carries it (R386, log 20). -/
def atomicBody (c : Cfg) (op : Nat) (w32 : Bool) (rd rs1 rs2 : BitVec 5) (mbz : BitVec 6) : M Unit := do
  mustBeZero mbz
  let a ← readReg rs1
  let x ← readReg rs2
  let old ← readReg rd
  let v ← atomic c op a (if w32 then 4 else 8) x old
  writeReg rd (BitVec.ofNat 64 v)

def execAtomicSwap (w32 : Bool) (rd rs1 rs2 : BitVec 5) (mbz : BitVec 6) (s : State) : Host.Outcome State Fault Refusal :=
  coreSeq s (.atomicSwap w32 rd rs1 rs2 mbz) (atomicBody s.cfg 0 w32 rd rs1 rs2 mbz)
def execAtomicAdd (w32 : Bool) (rd rs1 rs2 : BitVec 5) (mbz : BitVec 6) (s : State) : Host.Outcome State Fault Refusal :=
  coreSeq s (.atomicAdd w32 rd rs1 rs2 mbz) (atomicBody s.cfg 1 w32 rd rs1 rs2 mbz)
def execAtomicAnd (w32 : Bool) (rd rs1 rs2 : BitVec 5) (mbz : BitVec 6) (s : State) : Host.Outcome State Fault Refusal :=
  coreSeq s (.atomicAnd w32 rd rs1 rs2 mbz) (atomicBody s.cfg 2 w32 rd rs1 rs2 mbz)
def execAtomicOr (w32 : Bool) (rd rs1 rs2 : BitVec 5) (mbz : BitVec 6) (s : State) : Host.Outcome State Fault Refusal :=
  coreSeq s (.atomicOr w32 rd rs1 rs2 mbz) (atomicBody s.cfg 3 w32 rd rs1 rs2 mbz)
def execAtomicMax (w32 : Bool) (rd rs1 rs2 : BitVec 5) (mbz : BitVec 6) (s : State) : Host.Outcome State Fault Refusal :=
  coreSeq s (.atomicMax w32 rd rs1 rs2 mbz) (atomicBody s.cfg 4 w32 rd rs1 rs2 mbz)
def execAtomicMin (w32 : Bool) (rd rs1 rs2 : BitVec 5) (mbz : BitVec 6) (s : State) : Host.Outcome State Fault Refusal :=
  coreSeq s (.atomicMin w32 rd rs1 rs2 mbz) (atomicBody s.cfg 5 w32 rd rs1 rs2 mbz)
def execAtomicMaxu (w32 : Bool) (rd rs1 rs2 : BitVec 5) (mbz : BitVec 6) (s : State) : Host.Outcome State Fault Refusal :=
  coreSeq s (.atomicMaxu w32 rd rs1 rs2 mbz) (atomicBody s.cfg 6 w32 rd rs1 rs2 mbz)
def execAtomicMinu (w32 : Bool) (rd rs1 rs2 : BitVec 5) (mbz : BitVec 6) (s : State) : Host.Outcome State Fault Refusal :=
  coreSeq s (.atomicMinu w32 rd rs1 rs2 mbz) (atomicBody s.cfg 7 w32 rd rs1 rs2 mbz)
def execCas (w32 : Bool) (rd rs1 rs2 : BitVec 5) (mbz : BitVec 6) (s : State) : Host.Outcome State Fault Refusal :=
  coreSeq s (.cas w32 rd rs1 rs2 mbz) (atomicBody s.cfg 8 w32 rd rs1 rs2 mbz)

/-- The world in which the running context's sync operations are made. -/
def syncWorld (b : Blk) : Bool := b.core.ps.world

/-- A local operation of the main core (R207): applied at once when nothing else waits at the engine, the source after the main core
being served next; otherwise it takes its turn and the instruction waits for its result. -/
def localSop (c : Cfg) (op : Nat) (obj : BitVec 16) (x : W32) : M (BitVec 8 × W32) := do
  let b ← get
  match b.sync.coreDone with
  | some (st, v, _) =>
    modify fun b => { b with sync := { b.sync with coreDone := none } }
    return (st, v)
  | none =>
    if b.sync.queue.isEmpty then
      set { b with sync := { b.sync with rr := 2 } }
      liftBlk (applySync c op obj x (syncWorld b))
    else
      if !b.sync.queue.any (fun q => q.src == .core) then
        modify fun b => { b with sync := { b.sync with
          queue := b.sync.queue ++ [{ src := .core, op := BitVec.ofNat 3 op, obj := obj, x := x, world := syncWorld b }] } }
      waitFor .other

/-- SOP (R205–R207, R209). DESIGN CHOICE (log 90): rd [31:0] is zero with status 0x08 as with 0x09. -/
def sopBody (c : Cfg) (op : Nat) (rd rs1 rs2 : BitVec 5) : M Unit := do
  let t ← readReg rs1
  let x : W32 := (← readReg rs2).truncate 32
  if targetIllegal t then chainFault 0x10 0
  let b ← get
  let mode := bits t 44 43
  let obj : BitVec 16 := t.truncate 16
  let tgt : SyncTarget ←
    if mode = 0 then pure (SyncTarget.here obj)
    else if mode = 1 then
      pure (targetOf c b b.rings.epCore (BitVec.ofNat 17 (bits t 42 26)) (BitVec.ofNat 10 (bits t 25 16)) obj)
    else do
      let n := bits t 50 45
      let e := cge b n
      if !e.valid || e.world != syncWorld b then chainFault 0x11 n
      pure (targetOf c b b.rings.epCore e.syncNode e.syncBlk (e.syncBase + obj))
  match tgt with
  | .here o =>
    let r ← localSop c op o x
    writeReg rd (syncRd (if r.1 = 3 then 0 else r.2) r.1 0)
  | .remote node block o =>
    needPds [18]
    let q := syqRequest node block o op x (syncWorld b) .syncCore
    match (← get).core.resp.find? (fun r => r.op == .sy && r.be != 0 && r.addr == q.addr) with
    | some r =>
      writeReg rd (syncRd (if r.status = 9 || r.status = 8 || r.status = 3 then 0 else r.data.truncate 32) r.status 0)
    | none => issueAndWait c true q

def execSopRead (rd rs1 rs2 : BitVec 5) (s : State) : Host.Outcome State Fault Refusal :=
  coreSeq s (.sopRead rd rs1 rs2) (sopBody s.cfg 0 rd rs1 rs2)
def execSopAdd (rd rs1 rs2 : BitVec 5) (s : State) : Host.Outcome State Fault Refusal :=
  coreSeq s (.sopAdd rd rs1 rs2) (sopBody s.cfg 1 rd rs1 rs2)
def execSopSet (rd rs1 rs2 : BitVec 5) (s : State) : Host.Outcome State Fault Refusal :=
  coreSeq s (.sopSet rd rs1 rs2) (sopBody s.cfg 2 rd rs1 rs2)
def execSopTake (rd rs1 rs2 : BitVec 5) (s : State) : Host.Outcome State Fault Refusal :=
  coreSeq s (.sopTake rd rs1 rs2) (sopBody s.cfg 3 rd rs1 rs2)
def execSopMax (rd rs1 rs2 : BitVec 5) (s : State) : Host.Outcome State Fault Refusal :=
  coreSeq s (.sopMax rd rs1 rs2) (sopBody s.cfg 4 rd rs1 rs2)

/-- The world of event ring E0–E3's context (R209, R323); a ring not set up counts as non-secure (log 21). -/
def eventRingWorld (b : Blk) (e : Nat) : Bool :=
  match b.rings.rings.find? (fun r => r.1 == 28 + e) with
  | some (_, r) => r.setUp && r.ctx.world
  | none => false

/-- SWAIT (R208–R212). DESIGN CHOICE (log 90): with status 0x06 rd [31:0] is the object's value. A blocking wait that is armed keeps the stream waiting until its notification; in service mode the
issuing task becomes WAIT (R235). -/
def swaitBody (c : Cfg) (rd rs1 rs2 : BitVec 5) (mbz : BitVec 3) : M Unit := do
  mustBeZero mbz
  let a ← readReg rs1
  let t ← readReg rs2
  let cond : BitVec 2 := BitVec.ofNat 2 (bits t 33 32)
  let consume := bit t 34
  let event := bit t 35
  let ering := bits t 37 36
  if bits a 63 48 ≠ 0 || bits t 63 38 ≠ 0 || cond == 3 || (consume && cond != 0) then chainFault 0x10 0
  let b ← get
  let world := syncWorld b
  if event && eventRingWorld b ering != world then chainFault 0x12 0
  let obj : BitVec 16 := a.truncate 16
  let tmo : W32 := BitVec.ofNat 32 (bits a 47 16)
  let tgt : W32 := t.truncate 32
  match (if event then none else ownWait b) with
  | some _ => waitFor .other
  | none =>
    let kind : WaitKind := if event then .eventWait (BitVec.ofNat 2 ering) else .coreWait b.core.svcTask rd
    match ← liftBlk (arm c kind obj world cond consume tgt tmo) with
    | .now st v => writeReg rd (syncRd (if st = 3 then 0 else v) st 0)
    | .armed h =>
      if event then writeReg rd (syncRd (b.sync.objs.get obj.toNat) 6 h)
      else if b.core.svc then
        -- the task leaves RUN with its PC at SWAIT; seqOp's step is taken back
        modCore fun k => { k with taskStat := k.taskStat.set k.svcTask.toNat taskWait, pc := k.pc - 4 }
      else waitFor .other

def execSwait (rd rs1 rs2 : BitVec 5) (mbz : BitVec 3) (s : State) : Host.Outcome State Fault Refusal :=
  coreSeq s (.swait rd rs1 rs2 mbz) (swaitBody s.cfg rd rs1 rs2 mbz)

/-- SWCANCEL (R213). -/
def execSwcancel (rd rs1 : BitVec 5) (mbz : BitVec 8) (s : State) : Host.Outcome State Fault Refusal :=
  coreSeq s (.swcancel rd rs1 mbz) (do
    mustBeZero mbz
    let h ← readReg rs1
    if bits h 63 16 ≠ 0 then chainFault 0x10 0
    let b ← get
    match b.sync.waits.find? (fun w => w.handle == h.truncate 16 && w.state == .armed && w.world == syncWorld b &&
        (match w.kind with | .eventWait _ => true | _ => false)) with
    | some w =>
      modify fun b => freeWaitEntry b w.num
      writeReg rd (syncRd 0 0 0)
    | none => writeReg rd (syncRd 0 7 0))

/-- Some posted write, maintenance write-back or remote operation of the core has no response yet (R372). -/
def unacknowledged (b : Blk) : Bool :=
  anyOutst b fun o => match o.purpose with
    | .posted => true
    | .core => true
    | .syncCore => true
    | _ => false

/-- A posted write or maintenance write-back of the core still waits to be sent. -/
def unsent (b : Blk) : Bool :=
  let waits (l : Link) (o : Outst) : Bool := o.purpose == .posted && l.sendQ.any fun k => k.h.rtag == o.rtag && k.h.opc == 0x02
  b.ports.outMp.any (waits b.ports.mp) || b.ports.outFp.any (waits b.ports.fp)

/-- FENCE.M (R372): every earlier access of the main core is performed when it retires, a posted write once it is sent (log 96). -/
def execFenceM (mbz : BitVec 15) (s : State) : Host.Outcome State Fault Refusal :=
  coreSeq s (.fenceM mbz) (do
    mustBeZero mbz
    if unsent (← get) then waitFor .other)

/-- FENCE.A (R372). -/
def execFenceA (mbz : BitVec 15) (s : State) : Host.Outcome State Fault Refusal :=
  coreSeq s (.fenceA mbz) (do
    mustBeZero mbz
    if unacknowledged (← get) then waitFor .other)

end Sys2Proof.Machine
end

