-- ==== Sys2Proof/Machine/CtxOps.lean ====
section
/-! DEFINITION. Context save and restore: the checks, the save area, and the two halves (09, and the saved parts of 03, 04, 06). -/

namespace Sys2Proof.Machine

/-- The checks of a context instruction (R234, R236, R243): not in service mode; at S or M, in the entry window of the current
level's most recent entry, for an interrupted level below the current one; the save area's address a multiple of 4,096. Answers
the current record. -/
def ctxChecks (c : Cfg) (va : Word) : M Rec := do
  let k ← getCore
  if k.svc then coreFault 4
  if k.ps.level = 0 || k.frozen then coreFault 5
  match ← currentRec c with
  | none => coreFault 5
  | some r =>
    if r.olevel.toNat ≥ k.ps.level.toNat then coreFault 5
    -- the interrupted window is brought back when it has been spilled
    if k.res = 0 then
      match fillLevel k with
      | none => coreFault 5
      | some l =>
        if k.flfault then raiseFill 3 (some l) k.flAddr
        try fillOne c l
        catch
          | .trap t => raiseFill 3 (some l) t.faddr
          | e => throw e
    let k ← getCore
    if k.wlevel.get k.cwp.toNat ≠ k.ps.level || k.ps.level.toNat ≤ (k.wlevel.get (slotBelow k 1)).toNat then coreFault 5
    if va.toNat % 4096 ≠ 0 then coreFault 7
    return r

/-- The bytes of 64-bit words in order. -/
def bytesOfWords (ws : List Word) : List Byte := ws.flatMap fun w => leOfNat 8 w.toNat

/-- Write one part of a save area, as normal memory at the current level (R236). -/
def savePart (c : Cfg) (va : Word) (off : Nat) (bs : List Byte) : M Unit := do
  let (l, w) := ctxOf (← get)
  storeBytes c l w true (bs.length / 64 + 2) (va + BitVec.ofNat 64 off) bs

/-- Read one part of a save area. -/
def loadPart (c : Cfg) (va : Word) (off n : Nat) : M (List Byte) := do
  let (l, w) := ctxOf (← get)
  loadBytes c l w true (n / 64 + 2) (va + BitVec.ofNat 64 off) n

/-- Spill windows, oldest first, until one is resident below the current one (R237). -/
def spillDown (c : Cfg) : Nat → M Unit
  | 0 => return ()
  | n + 1 => do
    let k ← getCore
    if k.res.toNat ≤ 1 then return ()
    if k.spfault then raiseSpill k k.spAddr
    try spillOldest c
    catch
      | .trap t => raiseSpill k t.faddr
      | e => throw e
    spillDown c n

/-- The first entry of the p group of a window slot (R219). -/
def pGroup (slot : Nat) : Nat := 16 + 8 * ((2 * slot + 2) % 254)

/-- The image of the lower half below 0x140 (R240). -/
def lowerImage (k : Core) (r : Rec) : List Byte :=
  let slot := slotBelow k 1
  let m := k.ps.level == 2
  bytesOfWords ([0x4B34, r.pc, BitVec.ofNat 64 (r.level.toNat + 4 * r.world.toNat + 16 * r.mask.toNat), k.fcsr.zeroExtend 64,
      k.wspill.u, k.wcnt.u.zeroExtend 64, if m then k.wspill.s else 0, if m then k.wcnt.s.zeroExtend 64 else 0] ++
    Sparse.range k.regs 0 8 ++ Sparse.range k.regs (16 + 16 * slot) 16 ++ Sparse.range k.regs (pGroup slot) 8)

/-- CTXSAVE.L (R237). -/
def ctxSaveLower (c : Cfg) (va : Word) : M Unit := do
  let r ← ctxChecks c va
  spillDown c 126
  let k ← getCore
  savePart c va 0 (lowerImage k r)
  (List.range 4).forM fun g =>
    if bit k.fdirty g then savePart c va (0x140 + 64 * g) (bytesOfWords (Sparse.range k.fregs (8 * g) 8)) else pure ()
  savePart c va 0x240 (leOfNat 8 k.lowater.toNat)
  modCore fun k => { k with fdirty := 0 }

/-- Write the PC and privilege word of the current record (R238, R250). -/
def writeRec (c : Cfg) (r : Rec) (pc : Word) (pw : Word) : M Unit := do
  let k ← getCore
  let bk := bankOf k k.ps.level k.ps.world
  if r.stacked then storeBytes c k.ps.level k.ps.world false 2 bk.sp (bytesOfWords [pc, BitVec.ofNat 64 (pw.toNat % 256 &&& 0xF7)])
  else
    modCore fun k => setBank k k.ps.level k.ps.world
      { bk with epc := pc, epwLevel := BitVec.ofNat 2 (bits pw 1 0), epwWorld := bit pw 2, epwMask := BitVec.ofNat 4 (bits pw 7 4) }

/-- CTXLOAD.L (R238). -/
def ctxLoadLower (c : Cfg) (va : Word) : M Unit := do
  let r ← ctxChecks c va
  let bs ← loadPart c va 0 0x248
  let w (i : Nat) : Word := (wordsOf 73 bs).getD i 0
  let k ← getCore
  let m := k.ps.level == 2
  let pw := w 2
  let level : BitVec 2 := BitVec.ofNat 2 (bits pw 1 0)
  if bits (w 0) 15 0 ≠ 0x4B34 || (w 4).toNat % 128 ≠ 0 || (m && decide ((w 6).toNat % 128 ≠ 0)) || bits (w 72) 5 0 = 0 ||
      (pwordFail level (bit pw 2) r.olevel r.oworld k.ps).isSome then coreFault 6
  writeRec c r (w 1) pw
  modCore fun k =>
    let slot := slotBelow k 1
    let ws (i n : Nat) : List Word := ((wordsOf 73 bs).drop i).take n
    let regs := Sparse.setAll k.regs 0 (ws 8 8)
    let regs := Sparse.setAll regs (16 + 16 * slot) (ws 16 16)
    let regs := Sparse.setAll regs (pGroup slot) (ws 32 8)
    { k with regs := regs, res := 1, wlevel := k.wlevel.set slot level, lowater := BitVec.ofNat 6 (bits (w 72) 5 0)
             fcsr := (w 3).truncate 7, fregs := Sparse.setAll k.fregs 0 (ws 40 32), fdirty := 0
             wspill := if m then { k.wspill with u := w 4, s := w 6 } else { k.wspill with u := w 4 }
             wcnt := if m then { k.wcnt with u := (w 5).truncate 32, s := (w 7).truncate 32 } else { k.wcnt with u := (w 5).truncate 32 } }

/-- The domains of the upper half: vector unit, tile file, epilogue, both Tun halves. -/
def upperPds : List Nat := [5, 14, 15, 29, 30]

/-- The registers of a vector group as bytes (R163). -/
def vecGroupBytes (x : Vec) (g : Nat) : List Byte := (Sparse.range x.v (4 * g) 4).flatMap fun v => leOfNat 512 v.toNat

/-- The slot of a tile: data, scale areas, tag (R240). -/
def tileBytes (tf : TileFile) (t : Nat) : List Byte :=
  ((List.range 64).flatMap fun r => leOfNat 64 (tf.row t r).toNat) ++ ((List.range 64).flatMap fun r => leOfNat 8 (tf.scale t r).toNat) ++
    leOfNat 64 (tf.tag t).toNat

/-- CTXSAVE.U (R239, R163, R76, R108). -/
def ctxSaveUpper (c : Cfg) (va : Word) : M Unit := do
  let _ ← ctxChecks c va
  needPds upperPds
  let b ← get
  let x := b.vec
  savePart c va 0x400 (bytesOfWords [x.vl.zeroExtend 64, x.vcsr.zeroExtend 64, x.vresume.zeroExtend 64, x.vdirty.zeroExtend 64])
  (List.range 8).forM fun g => if bit x.vdirty g then savePart c va (0x800 + 0x800 * g) (vecGroupBytes x g) else pure ()
  savePart c va 0x420 (bytesOfWords [b.tile.inuse.zeroExtend 64])
  (List.range 16).forM fun t =>
    if bit b.tile.inuse t && bit b.tile.dirty t then savePart c va (0x4800 + 0x1400 * t) (tileBytes b.tile t) else pure ()
  savePart c va 0x428 (bytesOfWords [b.tun.flag])
  savePart c va 0x440 (bytesOfWords ((List.range 16).map fun g => b.tun.grp g))
  (List.range 16).forM fun g =>
    let v := b.tun.grp g
    if gOpen v && bit b.tun.dirty g then do
      tunCross (gRows v)
      (List.range (gRows v)).forM fun i => savePart c va (0x20000 + 256 * (gBase v + i)) (leOfNat 256 (b.tun.rows.get (gBase v + i)).toNat)
    else pure ()
  savePart c va 0x430 (bytesOfWords [b.epi.seed.zeroExtend 64, b.epi.cvt.zeroExtend 64])
  savePart c va 0x4C0 (List.replicate 64 0)
  savePart c va 0x500 ((List.range 64).flatMap fun j => leOfNat 4 (laneState b.epi j).toNat)
  modVec fun x => { x with vdirty := 0 }
  modTile fun t => { t with dirty := 0 }
  modTun fun t => { t with dirty := 0 }

/-- Does the saved image of a group fail a check of R108? -/
def groupImageBad (vs : List Word) (g : Nat) : Bool :=
  let v := vs.getD g 0
  decide (bits v 7 0 + bits v 15 8 > 255) || (!gOpen v && (gFinal v || gSpilled v)) ||
    (decide (gSpill v ≠ 0) && decide (gSpill v ≤ gCcount v)) ||
    (gOpen v && (List.range g).any fun h =>
      let u := vs.getD h 0
      gOpen u && decide (gBase u < gBase v + gRows v) && decide (gBase v < gBase u + gRows u))

/-- A tile reloaded from its slot (R76). -/
def loadTile (tf : TileFile) (t : Nat) (bs : List Byte) : TileFile :=
  let rows := (List.range 64).map fun r => BitVec.ofNat 512 (natOfLE ((bs.drop (64 * r)).take 64))
  let scales := (List.range 64).map fun r => BitVec.ofNat 64 (natOfLE ((bs.drop (4096 + 8 * r)).take 8))
  { tf with rows := Sparse.setAll tf.rows (64 * t) rows, scales := Sparse.setAll tf.scales (64 * t) scales
            tags := tf.tags.set t (((bs.getD 4608 0)).truncate 6), inuse := setBit tf.inuse t true }

/-- The rows of a group's slots in a save area, when the saved image has it open. -/
def loadGroup (c : Cfg) (va : Word) (v : Word) : M (List (List Byte)) :=
  if gOpen v then (List.range (gRows v)).mapM fun i => loadPart c va (0x20000 + 256 * (gBase v + i)) 256 else pure []

/-- A group's reloaded rows in the Tun. -/
def putGroup (t : Tun) (v : Word) (rows : List (List Byte)) : Tun :=
  { t with rows := Sparse.setAll t.rows (gBase v) (rows.map fun bs => BitVec.ofNat 2048 (natOfLE bs)) }

/-- CTXLOAD.U (R239, R163, R76, R108): every check first; at M a change of world has its wipe before the state is loaded (R246).
R47 writes the lane states directly and names no check, and R42 has none be zero: a lane word of 0 is written and stays 0 (log 88). -/
def ctxLoadUpper (c : Cfg) (va : Word) : M Unit := do
  let r ← ctxChecks c va
  needPds upperPds
  let b ← get
  let bs ← loadPart c va 0x400 0x200
  let w (i : Nat) : Word := (wordsOf 24 bs).getD i 0
  let grps := ((wordsOf 24 bs).drop 8).take 16
  if 1024 < bits (w 0) 10 0 || 1024 < bits (w 2) 10 0 then vecFault 3 0
  if (List.range 16).any (groupImageBad grps) then tileFault 1 0 0
  if b.core.ps.level = 2 then worldSwitch r.world
  let vs ← (List.range 8).mapM fun g => loadPart c va (0x800 + 0x800 * g) 0x800
  let ts ← (List.range 16).mapM fun t => if bit (w 4) t then loadPart c va (0x4800 + 0x1400 * t) 0x1240 else pure []
  let gs ← (List.range 16).mapM fun g => loadGroup c va (grps.getD g 0)
  let ls ← loadPart c va 0x500 0x100
  modVec fun x => { x with
    vl := (w 0).truncate 11, vcsr := (w 1).truncate 7, vresume := (w 2).truncate 11, vdirty := 0
    v := Sparse.setAll [] 0 ((List.range 32).map fun i => BitVec.ofNat 4096 (natOfLE (((vs.getD (i / 4) []).drop (512 * (i % 4))).take 512))) }
  modTile fun tf =>
    { (List.range 16).foldl (fun tf t => if bit (w 4) t then loadTile tf t (ts.getD t []) else tf.release t) tf with dirty := 0 }
  tunCross ((grps.map fun v => if gOpen v then gRows v else 0).sum)
  modTun fun t =>
    let t := (List.range 16).foldl (fun t g => t.setGrp g (BitVec.ofNat 64 (bits (grps.getD g 0) 60 0))) { t with flag := w 5 }
    { (List.range 16).foldl (fun t g => putGroup t (grps.getD g 0) (gs.getD g [])) t with dirty := 0 }
  modEpi fun e => (List.range 64).foldl (fun e j => setLaneState e j (BitVec.ofNat 32 (natOfLE ((ls.drop (4 * j)).take 4))))
    { e with seed := (w 6).truncate 32, cvt := (w 7).truncate 5 }

end Sys2Proof.Machine
end

