-- ==== Sys2Proof/Machine/ExecSys.lean ====
section
/-! DEFINITION. Meanings of GATE, the returns, BREAK, the task instructions and the context instructions (09, 10). -/

namespace Sys2Proof.Machine

/-- The caller's p register i has a bit of [63:47] set (R261). -/
def badPtr (k : Core) (i : Nat) : Bool := bits (k.reg (BitVec.ofNat 5 (24 + i))) 63 47 != 0

/-- GATE (R258–R261). A gate entry while the window is frozen locks up as a fault would (R253, DEDUCED, log 24). -/
def gateBody (c : Cfg) (g : BitVec 8) (mbz : BitVec 14) : M Word := do
  mustBeZero mbz
  let k ← getCore
  let base := if k.ps.world then k.gbaseS else k.gbaseN
  let a := base + BitVec.ofNat 64 (16 * g.toNat)
  match ← readTable c a 16 k.ps.world (k.ps.level == 2) with
  | .error (some (r, d), _) => raise 0x0D (regionDetail 1 k.ps.world d r false) a
  | .error (none, kind) => accessFail 1 kind a
  | .ok d =>
    let h : Word := d.truncate 64
    let e : Word := BitVec.ofNat 64 (d.toNat >>> 64)
    let fail (n : Nat) : M Unit := raise 6 (g.toNat + 256 * n)
    let t := bits e 2 1
    if !bit e 0 then fail 1
    if t = 0 || t = 3 || decide (t ≤ k.ps.level.toNat) then fail 2
    if k.ps.level = 1 && !bit e 3 then fail 3
    if h.toNat % 4 ≠ 0 then fail 4
    if (List.range 8).any (fun i => bit e (8 + i) && badPtr k i) then fail 5
    if k.frozen then throw (.lockup 3 0x20)
    enterGo c 3 { cause := 0x20, detail := g.zeroExtend 16, faddr := 0, target := BitVec.ofNat 2 t, pc := k.pc + 4, mask := none
                  handler := some h, frozen := false }
    return (← getCore).pc

def execGate (g : BitVec 8) (mbz : BitVec 14) (s : State) : Host.Outcome State Fault Refusal :=
  coreJump s (.gate g mbz) (gateBody s.cfg g mbz)

/-- ERET (R262). -/
def execEret (mbz : BitVec 10) (s : State) : Host.Outcome State Fault Refusal :=
  coreJump s (.eret mbz) (do
    mustBeZero mbz
    doReturn s.cfg false
    return (← getCore).pc)

/-- GRET (R262). -/
def execGret (mbz : BitVec 10) (s : State) : Host.Outcome State Fault Refusal :=
  coreJump s (.gret mbz) (do
    mustBeZero mbz
    doReturn s.cfg true
    return (← getCore).pc)

/-- BREAK (R248). -/
def execBrk (mbz : BitVec 10) (s : State) : Host.Outcome State Fault Refusal :=
  coreSeq s (.brk mbz) (do
    mustBeZero mbz
    raise 5 0)

/-- TSLEEP (R235). -/
def execTsleep (mbz : BitVec 10) (s : State) : Host.Outcome State Fault Refusal :=
  coreSeq s (.tsleep mbz) (do
    mustBeZero mbz
    needSvc
    modCore fun k => { k with taskStat := k.taskStat.set k.svcTask.toNat taskWait })

/-- TSTOP (R235). -/
def execTstop (mbz : BitVec 10) (s : State) : Host.Outcome State Fault Refusal :=
  coreSeq s (.tstop mbz) (do
    mustBeZero mbz
    needSvc
    let k ← getCore
    check ((List.range k.banks).any fun t => t != k.svcTask.toNat && k.taskStat.get t != taskHalt) (coreFault 8)
    modCore fun k => { k with taskStat := k.taskStat.set k.svcTask.toNat taskHalt })

/-- TSTART (R235). -/
def execTstart (rs1 : BitVec 5) (mbz : BitVec 5) (s : State) : Host.Outcome State Fault Refusal :=
  coreSeq s (.tstart rs1 mbz) (do
    mustBeZero mbz
    needSvc
    let t ← taskArg (← readReg rs1)
    let k ← getCore
    check (k.taskStat.get t == taskHalt) (coreFault 8)
    modCore fun k => { k with taskStat := k.taskStat.set t taskReady, taskPcs := k.taskPcs.set t k.taskPc })

/-- TWAKE (R235): a task that waits in SWAIT runs it again; one whose wait has ended is given its notification (log 25). -/
def execTwake (rs1 : BitVec 5) (mbz : BitVec 5) (s : State) : Host.Outcome State Fault Refusal :=
  coreSeq s (.twake rs1 mbz) (do
    mustBeZero mbz
    needSvc
    let t ← taskArg (← readReg rs1)
    let b ← get
    check (b.core.taskStat.get t == taskWait) (coreFault 8)
    match taskWaitOf b (BitVec.ofNat 6 t) with
    | some (w, rd) =>
      if w.state = .armed then modify fun b => freeWaitEntry b w.num
      else
        modify fun b => freeWaitEntry b w.num
        modCore fun k =>
          { k with regs := k.regs.set (32 * t + rd.toNat) (syncRd w.value (if w.state = .fired then 0 else 4) w.handle)
                   taskPcs := k.taskPcs.set t (k.taskPcs.get t + 4) }
    | none => pure ()
    modCore fun k => { k with taskStat := k.taskStat.set t taskReady })

/-- CTXSAVE.L (R237). -/
def execCtxsaveL (rs1 : BitVec 5) (mbz : BitVec 5) (s : State) : Host.Outcome State Fault Refusal :=
  coreSeq s (.ctxsaveL rs1 mbz) (do
    mustBeZero mbz
    let va ← readReg rs1
    ctxSaveLower s.cfg va)

/-- CTXSAVE.U (R239). -/
def execCtxsaveU (rs1 : BitVec 5) (mbz : BitVec 5) (s : State) : Host.Outcome State Fault Refusal :=
  coreSeq s (.ctxsaveU rs1 mbz) (do
    mustBeZero mbz
    let va ← readReg rs1
    ctxSaveUpper s.cfg va)

/-- CTXLOAD.L (R238). -/
def execCtxloadL (rs1 : BitVec 5) (mbz : BitVec 5) (s : State) : Host.Outcome State Fault Refusal :=
  coreSeq s (.ctxloadL rs1 mbz) (do
    mustBeZero mbz
    let va ← readReg rs1
    ctxLoadLower s.cfg va)

/-- CTXLOAD.U (R239, R246). -/
def execCtxloadU (rs1 : BitVec 5) (mbz : BitVec 5) (s : State) : Host.Outcome State Fault Refusal :=
  coreSeq s (.ctxloadU rs1 mbz) (do
    mustBeZero mbz
    let va ← readReg rs1
    ctxLoadUpper s.cfg va)

end Sys2Proof.Machine
end

