-- ==== Sys2Proof/Machine/ExecTile.lean ====
section
/-! DEFINITION. The tile instructions (05) and INSPECT (19, R480). -/

namespace Sys2Proof.Machine

/-- exec of a tile instruction: its power domains, the tile engine's epoch (R346), its own effect, and its count (R475). -/
def tileExec (s : State) (i : Instr) (pds : List Nat) (body : M Unit) : Host.Outcome State Fault Refusal :=
  coreSeq2 s i (do
    needPds pds
    tileAccept
    body
    modify fun b => countCore b 6)

/-- Checks 0x01–0x03 of a tile-row move or TZERO (R112). `mask`: the second-word fields used. -/
def moveShape (w2 : W32) (mask : Nat) (first : Bool) : M Shape := do
  let s := shapeOf w2
  need01 (first && onlyBits w2 mask && !(s.bsc && decide (s.fmt = 8)))
  need02 s.fmt moveFmts
  check (!(s.bsc && decide (s.fmt = 0))) (tileFault 3 0 0)
  return s

def mMove : Nat := mROWS + mFMT + mBSC + mBSZ

/-- TLOAD (R119). -/
def tloadBody (c : Cfg) (w1 : BitVec 21) (w2 : W32) : M Unit := do
  let s ← moveShape w2 mMove (decide (bits w1 1 0 = 0) && (bit w2 20 || decide (bits w1 6 2 = 0)))
  let ra ← readReg (fRA w1)
  let rb ← readReg (fRB w1)
  let rc ← readReg (fRC w1)
  moveAligned ra rb (if s.bsc then some rc else none)
  let offs ← (List.range s.m).mapM fun r => do
    let o ← locateLts c .load (rowAddr ra rb r) 64 (rowAddr ra rb r)
    return (rowAddr ra rb r, o)
  let scs ← if s.bsc then locateScales c .load rc s.m else pure []
  offs.forM fun p => ltsReady p.2 64
  scs.forM fun p => ltsReady p.2.1 p.2.2
  let rows ← offs.mapM fun p => do return BitVec.ofNat 512 (natOfLE (← readLtsFor p.1 p.2 64))
  let sc ← scs.mapM fun p => readLtsFor p.1 p.2.1 p.2.2
  let scb := sc.flatten
  modTile fun tf =>
    let t := fTD w1
    (rows.zipIdx).foldl (fun tf x =>
      (tf.putRow t x.2 x.1).putScale t x.2 (BitVec.ofNat 64 (natOfLE ((scb.drop (8 * x.2)).take 8))))
      (tf.begin_ t (mkTag s.fmt s.bsc s.bsz))

def execTload (w1 : BitVec 21) (w2 : W32) (s : State) : Host.Outcome State Fault Refusal :=
  tileExec s (.tload w1 w2) pdsMove (tloadBody s.cfg w1 w2)

/-- TSTORE of tile rows (R120). -/
def tstoreTile (c : Cfg) (w1 : BitVec 21) (w2 : W32) : M Unit := do
  let s ← moveShape w2 mMove (decide (bits w1 1 0 = 0) && (bit w2 20 || decide (bits w1 6 2 = 0)))
  let t := fTD w1
  need05 s.fmt s.bsc s.bsz [t]
  let ra ← readReg (fRA w1)
  let rb ← readReg (fRB w1)
  let rc ← readReg (fRC w1)
  moveAligned ra rb (if s.bsc then some rc else none)
  let offs ← (List.range s.m).mapM fun r => locateLts c .store (rowAddr ra rb r) 64 (rowAddr ra rb r)
  let scs ← if s.bsc then locateScales c .store rc s.m else pure []
  offs.forM fun o => ltsReady o 64
  scs.forM fun p => ltsReady p.2.1 p.2.2
  let tf := (← get).tile
  (offs.zipIdx).forM fun x => writeLtsFor x.1 (bytesOf 64 (tf.row t x.2))
  let scb := (List.range s.m).flatMap fun r => bytesOf 8 (tf.scale t r)
  scs.forM fun p => writeLtsFor p.2.1 ((scb.drop (p.1 - rc).toNat).take p.2.2)

/-- TSTORE of Tun rows (R121). The spec gives its TD field no meaning and does not mark it 0: it is ignored (log 86). -/
def tstoreTun (c : Cfg) (w1 : BitVec 21) (w2 : W32) : M Unit := do
  let s := shapeOf w2
  need01 (onlyBits w2 (mROWS + mFMT + mGRP))
  need02 s.fmt [8]
  let v := (← get).tun.grp s.grp
  let comp := bit w1 1
  need08 (readableGroup v && !(comp && decide (gClass v = 0))) s.grp
  let roff := (← readReg (fRC w1)).toNat
  need09 v (roff + s.m) s.grp
  let ra ← readReg (fRA w1)
  let rb ← readReg (fRB w1)
  moveAligned ra rb none
  let offs ← (List.range s.m).mapM fun r => locateRow c .store (rowAddr ra rb r) 4
  needPds (halves (gBase v) (gRows v))
  offs.forM fun os => os.forM fun o => ltsReady o 64
  tunCross s.m
  let tun := (← get).tun
  (offs.zipIdx).forM fun x =>
    let row := tun.rows.get (gBase v + (if comp then gCap v else 0) + roff + x.2)
    (x.1.zipIdx).forM fun y => writeLtsFor y.1 (bytesOf 64 (lane 512 row y.2))

/-- TSTORE: SUB[0] chooses tile rows or Tun rows (R120, R121). -/
def tstoreBody (c : Cfg) (w1 : BitVec 21) (w2 : W32) : M Unit :=
  if bit w1 0 then tstoreTun c w1 w2 else tstoreTile c w1 w2

def execTstore (w1 : BitVec 21) (w2 : W32) (s : State) : Host.Outcome State Fault Refusal :=
  tileExec s (.tstore w1 w2) pdsMove (tstoreBody s.cfg w1 w2)

def execTstoreTun (w1 : BitVec 21) (w2 : W32) (s : State) : Host.Outcome State Fault Refusal :=
  tileExec s (.tstoreTun w1 w2) pdsMove (tstoreBody s.cfg w1 w2)

/-- Layout V's zero fields and TMOVV's and TMOVT's second word (R110, R112). -/
def movShape (w1 : BitVec 21) (w2 : W32) : M Shape := do
  let s := shapeOf w2
  need01 (decide (bits w1 20 16 = 0) && decide (bits w1 6 3 = 0) && onlyBits w2 (mROWS + mFMT) && decide (s.m ≤ 8))
  need02 s.fmt moveFmts
  return s

/-- TMOVV (R122). Rows of the tile past 63 do not arise: 8 · RSEL + r is at most 63. -/
def execTmovv (w1 : BitVec 21) (w2 : W32) (s : State) : Host.Outcome State Fault Refusal :=
  tileExec s (.tmovv w1 w2) (5 :: pdsMove) (do
    let sh ← movShape w1 w2
    let d ← readV (fRB w1)
    modTile fun tf =>
      let t := fTD w1
      (List.range sh.m).foldl (fun tf r =>
        (tf.putRow t (8 * bits w1 2 0 + r) (lane 512 d r)).putScale t (8 * bits w1 2 0 + r) 0)
        (tf.begin_ t (mkTag sh.fmt false false)))

/-- TMOVT (R122). -/
def execTmovt (w1 : BitVec 21) (w2 : W32) (s : State) : Host.Outcome State Fault Refusal :=
  tileExec s (.tmovt w1 w2) (5 :: pdsMove) (do
    let sh ← movShape w1 w2
    let t := fTD w1
    need05 sh.fmt false false [t]
    let tf := (← get).tile
    writeV (fRB w1) (ofLanes 4096 ((List.range sh.m).map fun r => tf.row t (8 * bits w1 2 0 + r))))

/-- Layout Z's zero fields. -/
def layoutZ (w1 : BitVec 21) : Bool := decide (bits w1 20 11 = 0) && decide (bits w1 6 0 = 0)

/-- TZERO (R123). -/
def execTzero (w1 : BitVec 21) (w2 : W32) (s : State) : Host.Outcome State Fault Refusal :=
  tileExec s (.tzero w1 w2) pdsMove (do
    let sh ← moveShape w2 (mFMT + mBSC + mBSZ) (layoutZ w1)
    modTile fun tf => (tf.zero (fTD w1)).begin_ (fTD w1) (mkTag sh.fmt sh.bsc sh.bsz))

/-- TRELEASE (R123). -/
def execTrelease (w1 : BitVec 21) (w2 : W32) (s : State) : Host.Outcome State Fault Refusal :=
  tileExec s (.trelease w1 w2) pdsMove (do
    need01 (layoutZ w1 && onlyBits w2 0)
    modTile fun tf => tf.release (fTD w1))

def mMul : Nat := mROWS + mCOLS + mKB + mFMT + mBSC + mGRP + mTFEED

/-- Checks 0x03–0x07 of a multiply's tiles (R78). -/
def mulTiles (s : Shape) (ta tb : Nat) : M Unit := do
  let wide := decide (s.fmt = 0) && s.tfeed && decide (32 < s.n)
  need05 s.fmt s.bsc s.bsz (ta :: pairOf wide tb)
  need06 wide tb
  check (!(s.tfeed && decide (64 < kElems s.fmt s.kb))) (tileFault 7 0 0)

/-- TMMA (R124). -/
def tmmaBody (c : Cfg) (w1 : BitVec 21) (w2 : W32) : M Unit := do
  let s := shapeOf w2
  need01 (decide (bits w1 15 11 = 0) && decide (bits w1 2 0 = 0) && onlyBits w2 (mMul + mBSZ) && !(s.bsc && decide (s.fmt = 8)))
  need02 s.fmt [0, 1, 2, 3]
  check (!(s.bsc && (decide (s.fmt = 0) || s.tfeed))) (tileFault 3 0 0)
  check (!(s.bsc && decide (kElems s.fmt s.kb % blockSize s.bsz ≠ 0))) (tileFault 4 0 0)
  let ta := fTD w1
  let tb := fTB w1
  mulTiles s ta tb
  let v := (← get).tun.grp s.grp
  need08 (gOpen v && gSums v && !gFinal v) s.grp
  let roff := (← readReg (fRA w1)).toNat
  need09 v (roff + s.m) s.grp
  needPds (pdsArray c ++ halves (gBase v) (gRows v))
  tunCross (2 * gHeld v s.m)
  let tf := (← get).tile
  let ke := kElems s.fmt s.kb
  modTun fun t =>
    let r := commitRows (fun i t => commitRow v (stepWidth s.fmt) (s.kb + 1) s.n (roff + i)
      (fun j => products (tileElem tf s ta i) (operandB tf s tb j) ke) t) s.m t
    r.1.committed s.grp r.2.1 r.2.2 true
  modify (countSteps c s.m (s.kb + 1))

def execTmma (w1 : BitVec 21) (w2 : W32) (s : State) : Host.Outcome State Fault Refusal :=
  tileExec s (.tmma w1 w2) (pdsArray s.cfg) (tmmaBody s.cfg w1 w2)

/-- TBWD (R80–R82, R126). Of two tiles or groups that fail one check, W's pair is recorded before X's and gx before gw, which the spec leaves
open (log 86). -/
def tbwdBody (c : Cfg) (w1 : BitVec 21) (w2 : W32) : M Unit := do
  let s := shapeOf w2
  let tg := bits w1 15 12
  let tw := bits w1 11 8
  let tx := bits w1 7 4
  let gw := bits w1 3 0
  need01 (onlyBits w2 (mROWS + mCOLS + mKB + mFMT + mBSC + mGRP) && !(s.bsc && decide (s.fmt = 8)))
  need02 s.fmt [0, 1, 2]
  check (!s.bsc) (tileFault 3 0 0)
  let wide := decide (s.fmt = 0) && decide (32 < s.n)
  need05 s.fmt false false (tg :: pairOf wide tw ++ pairOf wide tx)
  need06 wide tw
  need06 wide tx
  let oe := kElems s.fmt s.kb
  let v := (← get).tun.grp s.grp
  let u := (← get).tun.grp gw
  need08 (gOpen v && gSums v && !gFinal v) s.grp
  need08 (gOpen u && gSums u && !gFinal u) gw
  need09 v s.m s.grp
  need09 u oe gw
  check (decide (gw ≠ s.grp)) (tileFault 0xA 0 gw)
  needPds (pdsArray c ++ halves (gBase v) (gRows v) ++ halves (gBase u) (gRows u))
  let mask ← readReg (fRA w1)
  tunCross (2 * gHeld v s.m + 2 * gHeld u ((List.range oe).countP fun o => !bit mask o))
  let tf := (← get).tile
  let d := stepWidth s.fmt
  modTun fun t =>
    let r := commitRows (fun i t => commitRow v d (s.kb + 1) s.n i
      (fun j => products (tileElem tf s tg i) (tileDown tf s tw j) oe) t) s.m t
    let t := r.1.committed s.grp r.2.1 r.2.2 true
    let q := commitRows (fun o t =>
      if bit mask o then (t, false, false)
      else commitRow u d (ceilDiv s.m d) s.n o
        (fun j => products (fun k => tileElem tf s tg k o) (tileDown tf s tx j) s.m) t) oe t
    { q.1.committed gw q.2.1 q.2.2 true with gx := BitVec.ofNat 4 s.grp }
  modify fun b => countSteps c oe (ceilDiv s.m d) (countSteps c s.m (s.kb + 1) b)

def execTbwd (w1 : BitVec 21) (w2 : W32) (s : State) : Host.Outcome State Fault Refusal :=
  tileExec s (.tbwd w1 w2) (pdsArray s.cfg) (tbwdBody s.cfg w1 w2)

/-- TMAXI and TMINI (R125). -/
def tbestBody (c : Cfg) (isMax : Bool) (w1 : BitVec 21) (w2 : W32) : M Unit := do
  let s := shapeOf w2
  need01 (decide (bits w1 2 0 = 0) && onlyBits w2 mMul && !(s.bsc && decide (s.fmt = 8)))
  need02 s.fmt [0]
  check (!s.bsc) (tileFault 3 0 0)
  let ta := fTD w1
  let tb := fTB w1
  mulTiles s ta tb
  let v := (← get).tun.grp s.grp
  need08 (gOpen v && decide (gClass v = (if isMax then 2 else 3)) && !gFinal v) s.grp
  let roff := (← readReg (fRA w1)).toNat
  need09 v (roff + s.m) s.grp
  needPds (pdsArray c ++ halves (gBase v) (gRows v))
  let ibase := (← readReg (fRB w1)).toNat % 2 ^ 32
  tunCross (2 * gHeld v s.m)
  let tf := (← get).tile
  modTun fun t =>
    let r := commitRows (fun i t => commitBest v isMax ibase s.n (roff + i)
      (fun j => products (tileElem tf s ta i) (operandB tf s tb j) (kElems s.fmt s.kb)) t) s.m t
    r.1.committed s.grp r.2.1 r.2.2 false
  modify (countSteps c s.m (s.kb + 1))

def execTmaxi (w1 : BitVec 21) (w2 : W32) (s : State) : Host.Outcome State Fault Refusal :=
  tileExec s (.tmaxi w1 w2) (pdsArray s.cfg) (tbestBody s.cfg true w1 w2)
def execTmini (w1 : BitVec 21) (w2 : W32) (s : State) : Host.Outcome State Fault Refusal :=
  tileExec s (.tmini w1 w2) (pdsArray s.cfg) (tbestBody s.cfg false w1 w2)

/-- TGOPEN's check of its spill buffer: the first byte, in steps of a piece, that fails, and its reason (R87). -/
def bufferFault (c : Cfg) (b : Blk) (o : Nat) : Option Nat :=
  if ltsSize ≤ o then some 2
  else if !inPartition c b b.core.ps.uworld o 64 then some 3
  else if !quarterOk c o then some 4 else none

/-- Do two row ranges overlap? -/
def rowsOverlap (a b : Word) : Bool := decide (gBase a < gBase b + gRows b) && decide (gBase b < gBase a + gRows a)

/-- Initial entries of a class: main and companion rows (R88). -/
def initMain (cls : Nat) : TunRow := if cls < 2 then 0 else ofLanes 2048 (List.replicate 64 (if cls = 2 then (0xFF800000 : W32) else 0x7F800000))
def initComp (cls : Nat) : TunRow := if cls < 2 then 0 else BitVec.allOnes 2048

/-- Open a group (R88). -/
def openGroup (g : Nat) (v : Word) (t : Tun) : Tun :=
  let t := (List.range 16).foldl (fun t h =>
    if h ≠ g ∧ gOpen (t.grp h) ∧ rowsOverlap (t.grp h) v then (t.release h).mark 3 h true else t) t
  let rows := (List.range (gRows v)).foldl (fun m i =>
    m.set (gBase v + i) (if i < gCap v then initMain (gClass v) else initComp (gClass v))) t.rows
  let flag := (List.range 4).foldl (fun f k => setBit f (16 * k + g) false) t.flag
  { { t with rows := rows, flag := flag }.setGrp g v with dirty := setBit t.dirty g true }

/-- TGOPEN (R87, R88, R127). -/
def tgopenBody (c : Cfg) (w1 : BitVec 21) (w2 : W32) : M Unit := do
  let ra ← readReg (fRA w1)
  need01 (decide (bits w1 15 0 = 0) && onlyBits w2 (0x1FFFFF + mGRP) && decide (bits ra 63 25 = 0) &&
    decide (bits w2 7 0 + bits w2 15 8 ≤ 255))
  let g := bits w2 25 22
  let cls := bits w2 17 16
  let sums := decide (cls < 2)
  let spill := if sums then bits ra 11 0 else 0
  let sbuf := if sums then bits ra 24 12 else 0
  let v : Word := BitVec.ofNat 64 (bits w2 17 0 + (if sums then bits w2 20 18 * 2 ^ 18 else 0) + 2 ^ 21 + spill * 2 ^ 24 + sbuf * 2 ^ 48)
  if sums && decide (spill ≠ 0) then
    let b ← get
    match ((List.range (8 * gCap v)).map fun p => 512 * sbuf + 64 * p).find? (fun o => (bufferFault c b o).isSome) with
    | some o => raise 0x0E ((bufferFault c b o).getD 0) (BitVec.ofNat 64 o)
    | none => pure ()
  needPds (halves (gBase v) (gRows v))
  tunCross (gRows v)
  modTun (openGroup g v)

def execTgopen (w1 : BitVec 21) (w2 : W32) (s : State) : Host.Outcome State Fault Refusal :=
  tileExec s (.tgopen w1 w2) [] (tgopenBody s.cfg w1 w2)

/-- TGCLOSE (R90, R128). -/
def execTgclose (w1 : BitVec 21) (w2 : W32) (s : State) : Host.Outcome State Fault Refusal :=
  tileExec s (.tgclose w1 w2) [] (do
    need01 (decide (bits w1 20 1 = 0) && onlyBits w2 mGRP)
    let g := bits w2 25 22
    need08 (gOpen ((← get).tun.grp g)) g
    if bit w1 0 then modTun fun t => t.release g else closeGroup s.cfg g)

/-! TEPI (R129–R133). -/

/-- Tiles of a TEPI output row (R130). -/
def tepiTiles (fmt n : Nat) : Nat :=
  if fmt = 0 then (if 32 < n then 2 else 1)
  else if fmt = 8 then (if 32 < n then 4 else if 16 < n then 2 else 1)
  else 1

/-- One output row: codes of columns, scale bytes of blocks, flags (R131). `rs` are the columns' random values. -/
def tepiRow (F : Fmt) (rm : RMode) (sm : SMode) (bsc : Bool) (B : Nat) (ws : List Ex) (rs : List Nat) : List Nat × List Nat × CvtFlags :=
  if bsc then
    (chunks B (ws.length / B) (ws.zip rs)).foldl (fun (a : List Nat × List Nat × CvtFlags) blk =>
      let xs := blk.map fun p => p.1
      let e := blockExponent xs F sm
      (a.1 ++ blk.map (fun p => blockCode e F rm sm p.2 p.1), a.2.1 ++ [e], a.2.2.or (blockFlags e F rm sm xs (blk.map fun p => p.2))))
      ([], [], {})
  else
    ((ws.zip rs).map fun p => rndFtz p.1 F rm sm p.2, [],
     (ws.zip rs).foldl (fun f p => f.or (cvtFlags p.1 F rm sm p.2)) {})

/-- The number that codes of `w` bits spell, the first lowest. -/
def packCodes (w : Nat) : List Nat → Nat
  | [] => 0
  | v :: vs => v % 2 ^ w + 2 ^ w * packCodes w vs

/-- What TEPI does with row i: advance lanes under SR, convert, write (R130, R131). -/
def tepiOne (w1 : BitVec 21) (w2 : W32) (roff i : Nat) (d : VReg) : M Unit := do
  let s := shapeOf w2
  let v := (← get).tun.grp s.grp
  let F := fmtOf s.fmt
  let act := bits w1 6 4
  let sben := bit w1 3
  let rm : RMode := if bits w2 28 27 = 0 then .rne else if bits w2 28 27 = 1 then .rtz else .sr
  let sm : SMode := if bit w2 29 then .ieee else .sat
  let row := (← get).tun.rows.get (gBase v + roff + i)
  let ws := (List.range s.n).map fun j =>
    let y := decodeFlushed .b32 (entry row j).toNat
    let u := if sben then rnd32 (Ex.fused y (decodeFlushed .b32 (lane 32 d j).toNat) (decodeFlushed .b32 (lane 32 d (64 + j)).toNat))
             else y
    activate act u
  let sr := decide (rm = .sr)
  if sr then
    modEpi fun e => (List.range s.n).foldl (fun e j => setLaneState e j (advanceLane (laneState e j))) e
  let e := (← get).epi
  let rs := (List.range s.n).map fun j => if sr then laneRandom (laneState e j) F else 0
  let r := tepiRow F rm sm s.bsc (blockSize s.bsz) ws rs
  modEpi fun e => { e with cvt := e.cvt ||| BitVec.ofNat 5 r.2.2.toNat }
  let bitsOut := packCodes F.width r.1
  modTile fun tf => (List.range (tepiTiles s.fmt s.n)).foldl (fun tf q =>
    (tf.putRow (fTD w1 + q) i (BitVec.ofNat 512 (bitsOut >>> (512 * q)))).putScale (fTD w1 + q) i
      (BitVec.ofNat 64 (packCodes 8 r.2.1))) tf

def tepiBody (w1 : BitVec 21) (w2 : W32) : M Unit := do
  let s := shapeOf w2
  let td := fTD w1
  let n := tepiTiles s.fmt s.n
  let rmc := bits w2 28 27
  need01 (decide (bits w1 2 0 = 0) && decide (bits w1 6 4 ≤ 5) && (bit w1 3 || decide (bits w1 15 11 = 0)) &&
    onlyBits w2 (mROWS + mCOLS + mFMT + mBSC + mBSZ + mGRP + 0x38000000) && decide (rmc ≠ 3) &&
    !(decide (rmc = 2) && decide (s.fmt = 8)) && decide (td % n = 0) && !(s.bsc && decide (s.fmt = 8)))
  need02 s.fmt moveFmts
  check (!(s.bsc && decide (s.fmt = 0))) (tileFault 3 0 0)
  check (!(s.bsc && decide (s.n % blockSize s.bsz ≠ 0))) (tileFault 4 0 0)
  let v := (← get).tun.grp s.grp
  need08 (readableGroup v) s.grp
  let roff := (← readReg (fRA w1)).toNat
  need09 v (roff + s.m) s.grp
  needPds (halves (gBase v) (gRows v))
  tunCross s.m
  let d ← readV (fRB w1)
  modTile fun tf => (List.range n).foldl (fun tf q => tf.begin_ (td + q) (mkTag s.fmt s.bsc s.bsz)) tf
  (List.range s.m).forM fun i => tepiOne w1 w2 roff i d

def execTepi (w1 : BitVec 21) (w2 : W32) (s : State) : Host.Outcome State Fault Refusal :=
  tileExec s (.tepi w1 w2) (if bit w1 3 then [14, 15, 5] else [14, 15]) (tepiBody w1 w2)

/-- INSPECT (R479, R480): outside inspection mode it raises cause 0x03. -/
def execInspect (w1 : BitVec 21) (w2 : W32) (s : State) : Host.Outcome State Fault Refusal :=
  tileExec s (.inspect w1 w2) [] (do
    let b ← get
    if !(b.obs.inspect && b.core.ps.level == 2) then privFault
    needPds [5]
    let r := (← readReg (fRA w1)).toNat
    let src := bits w2 1 0
    let td := fTD w1
    need01 (decide (bits w1 6 0 = 0) && onlyBits w2 3 &&
      (if src = 0 then decide (r % 8 = 0) && decide (r ≤ 56)
       else if src = 1 then decide (r % 2 = 0) && decide (r ≤ 2046) && decide (td = 0)
       else if src = 2 then decide (bits w1 20 16 = 0)
       else decide (bits w1 20 16 = 0) && decide (td = 0)))
    needPds (if src = 1 then halves r 2 else [14])
    tunCross (if src = 1 then 2 else 0)
    let tf := b.tile
    writeV (fRB w1)
      (if src = 0 then ofLanes 4096 ((List.range 8).map fun i => tf.row td (r + i))
       else if src = 1 then ofLanes 4096 [b.tun.rows.get r, b.tun.rows.get (r + 1)]
       else if src = 2 then ofLanes 4096 ((List.range 64).map fun i => tf.scale td i)
       else ofLanes 4096 ((List.range 16).map fun t => (tf.tag t).zeroExtend 8)))

/-- TUN_SPILL (R99, R101): the spill of a group whose triggering commit has been made and which is still due. -/
def execTunSpill (g : BitVec 4) (s : State) : Host.Outcome State Fault Refusal :=
  blkNext s fun b => trySpill s.cfg b g.toNat

/-- FENCE.T (R372): tile, vector and chain instructions complete before the next command, the spills that are due among them. -/
def execFenceT (mbz : BitVec 15) (s : State) : Host.Outcome State Fault Refusal :=
  coreSeq s (.fenceT mbz) (do
    mustBeZero mbz
    if unacknowledged (← get) then waitFor .other)

end Sys2Proof.Machine
end

