-- ==== Sys2Proof/Machine/VecOps.lean ====
section
/-! DEFINITION. Operands, checks and memory transfers of the vector unit (06). -/

namespace Sys2Proof.Machine

/-- The fields of both words of a vector instruction (R140, R141); `w2` is bits [31:8] of the second word. -/
structure VF where
  vd : BitVec 5
  vs1 : BitVec 5
  vs2 : BitVec 5
  vs3 : BitVec 5
  zero1 : Bool
  fmt : Nat
  fmt2 : Nat
  rmode : Nat
  smode : Bool
  ew : Nat
  sub : Nat
  comp : Bool
  zero2 : Bool
deriving DecidableEq, Repr

def vf (w1 : BitVec 26) (w2 : BitVec 24) : VF :=
  { vd := BitVec.ofNat 5 (bits w1 25 21), vs1 := BitVec.ofNat 5 (bits w1 20 16), vs2 := BitVec.ofNat 5 (bits w1 15 11)
    vs3 := BitVec.ofNat 5 (bits w1 10 6), zero1 := decide (bits w1 5 0 = 0), fmt := bits w2 3 0, fmt2 := bits w2 7 4
    rmode := bits w2 9 8, smode := bit w2 10, ew := bits w2 13 11, sub := bits w2 16 14, comp := bit w2 17
    zero2 := decide (bits w2 23 18 = 0) }

/-- What of the two words an instruction uses (R141, R142). -/
structure VUse where
  vd : Bool := true
  vs1 : Bool := true
  vs2 : Bool := false
  vs3 : Bool := false
  fmt : Bool := false
  fmt2 : Bool := false
  round : Bool := false
  ew : Bool := false
  /-- the SUB values defined -/
  subs : List Nat := [0]
  comp : Bool := false
deriving DecidableEq, Repr

/-- Check 0x01 (R142, R158). -/
def vCheck1 (f : VF) (u : VUse) : M Unit :=
  check (f.zero1 && f.zero2 && (u.vd || f.vd == 0) && (u.vs1 || f.vs1 == 0) && (u.vs2 || f.vs2 == 0) && (u.vs3 || f.vs3 == 0) &&
    (u.fmt || f.fmt == 0) && (u.fmt2 || f.fmt2 == 0) && (if u.round then f.rmode != 3 else f.rmode == 0 && !f.smode) &&
    (if u.ew then decide (f.ew ≤ 4) else f.ew == 0) && u.subs.contains f.sub && (u.comp || !f.comp)) (vecFault 1 0)

/-- Check 0x02. A reserved code of FMT or FMT2 (R22) is a format that the instruction does not accept, so that it records 0x02 and not the 0x01
of a reserved field value: the model's choice (log 87). -/
def vCheck2 (p : Bool) : M Unit := check p (vecFault 2 0)

/-- Elements of width w a register holds (R136). -/
def cap (w : Nat) : Nat := 4096 / w

/-- CR_VL.COUNT. -/
def vcount : M Nat := do return (← get).vec.vl.toNat

/-- Check 0x03: n fits the width. -/
def vCheck3 (n w : Nat) : M Unit := check (decide (n ≤ cap w)) (vecFault 3 0)

/-- Element width of an EW code (R141). -/
def ewBits (ew : Nat) : Nat := 4 * 2 ^ ew

/-- The widths of formats W and B (R142). -/
def fmtW (fmt : Nat) : Bool := fmt == 0
def fmtB (fmt : Nat) : Bool := fmt == 8 || fmt == 9
def fmtWB (fmt : Nat) : Bool := fmtW fmt || fmtB fmt
def fmtWidth (fmt : Nat) : Nat := (fmtOf fmt).width

/-- Element i of width w. -/
def elem (w : Nat) (r : VReg) (i : Nat) : Nat := (r.toNat >>> (w * i)) % 2 ^ w

/-- A register with elements from i on replaced by a list. -/
def putElems (w : Nat) (r : VReg) (i : Nat) : List Nat → VReg
  | [] => r
  | v :: vs => putElems w (setBits r (w * i + w - 1) (w * i) v) (i + 1) vs

/-- Write elements from i on; a list with no element writes no byte (R162). -/
def writeElems (v : BitVec 5) (w i : Nat) (vs : List Nat) : M Unit := do
  if vs.isEmpty then return ()
  let r ← readV v
  writeV v (putElems w r i vs)

/-- CR_VCSR.RD. -/
def vcsrRd : M Nat := do return bits (← get).vec.vcsr 1 0

/-- Elements 0 to n − 1 of a register. -/
def elems (w n : Nat) (r : VReg) : List Nat := (List.range n).map (elem w r)

/-- exec of a vector instruction: it completes with CR_VRESUME 0 (R156) and counts (R475). -/
def vecExec (s : State) (i : Instr) (body : M Unit) : Host.Outcome State Fault Refusal :=
  coreSeq2 s i (do
    needPds [5]
    modify fun b => match epochReady b with
      | some e => { b with rings := { b.rings with epVec := e } }
      | none => b
    body
    modVec fun v => { v with vresume := 0 }
    modify fun b => countCore b 7)

/-- An element-wise instruction whose elements give codes with IEEE flags or conversion flags. -/
def mapElems (v : BitVec 5) (w n : Nat) (f : Nat → Nat × FFlags × CvtFlags) : M Unit := do
  let rs := (List.range n).map f
  modVec fun x => { x with vcsr := x.vcsr ||| BitVec.ofNat 7 (rs.foldl (fun (a : FFlags) r => a.or r.2.1) {}).toNat }
  accCvt (rs.foldl (fun (a : CvtFlags) r => a.or r.2.2) {})
  writeElems v w 0 (rs.map fun r => r.1)

/-- RMODE and SMODE of a narrow rounding; SR fails check 0x02 (R36, R141). -/
def vRound (f : VF) : RMode × SMode := (if f.rmode = 1 then .rtz else .rne, if f.smode then .ieee else .sat)

/-! Memory transfers (R152–R156). -/

/-- Bytes of elements of width w. -/
def elemBytes (w n : Nat) : Nat := w * n / 8

/-- The element that holds byte k of the range. -/
def elemAt (w k : Nat) : Nat := 8 * k / w

/-- Raise at element i, keeping what has been transferred (R155). -/
def stopAt (i : Nat) (t : Trap) : M α := do
  modVec fun v => { v with vresume := BitVec.ofNat 11 i }
  throw (.trap { t with keep := true })

def vecAccess (reason : Nat) (va : Word) : Trap :=
  { cause := 0x0F, detail := BitVec.ofNat 16 reason, faddr := va, fault := .none, wlevel := none, ipa := none, keep := true }

/-- A piece of the range that has passed its checks: byte number in the range, address, GPA, length, path. -/
structure VPiece where
  k : Nat
  va : Word
  gpa : Word
  n : Nat
  path : Path
deriving DecidableEq, Repr

/-- Check the pieces in ascending order: those that pass, and the first failure with its byte number. -/
def vLocate (c : Cfg) (acc : Acc) (ra : Word) : List (Word × Nat) → M (List VPiece × Option (Nat × Trap))
  | [] => return ([], none)
  | (va, n) :: rest => do
    let (l, w) ← runningCtx
    let k := (va - ra).toNat
    let r : Except Trap (Word × Path) ← try
        let x ← locate c acc l w va n false
        pure (.ok x)
      catch
        | .trap t => pure (.error t)
        | e => throw e
    match r with
    | .error t => return ([], some (k, t))
    | .ok (g, .port _ .device) =>
      let _ := g
      return ([], some (k, vecAccess 1 va))
    | .ok (g, p) =>
      let (ps, e) ← vLocate c acc ra rest
      return ({ k := k, va := va, gpa := g, n := n, path := p } :: ps, e)

/-- Clip the pieces to the range's bytes below `lim`. -/
def clipPieces (lim : Nat) (ps : List VPiece) : List VPiece :=
  ps.filterMap fun p => if lim ≤ p.k then none else some { p with n := Nat.min p.n (lim - p.k) }

/-- Read one piece: its bytes, or the failing byte within it and the reason (R153, R155). -/
def vReadPiece (c : Cfg) (p : VPiece) : M (Except (Nat × Nat) (List Byte)) := do
  let (l, w) ← runningCtx
  match p.path with
  | .lts off =>
    ltsReady off p.n
    let r ← liftBlk (ltsRead w off p.n)
    match r.2 with
    | some bad => return .error (bad - off, 2)
    | none => return .ok r.1
  | path =>
    match ← physRead c false p.gpa p.n w (l == 2) path with
    | .ok d => return .ok (pieceBytes d (p.gpa.toNat % 64) p.n)
    | .bad k => return .error (0, 2 + k)

/-- Read pieces in order until one fails: the bytes read, and the failing byte with its reason. -/
def vReadAll (c : Cfg) : List VPiece → M (List Byte × Option (Nat × Nat))
  | [] => return ([], none)
  | p :: ps => do
    match ← vReadPiece c p with
    | .error (o, r) => return ([], some (p.k + o, r))
    | .ok bs =>
      let (rest, e) ← vReadAll c ps
      return (bs ++ rest, e)

/-- Put bytes k0 onwards of the range into elements i0 to i1 − 1. -/
def depositElems (w : Nat) (vd : BitVec 5) (k0 i0 i1 : Nat) (bs : List Byte) : M Unit := do
  let x := natOfLE bs
  writeElems vd w i0 ((List.range (i1 - i0)).map fun j => (x >>> (w * (i0 + j) - 8 * k0)) % 2 ^ w)

/-- VLD (R152–R156). -/
def vldBody (c : Cfg) (w n : Nat) (vd : BitVec 5) (ra : Word) : M Unit := do
  let i0 := (← get).vec.vresume.toNat
  if n ≤ i0 then return ()
  let k0 := elemBytes w i0
  let ps := rangePieces 66 (ra + BitVec.ofNat 64 k0) (elemBytes w n - k0)
  let (good, bad) ← vLocate c .load ra ps
  let lim := match bad with
    | some (k, _) => elemAt w k
    | none => n
  let (bs, err) ← vReadAll c (clipPieces (elemBytes w lim) good)
  match err with
  | some (k, reason) =>
    let i := elemAt w k
    depositElems w vd k0 i0 i bs
    stopAt (Nat.max i0 i) (vecAccess reason (ra + BitVec.ofNat 64 k))
  | none =>
    depositElems w vd k0 i0 lim bs
    match bad with
    | some (_, t) => stopAt (Nat.max i0 lim) t
    | none => return ()

/-- Make one piece ready to be written; a fill of the L1D that fails gives the reason (R153). -/
def vReadyPiece (c : Cfg) (p : VPiece) : M (Option Nat) := do
  let (l, w) ← runningCtx
  match p.path with
  | .lts off =>
    ltsReady off p.n
    return none
  | .cached =>
    let b ← get
    match ← readLine c false (p.gpa.toNat / 64) w (prefetchOk c b w (l == 2) needR) with
    | .ok _ => return none
    | .bad k => return some (2 + k)
  | .port _ _ =>
    needPds [18]
    return none

/-- Make the pieces ready in order until one fails: its byte number and the reason. No byte is written before, so that a VST that waits has
transferred nothing and no element is transferred in part (R155). -/
def vReadyAll (c : Cfg) : List VPiece → M (Option (Nat × Nat))
  | [] => return none
  | p :: ps => do
    match ← vReadyPiece c p with
    | some r => return some (p.k, r)
    | none => vReadyAll c ps

/-- Write the pieces in order. -/
def vWriteAll (c : Cfg) (k0 : Nat) (bs : List Byte) : List VPiece → M Unit
  | [] => return ()
  | p :: ps => do
    let (l, w) ← runningCtx
    let _ ← physWrite c p.gpa ((bs.drop (p.k - k0)).take p.n) w (l == 2) p.path
    vWriteAll c k0 bs ps

/-- VST (R152–R156). -/
def vstBody (c : Cfg) (w n : Nat) (v : BitVec 5) (ra : Word) : M Unit := do
  let i0 := (← get).vec.vresume.toNat
  if n ≤ i0 then return ()
  let k0 := elemBytes w i0
  let ps := rangePieces 66 (ra + BitVec.ofNat 64 k0) (elemBytes w n - k0)
  let (good, bad) ← vLocate c .store ra ps
  let lim := match bad with
    | some (k, _) => elemAt w k
    | none => n
  let d ← readV v
  let bs := (bytesOf 512 d).drop k0
  let ready := clipPieces (elemBytes w lim) good
  match ← vReadyAll c ready with
  | some (k, reason) =>
    vWriteAll c k0 bs (clipPieces (elemBytes w (elemAt w k)) ready)
    stopAt (Nat.max i0 (elemAt w k)) (vecAccess reason (ra + BitVec.ofNat 64 k))
  | none =>
    vWriteAll c k0 bs ready
    match bad with
    | some (_, t) => stopAt (Nat.max i0 lim) t
    | none => return ()

end Sys2Proof.Machine
end

