-- ==== Sys2Proof/Machine/ExecVec.lean ====
section
/-! DEFINITION. The vector instructions (06). -/

namespace Sys2Proof.Machine

/-- VSETL (R138): the least of rs, unsigned, and cap(EW). -/
def vsetlBody (f : VF) : M Unit := do
  vCheck1 f { ew := true }
  let n := Nat.min (← readReg f.vs1).toNat (cap (ewBits f.ew))
  modVec fun v => { v with vl := BitVec.ofNat 11 n }
  writeReg f.vd (BitVec.ofNat 64 n)

/-- n of a memory instruction, checked (R139, R142). -/
def vmemCount (f : VF) : M Nat := do
  let n ← vcount
  vCheck3 n (ewBits f.ew)
  check (!(decide (f.ew = 0) && decide (n % 2 = 1))) (vecFault 3 0)
  return n

/-- Width of VSPLAT, VINS and VEXT after checks 0x01 and 0x02: SUB[0] chooses FMT with an f register (R142). -/
def scalarWidth (f : VF) (indexed : Bool) : M Nat := do
  if f.sub % 2 = 1 then
    vCheck1 f { vs2 := indexed, fmt := true, subs := [1] }
    vCheck2 (fmtWB f.fmt)
    return fmtWidth f.fmt
  else
    vCheck1 f { vs2 := indexed, ew := true }
    vCheck2 (decide (1 ≤ f.ew))
    return ewBits f.ew

/-- The scalar of VSPLAT and VINS (R142). -/
def scalarIn (f : VF) (w : Nat) : M Nat := do
  if f.sub % 2 = 1 then
    let x := (← readF f.vs1).toNat
    return if f.fmt = 0 then (x >>> 16) % 2 ^ 16 else x % 2 ^ w
  else return (← readReg f.vs1).toNat % 2 ^ w

/-- A W16 code as B32, exactly (R39). -/
def widenW16 (x : Nat) : Nat := (cvtToIeee .b32 .w16 0 x).1

/-- VTBL (R148). -/
def vtblBody (f : VF) : M Unit := do
  vCheck1 f { vs2 := true, ew := true, subs := [0, 1, 2] }
  vCheck2 (decide (1 ≤ f.ew))
  let w := ewBits f.ew
  let n ← vcount
  vCheck3 n w
  let t := 2 ^ f.sub
  check (decide (f.vs1.toNat + t ≤ 32)) (vecFault 4 f.vs1.toNat)
  let v := (← get).vec.v
  let idx := elems w n (← readV f.vs2)
  writeElems f.vd w 0 (idx.map fun k => if k < t * cap w then elem w (v.get (f.vs1.toNat + k / cap w)) (k % cap w) else 0)

/-- An element-wise operation on W16, B32 or B64 elements that sets IEEE flags and rounds nothing narrow. -/
def vB2 (f : VF) (rd : Nat) (op : Fmt → Nat → Nat → Nat → Nat × FFlags) : M Unit := do
  let F := fmtOf f.fmt
  let n ← vcount
  vCheck3 n F.width
  let a ← readV f.vs1
  let b ← readV f.vs2
  mapElems f.vd F.width n fun i =>
    let r := op F rd (elem F.width a i) (elem F.width b i)
    (r.1, r.2, {})

/-- VADD, VSUB and VMUL (R143, R145). -/
def varith2 (f : VF) (ex : Ex → Ex → Ex) (op : Fmt → Nat → Nat → Nat → Nat × FFlags) : M Unit := do
  vCheck1 f { vs2 := true, fmt := true, round := fmtW f.fmt }
  vCheck2 (fmtWB f.fmt && f.rmode != 2)
  if fmtW f.fmt then
    let n ← vcount
    vCheck3 n 16
    let a ← readV f.vs1
    let b ← readV f.vs2
    let (rm, sm) := vRound f
    mapElems f.vd 16 n fun i =>
      let r := w16Result (ex (decodeEx .w16 (elem 16 a i)) (decodeEx .w16 (elem 16 b i))) rm sm
      (r.1, {}, r.2)
  else vB2 f (← vcsrRd) op

/-- VFMA (R143, R145). -/
def vfmaBody (f : VF) : M Unit := do
  vCheck1 f { vs2 := true, vs3 := true, fmt := true, round := fmtW f.fmt }
  vCheck2 (fmtWB f.fmt && f.rmode != 2)
  let F := fmtOf f.fmt
  let n ← vcount
  vCheck3 n F.width
  let a ← readV f.vs1
  let b ← readV f.vs2
  let x ← readV f.vs3
  let rd ← vcsrRd
  let (rm, sm) := vRound f
  mapElems f.vd F.width n fun i =>
    let p := elem F.width a i
    let q := elem F.width b i
    let z := elem F.width x i
    if fmtW f.fmt then
      let r := w16Result (Ex.fused (decodeEx F p) (decodeEx F q) (decodeEx F z)) rm sm
      (r.1, {}, r.2)
    else
      let r := ieeeFma F rd p q z
      (r.1, r.2, {})

/-- VCVT (R146). -/
def vcvtBody (f : VF) : M Unit := do
  let narrow := decide (f.fmt ≤ 3)
  vCheck1 f { fmt := true, fmt2 := true, round := narrow }
  vCheck2 ((Fmt.ofCode f.fmt).isSome && (Fmt.ofCode f.fmt2).isSome && f.fmt != f.fmt2 && f.rmode != 2)
  let T := fmtOf f.fmt
  let S := fmtOf f.fmt2
  let n ← vcount
  vCheck3 n T.width
  vCheck3 n S.width
  let a ← readV f.vs1
  let rd ← vcsrRd
  let (rm, sm) := vRound f
  mapElems f.vd T.width n fun i =>
    let x := elem S.width a i
    if narrow then (rndFtz (decodeEx S x) T rm sm 0, {}, cvtFlags (decodeEx S x) T rm sm 0)
    else
      let r := cvtToIeee T S rd x
      (r.1, r.2, {})

/-- VCVTI (R146). -/
def vcvtiBody (f : VF) : M Unit := do
  vCheck1 f { fmt := true, subs := [0, 1] }
  vCheck2 (fmtB f.fmt)
  let F := fmtOf f.fmt
  let n ← vcount
  vCheck3 n F.width
  let a ← readV f.vs1
  let rd ← vcsrRd
  mapElems f.vd F.width n fun i =>
    let x := elem F.width a i
    if f.sub = 0 then
      let r := cvtToInt F.width F rd x
      (r.1.toNat, r.2, {})
    else
      let r := cvtOfInt F rd (BitVec.ofNat F.width x).toInt
      (r.1, r.2, {})

/-- The integer instructions (R147). -/
def vint2 (f : VF) (op : Nat → Nat → Nat → Nat) : M Unit := do
  vCheck1 f { vs2 := true, ew := true }
  vCheck2 (decide (1 ≤ f.ew))
  let w := ewBits f.ew
  let n ← vcount
  vCheck3 n w
  let a ← readV f.vs1
  let b ← readV f.vs2
  writeElems f.vd w 0 ((List.range n).map fun i => op w (elem w a i) (elem w b i))

/-- Checks of a reduction and its inputs, W16 widened to B32: format, inputs, VS2 (R149). -/
def redInputs (f : VF) (comp : Bool) : M (Fmt × List Nat × VReg) := do
  vCheck1 f { vs2 := true, fmt := true, comp := comp }
  vCheck2 (fmtWB f.fmt)
  let n ← vcount
  vCheck3 n (fmtWidth f.fmt)
  let xs := elems (fmtWidth f.fmt) n (← readV f.vs1)
  return (if fmtW f.fmt then .b32 else fmtOf f.fmt, if fmtW f.fmt then xs.map widenW16 else xs, ← readV f.vs2)

/-- VREDSUM (R149, R150). -/
def vredsumBody (f : VF) : M Unit := do
  let (F, xs, init) ← redInputs f true
  let w := F.width
  if f.comp then
    match treeFold (cnode F) xs.length (xs.map fun x => ((x, 0), ({} : FFlags))) with
    | none => return ()
    | some t =>
      let r := cnode F t ((elem w init 0, elem w init 1), {})
      accVcsr r.2
      writeElems f.vd w 0 [r.1.1, r.1.2]
  else
    let rd ← vcsrRd
    match treeFold (rdAdd F rd) xs.length (xs.map fun x => (x, ({} : FFlags))) with
    | none => return ()
    | some t =>
      let r := rdAdd F rd t (elem w init 0, {})
      accVcsr r.2
      writeElems f.vd w 0 [r.1]

/-- VREDMAX and VREDMIN (R151). -/
def vredBest (isMax : Bool) (f : VF) : M Unit := do
  let (F, xs, init) ← redInputs f false
  let op (a b : Flagged) : Flagged :=
    let r := ieeeMinMax isMax F a.1 b.1
    (r.1, (a.2.or b.2).or r.2)
  match treeFold op xs.length (xs.map fun x => (x, ({} : FFlags))) with
  | none => return ()
  | some t =>
    let r := op t (elem F.width init 0, {})
    accVcsr r.2
    writeElems f.vd F.width 0 [r.1]

/-- VSETL (R138). -/
def execVsetl (w1 : BitVec 26) (w2 : BitVec 24) (s : State) : Host.Outcome State Fault Refusal :=
  vecExec s (.vsetl w1 w2) (vsetlBody (vf w1 w2))

/-- VLD (R152). -/
def execVld (w1 : BitVec 26) (w2 : BitVec 24) (s : State) : Host.Outcome State Fault Refusal :=
  vecExec s (.vld w1 w2) (do
    let f := vf w1 w2
    vCheck1 f { ew := true }
    let n ← vmemCount f
    vldBody s.cfg (ewBits f.ew) n f.vd (← readReg f.vs1))

/-- VST (R152). -/
def execVst (w1 : BitVec 26) (w2 : BitVec 24) (s : State) : Host.Outcome State Fault Refusal :=
  vecExec s (.vst w1 w2) (do
    let f := vf w1 w2
    vCheck1 f { ew := true }
    let n ← vmemCount f
    vstBody s.cfg (ewBits f.ew) n f.vd (← readReg f.vs1))

/-- VSPLAT (R142). -/
def execVsplat (w1 : BitVec 26) (w2 : BitVec 24) (s : State) : Host.Outcome State Fault Refusal :=
  vecExec s (.vsplat w1 w2) (do
    let f := vf w1 w2
    let w ← scalarWidth f false
    let n ← vcount
    vCheck3 n w
    let x ← scalarIn f w
    writeElems f.vd w 0 (List.replicate n x))

/-- VINS (R142). -/
def execVins (w1 : BitVec 26) (w2 : BitVec 24) (s : State) : Host.Outcome State Fault Refusal :=
  vecExec s (.vins w1 w2) (do
    let f := vf w1 w2
    let w ← scalarWidth f true
    let i := (← readReg f.vs2).toNat
    check (decide (i < cap w)) (vecFault 5 0)
    writeElems f.vd w i [← scalarIn f w])

/-- VEXT (R142). -/
def execVext (w1 : BitVec 26) (w2 : BitVec 24) (s : State) : Host.Outcome State Fault Refusal :=
  vecExec s (.vext w1 w2) (do
    let f := vf w1 w2
    let w ← scalarWidth f true
    let i := (← readReg f.vs2).toNat
    check (decide (i < cap w)) (vecFault 5 0)
    let x := elem w (← readV f.vs1) i
    if f.sub % 2 = 0 then writeReg f.vd (BitVec.ofNat 64 x)
    else writeFp f.vd (if f.fmt = 0 then widenW16 x else x))

/-- VTBL (R148). -/
def execVtbl (w1 : BitVec 26) (w2 : BitVec 24) (s : State) : Host.Outcome State Fault Refusal :=
  vecExec s (.vtbl w1 w2) (vtblBody (vf w1 w2))

/-- VADD (R143, R145). -/
def execVadd (w1 : BitVec 26) (w2 : BitVec 24) (s : State) : Host.Outcome State Fault Refusal :=
  vecExec s (.vadd w1 w2) (varith2 (vf w1 w2) Ex.add ieeeAdd)

/-- VSUB (R143, R145). -/
def execVsub (w1 : BitVec 26) (w2 : BitVec 24) (s : State) : Host.Outcome State Fault Refusal :=
  vecExec s (.vsub w1 w2) (varith2 (vf w1 w2) Ex.sub ieeeSub)

/-- VMUL (R143, R145). -/
def execVmul (w1 : BitVec 26) (w2 : BitVec 24) (s : State) : Host.Outcome State Fault Refusal :=
  vecExec s (.vmul w1 w2) (varith2 (vf w1 w2) Ex.mul ieeeMul)

/-- VFMA (R143, R145). -/
def execVfma (w1 : BitVec 26) (w2 : BitVec 24) (s : State) : Host.Outcome State Fault Refusal :=
  vecExec s (.vfma w1 w2) (vfmaBody (vf w1 w2))

/-- VDIV (R143). -/
def execVdiv (w1 : BitVec 26) (w2 : BitVec 24) (s : State) : Host.Outcome State Fault Refusal :=
  vecExec s (.vdiv w1 w2) (do
    let f := vf w1 w2
    vCheck1 f { vs2 := true, fmt := true }
    vCheck2 (fmtB f.fmt)
    vB2 f (← vcsrRd) (fun F rd a b => ieeeDiv F rd a b))

/-- VSQRT (R143). -/
def execVsqrt (w1 : BitVec 26) (w2 : BitVec 24) (s : State) : Host.Outcome State Fault Refusal :=
  vecExec s (.vsqrt w1 w2) (do
    let f := vf w1 w2
    vCheck1 f { fmt := true }
    vCheck2 (fmtB f.fmt)
    vB2 f (← vcsrRd) (fun F rd a _ => ieeeSqrt F rd a))

/-- VMIN (R143, R145). -/
def execVmin (w1 : BitVec 26) (w2 : BitVec 24) (s : State) : Host.Outcome State Fault Refusal :=
  vecExec s (.vmin w1 w2) (do
    let f := vf w1 w2
    vCheck1 f { vs2 := true, fmt := true }
    vCheck2 (fmtWB f.fmt)
    vB2 f 0 (fun F _ a b => ieeeMinMax false F a b))

/-- VMAX (R143, R145). -/
def execVmax (w1 : BitVec 26) (w2 : BitVec 24) (s : State) : Host.Outcome State Fault Refusal :=
  vecExec s (.vmax w1 w2) (do
    let f := vf w1 w2
    vCheck1 f { vs2 := true, fmt := true }
    vCheck2 (fmtWB f.fmt)
    vB2 f 0 (fun F _ a b => ieeeMinMax true F a b))

/-- VABS (R143, R145). -/
def execVabs (w1 : BitVec 26) (w2 : BitVec 24) (s : State) : Host.Outcome State Fault Refusal :=
  vecExec s (.vabs w1 w2) (do
    let f := vf w1 w2
    vCheck1 f { fmt := true }
    vCheck2 (fmtWB f.fmt)
    vB2 f 0 (fun F _ a _ => (fpAbs F a, {})))

/-- VNEG (R143, R145). -/
def execVneg (w1 : BitVec 26) (w2 : BitVec 24) (s : State) : Host.Outcome State Fault Refusal :=
  vecExec s (.vneg w1 w2) (do
    let f := vf w1 w2
    vCheck1 f { fmt := true }
    vCheck2 (fmtWB f.fmt)
    vB2 f 0 (fun F _ a _ => (fpNeg F a, {})))

/-- VCMP (R147). -/
def execVcmp (w1 : BitVec 26) (w2 : BitVec 24) (s : State) : Host.Outcome State Fault Refusal :=
  vecExec s (.vcmp w1 w2) (do
    let f := vf w1 w2
    vCheck1 f { vs2 := true, fmt := true, subs := [0, 1, 2, 3] }
    vCheck2 (fmtWB f.fmt)
    vB2 f 0 (fun F _ a b =>
      let r := fpCompare F f.sub a b
      (if r.1 then 2 ^ F.width - 1 else 0, r.2)))

/-- VSEL (R147). -/
def execVsel (w1 : BitVec 26) (w2 : BitVec 24) (s : State) : Host.Outcome State Fault Refusal :=
  vecExec s (.vsel w1 w2) (do
    let f := vf w1 w2
    vCheck1 f { vs2 := true, vs3 := true, ew := true }
    vCheck2 (decide (1 ≤ f.ew))
    let w := ewBits f.ew
    let n ← vcount
    vCheck3 n w
    let m ← readV f.vs3
    let r := ((← readV f.vs1) &&& m) ||| ((← readV f.vs2) &&& ~~~m)
    writeElems f.vd w 0 (elems w n r))

/-- VCVT (R146). -/
def execVcvt (w1 : BitVec 26) (w2 : BitVec 24) (s : State) : Host.Outcome State Fault Refusal :=
  vecExec s (.vcvt w1 w2) (vcvtBody (vf w1 w2))

/-- VCVTI (R146). -/
def execVcvti (w1 : BitVec 26) (w2 : BitVec 24) (s : State) : Host.Outcome State Fault Refusal :=
  vecExec s (.vcvti w1 w2) (vcvtiBody (vf w1 w2))

/-- VIADD (R147). -/
def execViadd (w1 : BitVec 26) (w2 : BitVec 24) (s : State) : Host.Outcome State Fault Refusal :=
  vecExec s (.viadd w1 w2) (vint2 (vf w1 w2) (fun w a b => (a + b) % 2 ^ w))

/-- VISUB (R147). -/
def execVisub (w1 : BitVec 26) (w2 : BitVec 24) (s : State) : Host.Outcome State Fault Refusal :=
  vecExec s (.visub w1 w2) (vint2 (vf w1 w2) (fun w a b => (a + 2 ^ w - b) % 2 ^ w))

/-- VIAND (R147). -/
def execViand (w1 : BitVec 26) (w2 : BitVec 24) (s : State) : Host.Outcome State Fault Refusal :=
  vecExec s (.viand w1 w2) (vint2 (vf w1 w2) (fun _ a b => a &&& b))

/-- VIOR (R147). -/
def execVior (w1 : BitVec 26) (w2 : BitVec 24) (s : State) : Host.Outcome State Fault Refusal :=
  vecExec s (.vior w1 w2) (vint2 (vf w1 w2) (fun _ a b => a ||| b))

/-- VIXOR (R147). -/
def execVixor (w1 : BitVec 26) (w2 : BitVec 24) (s : State) : Host.Outcome State Fault Refusal :=
  vecExec s (.vixor w1 w2) (vint2 (vf w1 w2) (fun _ a b => a ^^^ b))

/-- VISHL (R147). -/
def execVishl (w1 : BitVec 26) (w2 : BitVec 24) (s : State) : Host.Outcome State Fault Refusal :=
  vecExec s (.vishl w1 w2) (vint2 (vf w1 w2) (fun w a b => (a <<< (b % w)) % 2 ^ w))

/-- VISHR (R147). -/
def execVishr (w1 : BitVec 26) (w2 : BitVec 24) (s : State) : Host.Outcome State Fault Refusal :=
  vecExec s (.vishr w1 w2) (vint2 (vf w1 w2) (fun w a b => a >>> (b % w)))

/-- VIOTA (R142). -/
def execViota (w1 : BitVec 26) (w2 : BitVec 24) (s : State) : Host.Outcome State Fault Refusal :=
  vecExec s (.viota w1 w2) (do
    let f := vf w1 w2
    vCheck1 f { ew := true }
    vCheck2 (decide (1 ≤ f.ew))
    let w := ewBits f.ew
    let n ← vcount
    vCheck3 n w
    let r := (← readReg f.vs1).toNat
    writeElems f.vd w 0 ((List.range n).map fun i => (r + i) % 2 ^ w))

/-- VREDSUM (R149); COMP selects the compensated form (R150). -/
def execVredsum (w1 : BitVec 26) (w2 : BitVec 24) (s : State) : Host.Outcome State Fault Refusal :=
  vecExec s (.vredsum w1 w2) (vredsumBody (vf w1 w2))

/-- VREDSUM with COMP (R150). -/
def execVredsumComp (w1 : BitVec 26) (w2 : BitVec 24) (s : State) : Host.Outcome State Fault Refusal :=
  vecExec s (.vredsumComp w1 w2) (vredsumBody (vf w1 w2))

/-- VREDMAX (R151). -/
def execVredmax (w1 : BitVec 26) (w2 : BitVec 24) (s : State) : Host.Outcome State Fault Refusal :=
  vecExec s (.vredmax w1 w2) (vredBest true (vf w1 w2))

/-- VREDMIN (R151). -/
def execVredmin (w1 : BitVec 26) (w2 : BitVec 24) (s : State) : Host.Outcome State Fault Refusal :=
  vecExec s (.vredmin w1 w2) (vredBest false (vf w1 w2))

end Sys2Proof.Machine
end

