-- ==== Sys2Proof/Machine/ExecWait.lean ====
section
/-! DEFINITION. Meanings of the sync engine's, the wait table's and the chain's own steps (08). -/

namespace Sys2Proof.Machine

/-- The class of a requester at the sync engine (R207): 0 Far Port, 1 main core, 2 ring front end with DMA, 3 Sparge. -/
def SyncSrc.cls : SyncSrc → BitVec 2
  | .farPort _ => 0
  | .core => 1
  | .dmaSignal _ => 2
  | .jobSignal _ => 2
  | .stream _ => 3
  | .detached => 3

/-- The operation that the engine serves next: the oldest of the first class in round-robin order that has one. -/
def syncPick (b : Blk) : Option SyncOp :=
  ((List.range 4).map fun i => b.sync.rr + BitVec.ofNat 2 i).findSome? fun k => b.sync.queue.find? fun q => q.src.cls == k

def removeOp (q : SyncOp) : List SyncOp → List SyncOp
  | [] => []
  | x :: xs => if x = q then xs else x :: removeOp q xs

/-- The response to an inbound sync request (R207, R386). -/
def syrPacket (world : Bool) (rtag : BitVec 16) (status : BitVec 8) (value : W32) : Packet :=
  { h := { opc := 0x12, world := world, status := status, rtag := rtag, snode := 0, sblock := 0, addr := 0, be := 0
           operand := value.zeroExtend 64 }, data := 0 }

/-- A sync operation's result goes back to its requester (R205, R207, R341, R354, R173). -/
def syncReturn (b : Blk) (q : SyncOp) (status : BitVec 8) (value : W32) : Blk :=
  match q.src with
  | .farPort rtag => sendPacket b true (syrPacket q.world rtag status value)
  | .core => { b with sync := { b.sync with coreDone := some (status, value, 0) } }
  | .dmaSignal ch => dmaSignalled b ch status
  | .jobSignal n => jobSignalled b n status
  | .stream n => streamSignalled b n
  | .detached => b

/-- SYNC_OP_APPLY (R207, R212): one operation is applied. -/
def syncApplyNext (c : Cfg) (b : Blk) : Blk :=
  match syncPick b with
  | none => b
  | some q =>
    let b := { b with sync := { b.sync with queue := removeOp q b.sync.queue, rr := q.src.cls + 1 } }
    let r := applySync c q.op.toNat q.obj q.x q.world b
    syncReturn r.2 q r.1.1 r.1.2

def execSyncOpApply (s : State) : Host.Outcome State Fault Refusal := blkNext s (syncApplyNext s.cfg)

/-- The wait table's entry of a number. -/
def waitAt (b : Blk) (num : BitVec 8) : Option WaitEntry := b.sync.waits.find? fun w => w.num == num

/-- SWAIT_TIMEOUT (R208, R211, R212): an ARMED entry's count reaches its TMO. -/
def waitExpire (b : Blk) (num : BitVec 8) : Blk :=
  match waitAt b num with
  | none => b
  | some w =>
    if w.state ≠ .armed || w.tmo = 0xFFFFFFFF then b
    else
      let b := elapse (w.armedAt + w.tmo.toNat) b
      let v := b.sync.objs.get w.obj.toNat
      { b with sync := { b.sync with waits := b.sync.waits.map fun x => if x.num = num then { x with state := .expired, value := v } else x } }

def execSwaitTimeout (num : BitVec 8) (s : State) : Host.Outcome State Fault Refusal := blkNext s fun b => waitExpire b num

/-- The event entry of an event wait (R334). -/
def WaitEntry.event (w : WaitEntry) : Event :=
  { ty := 2, src := 0xFE, status := if w.state = .fired then 0 else 4, index := 0
    a := BitVec.ofNat 32 (w.obj.toNat + 65536 * w.handle.toNat), b := w.value }

/-- WAIT_NOTIFY (R211): the notification of a FIRED or EXPIRED entry is delivered and the entry is FREE. A notification that needs
a powered domain wakes the block and raises the Maltster's source 14 (R429). -/
def waitDeliver (c : Cfg) (b : Blk) (num : BitVec 8) : Blk :=
  match waitAt b num with
  | none => b
  | some w =>
    if w.state = .armed then b
    else if b.pwr.state ≠ .run then wake (maltSource b 14)
    else match w.kind with
      | .coreWait task rd => if b.core.run = .running || b.core.run = .sleeping then deliverCore b w task rd else b
      | .eventWait e =>
        if !frontRuns b || !eventSlot b e.toNat then b else writeEvent c (freeWaitEntry b num) e.toNat w.event
      | .jobWait r =>
        if !frontRuns b then b
        else
          let b := freeWaitEntry b num
          if w.state = .fired then modRing b r.toNat fun x => { x with st := .ready }
          else finishDesc b r.toNat 6 0 4 b.rings.epCore

def execWaitNotify (num : BitVec 8) (s : State) : Host.Outcome State Fault Refusal := blkNext s fun b => waitDeliver s.cfg b num

/-- CHRECV_TIMEOUT (R201): the CHRECV held at the head fails check 0x08 when its count reaches CHTMO and no transfer it can take
is complete. -/
def recvExpire (c : Cfg) (b : Blk) : Blk :=
  match b.core.program, b.chain.recvSince with
  | .chrecv rs1 mbz :: rest, some t =>
    let n := bits (b.core.reg rs1) 5 0
    let e := cge b n
    if b.core.blocked.isNone || e.chtmo = 0 || (heldFor b e).isSome || !coreReady b then b
    else
      let b := elapse (t + e.chtmo.toNat) b
      let b := { b with core := { b.core with program := rest, blocked := none }, chain := { b.chain with recvSince := none } }
      takeTrap c (.chrecv rs1 mbz)
        { cause := 0x12, detail := 8, faddr := 0, fault := .chain 8 (BitVec.ofNat 6 n), wlevel := none, ipa := none, keep := false } b b
  | _, _ => b

def execChrecvTimeout (s : State) : Host.Outcome State Fault Refusal := blkNext s (recvExpire s.cfg)

/-- The chain side of a port operand: 2 East, 1 West. -/
def sideOf (east : Bool) : BitVec 2 := if east then 2 else 1

def execChainTransferSend (east : Bool) (s : State) : Host.Outcome State Fault Refusal :=
  blkNext s fun b => chainSend s.cfg b (sideOf east)

/-- CHH (R194, R387, R388, R394): a chain header and its rows arrive whole on an UP Chain Port with room for them. -/
def chhArrive (b : Blk) (side : BitVec 2) (t : Transfer) : Blk :=
  let l := getLink b (chainPort side)
  if l.state ≠ stUp || !pdRuns b 19 || b.err.fatal then b
  else if !t.legal then setLink (returnCredit b side t) (chainPort side) { (getLink (returnCredit b side t) (chainPort side)) with protErr := true }
  else if decide (64 < rxRows b side + t.size) || decide (16 ≤ (rxBuf b side).length) then b
  else chainArrive b side t

def execChh (east world : Bool) (cls : BitVec 2) (tag : BitVec 16) (rows : List TunRow) (s : State) : Host.Outcome State Fault Refusal :=
  blkNext s fun b => chhArrive b (sideOf east) { world := world, cls := cls, tag := tag, rows := rows }

end Sys2Proof.Machine
end

