-- ==== Sys2Proof/Machine/ExecXlt.lean ====
section
/-! DEFINITION. Meanings of the translation instructions (11). -/

namespace Sys2Proof.Machine

/-- Translation instructions run at S and M, some at M only (R281). -/
def needS : M Unit := do
  if (← getCore).ps.level = 0 then privFault
def needMach : M Unit := do
  if (← getCore).ps.level ≠ 2 then privFault

/-- Bits of rs1 outside a mask must be zero (R281). -/
def rsBits (v : Word) (mask : Nat) : M Unit := check (decide (v.toNat &&& mask = v.toNat)) (coreFault 1)

/-- rd of a successful walk (R283). -/
def walkRd (e : TlbEntry) (va : Word) (atM : Bool) (combined : Bool) : Word :=
  let size := if e.size = 12 then 0 else if e.size = 21 then 1 else if e.size = 30 then 2 else 3
  let machine := e.kind == .machine
  let r := e.r1 && (!combined || e.r2)
  let w := e.w1 && (!combined || e.w2)
  let x := e.x1 && (!combined || e.x2)
  let flags := if machine then 0 else 64 * e.u1.toNat + 128 * e.g.toNat + 256 * (bit e.leaf 6).toNat + 512 * (bit e.leaf 7).toNat
  let out := if atM then e.gpa va else e.ipaOf va
  BitVec.ofNat 64 (1 + 2 * size + 8 * r.toNat + 16 * w.toNat + 32 * x.toNat + flags + out.toNat / 4096 * 4096)

/-- The outcome of a walk instruction (R282, R284): the walk buffer, and rd or the stage 2 fault. -/
def walkDone (rd : BitVec 5) (va : Word) (combined : Bool) (r : Except WalkFail TlbEntry) : M Unit := do
  let atM := (← getCore).ps.level == 2
  match r with
  | .ok e =>
    modMmu fun m => { m with walkBuf := some e }
    writeReg rd (walkRd e va atM combined)
  | .error f =>
    modMmu fun m => { m with walkBuf := none }
    if f.stage2 then raiseWalk f .fetch va
    writeReg rd (BitVec.ofNat 64 (f.detail 0))

/-- The reader of a walk instruction's tables. -/
def walkReader (b : Blk) (va : Word) : Reader :=
  { world := b.core.ps.world, atM := b.core.ps.level == 2, va := va, access := 1 }

/-- TWALK (R282, R283). -/
def execTwalk (rd rs1 : BitVec 5) (s : State) : Host.Outcome State Fault Refusal :=
  coreSeq s (.twalk rd rs1) (do
    needS
    let va ← readReg rs1
    let b ← get
    if b.core.ps.level = 2 then
      if !bit b.mmu.mroot 0 then writeReg rd 0
      else walkDone rd va false (← walkMachine s.cfg (walkReader b va) b.mmu.mroot va)
    else walkDone rd va false (← walkWorld s.cfg (walkReader b va) (coreCtx b b.core.ps.level b.core.ps.world) va))

/-- The context of the ring that a request names (R282). -/
def reqCtx (b : Blk) (r : TrReq) : TCtx :=
  (getRing b (if r.requester.toNat < 16 then dmaRing r.requester.toNat else streamRing (r.requester.toNat - 16))).ctx.tctx

/-- TWALK.R (R282, R283). -/
def execTwalkR (rd : BitVec 5) (mbz : BitVec 5) (s : State) : Host.Outcome State Fault Refusal :=
  coreSeq s (.twalkR rd mbz) (do
    mustBeZero mbz
    needS
    let b ← get
    match shownReq b b.core.ps.level b.core.ps.world with
    | none => writeReg rd 0
    | some r => walkDone rd r.va (b.core.ps.level == 2) (← walkWorld s.cfg (walkReader b r.va) (reqCtx b r) r.va))

/-- TLBW (R280, R284). -/
def execTlbw (rd : BitVec 5) (mbz : BitVec 5) (s : State) : Host.Outcome State Fault Refusal :=
  coreSeq s (.tlbw rd mbz) (do
    mustBeZero mbz
    needS
    match (← get).mmu.walkBuf with
    | some e =>
      modMmu fun m => { tlbWrite m e with walkBuf := none }
      writeReg rd 0
    | none => writeReg rd 1)

/-- An access of DMA or Sparge that has been translated and not issued yet, or an update of an entry in progress (R288). -/
def agentsHold (b : Blk) (seqs : List Nat) : Bool :=
  (b.dma.chs.any fun e =>
    ((getRing b (dmaRing e.1)).ctx.ten && e.2.pieces.any fun p => !p.todo.isEmpty) ||
      (match e.2.ad with | some a => seqs.contains a.seq | none => false)) ||
  b.sparge.streams.any fun e => match e.2.ad with | some a => seqs.contains a.seq | none => false

/-- An invalidation (R287, R288): the matching entries leave the three TLBs and the walk buffer is emptied. -/
def invalidate (p : TlbEntry → Bool) : M Unit := do
  let b ← get
  let seqs := ((b.mmu.itlb ++ b.mmu.dtlb ++ b.mmu.l2tlb).filter fun x => p x.e).map fun x => x.seq
  if !seqs.isEmpty && agentsHold b seqs then waitFor .other
  let keep (xs : List TlbSlot) : List TlbSlot := xs.filter fun x => !p x.e
  modMmu fun m => { m with itlb := keep m.itlb, dtlb := keep m.dtlb, l2tlb := keep m.l2tlb, walkBuf := none }

/-- The entry's page contains an address. -/
def TlbEntry.covers (e : TlbEntry) (base va : Word) : Bool := decide (va.toNat / 2 ^ e.size = base.toNat / 2 ^ e.size)

/-- TINV.VA (R281, R287). -/
def execTinvVa (rs1 : BitVec 5) (mbz : BitVec 5) (s : State) : Host.Outcome State Fault Refusal :=
  coreSeq s (.tinvVa rs1 mbz) (do
    mustBeZero mbz
    needS
    let v ← readReg rs1
    rsBits v 0xFFFFFFFFFFFFF001
    let b ← get
    let va := alignedPage v
    let t := coreCtx b b.core.ps.level b.core.ps.world
    if b.core.ps.level = 2 then invalidate fun e => e.kind == .machine && e.covers e.va va
    else invalidate fun e => e.kind == t.kind && e.vmid == t.vmid && e.covers e.va va && (bit v 0 || e.g || e.asid == t.asid))
where
  /-- the page's address -/
  alignedPage (v : Word) : Word := BitVec.ofNat 64 (v.toNat / 4096 * 4096)

/-- TINV.ASID (R281, R287). -/
def execTinvAsid (rs1 : BitVec 5) (mbz : BitVec 5) (s : State) : Host.Outcome State Fault Refusal :=
  coreSeq s (.tinvAsid rs1 mbz) (do
    mustBeZero mbz
    needS
    let v ← readReg rs1
    let b ← get
    let m := b.core.ps.level == 2
    rsBits v (if m then 0xFFFF0001FFFF else 0xFFFF)
    let t := coreCtx b b.core.ps.level b.core.ps.world
    let kind : TlbKind := if m then .world (bit v 16) else t.kind
    let vmid : BitVec 16 := if m then BitVec.ofNat 16 (bits v 47 32) else t.vmid
    invalidate fun e => e.kind == kind && e.vmid == vmid && !e.g && e.asid == v.truncate 16)

/-- TINV.IPA (R281, R287). -/
def execTinvIpa (rs1 : BitVec 5) (mbz : BitVec 5) (s : State) : Host.Outcome State Fault Refusal :=
  coreSeq s (.tinvIpa rs1 mbz) (do
    mustBeZero mbz
    needMach
    let v ← readReg rs1
    rsBits v 0xFFFFFFFFFF001
    let b ← get
    let w := bit v 0
    let vmid : BitVec 16 := (if w then b.mmu.ts.vmid else b.mmu.tn.vmid).truncate 16
    let ipa : Word := BitVec.ofNat 64 (v.toNat / 4096 * 4096)
    invalidate fun e => e.kind == .world w && e.vmid == vmid && e.covers e.ipa ipa)

/-- TINV.VMID (R281, R287). -/
def execTinvVmid (rs1 : BitVec 5) (mbz : BitVec 5) (s : State) : Host.Outcome State Fault Refusal :=
  coreSeq s (.tinvVmid rs1 mbz) (do
    mustBeZero mbz
    needMach
    let v ← readReg rs1
    rsBits v 0x1FFFF
    invalidate fun e => e.kind == .world (bit v 16) && e.vmid == v.truncate 16)

/-- TINV.ALL (R281, R287). -/
def execTinvAll (mbz : BitVec 10) (s : State) : Host.Outcome State Fault Refusal :=
  coreSeq s (.tinvAll mbz) (do
    mustBeZero mbz
    needMach
    invalidate fun _ => true)

/-- TRQRES (R281, R291). -/
def execTrqres (rd rs1 : BitVec 5) (s : State) : Host.Outcome State Fault Refusal :=
  coreSeq s (.trqres rd rs1) (do
    needS
    let v ← readReg rs1
    rsBits v 0x11F
    let n := bits v 4 0
    if 19 < n then coreFault 1
    let b ← get
    match b.mmu.treqs.find? (fun r => decide (r.requester.toNat = n)) with
    | none => writeReg rd 1
    | some r =>
      if b.core.ps.level ≠ 2 && r.world != b.core.ps.world then writeReg rd 1
      else
        writeReg rd 0
        modify fun b =>
          let b := withdrawReq b n
          if n < 16 then dmaResume s.cfg b n (bit v 8) else streamResume s.cfg b (n - 16) (bit v 8))

end Sys2Proof.Machine
end

