-- ==== Sys2Proof/Machine/Dispatch.lean ====
section
/-! DEFINITION. exec: one arm per command, each a direct call of its meaning. -/

namespace Sys2Proof.Machine

def exec (i : Instr) (s : State) : Host.Outcome State Fault Refusal :=
  match i with
  | .add rd rs1 rs2 => Sys2Proof.Machine.execAdd rd rs1 rs2 s
  | .sub rd rs1 rs2 => Sys2Proof.Machine.execSub rd rs1 rs2 s
  | .and_ rd rs1 rs2 => Sys2Proof.Machine.execAnd_ rd rs1 rs2 s
  | .or_ rd rs1 rs2 => Sys2Proof.Machine.execOr_ rd rs1 rs2 s
  | .xor rd rs1 rs2 => Sys2Proof.Machine.execXor rd rs1 rs2 s
  | .shl rd rs1 rs2 => Sys2Proof.Machine.execShl rd rs1 rs2 s
  | .shr rd rs1 rs2 => Sys2Proof.Machine.execShr rd rs1 rs2 s
  | .sar rd rs1 rs2 => Sys2Proof.Machine.execSar rd rs1 rs2 s
  | .slt rd rs1 rs2 => Sys2Proof.Machine.execSlt rd rs1 rs2 s
  | .sltu rd rs1 rs2 => Sys2Proof.Machine.execSltu rd rs1 rs2 s
  | .min rd rs1 rs2 => Sys2Proof.Machine.execMin rd rs1 rs2 s
  | .max rd rs1 rs2 => Sys2Proof.Machine.execMax rd rs1 rs2 s
  | .minu rd rs1 rs2 => Sys2Proof.Machine.execMinu rd rs1 rs2 s
  | .maxu rd rs1 rs2 => Sys2Proof.Machine.execMaxu rd rs1 rs2 s
  | .mul rd rs1 rs2 => Sys2Proof.Machine.execMul rd rs1 rs2 s
  | .mulh rd rs1 rs2 => Sys2Proof.Machine.execMulh rd rs1 rs2 s
  | .mulhu rd rs1 rs2 => Sys2Proof.Machine.execMulhu rd rs1 rs2 s
  | .div rd rs1 rs2 => Sys2Proof.Machine.execDiv rd rs1 rs2 s
  | .divu rd rs1 rs2 => Sys2Proof.Machine.execDivu rd rs1 rs2 s
  | .rem rd rs1 rs2 => Sys2Proof.Machine.execRem rd rs1 rs2 s
  | .remu rd rs1 rs2 => Sys2Proof.Machine.execRemu rd rs1 rs2 s
  | .clz rd rs1 rs2 => Sys2Proof.Machine.execClz rd rs1 rs2 s
  | .ctz rd rs1 rs2 => Sys2Proof.Machine.execCtz rd rs1 rs2 s
  | .popc rd rs1 rs2 => Sys2Proof.Machine.execPopc rd rs1 rs2 s
  | .bswap rd rs1 rs2 => Sys2Proof.Machine.execBswap rd rs1 rs2 s
  | .opw funct rd rs1 rs2 => Sys2Proof.Machine.execOpw funct rd rs1 rs2 s
  | .addi rd rs1 imm => Sys2Proof.Machine.execAddi rd rs1 imm s
  | .andi rd rs1 imm => Sys2Proof.Machine.execAndi rd rs1 imm s
  | .ori rd rs1 imm => Sys2Proof.Machine.execOri rd rs1 imm s
  | .xori rd rs1 imm => Sys2Proof.Machine.execXori rd rs1 imm s
  | .slti rd rs1 imm => Sys2Proof.Machine.execSlti rd rs1 imm s
  | .sltiu rd rs1 imm => Sys2Proof.Machine.execSltiu rd rs1 imm s
  | .shiftImmediateShl rd rs1 amt mbz => Sys2Proof.Machine.execShiftImmediateShl rd rs1 amt mbz s
  | .shiftImmediateShr rd rs1 amt mbz => Sys2Proof.Machine.execShiftImmediateShr rd rs1 amt mbz s
  | .shiftImmediateSar rd rs1 amt mbz => Sys2Proof.Machine.execShiftImmediateSar rd rs1 amt mbz s
  | .lui rd imm => Sys2Proof.Machine.execLui rd imm s
  | .auipc rd imm => Sys2Proof.Machine.execAuipc rd imm s
  | .addiw rd rs1 imm => Sys2Proof.Machine.execAddiw rd rs1 imm s
  | .lb rd rs1 imm => Sys2Proof.Machine.execLb rd rs1 imm s
  | .lh rd rs1 imm => Sys2Proof.Machine.execLh rd rs1 imm s
  | .lw rd rs1 imm => Sys2Proof.Machine.execLw rd rs1 imm s
  | .ld rd rs1 imm => Sys2Proof.Machine.execLd rd rs1 imm s
  | .lbu rd rs1 imm => Sys2Proof.Machine.execLbu rd rs1 imm s
  | .lhu rd rs1 imm => Sys2Proof.Machine.execLhu rd rs1 imm s
  | .lwu rd rs1 imm => Sys2Proof.Machine.execLwu rd rs1 imm s
  | .sb rs2 rs1 imm => Sys2Proof.Machine.execSb rs2 rs1 imm s
  | .sh rs2 rs1 imm => Sys2Proof.Machine.execSh rs2 rs1 imm s
  | .sw rs2 rs1 imm => Sys2Proof.Machine.execSw rs2 rs1 imm s
  | .sd rs2 rs1 imm => Sys2Proof.Machine.execSd rs2 rs1 imm s
  | .flw fd rs1 imm => Sys2Proof.Machine.execFlw fd rs1 imm s
  | .fld fd rs1 imm => Sys2Proof.Machine.execFld fd rs1 imm s
  | .fsw fs2 rs1 imm => Sys2Proof.Machine.execFsw fs2 rs1 imm s
  | .fsd fs2 rs1 imm => Sys2Proof.Machine.execFsd fs2 rs1 imm s
  | .beq rs1 rs2 imm => Sys2Proof.Machine.execBeq rs1 rs2 imm s
  | .bne rs1 rs2 imm => Sys2Proof.Machine.execBne rs1 rs2 imm s
  | .blt rs1 rs2 imm => Sys2Proof.Machine.execBlt rs1 rs2 imm s
  | .bge rs1 rs2 imm => Sys2Proof.Machine.execBge rs1 rs2 imm s
  | .bltu rs1 rs2 imm => Sys2Proof.Machine.execBltu rs1 rs2 imm s
  | .bgeu rs1 rs2 imm => Sys2Proof.Machine.execBgeu rs1 rs2 imm s
  | .j off => Sys2Proof.Machine.execJ off s
  | .jalr rd rs1 imm => Sys2Proof.Machine.execJalr rd rs1 imm s
  | .call off => Sys2Proof.Machine.execCall off s
  | .callr rs1 mbz => Sys2Proof.Machine.execCallr rs1 mbz s
  | .ret mbz => Sys2Proof.Machine.execRet mbz s
  | .fadd d fd fs1 fs2 => Sys2Proof.Machine.execFadd d fd fs1 fs2 s
  | .fsub d fd fs1 fs2 => Sys2Proof.Machine.execFsub d fd fs1 fs2 s
  | .fmul d fd fs1 fs2 => Sys2Proof.Machine.execFmul d fd fs1 fs2 s
  | .fdiv d fd fs1 fs2 => Sys2Proof.Machine.execFdiv d fd fs1 fs2 s
  | .fsqrt d fd fs1 => Sys2Proof.Machine.execFsqrt d fd fs1 s
  | .fmin d fd fs1 fs2 => Sys2Proof.Machine.execFmin d fd fs1 fs2 s
  | .fmax d fd fs1 fs2 => Sys2Proof.Machine.execFmax d fd fs1 fs2 s
  | .fabs d fd fs1 => Sys2Proof.Machine.execFabs d fd fs1 s
  | .fneg d fd fs1 => Sys2Proof.Machine.execFneg d fd fs1 s
  | .feq d rd fs1 fs2 => Sys2Proof.Machine.execFeq d rd fs1 fs2 s
  | .flt d rd fs1 fs2 => Sys2Proof.Machine.execFlt d rd fs1 fs2 s
  | .fle d rd fs1 fs2 => Sys2Proof.Machine.execFle d rd fs1 fs2 s
  | .fclass d rd fs1 => Sys2Proof.Machine.execFclass d rd fs1 s
  | .fcvtF d fd fs1 => Sys2Proof.Machine.execFcvtF d fd fs1 s
  | .fcvtI d rd fs1 => Sys2Proof.Machine.execFcvtI d rd fs1 s
  | .fcvtFi d fd rs1 => Sys2Proof.Machine.execFcvtFi d fd rs1 s
  | .fmvX d rd fs1 => Sys2Proof.Machine.execFmvX d rd fs1 s
  | .fmvF d fd rs1 => Sys2Proof.Machine.execFmvF d fd rs1 s
  | .fmadd d fd fs1 fs2 fs3 => Sys2Proof.Machine.execFmadd d fd fs1 fs2 fs3 s
  | .fmsub d fd fs1 fs2 fs3 => Sys2Proof.Machine.execFmsub d fd fs1 fs2 fs3 s
  | .fnmadd d fd fs1 fs2 fs3 => Sys2Proof.Machine.execFnmadd d fd fs1 fs2 fs3 s
  | .fnmsub d fd fs1 fs2 fs3 => Sys2Proof.Machine.execFnmsub d fd fs1 fs2 fs3 s
  | .atomicSwap w32 rd rs1 rs2 mbz => Sys2Proof.Machine.execAtomicSwap w32 rd rs1 rs2 mbz s
  | .atomicAdd w32 rd rs1 rs2 mbz => Sys2Proof.Machine.execAtomicAdd w32 rd rs1 rs2 mbz s
  | .atomicAnd w32 rd rs1 rs2 mbz => Sys2Proof.Machine.execAtomicAnd w32 rd rs1 rs2 mbz s
  | .atomicOr w32 rd rs1 rs2 mbz => Sys2Proof.Machine.execAtomicOr w32 rd rs1 rs2 mbz s
  | .atomicMax w32 rd rs1 rs2 mbz => Sys2Proof.Machine.execAtomicMax w32 rd rs1 rs2 mbz s
  | .atomicMin w32 rd rs1 rs2 mbz => Sys2Proof.Machine.execAtomicMin w32 rd rs1 rs2 mbz s
  | .atomicMaxu w32 rd rs1 rs2 mbz => Sys2Proof.Machine.execAtomicMaxu w32 rd rs1 rs2 mbz s
  | .atomicMinu w32 rd rs1 rs2 mbz => Sys2Proof.Machine.execAtomicMinu w32 rd rs1 rs2 mbz s
  | .cas w32 rd rs1 rs2 mbz => Sys2Proof.Machine.execCas w32 rd rs1 rs2 mbz s
  | .sopRead rd rs1 rs2 => Sys2Proof.Machine.execSopRead rd rs1 rs2 s
  | .sopAdd rd rs1 rs2 => Sys2Proof.Machine.execSopAdd rd rs1 rs2 s
  | .sopSet rd rs1 rs2 => Sys2Proof.Machine.execSopSet rd rs1 rs2 s
  | .sopTake rd rs1 rs2 => Sys2Proof.Machine.execSopTake rd rs1 rs2 s
  | .sopMax rd rs1 rs2 => Sys2Proof.Machine.execSopMax rd rs1 rs2 s
  | .swait rd rs1 rs2 mbz => Sys2Proof.Machine.execSwait rd rs1 rs2 mbz s
  | .swcancel rd rs1 mbz => Sys2Proof.Machine.execSwcancel rd rs1 mbz s
  | .chsend rs1 mbz => Sys2Proof.Machine.execChsend rs1 mbz s
  | .chrecv rs1 mbz => Sys2Proof.Machine.execChrecv rs1 mbz s
  | .fenceM mbz => Sys2Proof.Machine.execFenceM mbz s
  | .fenceA mbz => Sys2Proof.Machine.execFenceA mbz s
  | .fenceT mbz => Sys2Proof.Machine.execFenceT mbz s
  | .crr rd cr mbz => Sys2Proof.Machine.execCrr rd cr mbz s
  | .crw rs1 cr mbz => Sys2Proof.Machine.execCrw rs1 cr mbz s
  | .crs rd rs1 cr => Sys2Proof.Machine.execCrs rd rs1 cr s
  | .crc rd rs1 cr => Sys2Proof.Machine.execCrc rd rs1 cr s
  | .gate g mbz => Sys2Proof.Machine.execGate g mbz s
  | .eret mbz => Sys2Proof.Machine.execEret mbz s
  | .gret mbz => Sys2Proof.Machine.execGret mbz s
  | .brk mbz => Sys2Proof.Machine.execBrk mbz s
  | .tsleep mbz => Sys2Proof.Machine.execTsleep mbz s
  | .tstop mbz => Sys2Proof.Machine.execTstop mbz s
  | .tstart rs1 mbz => Sys2Proof.Machine.execTstart rs1 mbz s
  | .twake rs1 mbz => Sys2Proof.Machine.execTwake rs1 mbz s
  | .ctxsaveL rs1 mbz => Sys2Proof.Machine.execCtxsaveL rs1 mbz s
  | .ctxsaveU rs1 mbz => Sys2Proof.Machine.execCtxsaveU rs1 mbz s
  | .ctxloadL rs1 mbz => Sys2Proof.Machine.execCtxloadL rs1 mbz s
  | .ctxloadU rs1 mbz => Sys2Proof.Machine.execCtxloadU rs1 mbz s
  | .twalk rd rs1 => Sys2Proof.Machine.execTwalk rd rs1 s
  | .twalkR rd mbz => Sys2Proof.Machine.execTwalkR rd mbz s
  | .tlbw rd mbz => Sys2Proof.Machine.execTlbw rd mbz s
  | .tinvVa rs1 mbz => Sys2Proof.Machine.execTinvVa rs1 mbz s
  | .tinvAsid rs1 mbz => Sys2Proof.Machine.execTinvAsid rs1 mbz s
  | .tinvIpa rs1 mbz => Sys2Proof.Machine.execTinvIpa rs1 mbz s
  | .tinvVmid rs1 mbz => Sys2Proof.Machine.execTinvVmid rs1 mbz s
  | .tinvAll mbz => Sys2Proof.Machine.execTinvAll mbz s
  | .trqres rd rs1 => Sys2Proof.Machine.execTrqres rd rs1 s
  | .tload w1 w2 => Sys2Proof.Machine.execTload w1 w2 s
  | .tstore w1 w2 => Sys2Proof.Machine.execTstore w1 w2 s
  | .tstoreTun w1 w2 => Sys2Proof.Machine.execTstoreTun w1 w2 s
  | .tmovv w1 w2 => Sys2Proof.Machine.execTmovv w1 w2 s
  | .tmovt w1 w2 => Sys2Proof.Machine.execTmovt w1 w2 s
  | .tzero w1 w2 => Sys2Proof.Machine.execTzero w1 w2 s
  | .trelease w1 w2 => Sys2Proof.Machine.execTrelease w1 w2 s
  | .tmma w1 w2 => Sys2Proof.Machine.execTmma w1 w2 s
  | .tbwd w1 w2 => Sys2Proof.Machine.execTbwd w1 w2 s
  | .tmaxi w1 w2 => Sys2Proof.Machine.execTmaxi w1 w2 s
  | .tmini w1 w2 => Sys2Proof.Machine.execTmini w1 w2 s
  | .tgopen w1 w2 => Sys2Proof.Machine.execTgopen w1 w2 s
  | .tgclose w1 w2 => Sys2Proof.Machine.execTgclose w1 w2 s
  | .tepi w1 w2 => Sys2Proof.Machine.execTepi w1 w2 s
  | .inspect w1 w2 => Sys2Proof.Machine.execInspect w1 w2 s
  | .tunSpill g => Sys2Proof.Machine.execTunSpill g s
  | .vsetl w1 w2 => Sys2Proof.Machine.execVsetl w1 w2 s
  | .vld w1 w2 => Sys2Proof.Machine.execVld w1 w2 s
  | .vst w1 w2 => Sys2Proof.Machine.execVst w1 w2 s
  | .vsplat w1 w2 => Sys2Proof.Machine.execVsplat w1 w2 s
  | .vins w1 w2 => Sys2Proof.Machine.execVins w1 w2 s
  | .vext w1 w2 => Sys2Proof.Machine.execVext w1 w2 s
  | .vtbl w1 w2 => Sys2Proof.Machine.execVtbl w1 w2 s
  | .vadd w1 w2 => Sys2Proof.Machine.execVadd w1 w2 s
  | .vsub w1 w2 => Sys2Proof.Machine.execVsub w1 w2 s
  | .vmul w1 w2 => Sys2Proof.Machine.execVmul w1 w2 s
  | .vfma w1 w2 => Sys2Proof.Machine.execVfma w1 w2 s
  | .vdiv w1 w2 => Sys2Proof.Machine.execVdiv w1 w2 s
  | .vsqrt w1 w2 => Sys2Proof.Machine.execVsqrt w1 w2 s
  | .vmin w1 w2 => Sys2Proof.Machine.execVmin w1 w2 s
  | .vmax w1 w2 => Sys2Proof.Machine.execVmax w1 w2 s
  | .vabs w1 w2 => Sys2Proof.Machine.execVabs w1 w2 s
  | .vneg w1 w2 => Sys2Proof.Machine.execVneg w1 w2 s
  | .vcmp w1 w2 => Sys2Proof.Machine.execVcmp w1 w2 s
  | .vsel w1 w2 => Sys2Proof.Machine.execVsel w1 w2 s
  | .vcvt w1 w2 => Sys2Proof.Machine.execVcvt w1 w2 s
  | .vcvti w1 w2 => Sys2Proof.Machine.execVcvti w1 w2 s
  | .viadd w1 w2 => Sys2Proof.Machine.execViadd w1 w2 s
  | .visub w1 w2 => Sys2Proof.Machine.execVisub w1 w2 s
  | .viand w1 w2 => Sys2Proof.Machine.execViand w1 w2 s
  | .vior w1 w2 => Sys2Proof.Machine.execVior w1 w2 s
  | .vixor w1 w2 => Sys2Proof.Machine.execVixor w1 w2 s
  | .vishl w1 w2 => Sys2Proof.Machine.execVishl w1 w2 s
  | .vishr w1 w2 => Sys2Proof.Machine.execVishr w1 w2 s
  | .viota w1 w2 => Sys2Proof.Machine.execViota w1 w2 s
  | .vredsum w1 w2 => Sys2Proof.Machine.execVredsum w1 w2 s
  | .vredsumComp w1 w2 => Sys2Proof.Machine.execVredsumComp w1 w2 s
  | .vredmax w1 w2 => Sys2Proof.Machine.execVredmax w1 w2 s
  | .vredmin w1 w2 => Sys2Proof.Machine.execVredmin w1 w2 s
  | .seedWrite rs1 => Sys2Proof.Machine.execSeedWrite rs1 s
  | .tinuseWrite rs1 => Sys2Proof.Machine.execTinuseWrite rs1 s
  | .svcWrite rs1 => Sys2Proof.Machine.execSvcWrite rs1 s
  | .sleepWrite rs1 => Sys2Proof.Machine.execSleepWrite rs1 s
  | .sconsWrite n rs1 => Sys2Proof.Machine.execSconsWrite n rs1 s
  | .stailWrite n rs1 => Sys2Proof.Machine.execStailWrite n rs1 s
  | .dtailWrite n rs1 => Sys2Proof.Machine.execDtailWrite n rs1 s
  | .take rs1 => Sys2Proof.Machine.execTake rs1 s
  | .endJob rs1 => Sys2Proof.Machine.execEndJob rs1 s
  | .preempt rs1 => Sys2Proof.Machine.execPreempt rs1 s
  | .cmoClean rs1 => Sys2Proof.Machine.execCmoClean rs1 s
  | .cmoFlush rs1 => Sys2Proof.Machine.execCmoFlush rs1 s
  | .cmoInval rs1 => Sys2Proof.Machine.execCmoInval rs1 s
  | .cmoIinv rs1 => Sys2Proof.Machine.execCmoIinv rs1 s
  | .cmoZero rs1 => Sys2Proof.Machine.execCmoZero rs1 s
  | .cmoAllClean rs1 => Sys2Proof.Machine.execCmoAllClean rs1 s
  | .cmoAllFlush rs1 => Sys2Proof.Machine.execCmoAllFlush rs1 s
  | .hcpdRead rd => Sys2Proof.Machine.execHcpdRead rd s
  | .hcpdWrite rs1 => Sys2Proof.Machine.execHcpdWrite rs1 s
  | .tracewWrite rs1 => Sys2Proof.Machine.execTracewWrite rs1 s
  | .hcpWrite off v => Sys2Proof.Machine.execHcpWrite off v s
  | .latchingLoRead off => Sys2Proof.Machine.execLatchingLoRead off s
  | .doorbell n v => Sys2Proof.Machine.execDoorbell n v s
  | .setup n => Sys2Proof.Machine.execSetup n s
  | .start n => Sys2Proof.Machine.execStart n s
  | .stop n => Sys2Proof.Machine.execStop n s
  | .cgtLoad first last => Sys2Proof.Machine.execCgtLoad first last s
  | .cgtSave first last => Sys2Proof.Machine.execCgtSave first last s
  | .cgtEntryApply => Sys2Proof.Machine.execCgtEntryApply s
  | .go => Sys2Proof.Machine.execGo s
  | .warm => Sys2Proof.Machine.execWarm s
  | .core => Sys2Proof.Machine.execCore s
  | .featSealWrite v => Sys2Proof.Machine.execFeatSealWrite v s
  | .modePendWrite v => Sys2Proof.Machine.execModePendWrite v s
  | .nrtTableCopy => Sys2Proof.Machine.execNrtTableCopy s
  | .ltsCfgWrite v => Sys2Proof.Machine.execLtsCfgWrite v s
  | .worldLockWrite v => Sys2Proof.Machine.execWorldLockWrite v s
  | .linkEnableWrite en => Sys2Proof.Machine.execLinkEnableWrite en s
  | .retrain mask => Sys2Proof.Machine.execRetrain mask s
  | .obsCfgWrite v => Sys2Proof.Machine.execObsCfgWrite v s
  | .mpdreqWrite v => Sys2Proof.Machine.execMpdreqWrite v s
  | .maltsterInstruction => Sys2Proof.Machine.execMaltsterInstruction s
  | .maltsterSource src => Sys2Proof.Machine.execMaltsterSource src s
  | .interruptEntry => Sys2Proof.Machine.execInterruptEntry s
  | .windowSpill => Sys2Proof.Machine.execWindowSpill s
  | .windowFill => Sys2Proof.Machine.execWindowFill s
  | .domainPowerUp pd => Sys2Proof.Machine.execDomainPowerUp pd s
  | .descriptorFetch n => Sys2Proof.Machine.execDescriptorFetch n s
  | .jobOffer => Sys2Proof.Machine.execJobOffer s
  | .jobWaitArmRetry n => Sys2Proof.Machine.execJobWaitArmRetry n s
  | .completionWrite n => Sys2Proof.Machine.execCompletionWrite n s
  | .eventWrite e => Sys2Proof.Machine.execEventWrite e s
  | .interruptMessage n => Sys2Proof.Machine.execInterruptMessage n s
  | .streamBegin n => Sys2Proof.Machine.execStreamBegin n s
  | .spargeChunk => Sys2Proof.Machine.execSpargeChunk s
  | .dmaDescriptorBegin ch => Sys2Proof.Machine.execDmaDescriptorBegin ch s
  | .dmaPieceIssue => Sys2Proof.Machine.execDmaPieceIssue s
  | .dmaEndSignal ch => Sys2Proof.Machine.execDmaEndSignal ch s
  | .syncOpApply => Sys2Proof.Machine.execSyncOpApply s
  | .swaitTimeout num => Sys2Proof.Machine.execSwaitTimeout num s
  | .waitNotify num => Sys2Proof.Machine.execWaitNotify num s
  | .chrecvTimeout => Sys2Proof.Machine.execChrecvTimeout s
  | .chainTransferSend east => Sys2Proof.Machine.execChainTransferSend east s
  | .chh east world cls tag rows => Sys2Proof.Machine.execChh east world cls tag rows s
  | .rdIn h => Sys2Proof.Machine.execRdIn h s
  | .wr h data => Sys2Proof.Machine.execWr h data s
  | .atIn h data => Sys2Proof.Machine.execAtIn h data s
  | .syq h => Sys2Proof.Machine.execSyq h s
  | .rdr fp h data => Sys2Proof.Machine.execRdr fp h data s
  | .wra fp h => Sys2Proof.Machine.execWra fp h s
  | .atr fp h => Sys2Proof.Machine.execAtr fp h s
  | .syr h => Sys2Proof.Machine.execSyr h s
  | .requestTimeout fp rtag => Sys2Proof.Machine.execRequestTimeout fp rtag s
  | .dataBlock p ctl data hdr crc => Sys2Proof.Machine.execDataBlock p ctl data hdr crc s
  | .idleBlock p ctl data hdr crc => Sys2Proof.Machine.execIdleBlock p ctl data hdr crc s
  | .train p ctl data hdr crc => Sys2Proof.Machine.execTrain p ctl data hdr crc s
  | .advert p ctl data hdr crc => Sys2Proof.Machine.execAdvert p ctl data hdr crc s
  | .pause p ctl data hdr crc => Sys2Proof.Machine.execPause p ctl data hdr crc s
  | .resume p ctl data hdr crc => Sys2Proof.Machine.execResume p ctl data hdr crc s
  | .down p ctl data hdr crc => Sys2Proof.Machine.execDown p ctl data hdr crc s
  | .deskew p => Sys2Proof.Machine.execDeskew p s
  | .linkRequest p => Sys2Proof.Machine.execLinkRequest p s
  | .replayTimerExpiry p => Sys2Proof.Machine.execReplayTimerExpiry p s
  | .bringupAttemptExpiry p => Sys2Proof.Machine.execBringupAttemptExpiry p s
  | .deskewInsert p => Sys2Proof.Machine.execDeskewInsert p s
  | .linkLaneTrim p lane move margin => Sys2Proof.Machine.execLinkLaneTrim p lane move margin s
  | .bondTrainingBeat => Sys2Proof.Machine.execBondTrainingBeat s
  | .bondLaneTrim lane move margin => Sys2Proof.Machine.execBondLaneTrim lane move margin s
  | .lreqInRise p => Sys2Proof.Machine.execLreqInRise p s
  | .wakeInRise => Sys2Proof.Machine.execWakeInRise s
  | .enterCouch => Sys2Proof.Machine.execEnterCouch s
  | .steepDescent => Sys2Proof.Machine.execSteepDescent s
  | .wakeFromCouch => Sys2Proof.Machine.execWakeFromCouch s
  | .wakeFromSteep cf cl => Sys2Proof.Machine.execWakeFromSteep cf cl s
  | .governorPeriod mw temp vsup slack cf cl => Sys2Proof.Machine.execGovernorPeriod mw temp vsup slack cf cl s
  | .oscillatorTrim count w => Sys2Proof.Machine.execOscillatorTrim count w s
  | .pllRetry cf cl => Sys2Proof.Machine.execPllRetry cf cl s
  | .droop => Sys2Proof.Machine.execDroop s
  | .timerCompare => Sys2Proof.Machine.execTimerCompare s
  | .kilnDone => Sys2Proof.Machine.execKilnDone s
  | .coldReset => Sys2Proof.Machine.execColdReset s
  | .powerGoodAonLow => Sys2Proof.Machine.execPowerGoodAonLow s
  | .powerGoodLLow => Sys2Proof.Machine.execPowerGoodLLow s
  | .powerGoodMLow => Sys2Proof.Machine.execPowerGoodMLow s
  | .lifeCycleChange lcs valid => Sys2Proof.Machine.execLifeCycleChange lcs valid s
  | .trim w => Sys2Proof.Machine.execTrim w s
  | .wipe => Sys2Proof.Machine.execWipe s
  | .pll cf cl => Sys2Proof.Machine.execPll cf cl s
  | .bondcal sweeps cycles => Sys2Proof.Machine.execBondcal sweeps cycles s
  | .link => Sys2Proof.Machine.execLink s
  | .mimg edges => Sys2Proof.Machine.execMimg edges s
  | .cimg edges => Sys2Proof.Machine.execCimg edges s
  | .traceSync => Sys2Proof.Machine.execTraceSync s
  | .pcSample => Sys2Proof.Machine.execPcSample s
  | .tracePacketAccept => Sys2Proof.Machine.execTracePacketAccept s
  | .powerOnResetRelease lcs valid => Sys2Proof.Machine.execPowerOnResetRelease lcs valid s
  | .supplyGoodRise m => Sys2Proof.Machine.execSupplyGoodRise m s
  | .scanShift scanIn => Sys2Proof.Machine.execScanShift scanIn s

end Sys2Proof.Machine
end

