-- ==== Sys2Proof/Machine/TickOps.lean ====
section
/-! DEFINITION. What the block does by itself while no command waits: a clock edge, retries of what is held, the waiting instruction. -/

namespace Sys2Proof.Machine

/-- One SCLK cycle of a powered block (R405, log 6), with a cycle of every link that has nothing else to send (R393). -/
def clockEdge (b : Blk) : Blk := if blockOn b then ports4.foldl linkCycle (elapse (b.pwr.sclk + 1) b) else b

/-- The fills that waited for room in the eviction buffer are offered again, in arrival order (R302). -/
def heldRetry (c : Cfg) (b : Blk) : Blk :=
  if b.caches.heldFills.isEmpty then b
  else
    let b' := b.caches.heldFills.foldl (fun b f => fillArrive c b f.2.2.2 f.1 f.2.1 f.2.2.1) { b with caches := { b.caches with heldFills := [] } }
    if b'.caches.heldFills.length < b.caches.heldFills.length then wakeCore b' else b'

/-- The units' own retries: answers of a dead port (R396), held fills, held inbound requests (R445), stream fetches (R184), deferred DMA
writes (R359). -/
def background (c : Cfg) (b : Blk) : Blk := dmaFlush c (streamRetry c (inboundRetry c (heldRetry c (failedAnswer c b))))

/-- The instruction that the main core tries again: the oldest that waits, unless it waits for a response (R215, R217). -/
def retryHead (b : Blk) : Option Instr :=
  if coreReady b && b.core.blocked != some .response then b.core.program.head? else none

/-- A tick: the queue is empty (log 3). -/
def tick (s : State) : Host.Outcome State Fault Refusal :=
  let b := awaken (background s.cfg (clockEdge s.blk))
  match retryHead b with
  | none => .next { s with blk := b }
  | some i => exec i { s with blk := { b with core := { b.core with replay := true, blocked := none } } }

end Sys2Proof.Machine
end

