-- ==== Sys2Proof/WellFormed.lean ====
section
/-! DEFINITION. Which terms of Instr are commands of the block: the checks that a term's operands alone decide. -/

namespace Sys2Proof

/-- TYPE and, of a control block, SUB of a block's control word (R383). -/
def blockType (ctl : W32) : BitVec 2 := (ctl >>> 15).truncate 2
def blockSub (ctl : W32) : Option (BitVec 7) := if blockType ctl = 2 then some (ctl.truncate 7) else none

/-- The LO words of the latching pairs (R482). -/
def latchingOffset (off : BitVec 16) : Bool :=
  off == 0x230 || off == 0x238 || (decide (0xC40 ≤ off.toNat ∧ off.toNat < 0xCA0) && off.toNat % 8 == 0)

/-- The term is a command: a packet's opcode and a block's type are its row's own, a transfer has 1 to 256 rows (R394). Every other
row's operands are legal at every value: what the spec fails a value with is the command's effect. -/
def Instr.wf (i : Instr) : Bool :=
  match i with
  | .add _ _ _ => true
  | .sub _ _ _ => true
  | .and_ _ _ _ => true
  | .or_ _ _ _ => true
  | .xor _ _ _ => true
  | .shl _ _ _ => true
  | .shr _ _ _ => true
  | .sar _ _ _ => true
  | .slt _ _ _ => true
  | .sltu _ _ _ => true
  | .min _ _ _ => true
  | .max _ _ _ => true
  | .minu _ _ _ => true
  | .maxu _ _ _ => true
  | .mul _ _ _ => true
  | .mulh _ _ _ => true
  | .mulhu _ _ _ => true
  | .div _ _ _ => true
  | .divu _ _ _ => true
  | .rem _ _ _ => true
  | .remu _ _ _ => true
  | .clz _ _ _ => true
  | .ctz _ _ _ => true
  | .popc _ _ _ => true
  | .bswap _ _ _ => true
  | .opw _ _ _ _ => true
  | .addi _ _ _ => true
  | .andi _ _ _ => true
  | .ori _ _ _ => true
  | .xori _ _ _ => true
  | .slti _ _ _ => true
  | .sltiu _ _ _ => true
  | .shiftImmediateShl _ _ _ _ => true
  | .shiftImmediateShr _ _ _ _ => true
  | .shiftImmediateSar _ _ _ _ => true
  | .lui _ _ => true
  | .auipc _ _ => true
  | .addiw _ _ _ => true
  | .lb _ _ _ => true
  | .lh _ _ _ => true
  | .lw _ _ _ => true
  | .ld _ _ _ => true
  | .lbu _ _ _ => true
  | .lhu _ _ _ => true
  | .lwu _ _ _ => true
  | .sb _ _ _ => true
  | .sh _ _ _ => true
  | .sw _ _ _ => true
  | .sd _ _ _ => true
  | .flw _ _ _ => true
  | .fld _ _ _ => true
  | .fsw _ _ _ => true
  | .fsd _ _ _ => true
  | .beq _ _ _ => true
  | .bne _ _ _ => true
  | .blt _ _ _ => true
  | .bge _ _ _ => true
  | .bltu _ _ _ => true
  | .bgeu _ _ _ => true
  | .j _ => true
  | .jalr _ _ _ => true
  | .call _ => true
  | .callr _ _ => true
  | .ret _ => true
  | .fadd _ _ _ _ => true
  | .fsub _ _ _ _ => true
  | .fmul _ _ _ _ => true
  | .fdiv _ _ _ _ => true
  | .fsqrt _ _ _ => true
  | .fmin _ _ _ _ => true
  | .fmax _ _ _ _ => true
  | .fabs _ _ _ => true
  | .fneg _ _ _ => true
  | .feq _ _ _ _ => true
  | .flt _ _ _ _ => true
  | .fle _ _ _ _ => true
  | .fclass _ _ _ => true
  | .fcvtF _ _ _ => true
  | .fcvtI _ _ _ => true
  | .fcvtFi _ _ _ => true
  | .fmvX _ _ _ => true
  | .fmvF _ _ _ => true
  | .fmadd _ _ _ _ _ => true
  | .fmsub _ _ _ _ _ => true
  | .fnmadd _ _ _ _ _ => true
  | .fnmsub _ _ _ _ _ => true
  | .atomicSwap _ _ _ _ _ => true
  | .atomicAdd _ _ _ _ _ => true
  | .atomicAnd _ _ _ _ _ => true
  | .atomicOr _ _ _ _ _ => true
  | .atomicMax _ _ _ _ _ => true
  | .atomicMin _ _ _ _ _ => true
  | .atomicMaxu _ _ _ _ _ => true
  | .atomicMinu _ _ _ _ _ => true
  | .cas _ _ _ _ _ => true
  | .sopRead _ _ _ => true
  | .sopAdd _ _ _ => true
  | .sopSet _ _ _ => true
  | .sopTake _ _ _ => true
  | .sopMax _ _ _ => true
  | .swait _ _ _ _ => true
  | .swcancel _ _ _ => true
  | .chsend _ _ => true
  | .chrecv _ _ => true
  | .fenceM _ => true
  | .fenceA _ => true
  | .fenceT _ => true
  | .crr _ _ _ => true
  | .crw _ _ _ => true
  | .crs _ _ _ => true
  | .crc _ _ _ => true
  | .gate _ _ => true
  | .eret _ => true
  | .gret _ => true
  | .brk _ => true
  | .tsleep _ => true
  | .tstop _ => true
  | .tstart _ _ => true
  | .twake _ _ => true
  | .ctxsaveL _ _ => true
  | .ctxsaveU _ _ => true
  | .ctxloadL _ _ => true
  | .ctxloadU _ _ => true
  | .twalk _ _ => true
  | .twalkR _ _ => true
  | .tlbw _ _ => true
  | .tinvVa _ _ => true
  | .tinvAsid _ _ => true
  | .tinvIpa _ _ => true
  | .tinvVmid _ _ => true
  | .tinvAll _ => true
  | .trqres _ _ => true
  | .tload _ _ => true
  | .tstore _ _ => true
  | .tstoreTun _ _ => true
  | .tmovv _ _ => true
  | .tmovt _ _ => true
  | .tzero _ _ => true
  | .trelease _ _ => true
  | .tmma _ _ => true
  | .tbwd _ _ => true
  | .tmaxi _ _ => true
  | .tmini _ _ => true
  | .tgopen _ _ => true
  | .tgclose _ _ => true
  | .tepi _ _ => true
  | .inspect _ _ => true
  | .tunSpill _ => true
  | .vsetl _ _ => true
  | .vld _ _ => true
  | .vst _ _ => true
  | .vsplat _ _ => true
  | .vins _ _ => true
  | .vext _ _ => true
  | .vtbl _ _ => true
  | .vadd _ _ => true
  | .vsub _ _ => true
  | .vmul _ _ => true
  | .vfma _ _ => true
  | .vdiv _ _ => true
  | .vsqrt _ _ => true
  | .vmin _ _ => true
  | .vmax _ _ => true
  | .vabs _ _ => true
  | .vneg _ _ => true
  | .vcmp _ _ => true
  | .vsel _ _ => true
  | .vcvt _ _ => true
  | .vcvti _ _ => true
  | .viadd _ _ => true
  | .visub _ _ => true
  | .viand _ _ => true
  | .vior _ _ => true
  | .vixor _ _ => true
  | .vishl _ _ => true
  | .vishr _ _ => true
  | .viota _ _ => true
  | .vredsum _ _ => true
  | .vredsumComp _ _ => true
  | .vredmax _ _ => true
  | .vredmin _ _ => true
  | .seedWrite _ => true
  | .tinuseWrite _ => true
  | .svcWrite _ => true
  | .sleepWrite _ => true
  | .sconsWrite _ _ => true
  | .stailWrite _ _ => true
  | .dtailWrite _ _ => true
  | .take _ => true
  | .endJob _ => true
  | .preempt _ => true
  | .cmoClean _ => true
  | .cmoFlush _ => true
  | .cmoInval _ => true
  | .cmoIinv _ => true
  | .cmoZero _ => true
  | .cmoAllClean _ => true
  | .cmoAllFlush _ => true
  | .hcpdRead _ => true
  | .hcpdWrite _ => true
  | .tracewWrite _ => true
  | .hcpWrite _ _ => true
  | .latchingLoRead off => latchingOffset off
  | .doorbell _ _ => true
  | .setup _ => true
  | .start _ => true
  | .stop _ => true
  | .cgtLoad _ _ => true
  | .cgtSave _ _ => true
  | .cgtEntryApply => true
  | .go => true
  | .warm => true
  | .core => true
  | .featSealWrite _ => true
  | .modePendWrite _ => true
  | .nrtTableCopy => true
  | .ltsCfgWrite _ => true
  | .worldLockWrite _ => true
  | .linkEnableWrite _ => true
  | .retrain _ => true
  | .obsCfgWrite _ => true
  | .mpdreqWrite _ => true
  | .maltsterInstruction => true
  | .maltsterSource _ => true
  | .interruptEntry => true
  | .windowSpill => true
  | .windowFill => true
  | .domainPowerUp _ => true
  | .descriptorFetch _ => true
  | .jobOffer => true
  | .jobWaitArmRetry _ => true
  | .completionWrite _ => true
  | .eventWrite _ => true
  | .interruptMessage _ => true
  | .streamBegin _ => true
  | .spargeChunk => true
  | .dmaDescriptorBegin _ => true
  | .dmaPieceIssue => true
  | .dmaEndSignal _ => true
  | .syncOpApply => true
  | .swaitTimeout _ => true
  | .waitNotify _ => true
  | .chrecvTimeout => true
  | .chainTransferSend _ => true
  | .chh _ _ _ _ rows => decide (1 ≤ rows.length ∧ rows.length ≤ 256)
  | .rdIn h => h.opc == 0x01
  | .wr h _ => h.opc == 0x02
  | .atIn h _ => h.opc == 0x03
  | .syq h => h.opc == 0x11
  | .rdr _ h _ => h.opc == 0x09
  | .wra _ h => h.opc == 0x0A
  | .atr _ h => h.opc == 0x0B
  | .syr h => h.opc == 0x12
  | .requestTimeout _ _ => true
  | .dataBlock _ ctl _ _ _ => blockType ctl == 0
  | .idleBlock _ ctl _ _ _ => blockType ctl == 1
  | .train _ ctl _ _ _ => blockSub ctl == some 1
  | .advert _ ctl _ _ _ => blockSub ctl == some 2
  | .pause _ ctl _ _ _ => blockSub ctl == some 4
  | .resume _ ctl _ _ _ => blockSub ctl == some 5
  | .down _ ctl _ _ _ => blockSub ctl == some 6
  | .deskew _ => true
  | .linkRequest _ => true
  | .replayTimerExpiry _ => true
  | .bringupAttemptExpiry _ => true
  | .deskewInsert _ => true
  | .linkLaneTrim _ _ _ _ => true
  | .bondTrainingBeat => true
  | .bondLaneTrim _ _ _ => true
  | .lreqInRise _ => true
  | .wakeInRise => true
  | .enterCouch => true
  | .steepDescent => true
  | .wakeFromCouch => true
  | .wakeFromSteep _ _ => true
  | .governorPeriod _ _ _ _ _ _ => true
  | .oscillatorTrim _ _ => true
  | .pllRetry _ _ => true
  | .droop => true
  | .timerCompare => true
  | .kilnDone => true
  | .coldReset => true
  | .powerGoodAonLow => true
  | .powerGoodLLow => true
  | .powerGoodMLow => true
  | .lifeCycleChange _ _ => true
  | .trim _ => true
  | .wipe => true
  | .pll _ _ => true
  | .bondcal _ _ => true
  | .link => true
  | .mimg _ => true
  | .cimg _ => true
  | .traceSync => true
  | .pcSample => true
  | .tracePacketAccept => true
  | .powerOnResetRelease _ _ => true
  | .supplyGoodRise _ => true
  | .scanShift _ => true

end Sys2Proof
end

