-- ==== Sys2Proof/Safety.lean ====
section
/-! DEFINITION. What the claims are stated in: legal configurations, stores in canonical form, an instruction that issues. -/

namespace Sys2Proof.Machine

/-- The main core issues an instruction of n words: it runs, nothing older waits, the spills that are due are made (R69), no interrupt is taken
at the boundary before it (R252), and its words are fetched and not reserved. `b1` is the block after the fetch, in which no beat is received
broken (R315) and no error was fatal (R308). -/
def Issues (s : State) (n : Nat) (b1 : Blk) : Prop :=
  let b := settle s.cfg s.blk
  coreReady (awaken b) = true ∧ b.core.replay = false ∧ b.core.program = [] ∧ boundaryEntry s.cfg (awaken b) = none ∧
    fetch s.cfg n (boundary (awaken b)) = .ok () b1 ∧ b1.sys.beats = [] ∧ b1.err.fatal = false

/-- The main core is at an instruction boundary where it fetches: it runs, nothing older waits, and no interrupt is taken (R252). -/
def Fetches (s : State) : Prop :=
  let b := settle s.cfg s.blk
  coreReady (awaken b) = true ∧ b.core.replay = false ∧ b.core.program = [] ∧ boundaryEntry s.cfg (awaken b) = none

/-- The block in which the instruction is tried: the due spills are made, a sleeping core awakes, and a pending epoch applies at the boundary. -/
def start (s : State) : Blk := boundary (awaken (settle s.cfg s.blk))

/-- The main core's instruction retires in block `b` and the PC goes on to `pc`. -/
def retiresTo (s : State) (pc : Word) (b : Blk) : Host.Outcome State Fault Refusal :=
  .next { s with blk := retire (start s).core.ps { b with core := { b.core with pc := pc } } }

/-- The instruction of n words retires in block `b` and the PC goes past it. -/
def retired (s : State) (n : Nat) (b : Blk) : Host.Outcome State Fault Refusal := retiresTo s (b.core.pc + BitVec.ofNat 64 (4 * n)) b

/-- The instruction raises a synchronous exception in block `b` (R247, R253). -/
def trapped (s : State) (i : Instr) (t : Trap) (b0 b1 : Blk) : Host.Outcome State Fault Refusal :=
  .next { s with blk := takeTrap s.cfg i t b0 (dropResp (ownCounts i b0 b1)) }

/-- A scalar access of n bytes at `va` is aligned, reaches offset o of this block's LTS at the GPA `a`, and meets no power gate, wipe,
flipped bit, broken beat or fatal state. `b2` is the block after the address is located. -/
def InLts (c : Cfg) (acc : Acc) (b1 : Blk) (va : Word) (n : Nat) (a : Word) (o : Nat) (b2 : Blk) : Prop :=
  va.toNat % n = 0 ∧ a.toNat % 64 + n ≤ 64 ∧ locate c acc b1.core.ps.level b1.core.ps.world va n false b1 = .ok (a, .lts o) b2 ∧
    pdRuns b2 (quarterPd o) = true ∧ pdRuns b2 (quarterPd (o + n - 1)) = true ∧ ltsWiping b2 o n = false ∧ b2.lts.flips = [] ∧
    b2.sys.beats = [] ∧ b2.err.fatal = false

/-- Block b3 is b2 with the n low bytes of x, least significant first, at LTS offset o. -/
def StoredInLts (b2 b3 : Blk) (o n : Nat) (x : Word) : Prop :=
  b3 = { b2 with lts := b3.lts } ∧ b3.lts.flips = [] ∧
    ∀ j : Nat, Sparse.get b3.lts.bytes j = if o ≤ j ∧ j < o + n then x.extractLsb' (8 * (j - o)) 8 else Sparse.get b2.lts.bytes j

/-- Core k' is k with its window advanced (R220): the caller's p group is the new a group, the new k and p groups are zero, and no other
entry of the register store changes. -/
def Advanced (k k' : Core) (level : BitVec 2) : Prop :=
  k' = { k with cwp := k'.cwp, res := k'.res, flfault := k'.flfault, regs := k'.regs, wlevel := k'.wlevel } ∧
    k'.cwp.toNat = (k.cwp.toNat + 1) % 127 ∧ k'.res = k.res + 1 ∧ k'.flfault = (k.flfault && decide ((k.res + 1).toNat < 2)) ∧
    k'.wlevel.get k'.cwp.toNat = level ∧
    (∀ n : BitVec 5, n.toNat < 8 → k'.reg n = k.reg n) ∧
    (∀ n : BitVec 5, 8 ≤ n.toNat → n.toNat < 16 → k'.reg n = k.reg (n + 16)) ∧
    (∀ n : BitVec 5, 16 ≤ n.toNat → k'.reg n = 0) ∧
    (∀ x : Nat, (∀ n : BitVec 5, 16 ≤ n.toNat → x ≠ regIdx k' n) → k'.regs.get x = k.regs.get x)

/-- The operand of format D in an f register: a B32 operand ignores bits [63:32] (R226). -/
def fpOperand (b : Blk) (d : Bool) (n : BitVec 5) : Nat := (b.core.fregs.get n.toNat).toNat % 2 ^ (fpFmt d).width

/-- The block with FP flags accumulated in CR_FCSR (R227, R231). -/
def withFlags (b : Blk) (f : FFlags) : Blk := { b with core := { b.core with fcsr := b.core.fcsr ||| BitVec.ofNat 7 f.toNat } }

/-- An FP instruction retires with a result in fd and its flags. -/
def fpRetires (s : State) (b : Blk) (fd : BitVec 5) (r : Nat × FFlags) : Host.Outcome State Fault Refusal :=
  let b := withFlags b r.2
  retired s 1 { b with core := b.core.setF fd (BitVec.ofNat 64 r.1) }

/-- An FP instruction retires with a result in rd and its flags. -/
def fpRetiresInt (s : State) (b : Blk) (rd : BitVec 5) (v : Word) (f : FFlags) : Host.Outcome State Fault Refusal :=
  let b := withFlags b f
  retired s 1 { b with core := b.core.setReg rd v }

/-- A sync target word with MODE 0 names the object of this block: every other bit is 0 (R206). -/
def localObject (t : Word) (obj : BitVec 16) : Prop := t = obj.zeroExtend 64

/-- The sync engine is idle and no wait is ARMED on the object. -/
def quietObject (b : Blk) (obj : BitVec 16) : Prop :=
  b.sync.queue = [] ∧ b.sync.coreDone = none ∧ armedOn b obj = []

/-- The block after the sync engine has served the main core: the next source in turn is the front end's (R207). -/
def coreServed (b : Blk) : Blk := { b with sync := { b.sync with rr := 2 } }

/-- The block with a sync object's new value. -/
def withObject (b : Blk) (obj : BitVec 16) (v : W32) : Blk :=
  { b with sync := { b.sync with objs := b.sync.objs.set obj.toNat v } }

/-- A chain operand passes checks 0x01 to 0x06 of R197 on block b, its domains run and no table load waits for its entry (R191). -/
def ChainLegal (b : Blk) (x : Word) (send : Bool) : Prop :=
  let a := chainArg x
  let e := cge b a.e
  let v := b.tun.grp a.grp
  bits x 63 27 = 0 ∧ e.valid = true ∧ e.world = b.core.ps.world ∧ e.fwd = false ∧ (if send then e.chout else e.chin) ≠ 0 ∧
    (if send then readableGroup v else gOpen v && !gFinal v) = true ∧ a.roff + a.m ≤ gCap v ∧ (gSums v = true ∨ a.m ≤ 32) ∧
    entryAwaited b a.e = false ∧ (19 :: halves (gBase v) (gRows v)).all (pdRuns b) = true

/-- No cache holds the line of the world twice. -/
def oneCopy (b : Blk) (tag : Nat) (world : Bool) : Prop :=
  ∀ c : CacheId, ((waysOf b c (c.set tag)).filter fun l => l.valid && l.tag == tag && (l.world == world)).length ≤ 1

/-- No way of the sets that a line lies in has a tag or state error (R307). -/
def NoTagErrors (b : Blk) (tag : Nat) : Prop := ∀ c : CacheId, ∀ l ∈ waysOf b c (c.set tag), l.terr = false ∧ l.serr = false

/-- The block after the line's newest bytes d, of its L2 way m, are sent to the Memory Port and the way is clean (R304): its buffered copies
are found no more. -/
def LineSent (c : Cfg) (b : Blk) (tag : Nat) (world : Bool) (m : Line) (d : Piece) : Blk :=
  writeBack c (evictStale (putLine (dropSide b tag none) .l2 { m with data := d, dirty := false, perr := false }) tag) tag world d .posted

/-- Block b' is b with the line of the world in no cache, every other line of the caches as it was, no buffered copy of the line to be found, and
the fills of it that were under way cancelled (R304). -/
def LineGone (b b' : Blk) (tag : Nat) (world : Bool) : Prop :=
  ∃ x : Caches, b' = cancelFills { b with caches := x } (fun u => u == tag) ∧
    (∀ c, findLine { b with caches := x } c tag world = none) ∧
    (∀ c t w, (t, w) ≠ (tag, world) → findLine { b with caches := x } c t w = findLine b c t w) ∧
    x.side = b.caches.side.filter (fun l => l.tag != tag) ∧ x.evict.map (fun e => e.line) = b.caches.evict.map (fun e => e.line) ∧
    ∀ e ∈ x.evict, e.line.tag = tag → e.live = false

/-- The owners' rules of access to a control register: any level; S and M; S of one world and M; M; and the two registers that further
state decides, CR_TCMP (R405) and the counters (R477). -/
inductive CrAccess where
  | any | sup | nonSecure | secure | machine | timer | counter (n : Nat)
deriving DecidableEq, Repr

/-- May the context of block b make an access of this rule? -/
def CrAccess.permits (b : Blk) : CrAccess → Bool
  | .any => true
  | .sup => b.core.ps.level != 0
  | .nonSecure => b.core.ps.level == 2 || (b.core.ps.level == 1 && !b.core.ps.world)
  | .secure => b.core.ps.level == 2 || (b.core.ps.level == 1 && b.core.ps.world)
  | .machine => b.core.ps.level == 2
  | .timer => b.core.ps.level == 2 || (b.core.ps.level == 1 && decide (bits b.core.iroute 7 6 = b.core.ps.world.toNat))
  | .counter n => b.core.ps.level != 0 || bit b.obs.cntuen n

/-- The numbers that R483 lists for the main core, with their owners' rules of reading and of writing. -/
def crTable : List (Nat × Nat × CrAccess × CrAccess) :=
  [(0x000, 0x000, .any, .sup), (0x010, 0x015, .nonSecure, .nonSecure), (0x018, 0x01D, .secure, .secure), (0x020, 0x025, .machine, .machine),
   (0x030, 0x031, .sup, .sup), (0x032, 0x033, .machine, .machine), (0x034, 0x035, .sup, .machine), (0x040, 0x040, .any, .sup),
   (0x041, 0x044, .sup, .sup), (0x045, 0x046, .machine, .machine), (0x047, 0x047, .any, .any), (0x048, 0x048, .any, .sup),
   (0x049, 0x04C, .machine, .machine), (0x04D, 0x04D, .sup, .sup), (0x060, 0x062, .nonSecure, .nonSecure),
   (0x063, 0x064, .machine, .machine), (0x068, 0x06A, .secure, .secure), (0x06B, 0x06C, .machine, .machine),
   (0x070, 0x071, .machine, .machine), (0x072, 0x073, .sup, .sup)] ++
  [(0x080, 0x080, .any, .sup), (0x081, 0x082, .any, .any), (0x083, 0x083, .sup, .sup), (0x084, 0x085, .any, .any),
   (0x086, 0x088, .machine, .machine), (0x090, 0x090, .sup, .sup), (0x091, 0x091, .machine, .machine), (0x092, 0x092, .any, .any),
   (0x093, 0x093, .timer, .timer), (0x094, 0x094, .sup, .sup), (0x098, 0x099, .machine, .machine), (0x0A0, 0x0A2, .sup, .sup),
   (0x0B0, 0x0BF, .sup, .sup), (0x0C0, 0x0CF, .sup, .sup), (0x0D0, 0x0D0, .nonSecure, .nonSecure), (0x0D1, 0x0D1, .secure, .secure),
   (0x0D2, 0x0D2, .nonSecure, .nonSecure), (0x0D3, 0x0D3, .secure, .secure), (0x0E0, 0x0E7, .any, .any), (0x0E8, 0x0EB, .sup, .sup)] ++
  [(0x100, 0x101, .any, .any), (0x102, 0x103, .any, .sup), (0x104, 0x104, .sup, .sup), (0x105, 0x105, .any, .any), (0x106, 0x106, .any, .sup),
   (0x107, 0x107, .sup, .sup), (0x110, 0x11F, .any, .any), (0x120, 0x121, .any, .any), (0x122, 0x122, .any, .sup), (0x123, 0x123, .sup, .sup),
   (0x124, 0x124, .any, .sup), (0x140, 0x140, .any, .any), (0x141, 0x141, .sup, .sup), (0x142, 0x142, .machine, .machine)] ++
  (List.range 12).map (fun n => (0x150 + n, 0x150 + n, .counter n, .sup)) ++ [(0x164, 0x16B, .sup, .sup)]

/-- May the running context read, and write, the control register of a number? A number that the table does not list is nobody's. -/
def crPermits (b : Blk) (write : Bool) (cr : Nat) : Bool :=
  crTable.any fun r => decide (r.1 ≤ cr) && decide (cr ≤ r.2.1) && (if write then r.2.2.2 else r.2.2.1).permits b

/-- Nothing keeps an entry at a level from being recorded in its bank: no frozen window, no service mode, a window free and the bank
unoccupied. -/
def EntryFree (k : Core) (target : BitVec 2) : Prop :=
  k.svcBanks = 0 ∧ k.frozen = false ∧ k.res.toNat < 125 ∧ (bankOf k target (target == 2 || k.ps.world)).occ = false

/-- b' is b after entry e of the context of core k to the handler at h (R253): the bank of the target level takes the record, the window
advances, k7 takes the bank's stack pointer, and the level, world, mask and PC become the handler's. -/
def Entered (k : Core) (b b' : Blk) (e : Entry) (h : Word) : Prop :=
  let w := e.target == 2 || k.ps.world
  let bk := bankOf k e.target w
  let k1 := setBank k e.target w { bk with
    epc := e.pc, epwLevel := k.ps.level, epwWorld := k.ps.world, epwMask := k.ps.mask, cause := e.cause, detail := e.detail
    olevel := k.ps.level, oworld := k.ps.world, occ := true, faddr := e.faddr }
  ∃ k2, Advanced k1 k2 e.target ∧
    b' = { b with
      core := ({ k2 with ps := { k.ps with level := e.target, world := w, mask := e.mask.getD k.ps.mask }, pc := h } : Core).setReg 23 bk.sp
      mmu := { b.mmu with walkBuf := none }, obs := b'.obs }

/-- The parts of a save area are written one after the other (R236). -/
def Saves (c : Cfg) (va : Word) : List (Nat × List Byte) → Blk → Blk → Prop
  | [], b, b' => b' = b
  | (o, bs) :: ps, b, b' => ∃ b2, savePart c va o bs b = .ok () b2 ∧ Saves c va ps b2 b'

/-- The parts of a save area are read one after the other. -/
def Reads (c : Cfg) (va : Word) : List (Nat × Nat × List Byte) → Blk → Blk → Prop
  | [], b, b' => b' = b
  | (o, n, bs) :: ps, b, b' => ∃ b2, loadPart c va o n b = .ok bs b2 ∧ Reads c va ps b2 b'

/-- The block in which a tile instruction works: a pending epoch is applied by the tile engine (R346). -/
def tileEpoch (b : Blk) : Blk :=
  match epochReady b with
  | some e => { b with rings := { b.rings with epTile := e } }
  | none => b

/-- A tile instruction issues and its power domains are on. `b2` is the block it works on. -/
def TileIssues (s : State) (pds : List Nat) (b2 : Blk) : Prop :=
  ∃ b1, Issues s 2 b1 ∧ pds.all (pdRuns b1) = true ∧ b2 = tileEpoch b1

/-- A tile instruction retires in block b, and is counted (R475). -/
def tileRetires (s : State) (b : Blk) : Host.Outcome State Fault Refusal := retired s 2 (countCore b 6)

/-- INSPECT retires in block b1: it counts at no counter (R480), so the counters are those of the block in which it was tried. -/
def inspectRetires (s : State) (b1 : Blk) : Host.Outcome State Fault Refusal :=
  let b := uncount (start s) { b1 with core := { b1.core with pc := b1.core.pc + 8 } }
  .next { s with blk := boundary (reschedule (endInstr b)) }

/-- The tiles of a list apart, tile file tf' reads as tf. -/
def TilesElse (tf tf' : TileFile) (ts : List Nat) : Prop :=
  ∀ u, u < 16 → u ∉ ts → tf'.used u = tf.used u ∧ tf'.tag u = tf.tag u ∧
    ∀ r, r < 64 → tf'.row u r = tf.row u r ∧ tf'.scale u r = tf.scale u r

/-- The LTS ranges (offset, length) can be read and written at once: no power gate, wipe, flipped bit, broken beat or fatal state. -/
def LtsOpen (b : Blk) (ps : List (Nat × Nat)) : Prop :=
  b.lts.flips = [] ∧ b.sys.beats = [] ∧ b.err.fatal = false ∧
    ∀ p ∈ ps, pdRuns b (quarterPd p.1) = true ∧ pdRuns b (quarterPd (p.1 + p.2 - 1)) = true ∧ ltsWiping b p.1 p.2 = false ∧ 0 < p.2

/-- No two of the ranges (offset, length) share a byte. -/
def Apart (ps : List (Nat × Nat)) : Prop := ps.Pairwise fun p q => p.1 + p.2 ≤ q.1 ∨ q.1 + q.2 ≤ p.1

/-- Block b' is b with the byte strings stored at their LTS offsets and every other byte as it was. -/
def Written (b b' : Blk) (ps : List (Nat × List Byte)) : Prop :=
  b' = { b with lts := b'.lts } ∧ b'.lts.flips = [] ∧
    (∀ p ∈ ps, ∀ i, i < p.2.length → Sparse.get b'.lts.bytes (p.1 + i) = p.2.getD i 0) ∧
    ∀ j : Nat, (∀ p ∈ ps, ¬ (p.1 ≤ j ∧ j < p.1 + p.2.length)) → Sparse.get b'.lts.bytes j = Sparse.get b.lts.bytes j

/-- Rows base to base + m - 1 of t' hold f in columns 0 to n - 1 and their old entries in the others. -/
def RowsHold (t t' : Tun) (base m n : Nat) (f : Nat → Nat → W32) : Prop :=
  ∀ i, i < m → ∀ j, j < 64 → entry (t'.rows.get (base + i)) j = if j < n then f i j else entry (t.rows.get (base + i)) j

/-- Tun t' is t after a commit to group g: its dirty bit is set, CCOUNT counts the commit where `counts`, and stays at 4,095 where SPILL is 0
(R96), SAT and NAN are set where the commit saturated and where it wrote a NaN, and UE and EVICT stay (R104). -/
def Commits (t t' : Tun) (g : Nat) (counts : Bool) (sat nan : Prop) : Prop :=
  let v := t.grp g
  t'.grp g = (if counts then setBits v 47 36 (if gSpill v = 0 then Nat.min 4095 (gCcount v + 1) else gCcount v + 1) else v) ∧
    bit t'.dirty g = true ∧ (bit t'.flag g = true ↔ bit t.flag g = true ∨ sat) ∧
    (bit t'.flag (16 + g) = true ↔ bit t.flag (16 + g) = true ∨ nan) ∧
    bit t'.flag (32 + g) = bit t.flag (32 + g) ∧ bit t'.flag (48 + g) = bit t.flag (48 + g)

/-- The groups of a list apart, the group registers, dirty bits and flags of t' are those of t. -/
def GroupsElse (t t' : Tun) (gs : List Nat) : Prop :=
  ∀ h, h < 16 → h ∉ gs → t'.grp h = t.grp h ∧ bit t'.dirty h = bit t.dirty h ∧ ∀ f, f < 4 → bit t'.flag (16 * f + h) = bit t.flag (16 * f + h)

/-- Rows outside the ranges (first row, count) are unchanged. -/
def RowsElse (t t' : Tun) (rs : List (Nat × Nat)) : Prop :=
  ∀ x : Nat, (∀ r ∈ rs, ¬ (r.1 ≤ x ∧ x < r.1 + r.2)) → t'.rows.get x = t.rows.get x

/-- A lane state advanced n times (R43). -/
def laneAfter : Nat → W32 → W32
  | 0, x => x
  | n + 1, x => advanceLane (laneAfter n x)

/-- The block in which a vector instruction works: a pending epoch is applied by the vector unit (R346). -/
def vecEpoch (b : Blk) : Blk :=
  match epochReady b with
  | some e => { b with rings := { b.rings with epVec := e } }
  | none => b

/-- A vector instruction issues with the vector unit's domain on; `b2` is the block it works on. -/
def VecIssues (s : State) (b2 : Blk) : Prop := ∃ b1, Issues s 2 b1 ∧ pdRuns b1 5 = true ∧ b2 = vecEpoch b1

/-- A vector instruction retires in block b with CR_VRESUME 0 (R156), and is counted (R475). -/
def vecRetires (s : State) (b : Blk) : Host.Outcome State Fault Refusal :=
  retired s 2 (countCore { b with vec := { b.vec with vresume := 0 } } 7)

/-- Elements i to i + n - 1 of width w of d' are f's values, and the others d's. -/
def ElemsHold (w : Nat) (d d' : VReg) (i n : Nat) (f : Nat → Nat) : Prop :=
  ∀ j, j < cap w → elem w d' j = if i ≤ j ∧ j < i + n then f (j - i) % 2 ^ w else elem w d j

/-- The outcome is block b retiring with elements i to i + n - 1 of v register vd written. -/
def VecWrites (s : State) (out : Host.Outcome State Fault Refusal) (b : Blk) (vd : BitVec 5) (w i n : Nat) (f : Nat → Nat) : Prop :=
  ∃ d, out = vecRetires s (if n = 0 then b else { b with vec := b.vec.put vd.toNat d }) ∧ ElemsHold w (b.vec.v.get vd.toNat) d i n f

/-- Flags of n elements accumulated in CR_VCSR (R143) and in CR_CVTSTAT (R49). -/
def withVecFlags (b : Blk) (n : Nat) (f : Nat → FFlags) : Blk :=
  { b with vec := { b.vec with vcsr := b.vec.vcsr ||| BitVec.ofNat 7 ((List.range n).foldl (fun a i => a.or (f i)) ({} : FFlags)).toNat } }
def withCvtFlags (b : Blk) (n : Nat) (f : Nat → CvtFlags) : Blk :=
  { b with epi := { b.epi with cvt := b.epi.cvt ||| BitVec.ofNat 5 ((List.range n).foldl (fun a i => a.or (f i)) ({} : CvtFlags)).toNat } }

/-- The LTS offset of a piece in the LTS. -/
def VPiece.off (p : VPiece) : Nat :=
  match p.path with
  | .lts o => o
  | _ => 0

/-- The block answers a host access (R376, R440): its supplies are good, AON_PORST_N is high and no life-cycle state holds it. -/
def hostAnswers (b : Blk) : Prop := blockOn b = true ∧ lcsHeld b = false

/-- The command leaves the rest of the block as `b`. -/
def Gives (s : State) (i : Instr) (b : Blk) : Prop := exec i s = .next { s with blk := b }

/-- The command leaves the configuration as `c` and the rest of the block as `b`. -/
def GivesCfg (s : State) (i : Instr) (c : Cfg) (b : Blk) : Prop := exec i s = .next { s with cfg := c, blk := b }

/-- An access of n bytes at `a` passes the checks of its world and leaves by the Memory Port or the Far Port. -/
def OnPort (c : Cfg) (b : Blk) (a : Word) (n : Nat) (world : Bool) (need : Need) : Prop :=
  ∃ p, resolve c b a n world false need false = .ok p ∧ ∀ o, p ≠ .lts o

/-- An access of n bytes at `a` passes the checks of its world at offset o of this block's LTS. -/
def AtLts (c : Cfg) (b : Blk) (a : Word) (n : Nat) (world : Bool) (need : Need) (o : Nat) : Prop :=
  resolve c b a n world false need false = .ok (.lts o)
/-- The configuration words stay in the ranges their registers clamp to, with reserved bits zero and the stores in canonical form (R2, R3, R54, R293,
R294, R312, R372, R409, R425, R433, R436, R453, R464). -/
structure Cfg.Legal (c : Cfg) : Prop where
  refMhz : 25 ≤ c.refMhz.toNat ∧ c.refMhz.toNat ≤ 200
  cap : 500 ≤ c.cap.toNat ∧ c.cap.toNat ≤ 3000
  gov : 16 ≤ c.kmin.toNat ∧ c.kmin.toNat ≤ c.kmax.toNat ∧ c.kmax.toNat ≤ 64 ∧ 60 ≤ c.tlim.toNat ∧ c.tlim.toNat ≤ 110 ∧ 2 ≤ c.mtgt.toNat
  rgroups : 1 ≤ c.rgroups.toNat ∧ c.rgroups.toNat ≤ 8
  lts : c.qen ≠ 0 ∧ c.ltsSec.toNat ≤ 48
  fpTmo : 48 ≤ c.fpTmo.toNat
  worlds : c.secobj.toNat ≤ 256 ∧ c.cgtsec.toNat ≤ 64
  images : c.mimg.toNat % 64 = 0 ∧ c.cimg.toNat % 64 = 0 ∧ c.cgtBase.toNat % 32 = 0
  feat : (c.featAcc.get 0).toNat ≤ 1 ∧ ∀ k, k ≠ 0 → c.featAcc.get k = 0
  sealed : c.sealed = true → c.featAcc.get 0 = 1
  nrt : ∀ n, (c.nrt.get n).toNat < 2 ^ 27
  rgn : ∀ n, bits (rgn c n) 3 2 ≤ 2 ∧ bits (rgn c n) 11 10 = 0 ∧ bits (rgn c n) 47 47 = 0 ∧ bits (rgn c n) 63 54 = 0 ∧
    12 ≤ rgnSize (rgn c n) ∧ rgnSize (rgn c n) ≤ 47
  canonical : Sparse.wf c.featAcc = true ∧ Sparse.wf c.nrt = true ∧ Sparse.wf c.rgnX = true

/-- The word offsets of the Host Control Port that the table of R482 lists. -/
def listedOffset (o : Nat) : Bool :=
  let within (lo hi : Nat) : Bool := decide (lo ≤ o) && decide (o ≤ hi)
  (o % 4 == 0) &&
    (o ∈ [0x000, 0x004, 0x030, 0x100, 0x104, 0x108, 0x140, 0x180, 0x188, 0x18C, 0x228, 0x248, 0x250, 0xA00, 0xA04, 0xA10, 0xA14, 0xC00, 0xC04]
      || within 0x010 0x02C || within 0x110 0x11C || within 0x200 0x224 || within 0x230 0x244 || within 0x300 0x308 || within 0x400 0x408
      || within 0x500 0x5FC || within 0x600 0x7FC || within 0x800 0x87C || within 0x900 0x9E8 || within 0xA20 0xA40 || within 0xA80 0xA90
      || within 0xC40 0xC9C || within 0x1000 0x13FC)

/-- The commands that can change a configuration word: a host write, a machine-firmware write of CR_HCPD, a Maltster instruction, a reset. -/
def writesCfg : Instr → Bool
  | .hcpWrite _ _ | .warm | .featSealWrite _ | .ltsCfgWrite _ | .worldLockWrite _ | .linkEnableWrite _ => true
  | .crw _ cr _ | .crs _ _ cr | .crc _ _ cr => cr == 0x99
  | .hcpdWrite _ | .maltsterInstruction | .coldReset | .powerGoodAonLow | .powerGoodLLow | .powerGoodMLow | .lifeCycleChange _ _ => true
  | _ => false

/-- The first step and the length of the widest passing window of a lane's sweep, of equal ones the lowest; no step of it passes where the length
is 0 (R459, log 5). -/
def WidestWindow (s : BitVec 64) (w : Nat × Nat) : Prop :=
  w.1 + w.2 ≤ 64 ∧ (∀ i, i < w.2 → bit s (w.1 + i) = true) ∧
    ∀ a n, a + n ≤ 64 → (∀ i, i < n → bit s (a + i) = true) → n ≤ w.2 ∧ (n = w.2 → w.1 ≤ a)

/-- Nothing waits in the block that a tick would act on: no unanswered request of a dead port, no held fill, request or DMA write, no
stream that could fetch, no sleeping core. -/
def Settled (b : Blk) : Prop :=
  b.ports.failed = [] ∧ b.caches.heldFills = [] ∧ b.sys.heldIn = [] ∧ (∀ e ∈ b.dma.chs, ∀ p ∈ e.2.pieces, p.todo = []) ∧
    (∀ e ∈ b.sparge.streams, e.2.reading = true ∨ e.2.parked = true ∨ e.2.ended.isSome = true) ∧
    b.core.run ≠ .sleeping

end Sys2Proof.Machine
end

