-- ==== Sys2Proof/Certificates/Slice0/Obligations.lean ====
section
/-! DEFINITION. The statements for the provers. -/

open Sys2Proof Sys2Proof.Machine

/-- A step takes the command at the front of the queue (log 1). -/
def Obligations.StepRunsFront : Prop :=
  ∀ (s : State) (i : Instr), step { s with pending := i :: s.pending } = exec i s

/-- R230: ADD, SUB, AND, OR, XOR, the shifts by rs2 modulo the width, SLT, SLTU, MIN, MAX, MINU and MAXU write rd and nothing else; the PC goes past
the instruction. R230: MUL gives the low half of the product, MULH its signed high half and MULHU its unsigned high half: with the low half they
spell the exact product. R217: integer division never faults: a zero divisor gives all ones and the dividend, the most negative dividend by −1
gives the dividend and 0; otherwise quotient and remainder divide, the signed remainder takes the dividend's sign and is smaller than the divisor.
R230: CLZ, CTZ, POPC and BSWAP of rs1, with rs2 0: leading zeros, trailing zeros (64 for 0), bits set, bytes in the other order. R229: OPW runs
the OP functions on bits [31:0] and sign-extends the result from bit 31. R228, R229: the immediate, shift-immediate and upper-immediate
instructions. -/
def Obligations.IntegerInstructions : Prop :=
  (∀ (s : State) (b1 : Blk) (rd rs1 rs2 : BitVec 5), Issues s 1 b1 →
     let a := b1.core.reg rs1
     let b := b1.core.reg rs2
     let ends (v : Word) := retired s 1 { b1 with core := b1.core.setReg rd v }
     exec (.add rd rs1 rs2) s = ends (a + b) ∧
     exec (.sub rd rs1 rs2) s = ends (a - b) ∧
     exec (.and_ rd rs1 rs2) s = ends (a &&& b) ∧
     exec (.or_ rd rs1 rs2) s = ends (a ||| b) ∧
     exec (.xor rd rs1 rs2) s = ends (a ^^^ b) ∧
     exec (.shl rd rs1 rs2) s = ends (a <<< (b.toNat % 64)) ∧
     exec (.shr rd rs1 rs2) s = ends (a >>> (b.toNat % 64)) ∧
     exec (.sar rd rs1 rs2) s = ends (a.sshiftRight (b.toNat % 64)) ∧
     exec (.slt rd rs1 rs2) s = ends (if a.slt b then 1 else 0) ∧
     exec (.sltu rd rs1 rs2) s = ends (if a.ult b then 1 else 0) ∧
     exec (.min rd rs1 rs2) s = ends (if a.slt b then a else b) ∧
     exec (.max rd rs1 rs2) s = ends (if a.slt b then b else a) ∧
     exec (.minu rd rs1 rs2) s = ends (if a.ult b then a else b) ∧
     exec (.maxu rd rs1 rs2) s = ends (if a.ult b then b else a)) ∧
  (∀ (s : State) (b1 : Blk) (rd rs1 rs2 : BitVec 5), Issues s 1 b1 →
     let a := b1.core.reg rs1
     let b := b1.core.reg rs2
     let ends (v : Word) := retired s 1 { b1 with core := b1.core.setReg rd v }
     ∃ lo hi hiu : Word,
       exec (.mul rd rs1 rs2) s = ends lo ∧
       exec (.mulh rd rs1 rs2) s = ends hi ∧
       exec (.mulhu rd rs1 rs2) s = ends hiu ∧
       hi.toInt * 2 ^ 64 + lo.toNat = a.toInt * b.toInt ∧
       hiu.toNat * 2 ^ 64 + lo.toNat = a.toNat * b.toNat) ∧
  (∀ (s : State) (b1 : Blk) (rd rs1 rs2 : BitVec 5), Issues s 1 b1 →
     let a := b1.core.reg rs1
     let b := b1.core.reg rs2
     let ends (v : Word) := retired s 1 { b1 with core := b1.core.setReg rd v }
     ∃ q r qu ru : Word,
       exec (.div rd rs1 rs2) s = ends q ∧
       exec (.rem rd rs1 rs2) s = ends r ∧
       exec (.divu rd rs1 rs2) s = ends qu ∧
       exec (.remu rd rs1 rs2) s = ends ru ∧
       (b = 0 → q = BitVec.allOnes 64 ∧ r = a ∧ qu = BitVec.allOnes 64 ∧ ru = a) ∧
       (a = 0x8000000000000000 → b = BitVec.allOnes 64 → q = a ∧ r = 0) ∧
       (b ≠ 0 → qu.toNat * b.toNat + ru.toNat = a.toNat ∧ ru.toNat < b.toNat) ∧
       (b ≠ 0 → ¬ (a = 0x8000000000000000 ∧ b = BitVec.allOnes 64) →
         q.toInt * b.toInt + r.toInt = a.toInt ∧ r.toInt.natAbs < b.toInt.natAbs ∧ (r ≠ 0 → (r.msb = a.msb)))) ∧
  (∀ (s : State) (b1 : Blk) (rd rs1 : BitVec 5), Issues s 1 b1 →
     let a := b1.core.reg rs1
     let ends (v : Word) := retired s 1 { b1 with core := b1.core.setReg rd v }
     ∃ l t p w : Word,
       exec (.clz rd rs1 0) s = ends l ∧
       exec (.ctz rd rs1 0) s = ends t ∧
       exec (.popc rd rs1 0) s = ends p ∧
       exec (.bswap rd rs1 0) s = ends w ∧
       (a = 0 → l = 64 ∧ t = 64) ∧
       (a ≠ 0 → l.toNat < 64 ∧ a.getLsbD (63 - l.toNat) = true ∧ ∀ j, 63 - l.toNat < j → a.getLsbD j = false) ∧
       (a ≠ 0 → a.getLsbD t.toNat = true ∧ ∀ j, j < t.toNat → a.getLsbD j = false) ∧
       p.toNat = ((List.range 64).filter fun j => a.getLsbD j).length ∧
       (∀ k, k < 8 → w.extractLsb' (8 * k) 8 = a.extractLsb' (8 * (7 - k)) 8)) ∧
  (∀ (s : State) (b1 : Blk) (rd rs1 rs2 : BitVec 5), Issues s 1 b1 →
     let a : W32 := (b1.core.reg rs1).truncate 32
     let b : W32 := (b1.core.reg rs2).truncate 32
     let ends (v : W32) := retired s 1 { b1 with core := b1.core.setReg rd (v.signExtend 64) }
     exec (.opw 0x000 rd rs1 rs2) s = ends (a + b) ∧
     exec (.opw 0x001 rd rs1 rs2) s = ends (a - b) ∧
     exec (.opw 0x002 rd rs1 rs2) s = ends (a &&& b) ∧
     exec (.opw 0x003 rd rs1 rs2) s = ends (a ||| b) ∧
     exec (.opw 0x004 rd rs1 rs2) s = ends (a ^^^ b) ∧
     exec (.opw 0x005 rd rs1 rs2) s = ends (a <<< (b.toNat % 32)) ∧
     exec (.opw 0x006 rd rs1 rs2) s = ends (a >>> (b.toNat % 32)) ∧
     exec (.opw 0x007 rd rs1 rs2) s = ends (a.sshiftRight (b.toNat % 32)) ∧
     exec (.opw 0x008 rd rs1 rs2) s = ends (if a.slt b then 1 else 0) ∧
     exec (.opw 0x009 rd rs1 rs2) s = ends (if a.ult b then 1 else 0) ∧
     exec (.opw 0x00A rd rs1 rs2) s = ends (if a.slt b then a else b) ∧
     exec (.opw 0x00B rd rs1 rs2) s = ends (if a.slt b then b else a) ∧
     exec (.opw 0x00C rd rs1 rs2) s = ends (if a.ult b then a else b) ∧
     exec (.opw 0x00D rd rs1 rs2) s = ends (if a.ult b then b else a) ∧
     exec (.opw 0x010 rd rs1 rs2) s = ends (a * b) ∧
     exec (.opw 0x011 rd rs1 rs2) s = ends (BitVec.ofInt 32 (a.toInt * b.toInt / 2 ^ 32)) ∧
     exec (.opw 0x012 rd rs1 rs2) s = ends (BitVec.ofNat 32 (a.toNat * b.toNat / 2 ^ 32)) ∧
     exec (.opw 0x014 rd rs1 rs2) s = ends (sdivK a b) ∧
     exec (.opw 0x015 rd rs1 rs2) s = ends (udivK a b) ∧
     exec (.opw 0x016 rd rs1 rs2) s = ends (sremK a b) ∧
     exec (.opw 0x017 rd rs1 rs2) s = ends (uremK a b) ∧
     exec (.opw 0x020 rd rs1 0) s = ends (BitVec.ofNat 32 (leadingZeros a)) ∧
     exec (.opw 0x021 rd rs1 0) s = ends (BitVec.ofNat 32 (trailingZeros a)) ∧
     exec (.opw 0x022 rd rs1 0) s = ends (BitVec.ofNat 32 (popCount a)) ∧
     exec (.opw 0x023 rd rs1 0) s = ends (bswapK a)) ∧
  (∀ (s : State) (b1 : Blk) (rd rs1 : BitVec 5) (imm : BitVec 16) (amt : BitVec 6) (up : BitVec 21), Issues s 1 b1 →
     let a := b1.core.reg rs1
     let sx : Word := imm.signExtend 64
     let zx : Word := imm.zeroExtend 64
     let ends (v : Word) := retired s 1 { b1 with core := b1.core.setReg rd v }
     exec (.addi rd rs1 imm) s = ends (a + sx) ∧
     exec (.andi rd rs1 imm) s = ends (a &&& zx) ∧
     exec (.ori rd rs1 imm) s = ends (a ||| zx) ∧
     exec (.xori rd rs1 imm) s = ends (a ^^^ zx) ∧
     exec (.slti rd rs1 imm) s = ends (if a.slt sx then 1 else 0) ∧
     exec (.sltiu rd rs1 imm) s = ends (if a.ult sx then 1 else 0) ∧
     exec (.addiw rd rs1 imm) s = ends ((a.truncate 32 + sx.truncate 32 : W32).signExtend 64) ∧
     exec (.shiftImmediateShl rd rs1 amt 0) s = ends (a <<< amt.toNat) ∧
     exec (.shiftImmediateShr rd rs1 amt 0) s = ends (a >>> amt.toNat) ∧
     exec (.shiftImmediateSar rd rs1 amt 0) s = ends (a.sshiftRight amt.toNat) ∧
     exec (.lui rd up) s = ends (BitVec.ofInt 64 (up.toInt * 65536)) ∧
     exec (.auipc rd up) s = ends (b1.core.pc + BitVec.ofInt 64 (up.toInt * 65536)))

/-- R3, R110, R111, R140–R142, R205, R209, R228–R232, R243: words that spell a reserved encoding are an illegal operand of their unit, whichever
command stands for the instruction (log 9): code 0x01 of the core, of the tile engine and of the vector unit, and code 0x10 of a sync operation.
The majors, functions and operations that the tables do not list are reserved. R228, R229, R230, R243: an integer instruction whose field that
must be zero is not, or whose FUNCT is reserved, fails code 0x01 and raises cause 0x01; it writes no register. R217: a load or store whose address
is no multiple of its size raises the alignment fault and transfers nothing. R223, R243: while FROZEN is 1, CALL, CALLR and RET fail code 0x03 and
raise cause 0x01. -/
def Obligations.CoreFaults : Prop :=
  (∀ (s : State) (b1 b2 : Blk) (w w2 : W32) (rd rs1 rs2 : BitVec 5) (imm : BitVec 16) (f : BitVec 21) (g : BitVec 26) (h : BitVec 24), Fetches s →
     let pc := (start s).core.pc
     let t (cause : BitVec 6) (detail : BitVec 16) (fault : TrapRec) : Trap :=
       { cause := cause, detail := detail, faddr := 0, fault := fault, wlevel := none, ipa := none, keep := false }
     let short : List Instr := [.add rd rs1 rs2, .addi rd rs1 imm, .lw rd rs1 imm, .sw rs2 rs1 imm, .beq rs1 rs2 imm, .jalr rd rs1 imm, .fadd true rd rs1 rs2,
       .sopAdd rd rs1 rs2, .crr rd 0x092 0, .brk 0]
     (fetchWord s.cfg pc (start s) = .ok w b1 → isLong w = false →
       (decode w 0 = .core → ∀ i ∈ short, exec i s = trapped s i (t 1 1 (.core 1 0)) (start s) b1) ∧
       (decode w 0 = .sync → ∀ i ∈ short, exec i s = trapped s i (t 0x12 0x10 (.chain 0x10 0)) (start s) b1)) ∧
     (fetchWord s.cfg pc (start s) = .ok w b1 → isLong w = true → fetchWord s.cfg (pc + 4) b1 = .ok w2 b2 →
       (decode w w2 = .tile → ∀ i ∈ [Instr.tload f w2, .tmma f w2, .tgopen f w2], exec i s = trapped s i (t 0x10 1 (.tile 1 0 0)) (start s) b2) ∧
       (decode w w2 = .vector → ∀ i ∈ [Instr.vadd g h, .vld g h, .vsetl g h], exec i s = trapped s i (t 0x11 1 (.vec 1 0)) (start s) b2)) ∧
     (bits w 31 26 ∈ [0x00, 0x03, 0x0E, 0x0F, 0x17, 0x2B, 0x2E, 0x2F, 0x31, 0x32, 0x33, 0x35, 0x36, 0x37, 0x39, 0x3A, 0x3B, 0x3C, 0x3F] →
       decode w w2 = .core) ∧
     (bits w 31 26 = 0x01 → 0x24 ≤ bits w 10 0 → decode w w2 = .core) ∧ (bits w 31 26 = 0x0A → bits w 7 6 = 3 → decode w w2 = .core) ∧
     (bits w 31 26 = 0x2C → 18 ≤ bits w 10 6 ∨ bits w 4 0 ≠ 0 → decode w w2 = .core) ∧ (bits w 31 26 = 0x2D → bits w 5 3 ≠ 0 → decode w w2 = .core) ∧
     (bits w 31 26 = 0x30 → 9 ≤ bits w 3 0 → decode w w2 = .core) ∧ (bits w 31 26 = 0x34 → 9 ≤ bits w 7 0 → decode w w2 = .core) ∧
     (bits w 31 26 = 0x34 → bits w 7 0 = 1 → 5 ≤ bits w 10 8 → decode w w2 = .sync) ∧ (bits w 31 26 = 0x38 → 6 ≤ bits w 15 12 → decode w w2 = .core) ∧
     (bits w 31 26 = 0x3E → 0x13 ≤ bits w 25 21 → bits w 25 21 < 0x1F → decode w w2 = .tile) ∧
     (bits w 31 26 = 0x3D → 0x33 ≤ bits w2 7 0 → decode w w2 = .vector)) ∧
  (∀ (s : State) (b1 : Blk) (rd rs1 rs2 : BitVec 5) (amt : BitVec 6) (mbz : BitVec 8) (f : BitVec 11), Issues s 1 b1 →
     let stops (i : Instr) := exec i s = trapped s i
       { cause := 1, detail := 1, faddr := 0, fault := .core 1 0, wlevel := none, ipa := none, keep := false } (start s) b1
     (rs2 ≠ 0 → stops (.clz rd rs1 rs2) ∧ stops (.ctz rd rs1 rs2) ∧ stops (.popc rd rs1 rs2) ∧ stops (.bswap rd rs1 rs2)) ∧
     (mbz ≠ 0 → stops (.shiftImmediateShl rd rs1 amt mbz) ∧ stops (.shiftImmediateShr rd rs1 amt mbz) ∧
       stops (.shiftImmediateSar rd rs1 amt mbz)) ∧
     ((f = 0x00E ∨ f = 0x00F ∨ f = 0x013 ∨ (0x018 ≤ f.toNat ∧ f.toNat < 0x020) ∨ 0x024 ≤ f.toNat) → stops (.opw f rd rs1 rs2))) ∧
  (∀ (s : State) (b1 : Blk) (r rs1 : BitVec 5) (imm : BitVec 16), Issues s 1 b1 →
     let va := b1.core.reg rs1 + imm.signExtend 64
     let stops (d : BitVec 16) (i : Instr) := exec i s = trapped s i
       { cause := 4, detail := d, faddr := va, fault := .none, wlevel := none, ipa := none, keep := false } (start s) b1
     (va.toNat % 2 ≠ 0 → stops 1 (.lh r rs1 imm) ∧ stops 1 (.lhu r rs1 imm) ∧ stops 2 (.sh r rs1 imm)) ∧
     (va.toNat % 4 ≠ 0 → stops 1 (.lw r rs1 imm) ∧ stops 1 (.lwu r rs1 imm) ∧ stops 1 (.flw r rs1 imm) ∧ stops 2 (.sw r rs1 imm) ∧
       stops 2 (.fsw r rs1 imm)) ∧
     (va.toNat % 8 ≠ 0 → stops 1 (.ld r rs1 imm) ∧ stops 1 (.fld r rs1 imm) ∧ stops 2 (.sd r rs1 imm) ∧ stops 2 (.fsd r rs1 imm))) ∧
  (∀ (s : State) (b1 : Blk) (rs1 : BitVec 5) (off : BitVec 26), Issues s 1 b1 → b1.core.svcBanks = 0 → b1.core.frozen = true →
     ∀ i ∈ [Instr.call off, .callr rs1 0, .ret 0], exec i s = trapped s i
       { cause := 1, detail := 3, faddr := 0, fault := .core 3 0, wlevel := none, ipa := none, keep := false } (start s) b1)

/-- R217, R228, R229: a load from this block's LTS reads its bytes little-endian; LB, LH, LW and LD extend the sign, LBU, LHU and LWU zeros, FLW
writes zeros above bit 31. Nothing but rd or fd changes. R217, R228, R229: a store to this block's LTS writes the low bytes of rs2 (of f rs2 for
FSW and FSD) little-endian at its address and no other byte of the LTS, no register and nothing else of the block. -/
def Obligations.LoadsAndStores : Prop :=
  (∀ (s : State) (b1 b2 : Blk) (rd rs1 : BitVec 5) (imm : BitVec 16) (a : Word) (o : Nat), Issues s 1 b1 →
     let va := b1.core.reg rs1 + imm.signExtend 64
     let v (n : Nat) := natOfLE (Sparse.range b2.lts.bytes o n)
     let int (x : Word) := retired s 1 { b2 with core := b2.core.setReg rd x }
     let fp (x : Word) := retired s 1 { b2 with core := b2.core.setF rd x }
     (InLts s.cfg .load b1 va 1 a o b2 →
       exec (.lb rd rs1 imm) s = int ((BitVec.ofNat 8 (v 1)).signExtend 64) ∧ exec (.lbu rd rs1 imm) s = int (BitVec.ofNat 64 (v 1))) ∧
     (InLts s.cfg .load b1 va 2 a o b2 →
       exec (.lh rd rs1 imm) s = int ((BitVec.ofNat 16 (v 2)).signExtend 64) ∧ exec (.lhu rd rs1 imm) s = int (BitVec.ofNat 64 (v 2))) ∧
     (InLts s.cfg .load b1 va 4 a o b2 →
       exec (.lw rd rs1 imm) s = int ((BitVec.ofNat 32 (v 4)).signExtend 64) ∧ exec (.lwu rd rs1 imm) s = int (BitVec.ofNat 64 (v 4)) ∧
       exec (.flw rd rs1 imm) s = fp (BitVec.ofNat 64 (v 4))) ∧
     (InLts s.cfg .load b1 va 8 a o b2 →
       exec (.ld rd rs1 imm) s = int (BitVec.ofNat 64 (v 8)) ∧ exec (.fld rd rs1 imm) s = fp (BitVec.ofNat 64 (v 8)))) ∧
  (∀ (s : State) (b1 b2 : Blk) (rs2 rs1 : BitVec 5) (imm : BitVec 16) (a : Word) (o : Nat), Issues s 1 b1 →
     let va := b1.core.reg rs1 + imm.signExtend 64
     let stores (n : Nat) (i : Instr) (x : Word) := InLts s.cfg .store b1 va n a o b2 →
       ∃ b3, exec i s = retired s 1 b3 ∧ StoredInLts b2 b3 o n x
     stores 1 (.sb rs2 rs1 imm) (b1.core.reg rs2) ∧ stores 2 (.sh rs2 rs1 imm) (b1.core.reg rs2) ∧
     stores 4 (.sw rs2 rs1 imm) (b1.core.reg rs2) ∧ stores 8 (.sd rs2 rs1 imm) (b1.core.reg rs2) ∧
     stores 4 (.fsw rs2 rs1 imm) (b1.core.fregs.get rs2.toNat) ∧ stores 8 (.fsd rs2 rs1 imm) (b1.core.fregs.get rs2.toNat))

/-- R228, R229: branches go to their address + IMM × 4 when rs1 and rs2 compare as named and else past themselves; J to its address + OFF26 × 4; JALR
to rs1 + IMM with rd = its address + 4. No other register changes; a branch may count as mispredicted (log 94). R220: with a window free, CALL and
CALLR put their address + 4 in p7, advance the window and go to the target. R220, R223: with a window resident below, RET goes to a7 and retreats
the window, no register of the store changing; SPFAULT clears where FREE reaches LOWATER. -/
def Obligations.BranchesCallsReturns : Prop :=
  (∀ (s : State) (b1 : Blk) (rd rs1 rs2 : BitVec 5) (imm : BitVec 16) (off : BitVec 26), Issues s 1 b1 →
     let a := b1.core.reg rs1
     let b := b1.core.reg rs2
     let pc := b1.core.pc
     let goes (p : Bool) := retiresTo s (if p then pc + imm.signExtend 64 * 4 else pc + 4) (countBranch b1)
     exec (.beq rs1 rs2 imm) s = goes (a == b) ∧
     exec (.bne rs1 rs2 imm) s = goes (a != b) ∧
     exec (.blt rs1 rs2 imm) s = goes (a.slt b) ∧
     exec (.bge rs1 rs2 imm) s = goes (!a.slt b) ∧
     exec (.bltu rs1 rs2 imm) s = goes (a.ult b) ∧
     exec (.bgeu rs1 rs2 imm) s = goes (!a.ult b) ∧
     exec (.j off) s = retiresTo s (pc + off.signExtend 64 * 4) b1 ∧
     exec (.jalr rd rs1 imm) s = retiresTo s (a + imm.signExtend 64) { b1 with core := b1.core.setReg rd (pc + 4) }) ∧
  (∀ (s : State) (b1 : Blk) (rs1 : BitVec 5) (off : BitVec 26), Issues s 1 b1 → b1.core.svcBanks = 0 → b1.core.frozen = false →
     b1.core.res.toNat < 125 →
     let calls (i : Instr) (target : Word) := ∃ k, exec i s = retiresTo s target { b1 with core := k } ∧
       Advanced (b1.core.setReg 31 (b1.core.pc + 4)) k b1.core.ps.level
     calls (.call off) (b1.core.pc + off.signExtend 64 * 4) ∧ calls (.callr rs1 0) (b1.core.reg rs1)) ∧
  (∀ (s : State) (b1 : Blk), Issues s 1 b1 → b1.core.svcBanks = 0 → b1.core.frozen = false → b1.core.res ≠ 0 →
     exec (.ret 0) s = retiresTo s (b1.core.reg 15)
       { b1 with core := { b1.core with
           cwp := BitVec.ofNat 7 ((b1.core.cwp.toNat + 126) % 127)
           res := b1.core.res - 1
           spfault := b1.core.spfault && decide (125 - (b1.core.res - 1).toNat < b1.core.lowater.toNat) } })

/-- R226, R227, R231: the arithmetic FP instructions take their operands in the format D names, round once under CR_FCSR.RD, accumulate their flags in
CR_FCSR and write fd; nothing else changes. FNMADD and FNMSUB negate before the one rounding (log 57). -/
def Obligations.FpArithmetic : Prop :=
  ∀ (s : State) (b1 : Blk) (d : Bool) (fd f1 f2 f3 : BitVec 5), Issues s 1 b1 →
    let F := fpFmt d
    let rd := bits b1.core.fcsr 1 0
    let a := fpOperand b1 d f1
    let b := fpOperand b1 d f2
    let x := fpOperand b1 d f3
    let ends (r : Nat × FFlags) := fpRetires s b1 fd r
    exec (.fadd d fd f1 f2) s = ends (ieeeAdd F rd a b) ∧
    exec (.fsub d fd f1 f2) s = ends (ieeeAdd F rd a (flipSign F b)) ∧
    exec (.fmul d fd f1 f2) s = ends (ieeeMul F rd a b) ∧
    exec (.fdiv d fd f1 f2) s = ends (ieeeDiv F rd a b) ∧
    exec (.fsqrt d fd f1) s = ends (ieeeSqrt F rd a) ∧
    exec (.fmadd d fd f1 f2 f3) s = ends (ieeeFma F rd a b x) ∧
    exec (.fmsub d fd f1 f2 f3) s = ends (ieeeFma F rd a b (flipSign F x)) ∧
    exec (.fnmadd d fd f1 f2 f3) s = ends (ieeeFma F rd (flipSign F a) b (flipSign F x)) ∧
    exec (.fnmsub d fd f1 f2 f3) s = ends (ieeeFma F rd (flipSign F a) b x)

/-- R143, R146, R147, R226, R231: minimum and maximum, sign operations, compares, classes, conversions and moves of the FP registers. R231: FCLASS
sets exactly one bit, by class: infinities, normals, subnormals and zeros by sign, signalling and quiet NaN. R147, R231: FEQ, FLT and FLE of
operands that are no NaN compare their values, with no flag; a NaN compares false. -/
def Obligations.FpComparesAndMoves : Prop :=
  (∀ (s : State) (b1 : Blk) (d : Bool) (r f1 f2 : BitVec 5), Issues s 1 b1 →
     let F := fpFmt d
     let rd := bits b1.core.fcsr 1 0
     let a := fpOperand b1 d f1
     let b := fpOperand b1 d f2
     let fp (x : Nat × FFlags) := fpRetires s b1 r x
     let cmp (c : Nat) := fpRetiresInt s b1 r (if (fpCompare F c a b).1 then 1 else 0) (fpCompare F c a b).2
     let int (v : Word) := retired s 1 { b1 with core := b1.core.setReg r v }
     exec (.fmin d r f1 f2) s = fp (ieeeMinMax false F a b) ∧
     exec (.fmax d r f1 f2) s = fp (ieeeMinMax true F a b) ∧
     exec (.fabs d r f1) s = retired s 1 { b1 with core := b1.core.setF r (BitVec.ofNat 64 (fpAbs F a)) } ∧
     exec (.fneg d r f1) s = retired s 1 { b1 with core := b1.core.setF r (BitVec.ofNat 64 (fpNeg F a)) } ∧
     exec (.feq d r f1 f2) s = cmp 0 ∧
     exec (.flt d r f1 f2) s = cmp 1 ∧
     exec (.fle d r f1 f2) s = cmp 2 ∧
     exec (.fclass d r f1) s = int (BitVec.ofNat 64 (2 ^ fpClass F a)) ∧
     exec (.fcvtF d r f1) s = fp (cvtToIeee F (fpFmt (!d)) rd (fpOperand b1 (!d) f1)) ∧
     exec (.fcvtI d r f1) s = fpRetiresInt s b1 r (cvtToInt 64 F rd a).1 (cvtToInt 64 F rd a).2 ∧
     exec (.fcvtFi d r f1) s = fp (cvtOfInt F rd (b1.core.reg f1).toInt) ∧
     exec (.fmvX d r f1) s = int (BitVec.ofNat 64 a) ∧
     exec (.fmvF d r f1) s = retired s 1 { b1 with core := b1.core.setF r (BitVec.ofNat 64 ((b1.core.reg f1).toNat % 2 ^ F.width)) }) ∧
  (∀ (d : Bool) (a : Nat), a < 2 ^ (fpFmt d).width →
     let F := fpFmt d
     let e := a / 2 ^ F.p % 2 ^ F.ebits
     let f := a % 2 ^ F.p
     let neg : Bool := decide (2 ^ (F.width - 1) ≤ a)
     let top := 2 ^ F.ebits - 1
     2 ^ fpClass F a =
       if e = top ∧ f = 0 then (if neg then 2 ^ 0 else 2 ^ 7)
       else if e = top then (if 2 ^ (F.p - 1) ≤ f then 2 ^ 9 else 2 ^ 8)
       else if e ≠ 0 then (if neg then 2 ^ 1 else 2 ^ 6)
       else if f ≠ 0 then (if neg then 2 ^ 2 else 2 ^ 5)
       else if neg then 2 ^ 3 else 2 ^ 4) ∧
  (∀ (d : Bool) (a b : Nat), a < 2 ^ (fpFmt d).width → b < 2 ^ (fpFmt d).width →
     let F := fpFmt d
     (isNaNCode F a = true ∨ isNaNCode F b = true → ∀ c, c < 3 → (fpCompare F c a b).1 = false) ∧
     (isNaNCode F a = false → isNaNCode F b = false →
       (fpCompare F 0 a b).1 = Ex.eq (decodeEx F a) (decodeEx F b) ∧
       (fpCompare F 1 a b).1 = Ex.lt (decodeEx F a) (decodeEx F b) ∧
       ((fpCompare F 2 a b).1 = true ↔ Ex.lt (decodeEx F a) (decodeEx F b) = true ∨ Ex.eq (decodeEx F a) (decodeEx F b) = true) ∧
       ∀ c, c < 3 → (fpCompare F c a b).2 = {}))

/-- R230, R362: an atomic on this block's LTS reads, computes and writes at the bank in one step: rd takes the old value (zero-extended for the 32-bit
form, log 20), memory the new one; CAS stores rs2 when memory equals rd's old value. Nothing else changes. -/
def Obligations.AtomicsOnLts : Prop :=
  ∀ (s : State) (b1 b2 : Blk) (w : Bool) (rd rs1 rs2 : BitVec 5) (a : Word) (o : Nat), Issues s 1 b1 →
    let n := if w then 4 else 8
    InLts s.cfg .atomic b1 (b1.core.reg rs1) n a o b2 →
    let old : Word := BitVec.ofNat 64 (natOfLE (Sparse.range b2.lts.bytes o n))
    let x := b1.core.reg rs2
    let ext (y : Word) : Word := if w then (y.truncate 32 : W32).signExtend 64 else y
    let low (y : Word) : Word := if w then (y.truncate 32 : W32).zeroExtend 64 else y
    let ends (i : Instr) (new : Word) := ∃ b3, exec i s = retired s 1 { b3 with core := b3.core.setReg rd old } ∧ StoredInLts b2 b3 o n new
    ends (.atomicSwap w rd rs1 rs2 0) x ∧
    ends (.atomicAdd w rd rs1 rs2 0) (old + x) ∧
    ends (.atomicAnd w rd rs1 rs2 0) (old &&& x) ∧
    ends (.atomicOr w rd rs1 rs2 0) (old ||| x) ∧
    ends (.atomicMax w rd rs1 rs2 0) (if (ext old).slt (ext x) then x else old) ∧
    ends (.atomicMin w rd rs1 rs2 0) (if (ext x).slt (ext old) then x else old) ∧
    ends (.atomicMaxu w rd rs1 rs2 0) (if (low old).ult (low x) then x else old) ∧
    ends (.atomicMinu w rd rs1 rs2 0) (if (low x).ult (low old) then x else old) ∧
    ends (.cas w rd rs1 rs2 0) (if old = low (b1.core.reg rd) then x else old)

/-- R205, R207: a sync operation on an object of this block's own world, with the engine idle and no wait ARMED on the object: READ, ADD (saturating
with status 0x01), SET, TAKE (status 0x02 when it fails) and MAX give the old value and their status in rd. R204, R205, R207, R214: a sync
operation on an object of the other world changes no object and returns value 0 with status 0x03; the engine has served the main core. -/
def Obligations.SyncOperations : Prop :=
  (∀ (s : State) (b1 : Blk) (rd rs1 rs2 : BitVec 5) (obj : BitVec 16), Issues s 1 b1 → b1.err.fatal = false →
     localObject (b1.core.reg rs1) obj → quietObject b1 obj → objWorld s.cfg b1 obj = b1.core.ps.world →
     let v := b1.sync.objs.get obj.toNat
     let x : W32 := (b1.core.reg rs2).truncate 32
     let ends (new : W32) (st : BitVec 8) :=
       let b2 := withObject (coreServed b1) obj new
       retired s 1 { b2 with core := b2.core.setReg rd (v.zeroExtend 64 + st.zeroExtend 64 <<< 32) }
     exec (.sopRead rd rs1 rs2) s = ends v 0 ∧
     exec (.sopAdd rd rs1 rs2) s = (if v.toNat + x.toNat ≤ 0xFFFFFFFF then ends (v + x) 0 else ends 0xFFFFFFFF 1) ∧
     exec (.sopSet rd rs1 rs2) s = ends x 0 ∧
     exec (.sopTake rd rs1 rs2) s = (if x.toNat ≤ v.toNat then ends (v - x) 0 else ends v 2) ∧
     exec (.sopMax rd rs1 rs2) s = ends (if v.toNat < x.toNat then x else v) 0) ∧
  (∀ (s : State) (b1 : Blk) (rd rs1 rs2 : BitVec 5) (obj : BitVec 16), Issues s 1 b1 → b1.err.fatal = false →
     localObject (b1.core.reg rs1) obj → b1.sync.queue = [] → b1.sync.coreDone = none → objWorld s.cfg b1 obj ≠ b1.core.ps.world →
     ∀ i ∈ [Instr.sopRead rd rs1 rs2, .sopAdd rd rs1 rs2, .sopSet rd rs1 rs2, .sopTake rd rs1 rs2, .sopMax rd rs1 rs2],
       exec i s = retired s 1 { coreServed b1 with core := b1.core.setReg rd 0x300000000 })

/-- R208, R210, R214: a blocking SWAIT whose condition holds retires at once with the value and status 0, CONSUME subtracting the target; one whose
condition fails with TMO 0 retires with status 0x04 and changes no object. R210, R211: an event SWAIT whose condition fails arms the lowest FREE
entry: rd takes the value, status 0x06 and the handle, the entry's number with the incremented generation, and the program goes on. R213: SWCANCEL
of an ARMED event wait of the running world frees its entry with status 0; of any other handle it answers status 0x07 and changes no wait. -/
def Obligations.SyncWaits : Prop :=
  (∀ (s : State) (b1 : Blk) (rd rs1 rs2 : BitVec 5), Issues s 1 b1 → b1.err.fatal = false → ownWait b1 = none →
     let a := b1.core.reg rs1
     let t := b1.core.reg rs2
     let obj : BitVec 16 := a.truncate 16
     let cond : BitVec 2 := BitVec.ofNat 2 (bits t 33 32)
     let tgt : W32 := t.truncate 32
     let v := b1.sync.objs.get obj.toNat
     a.toNat < 2 ^ 48 → t.toNat < 2 ^ 35 → cond ≠ 3 → (bit t 34 = true → cond = 0) → objWorld s.cfg b1 obj = b1.core.ps.world →
     (condHolds cond v tgt = true → armedOn b1 obj = [] →
       let b2 := if bit t 34 then withObject b1 obj (v - tgt) else b1
       exec (.swait rd rs1 rs2 0) s = retired s 1 { b2 with core := b2.core.setReg rd (v.zeroExtend 64) }) ∧
     (condHolds cond v tgt = false → bits a 47 16 = 0 →
       exec (.swait rd rs1 rs2 0) s = retired s 1 { b1 with core := b1.core.setReg rd (v.zeroExtend 64 + 4 <<< 32) })) ∧
  (∀ (s : State) (b1 : Blk) (rd rs1 rs2 : BitVec 5) (n : Nat), Issues s 1 b1 → b1.err.fatal = false →
     let a := b1.core.reg rs1
     let t := b1.core.reg rs2
     let obj : BitVec 16 := a.truncate 16
     let cond : BitVec 2 := BitVec.ofNat 2 (bits t 33 32)
     let v := b1.sync.objs.get obj.toNat
     let gen := b1.sync.gens.get n + 1
     a.toNat < 2 ^ 48 → t.toNat < 2 ^ 38 → bit t 35 = true → cond ≠ 3 → (bit t 34 = true → cond = 0) →
     eventRingWorld b1 (bits t 37 36) = b1.core.ps.world → objWorld s.cfg b1 obj = b1.core.ps.world →
     condHolds cond v (t.truncate 32) = false → bits a 47 16 ≠ 0 →
     n < 256 → (∀ w ∈ b1.sync.waits, w.num.toNat ≠ n) → (∀ m, m < n → ∃ w ∈ b1.sync.waits, w.num.toNat = m) →
     ∃ b2 : Blk, exec (.swait rd rs1 rs2 0) s =
         retired s 1 { b2 with core := b2.core.setReg rd (v.zeroExtend 64 + 6 <<< 32 + BitVec.ofNat 64 (n + 256 * gen.toNat) <<< 40) } ∧
       b2 = { b1 with sync := b2.sync } ∧ b2.sync.objs = b1.sync.objs ∧ b2.sync.gens.get n = gen ∧
       ∃ w, b2.sync.waits = b1.sync.waits ++ [w] ∧ w.num.toNat = n ∧ w.gen = gen ∧ w.state = .armed ∧ w.obj = obj ∧
         w.world = b1.core.ps.world ∧ w.kind = .eventWait (BitVec.ofNat 2 (bits t 37 36))) ∧
  (∀ (s : State) (b1 : Blk) (rd rs1 : BitVec 5), Issues s 1 b1 →
     let h := b1.core.reg rs1
     let hit (w : WaitEntry) : Prop := w.handle.toNat = h.toNat ∧ w.state = .armed ∧ w.world = b1.core.ps.world ∧ ∃ e, w.kind = .eventWait e
     h.toNat < 2 ^ 16 →
     ((∀ w ∈ b1.sync.waits, ¬ hit w) →
       exec (.swcancel rd rs1 0) s = retired s 1 { b1 with core := b1.core.setReg rd 0x700000000 }) ∧
     (∀ w ∈ b1.sync.waits, hit w → (∀ u ∈ b1.sync.waits, hit u → u = w) →
       let b2 := { b1 with sync := { b1.sync with waits := b1.sync.waits.filter fun u => u.num != w.num } }
       exec (.swcancel rd rs1 0) s = retired s 1 { b2 with core := b2.core.setReg rd 0 }))

/-- R372: FENCE.M has no effect of its own and retires once every posted write of the core is sent (log 96); FENCE.A and FENCE.T retire once nothing
the core has sent is unacknowledged, and FENCE.T once no spill is due; otherwise they wait at the head. -/
def Obligations.Fences : Prop :=
  (∀ (s : State) (b1 : Blk), Issues s 1 b1 →
    (unsent b1 = false → exec (.fenceM 0) s = retired s 1 b1) ∧
    (unsent b1 = true → exec (.fenceM 0) s = .next { s with blk := waitHead (.fenceM 0) .other (start s) b1 }) ∧
    (unacknowledged b1 = false → exec (.fenceA 0) s = retired s 1 b1) ∧
    (unacknowledged b1 = true → exec (.fenceA 0) s = .next { s with blk := waitHead (.fenceA 0) .other (start s) b1 })) ∧
  (∀ (s : State) (b1 : Blk), Issues s 1 b1 → unacknowledged b1 = false →
    exec (.fenceT 0) s = retired s 1 b1)

/-- R192, R193, R197, R199: CHSEND appends the rows of its group, with its entry's TAG, world and the group's class, to the transmit buffer of CHOUT
and counts it in the entry, when the buffer has room. R197, R200, R389: CHRECV takes the oldest held transfer of its entry, of the group's class
and the named size, commits it into the group and counts it in the entry. One header credit and a credit for each row are freed on the Chain Port
of CHIN, whatever the state of its link, and on no other port. One of another class or size is discarded with its credits freed, and the
instruction fails check 0x07. -/
def Obligations.ChainInstructions : Prop :=
  (∀ (s : State) (b1 : Blk) (rs1 : BitVec 5), Issues s 1 b1 →
     let x := b1.core.reg rs1
     let a := chainArg x
     let e := cge b1 a.e
     let v := b1.tun.grp a.grp
     let rows := sendRows b1.tun a
     ChainLegal b1 x true → rowsHeld (txBuf b1 e.chout) + rows.length ≤ 64 →
     exec (.chsend rs1 0) s = retired s 1
       (setTx (setCge (tileEpoch b1) a.e { e with txCount := e.txCount + 1 }) e.chout
         (txBuf b1 e.chout ++ [{ world := e.world, cls := if gSums v then 0 else if gClass v = 2 then 1 else 2, tag := e.tag, rows := rows }]))) ∧
  (∀ (s : State) (b1 : Blk) (rs1 : BitVec 5) (t : Transfer), Issues s 1 b1 →
     let x := b1.core.reg rs1
     let a := chainArg x
     let e := cge b1 a.e
     let v := b1.tun.grp a.grp
     let taken : Chain → Chain := fun ch => { ch with
       rxW := if e.chin = 1 then removeFirst t ch.rxW else ch.rxW, rxE := if e.chin = 1 then ch.rxE else removeFirst t ch.rxE, recvSince := none }
     let b2 := { returnCredit (tileEpoch b1) e.chin t with chain := taken b1.chain }
     let fits := t.cls = (if gSums v then 0 else if gClass v = 2 then 1 else 2) ∧ t.rows.length = (if gSums v then a.m else 2 * a.m)
     let l := getLink b1 (chainPort e.chin)
     ChainLegal b1 x false → heldFor b1 e = some t →
     (getLink b2 (chainPort e.chin) = { l with freed0 := l.freed0 + 1, freed1 := l.freed1 + t.rows.length } ∧
       ∀ q, q ≠ chainPort e.chin → getLink b2 q = getLink b1 q) ∧
     (fits → exec (.chrecv rs1 0) s = retired s 1 { setCge b2 a.e { e with rxCount := e.rxCount + 1 } with tun := arrive a t b1.tun }) ∧
     (¬ fits → exec (.chrecv rs1 0) s = trapped s (.chrecv rs1 0)
       { cause := 0x12, detail := 7, faddr := 0, fault := .chain 7 (BitVec.ofNat 6 a.e), wlevel := none, ipa := none, keep := false } (start s) b2))

/-- R3, R227, R232, R483: CRR, CRW, CRS and CRC on CR_FCSR give rd the old value and write the value, the OR and the AND with the complement; a number
that is unassigned, or that the running level and world may not read, or not write, fails code 0x02 in each of those that read, or write, it, and
nothing is written (for CR_HCPD: where no write of it is left over to be made). R45, R74, R233, R412, R472: what a CRW of CR_SEED, CR_TINUSE,
CR_SVC, CR_SLEEP and CR_TRACEW does besides its register. A tile newly marked in use by CR_TINUSE has zero contents, tag zero and its CR_TDIRTY
bit set, a tile in use stays as it is, and the others are released. -/
def Obligations.ControlRegisters : Prop :=
  (∀ (s : State) (b1 : Blk) (rd rs1 : BitVec 5) (cr : BitVec 12), Issues s 1 b1 →
     let x := b1.core.reg rs1
     let old := b1.core.fcsr
     let k := b1.core.setReg rd (old.zeroExtend 64)
     let fcsr (k : Core) (v : BitVec 7) := retired s 1 { b1 with core := { k with fcsr := v } }
     exec (.crr rd 0x47 0) s = retired s 1 { b1 with core := k } ∧
     exec (.crw rs1 0x47 0) s = fcsr b1.core (x.truncate 7) ∧
     exec (.crs rd rs1 0x47) s = fcsr k (old ||| x.truncate 7) ∧
     exec (.crc rd rs1 0x47) s = fcsr k (old &&& ~~~(x.truncate 7)) ∧
     (∀ i : Instr,
       (crPermits b1 false cr.toNat = false ∧ i ∈ [Instr.crr rd cr 0, .crs rd rs1 cr, .crc rd rs1 cr]) ∨
         (crPermits b1 true cr.toNat = false ∧ i ∈ [Instr.crw rs1 cr 0, .crs rd rs1 cr, .crc rd rs1 cr]) →
       let f : Trap := { cause := 1, detail := 2, faddr := 0, fault := .core 2 cr, wlevel := none, ipa := none, keep := false }
       (cr = 0x99 → (takeTrap s.cfg i f (start s) (dropResp b1)).core.hcpOut = none) →
       exec i s = trapped s i f (start s) b1)) ∧
  (∀ (s : State) (b1 : Blk) (rs1 : BitVec 5), Issues s 1 b1 →
     let x := b1.core.reg rs1
     (∃ b2 : Blk, exec (.seedWrite rs1) s = retired s 1 b2 ∧ b2 = { b1 with epi := b2.epi } ∧ b2.epi.seed = x.truncate 32 ∧
       b2.epi.cvt = b1.epi.cvt ∧ ∀ j, j < 64 → laneState b2.epi j = seedLane (x.truncate 32) j) ∧
     (b1.core.ps.level ≠ 0 →
       ∃ b2 : Blk, exec (.tinuseWrite rs1) s = retired s 1 b2 ∧ b2 = { b1 with tile := b2.tile } ∧ b2.tile.inuse = x.truncate 16 ∧
         ∀ t, t < 16 →
           let tf := b1.tile
           let tf' := b2.tile
           (bit x t = true → tf.used t = true → tf'.used t = true ∧ tf'.tag t = tf.tag t ∧ bit tf'.dirty t = bit tf.dirty t ∧
             ∀ r, r < 64 → tf'.row t r = tf.row t r ∧ tf'.scale t r = tf.scale t r) ∧
           (bit x t = true → tf.used t = false → tf'.used t = true ∧ tf'.tag t = 0 ∧ bit tf'.dirty t = true ∧
             ∀ r, r < 64 → tf'.row t r = 0 ∧ tf'.scale t r = 0) ∧
           (bit x t = false → tf'.used t = false ∧ bit tf'.dirty t = false)) ∧
     (b1.core.ps.level ≠ 0 → x.toNat % 2 = 0 →
       exec (.sleepWrite rs1) s = retired s 1 (if anyPendingEnabled b1 then b1 else
         { b1 with core := { b1.core with run := .sleeping }, pwr := { b1.pwr with deep := false } })) ∧
     (b1.core.ps.level = 2 → b1.core.svcBanks = 0 → (∀ t, t < 64 → b1.core.taskStat.get t = 0) → x ≠ 0 → x.toNat ≤ 4 →
       exec (.svcWrite rs1) s = retired s 1 { b1 with core := { b1.core with
         svcBanks := x.truncate 3, svcTask := 0, taskStat := [(0, 2)], regs := [], cwp := 0, res := 0, wcnt := ⟨0, 0, 0⟩ } }) ∧
     (b1.core.ps.level = 2 → 5 ≤ x.toNat → x.toNat < 8 → exec (.svcWrite rs1) s = trapped s (.svcWrite rs1)
       { cause := 2, detail := 0x49, faddr := 0, fault := .core 0x10 0x49, wlevel := none, ipa := none, keep := false } (start s) b1) ∧
     (pdOn b1 20 = true → bit b1.obs.cfg 0 = true → bit b1.obs.cfg 8 = true → lcsHeld b1 = false → lcsFiltered b1 = false →
       b1.obs.lost = 0 → (∀ p ∈ b1.obs.slots, p.ty ≠ 8) →
       exec (.tracewWrite rs1) s = retired s 1 { b1 with obs := { b1.obs with slots := b1.obs.slots ++
         [{ ty := 8, world := b1.core.ps.world, level := b1.core.ps.level, ts := BitVec.ofNat 16 b1.pwr.sclk,
            payload := [x.truncate 32, (x >>> 32).truncate 32] }] } }) ∧
     (pdOn b1 20 = false → exec (.tracewWrite rs1) s = retired s 1 b1))

/-- R164, R171, R349, R434: writes of CR_SCONS, CR_STAIL and CR_DTAIL, and reads and writes of the Host Control Port through CR_HCPD, here of KZ_IDLE. -/
def Obligations.CountsTailsAndHostPort : Prop :=
  ∀ (s : State) (b1 : Blk) (rd rs1 : BitVec 5) (n : BitVec 2) (ch : BitVec 4), Issues s 1 b1 →
    let x := b1.core.reg rs1
    let rings (j : Nat) (b : Blk) : Blk := maltSource { b with rings := { b.rings with
      rings := alPut b.rings.rings j { getRing b j with index := x.truncate 16 } } } 0
    ((b1.sparge.scons.get n.toNat).toNat ≤ x.toNat → x.toNat ≤ (b1.sparge.sprod.get n.toNat).toNat →
      exec (.sconsWrite n rs1) s = retired s 1 { b1 with sparge := { b1.sparge with scons := b1.sparge.scons.set n.toNat x } }) ∧
    (¬ ((b1.sparge.scons.get n.toNat).toNat ≤ x.toNat ∧ x.toNat ≤ (b1.sparge.sprod.get n.toNat).toNat) →
      exec (.sconsWrite n rs1) s = trapped s (.sconsWrite n rs1)
        { cause := 2, detail := 0xE4 + n.zeroExtend 16, faddr := 0, fault := .core 0x10 (0xE4 + n.zeroExtend 12), wlevel := none
          ipa := none, keep := false } (start s) b1) ∧
    (b1.core.ps.level ≠ 0 → b1.err.fatal = false → b1.pwr.state = .run →
      ((getRing b1 (24 + n.toNat)).setUp = true → x.toNat < (getRing b1 (24 + n.toNat)).size → x.toNat < 65536 →
        exec (.stailWrite n rs1) s = retired s 1 (rings (24 + n.toNat) b1)) ∧
      ((getRing b1 (8 + ch.toNat)).setUp = true → (getRing b1 (8 + ch.toNat)).ctx.world = b1.core.ps.world →
        x.toNat < (getRing b1 (8 + ch.toNat)).size → x.toNat < 65536 →
        exec (.dtailWrite ch rs1) s = retired s 1 (rings (8 + ch.toNat) b1))) ∧
    (b1.core.ps.level = 2 → blockOn b1 = true → lcsHeld b1 = false → b1.core.hcpa = 0x228 →
      exec (.hcpdRead rd) s = retired s 1 { b1 with core := b1.core.setReg rd (s.cfg.idle.zeroExtend 64) } ∧
      (b1.core.hcpOut = none → exec (.hcpdWrite rs1) s = .next { s with
        cfg := { s.cfg with idle := x.truncate 32 }
        blk := maltSource (retire (start s).core.ps { b1 with core := { b1.core with pc := b1.core.pc + 4 } }) 15 }))

/-- R340, R341, R343: TAKE makes the visible offer the running job; END of a job without a signal finishes its descriptor with status 0 and the result
of CR_JOBRES; PREEMPT of a job whose masks name no running ring moves it to the preempted set; each one against its table raises the illegal
control-register value exception. What RRING and RINDEX read after END is a free value (log 63). -/
def Obligations.JobControl : Prop :=
  ∀ (s : State) (b1 : Blk) (rs1 : BitVec 5) (j : Job), Issues s 1 b1 → b1.core.ps.level ≠ 0 →
    let bad (i : Instr) := exec i s = trapped s i
      { cause := 2, detail := 0xA1, faddr := 0, fault := .core 0x10 0xA1, wlevel := none, ipa := none, keep := false } (start s) b1
    let n := j.ring.toNat
    let ends (i : Instr) (r : Ring) (rings : Rings) := ∃ b2 : Blk, exec i s = retired s 1 b2 ∧ b2 = { b1 with rings := b2.rings, obs := b2.obs } ∧
      b2.rings = { rings with rings := alPut b1.rings.rings n r }
    let ended : Rings := { b1.rings with running := none, rring := Config.endedRing b1.rings.rring, rindex := Config.endedIndex b1.rings.rindex }
    (b1.rings.offer = some j → b1.rings.running = none → jobVisible b1.core.ps.level b1.core.ps.world j = true →
      b1.rings.offerResume = false →
      ends (.take rs1) { getRing b1 n with st := .begun } { b1.rings with
        offer := none, running := some { j with stopped := 0 }, lastRing := j.ring, rring := j.ring, rindex := j.index }) ∧
    (b1.rings.offer = none ∨ b1.rings.running ≠ none → bad (.take rs1)) ∧
    (b1.rings.running = some j → jobVisible b1.core.ps.level b1.core.ps.world j = true → (getRing b1 n).fld 0x58 3 3 = 0 →
      ∃ r, ends (.endJob rs1) r ended ∧ r.st = .done ∧ r.status = 0 ∧
        r.result = b1.rings.jobRes.truncate 32 ∧ r.epoch = b1.rings.epCore ∧ r.detail = b1.rings.epCore.zeroExtend 32 <<< 16) ∧
    (b1.rings.running = none → bad (.endJob rs1)) ∧
    (b1.rings.running = some j → b1.rings.offer ≠ none → b1.rings.preempted = [] → b1.rings.preempting = none →
      (getRing b1 n).fld 0x38 19 0 = 0 → (getRing b1 n).ctx.even = false →
      ∃ b2 : Blk, exec (.preempt rs1) s = retired s 1 b2 ∧ b2 = { b1 with rings := b2.rings, obs := b2.obs } ∧
        b2.rings = { b1.rings with running := none, preempted := [{ j with stopped := 0 }] }) ∧
    (b1.rings.preempting = none → b1.rings.running = none ∨ b1.rings.offer = none ∨ 7 ≤ b1.rings.preempted.length → bad (.preempt rs1))

/-- R304–R306: cache maintenance on the line t that the address translates to, matched by its tag and the running world (log 58). CLEAN sends a dirty
line's newest bytes to the Memory Port and keeps it; FLUSH also leaves it in no cache; INVAL leaves it in no cache and sends nothing; IINV takes
it from the L1I only; none of them does anything to an address that is not cached. ZERO makes the line dirty zeros in the L1D and the L2, or
writes 64 zero bytes to the LTS. CMO_ALL of caches without dirty lines sends nothing, and with OP 1 empties every cache (log 76). -/
def Obligations.CacheMaintenance : Prop :=
  ∀ (s : State) (b1 b2 : Blk) (rs1 : BitVec 5) (t : Nat) (p : Path), Issues s 1 b1 →
    let va := b1.core.reg rs1
    let w := b2.core.ps.world
    let cleans (b3 : Blk) := exec (.cmoClean rs1) s = retired s 1 b3 ∧ ∃ b4, exec (.cmoFlush rs1) s = retired s 1 b4 ∧ LineGone b3 b4 t w
    (b2.sys.beats = [] → b2.err.fatal = false →
      (cmoLocate s.cfg .load va 1 false b1 = .ok (t, p) b2 →
        (p ≠ .cached → exec (.cmoClean rs1) s = retired s 1 b2 ∧ exec (.cmoFlush rs1) s = retired s 1 b2) ∧
        (p = .cached → NoTagErrors b2 t → oneCopy b2 t w →
          (dirtyAnywhere b2 t w = false → cleans (dropSide b2 t none)) ∧
          (∀ m, findLine b2 .l2 t w = some m →
            (m.dirty = true → m.perr = false → (∀ d, findLine b2 .l1d t w = some d → d.dirty = false) → cleans (LineSent s.cfg b2 t w m m.data)) ∧
            (∀ d, findLine b2 .l1d t w = some d → d.dirty = true → d.perr = false →
              cleans (LineSent s.cfg (putLine (putLine b2 .l1d { d with dirty := false }) .l2
                { m with data := d.data, dirty := true, perr := false }) t w m d.data))))) ∧
      (cmoLocate s.cfg .store va 1 false b1 = .ok (t, p) b2 → b1.core.ps.level ≠ 0 →
        (p ≠ .cached → exec (.cmoInval rs1) s = retired s 1 b2) ∧
        (p = .cached → NoTagErrors b2 t → oneCopy b2 t w → ∃ b3, exec (.cmoInval rs1) s = retired s 1 b3 ∧ LineGone b2 b3 t w)) ∧
      (cmoLocate s.cfg .fetch va 1 false b1 = .ok (t, p) b2 →
        (p ≠ .cached → exec (.cmoIinv rs1) s = retired s 1 b2) ∧
        (p = .cached → NoTagErrors b2 t → oneCopy b2 t w →
          ∃ b3, exec (.cmoIinv rs1) s = retired s 1 b3 ∧ b3 = { b2 with caches := b3.caches } ∧ findLine b3 .l1i t w = none ∧
            ∀ c t' w', c ≠ .l1i ∨ (t', w') ≠ (t, w) → findLine b3 c t' w' = findLine b2 c t' w')) ∧
      (va.toNat % 64 = 0 → cmoLocate s.cfg .store va 64 true b1 = .ok (t, p) b2 →
        (∀ o, p = .lts o → LtsOpen b2 [(o, 64)] →
          ∃ b3, exec (.cmoZero rs1) s = retired s 1 b3 ∧ Written b2 b3 [(o, List.replicate 64 0)]) ∧
        (p = .cached → NoTagErrors b2 t → oneCopy b2 t w → (∀ c, findLine b2 c t (!w) = none) →
          ((findLine b2 .l2 t w).isSome = true ∨ (victim b2 .l2 (CacheId.l2.set t)).valid = false) →
          ((findLine b2 .l1d t w).isSome = true ∨ (victim b2 .l1d (CacheId.l1d.set t)).valid = false) →
          ∃ b3, exec (.cmoZero rs1) s = retired s 1 b3 ∧ b3 = { b2 with caches := b3.caches } ∧
            (∀ c, c ≠ .l1i → ∃ l, findLine b3 c t w = some l ∧ l.data = 0 ∧ l.dirty = true) ∧
            ∀ c t' w', c = .l1i ∨ (t', w') ≠ (t, w) →
              (findLine b3 c t' w').map (fun l => (l.data, l.dirty)) = (findLine b2 c t' w').map (fun l => (l.data, l.dirty))))) ∧
    (va.toNat % 64 ≠ 0 → exec (.cmoZero rs1) s = trapped s (.cmoZero rs1)
      { cause := 4, detail := 2, faddr := va, fault := .none, wlevel := none, ipa := none, keep := false } (start s) b1) ∧
    (b1.core.ps.level = 2 → (∀ l ∈ b1.caches.l1i ++ b1.caches.l1d ++ b1.caches.l2, l.terr = false ∧ l.serr = false ∧ l.perr = false) →
      ((∀ l ∈ b1.caches.l1d ++ b1.caches.l2, l.dirty = false) →
        exec (.cmoAllClean rs1) s = retired s 1 { b1 with caches := { b1.caches with side := [] } }) ∧
      ∃ b3, exec (.cmoAllFlush rs1) s = retired s 1 b3 ∧ b3.caches.l1i = [] ∧ b3.caches.l1d = [] ∧ b3.caches.l2 = [] ∧
        b3.caches.side = [] ∧ b3.core = { b1.core with blocked := b3.core.blocked } ∧ b3.lts = b1.lts)

/-- R247, R253, R254: BREAK enters its handler with cause 0x05 at S or M, raising the mask to 4; with the mask at 4 or above it enters M as a masked
fault, cause 0x1E, with DETAIL 5 and mask 15. The bank of the target level takes the PC, the privilege word and the record. R258–R261: GATE g
through an entry that is valid, names a level above the running one that U or S may enter and a handler at a multiple of 4 with no checked pointer
enters that handler, recording cause 0x20, DETAIL g and the next PC and leaving the mask; an entry that is not valid or names no higher level
raises the illegal-gate fault. -/
def Obligations.BreakAndGateEnter : Prop :=
  (∀ (s : State) (b1 b2 : Blk) (d : Piece), Issues s 1 b1 →
     let base := restoreArch (start s) (dropResp b1)
     let k := base.core
     let enters (cause : BitVec 6) (detail : BitVec 16) (target : BitVec 2) (mask : BitVec 4) :=
       let w := target == 2 || k.ps.world
       EntryFree k target → readTable s.cfg ((bankOf k target w).vbase + 8 * cause.zeroExtend 64) 8 w (target == 2) base = .ok (.ok d) b2 →
       d.toNat % 4 = 0 →
       ∃ b3, exec (.brk 0) s = .next { s with blk := entered b3 } ∧
         Entered k b2 b3 { cause := cause, detail := detail, faddr := 0, target := target, pc := k.pc, mask := some mask, handler := none
                           frozen := false } (BitVec.ofNat 64 d.toNat)
     (k.ps.mask.toNat < 4 → enters 5 0 (if k.ps.level = 0 then 1 else k.ps.level) 4) ∧
     (4 ≤ k.ps.mask.toNat → enters 0x1E 5 2 15)) ∧
  (∀ (s : State) (b1 b2 : Blk) (g : BitVec 8) (d : Piece), Issues s 1 b1 → b1.core.frozen = false →
     let k := b1.core
     let a := (if k.ps.world then k.gbaseS else k.gbaseN) + 16 * g.zeroExtend 64
     let h : Word := d.truncate 64
     let e : Word := (d >>> 64).truncate 64
     let t : BitVec 2 := BitVec.ofNat 2 (bits e 2 1)
     let stops (n : BitVec 16) := exec (.gate g 0) s = trapped s (.gate g 0)
       { cause := 6, detail := g.zeroExtend 16 + 256 * n, faddr := 0, fault := .none, wlevel := none, ipa := none, keep := false } (start s) b2
     readTable s.cfg a 16 k.ps.world (k.ps.level == 2) b1 = .ok (.ok d) b2 →
     (bit e 0 = true → k.ps.level.toNat < t.toNat → t ≠ 3 → (k.ps.level = 1 → bit e 3 = true) → h.toNat % 4 = 0 →
       (∀ i, i < 8 → bit e (8 + i) = false) → EntryFree b2.core t →
       ∃ b3, exec (.gate g 0) s = retiresTo s h b3 ∧
         Entered b2.core b2 b3 { cause := 0x20, detail := g.zeroExtend 16, faddr := 0, target := t, pc := k.pc + 4, mask := none
                                 handler := some h, frozen := false } h) ∧
     (bit e 0 = false → stops 1) ∧
     (bit e 0 = true → t.toNat ≤ k.ps.level.toNat → stops 2))

/-- R262, R263: ERET of an exception record and GRET of a gate record in the bank restore the privilege word and the PC, free the bank and retreat the
window; ERET of a frozen record leaves the window and clears FROZEN, SPFAULT and FLFAULT. With no record they raise cause 0x07 with reason 1, at U
cause 0x03. -/
def Obligations.Returns : Prop :=
  ∀ (s : State) (b1 : Blk) (gate : Bool), Issues s 1 b1 → b1.core.svcBanks = 0 →
    let i : Instr := if gate then .gret 0 else .eret 0
    let k := b1.core
    let bk := bankOf k k.ps.level k.ps.world
    let stops (cause : BitVec 6) (detail : BitVec 16) := exec i s = trapped s i
      { cause := cause, detail := detail, faddr := 0, fault := .none, wlevel := none, ipa := none, keep := false } (start s) b1
    let returns (k1 : Core) := ∃ b2 : Blk, exec i s = retiresTo s bk.epc b2 ∧
      b2 = { b1 with mmu := { b1.mmu with walkBuf := none }, obs := b2.obs, core := { setBank k1 k.ps.level k.ps.world { bk with occ := false } with
        ps := { level := bk.epwLevel, world := bk.epwWorld, uworld := k.ps.uworld, mask := bk.epwMask }, pc := bk.epc } }
    (k.ps.level ≠ 0 → bk.depth = 0 → bk.occ = true → ((bk.cause = 0x20) ↔ gate = true) →
      pwordFail bk.epwLevel bk.epwWorld bk.olevel bk.oworld k.ps = none → (k.ps.level = 2 → bk.epwWorld = k.ps.uworld) →
      (frozenRec bk.cause bk.detail = false → k.res ≠ 0 →
        returns { k with cwp := BitVec.ofNat 7 ((k.cwp.toNat + 126) % 127), res := k.res - 1
                         spfault := k.spfault && decide (125 - (k.res - 1).toNat < k.lowater.toNat) }) ∧
      (frozenRec bk.cause bk.detail = true → returns { k with frozen := false, spfault := false, flfault := false })) ∧
    (k.ps.level ≠ 0 → bk.depth = 0 → bk.occ = false → stops 7 1) ∧
    (k.ps.level = 0 → stops 3 0)

/-- R235: in service mode TSLEEP puts the running task in WAIT, TSTOP in HALT while another task is not, TSTART a HALT task in READY with the PC of
CR_TASKPC, and TWAKE a WAIT task with no wait of its own in READY; outside it they fail code 0x04. -/
def Obligations.HardwareTasks : Prop :=
  ∀ (s : State) (b1 : Blk) (rs1 : BitVec 5), Issues s 1 b1 →
    let k := b1.core
    let t := (k.reg rs1).toNat
    let ends (i : Instr) (k' : Core) := exec i s = retired s 1 { b1 with core := k' }
    let stops (code : BitVec 8) (i : Instr) := exec i s = trapped s i
      { cause := 1, detail := code.zeroExtend 16, faddr := 0, fault := .core code 0, wlevel := none, ipa := none, keep := false } (start s) b1
    let others : Prop := ∃ u, u < k.banks ∧ u ≠ k.svcTask.toNat ∧ k.taskStat.get u ≠ 0
    (k.svcBanks ≠ 0 →
      ends (.tsleep 0) { k with taskStat := k.taskStat.set k.svcTask.toNat 3 } ∧
      (others → ends (.tstop 0) { k with taskStat := k.taskStat.set k.svcTask.toNat 0 }) ∧
      (¬ others → stops 8 (.tstop 0)) ∧
      (t < k.banks → k.taskStat.get t = 0 →
        ends (.tstart rs1 0) { k with taskStat := k.taskStat.set t 1, taskPcs := k.taskPcs.set t k.taskPc }) ∧
      (t < k.banks → k.taskStat.get t = 3 → taskWaitOf b1 (BitVec.ofNat 6 t) = none →
        ends (.twake rs1 0) { k with taskStat := k.taskStat.set t 1 }) ∧
      (k.banks ≤ t ∨ k.taskStat.get t ≠ 0 → stops 8 (.tstart rs1 0)) ∧
      (k.banks ≤ t ∨ k.taskStat.get t ≠ 3 → stops 8 (.twake rs1 0))) ∧
    (k.svcBanks = 0 → stops 4 (.tsleep 0) ∧ stops 4 (.tstop 0) ∧ stops 4 (.tstart rs1 0) ∧ stops 4 (.twake rs1 0))

/-- R236–R240: CTXSAVE.L writes the lower image and the dirty f groups and clears CR_FDIRTY; CTXLOAD.L restores c registers, the window below, f
registers and window state from an image that passes its checks. Here the f registers are clean and one window is resident. R76, R108, R163, R239:
CTXSAVE.U of clean vector, tile and Tun state writes its registers and clears the dirty bits; CTXLOAD.U at S of an image with no tile in use and
no open group reloads the vector registers, CR_TFLAG, CR_SEED and the lane states and releases every tile. -/
def Obligations.ContextImages : Prop :=
  (∀ (s : State) (b1 b2 b3 : Blk) (rs1 : BitVec 5) (r : Rec) (bs : List Byte), Issues s 1 b1 →
     let va := b1.core.reg rs1
     let w (i : Nat) : Word := (wordsOf 73 bs).getD i 0
     ctxChecks s.cfg va b1 = .ok r b2 →
     (b2.core.res = 1 → b2.core.fdirty = 0 →
       Saves s.cfg va [(0, lowerImage b2.core r), (0x240, leOfNat 8 b2.core.lowater.toNat)] b2 b3 →
       exec (.ctxsaveL rs1 0) s = retired s 1 { b3 with core := { b3.core with fdirty := 0 } }) ∧
     (Reads s.cfg va [(0, 0x248, bs)] b2 b3 → b3.core.ps.level = 1 → bits (w 0) 15 0 = 0x4B34 → (w 4).toNat % 128 = 0 → bits (w 72) 5 0 ≠ 0 →
       r.stacked = false →
       let level : BitVec 2 := BitVec.ofNat 2 (bits (w 2) 1 0)
       pwordFail level (bit (w 2) 2) r.olevel r.oworld b3.core.ps = none →
       ∃ k, exec (.ctxloadL rs1 0) s = retired s 1 { b3 with core := k } ∧
         (bankOf k 1 b3.core.ps.world).epc = w 1 ∧ (bankOf k 1 b3.core.ps.world).epwLevel = level ∧
         (∀ j, j < 8 → k.regs.get j = w (8 + j)) ∧ (∀ j, j < 16 → k.regs.get (16 + 16 * slotBelow b3.core 1 + j) = w (16 + j)) ∧
         (∀ j, j < 32 → k.fregs.get j = w (40 + j)) ∧ k.res = 1 ∧ k.fdirty = 0 ∧ k.fcsr = (w 3).truncate 7 ∧ k.wspill.u = w 4 ∧
         k.wcnt.u = (w 5).truncate 32 ∧ k.lowater = BitVec.ofNat 6 (bits (w 72) 5 0) ∧ k.ps = b3.core.ps ∧ k.pc = b3.core.pc)) ∧
  (∀ (s : State) (b1 b2 b3 : Blk) (rs1 : BitVec 5) (r : Rec) (bs ls : List Byte) (vs : Nat → List Byte), Issues s 1 b1 →
     let va := b1.core.reg rs1
     let w (i : Nat) : Word := (wordsOf 24 bs).getD i 0
     ctxChecks s.cfg va b1 = .ok r b2 → upperPds.all (pdRuns b2) = true →
     (b2.vec.vdirty = 0 → b2.tile.dirty = 0 → b2.tun.dirty = 0 →
       Saves s.cfg va [
         (0x400, bytesOfWords [b2.vec.vl.zeroExtend 64, b2.vec.vcsr.zeroExtend 64, b2.vec.vresume.zeroExtend 64, 0]),
         (0x420, bytesOfWords [b2.tile.inuse.zeroExtend 64]), (0x428, bytesOfWords [b2.tun.flag]),
         (0x440, bytesOfWords ((List.range 16).map b2.tun.grp)), (0x430, bytesOfWords [b2.epi.seed.zeroExtend 64, b2.epi.cvt.zeroExtend 64]),
         (0x4C0, List.replicate 64 0), (0x500, (List.range 64).flatMap fun j => leOfNat 4 (laneState b2.epi j).toNat)] b2 b3 →
       exec (.ctxsaveU rs1 0) s = retired s 1 { b3 with
         vec := { b3.vec with vdirty := 0 }, tile := { b3.tile with dirty := 0 }, tun := { b3.tun with dirty := 0 } }) ∧
     (b2.core.ps.level = 1 → b3.err.fatal = false →
       Reads s.cfg va ([(0x400, 0x200, bs)] ++ (List.range 8).map (fun g => (0x800 + 0x800 * g, 0x800, vs g)) ++ [(0x500, 0x100, ls)]) b2 b3 →
       bits (w 0) 10 0 ≤ 1024 → bits (w 2) 10 0 ≤ 1024 → bits (w 4) 15 0 = 0 → (∀ g, g < 16 → w (8 + g) = 0) →
       ∃ b4 : Blk, exec (.ctxloadU rs1 0) s = retired s 1 b4 ∧ b4 = { b3 with vec := b4.vec, tile := b4.tile, tun := b4.tun, epi := b4.epi } ∧
         b4.vec.vl = (w 0).truncate 11 ∧ b4.vec.vcsr = (w 1).truncate 7 ∧ b4.vec.vresume = (w 2).truncate 11 ∧ b4.vec.vdirty = 0 ∧
         (∀ i, i < 32 → b4.vec.v.get i = BitVec.ofNat 4096 (natOfLE (((vs (i / 4)).drop (512 * (i % 4))).take 512))) ∧
         (∀ t, t < 16 → b4.tile.used t = false) ∧ b4.tile.dirty = 0 ∧ b4.tun.flag = w 5 ∧ (∀ g, g < 16 → gOpen (b4.tun.grp g) = false) ∧
         b4.epi.seed = (w 6).truncate 32 ∧ (∀ j, j < 64 → laneState b4.epi j = BitVec.ofNat 32 (natOfLE ((ls.drop (4 * j)).take 4)))))

/-- R281–R284: TWALK and TWALK.R whose walk succeeds put its result in rd and the walk buffer; at M with no machine root, and with no request shown,
rd is 0. TLBW writes the walk buffer's entry into the L2 TLB with rd 0, and answers 1 when the buffer is empty. At U each raises the
privileged-instruction fault, after the bits that must be zero are checked (log 37). R281, R287: an invalidation with no agent's access
outstanding removes from the three TLBs exactly the entries it names, and empties the walk buffer. R281, R291: TRQRES of a request that is not
there, or of the other world below M, answers 1 and changes nothing else; of one that is there it answers 0, withdraws the request and lets its
ring retry or fault. -/
def Obligations.TranslationInstructions : Prop :=
  (∀ (s : State) (b1 b2 : Blk) (rd rs1 : BitVec 5) (e : TlbEntry) (r : TrReq), Issues s 1 b1 →
     let k := b1.core
     let va := k.reg rs1
     let walked (x : Word) := retired s 1 { b2 with mmu := { b2.mmu with walkBuf := some e }, core := b2.core.setReg rd x }
     let gives (i : Instr) (x : Word) := exec i s = retired s 1 { b1 with core := k.setReg rd x }
     (k.ps.level = 1 → walkWorld s.cfg (walkReader b1 va) (coreCtx b1 1 k.ps.world) va b1 = .ok (.ok e) b2 → b2.core.ps.level = 1 →
       exec (.twalk rd rs1) s = walked (walkRd e va false false)) ∧
     (k.ps.level = 2 → bit b1.mmu.mroot 0 = false → gives (.twalk rd rs1) 0) ∧
     (k.ps.level = 2 → bit b1.mmu.mroot 0 = true → walkMachine s.cfg (walkReader b1 va) b1.mmu.mroot va b1 = .ok (.ok e) b2 →
       b2.core.ps.level = 2 → exec (.twalk rd rs1) s = walked (walkRd e va true false)) ∧
     (k.ps.level ≠ 0 → shownReq b1 k.ps.level k.ps.world = none → gives (.twalkR rd 0) 0) ∧
     (k.ps.level ≠ 0 → shownReq b1 k.ps.level k.ps.world = some r → walkWorld s.cfg (walkReader b1 r.va) (reqCtx b1 r) r.va b1 = .ok (.ok e) b2 →
       b2.core.ps.level = k.ps.level → exec (.twalkR rd 0) s = walked (walkRd e r.va (k.ps.level == 2) (k.ps.level == 2))) ∧
     (k.ps.level ≠ 0 → b1.mmu.walkBuf = none → gives (.tlbw rd 0) 1) ∧
     (k.ps.level ≠ 0 → b1.mmu.walkBuf = some e →
       ∃ m : Mmu, exec (.tlbw rd 0) s = retired s 1 { b1 with mmu := m, core := k.setReg rd 0 } ∧ m.walkBuf = none ∧
         ∃ x, x ∈ m.l2tlb ∧ x.e = e ∧ x.idx / 8 = tlbSet e ∧ ∀ y ∈ m.l2tlb, y ≠ x → y ∈ b1.mmu.l2tlb) ∧
     (k.ps.level = 0 → ∀ i ∈ [Instr.twalk rd rs1, .twalkR rd 0, .tlbw rd 0, .tinvVa rs1 0, .tinvAsid rs1 0, .tinvIpa rs1 0, .tinvVmid rs1 0,
         .tinvAll 0, .trqres rd rs1],
       exec i s = trapped s i { cause := 3, detail := 0, faddr := 0, fault := .none, wlevel := none, ipa := none, keep := false } (start s) b1)) ∧
  (∀ (s : State) (b1 : Blk) (rs1 : BitVec 5), Issues s 1 b1 → (∀ seqs, agentsHold b1 seqs = false) →
     let k := b1.core
     let v := k.reg rs1
     let w := k.ps.world
     let t := if w then b1.mmu.ts else b1.mmu.tn
     let removes (i : Instr) (p : TlbEntry → Prop) := ∃ m : Mmu, exec i s = retired s 1 { b1 with mmu := m } ∧
       m = { b1.mmu with itlb := m.itlb, dtlb := m.dtlb, l2tlb := m.l2tlb, walkBuf := none } ∧
       (∀ x, x ∈ m.itlb ↔ x ∈ b1.mmu.itlb ∧ ¬ p x.e) ∧ (∀ x, x ∈ m.dtlb ↔ x ∈ b1.mmu.dtlb ∧ ¬ p x.e) ∧
       (∀ x, x ∈ m.l2tlb ↔ x ∈ b1.mmu.l2tlb ∧ ¬ p x.e)
     let page (e : TlbEntry) (base : Word) : Prop := v.toNat / 4096 * 4096 / 2 ^ e.size = base.toNat / 2 ^ e.size
     (k.ps.level = 1 → v.toNat % 4096 ≤ 1 → removes (.tinvVa rs1 0) fun e =>
       e.kind = .world w ∧ e.vmid = t.vmid.truncate 16 ∧ page e e.va ∧ (bit v 0 = true ∨ e.g = true ∨ e.asid = t.tctl.truncate 16)) ∧
     (k.ps.level = 2 → v.toNat % 4096 ≤ 1 → removes (.tinvVa rs1 0) fun e => e.kind = .machine ∧ page e e.va) ∧
     (k.ps.level = 1 → v.toNat < 65536 → removes (.tinvAsid rs1 0) fun e =>
       e.kind = .world w ∧ e.vmid = t.vmid.truncate 16 ∧ e.g = false ∧ e.asid = v.truncate 16) ∧
     (k.ps.level = 2 → v.toNat &&& 0xFFFF0001FFFF = v.toNat → removes (.tinvAsid rs1 0) fun e =>
       e.kind = .world (bit v 16) ∧ e.vmid = (v >>> 32).truncate 16 ∧ e.g = false ∧ e.asid = v.truncate 16) ∧
     (k.ps.level = 2 → v.toNat &&& 0xFFFFFFFFFF001 = v.toNat → removes (.tinvIpa rs1 0) fun e =>
       e.kind = .world (bit v 0) ∧ e.vmid = (if bit v 0 then b1.mmu.ts.vmid else b1.mmu.tn.vmid).truncate 16 ∧ page e e.ipa) ∧
     (k.ps.level = 2 → v.toNat < 2 ^ 17 → removes (.tinvVmid rs1 0) fun e => e.kind = .world (bit v 16) ∧ e.vmid = v.truncate 16) ∧
     (k.ps.level = 2 → removes (.tinvAll 0) fun _ => True)) ∧
  (∀ (s : State) (b1 : Blk) (rd rs1 : BitVec 5), Issues s 1 b1 → b1.core.ps.level ≠ 0 →
     let v := b1.core.reg rs1
     let n := bits v 4 0
     v.toNat &&& 0x11F = v.toNat → n ≤ 19 →
     ((∀ r ∈ b1.mmu.treqs, r.requester.toNat ≠ n) → exec (.trqres rd rs1) s = retired s 1 { b1 with core := b1.core.setReg rd 1 }) ∧
     (∀ r, b1.mmu.treqs = [r] → r.requester.toNat = n →
       (b1.core.ps.level = 1 → r.world ≠ b1.core.ps.world →
         exec (.trqres rd rs1) s = retired s 1 { b1 with core := b1.core.setReg rd 1 }) ∧
       (b1.core.ps.level = 2 →
         let b2 := { b1 with core := b1.core.setReg rd 0, mmu := { b1.mmu with treqs := [] } }
         exec (.trqres rd rs1) s = retired s 1
           (if n < 16 then dmaResume s.cfg b2 n (bit v 8) else streamResume s.cfg b2 (n - 16) (bit v 8)))))

/-- R57, R58, R122, R123: TMOVV moves 512-bit lanes of a v register into rows 8·RSEL on of a tile; TMOVT moves tile rows into a v register, the other
lanes zero; TZERO makes a tile zeros of the named format; TRELEASE releases it. Other tiles keep what they read. -/
def Obligations.TileMoves : Prop :=
  ∀ (s : State) (w1 : BitVec 21) (w2 : W32) (b2 : Blk),
    let sh := shapeOf w2
    let t := fTD w1
    let first := 8 * bits w1 2 0
    let v := fRB w1
    let vform : Prop := bits w1 20 16 = 0 ∧ bits w1 6 3 = 0 ∧ onlyBits w2 (mROWS + mFMT) = true ∧ sh.m ≤ 8 ∧ sh.fmt ∈ moveFmts
    (TileIssues s [5, 14] b2 → vform →
      (∃ tf, exec (.tmovv w1 w2) s = tileRetires s { b2 with tile := tf } ∧ TilesElse b2.tile tf [t] ∧ tf.used t = true ∧
        bit tf.dirty t = true ∧ tf.tag t = mkTag sh.fmt false false ∧
        ∀ r, r < 64 →
          tf.row t r = (if first ≤ r ∧ r < first + sh.m then lane 512 (b2.vec.v.get v.toNat) (r - first) else b2.tile.row t r) ∧
          tf.scale t r = (if first ≤ r ∧ r < first + sh.m then 0 else b2.tile.scale t r)) ∧
      (b2.tile.tagOk t sh.fmt false false = true →
        ∃ d : VReg, exec (.tmovt w1 w2) s = tileRetires s { b2 with vec := b2.vec.put v.toNat d } ∧
          ∀ r, r < 8 → lane 512 d r = if r < sh.m then b2.tile.row t (first + r) else 0)) ∧
    (TileIssues s [14] b2 → layoutZ w1 = true →
      (onlyBits w2 (mFMT + mBSC + mBSZ) = true → sh.fmt ∈ moveFmts → (sh.bsc = true → sh.fmt ≠ 0 ∧ sh.fmt ≠ 8) →
        ∃ tf, exec (.tzero w1 w2) s = tileRetires s { b2 with tile := tf } ∧ TilesElse b2.tile tf [t] ∧ tf.used t = true ∧
          bit tf.dirty t = true ∧ tf.tag t = mkTag sh.fmt sh.bsc sh.bsz ∧ ∀ r, r < 64 → tf.row t r = 0 ∧ tf.scale t r = 0) ∧
      (w2 = 0 → ∃ tf, exec (.trelease w1 w2) s = tileRetires s { b2 with tile := tf } ∧ TilesElse b2.tile tf [t] ∧ tf.used t = false ∧
        bit tf.dirty t = false))

/-- R116–R121: TLOAD reads 64 bytes a row from the LTS into the tile, with the scale bytes at RC where BSC is 1; TSTORE writes tile rows and their
scale areas, and from a group the 256 bytes of each Tun row; no other byte of the LTS changes. -/
def Obligations.TileLoadsAndStores : Prop :=
  ∀ (s : State) (w1 : BitVec 21) (w2 : W32) (b2 b3 b4 : Blk) (os : List Nat) (scs : List (Word × Nat × Nat)), TileIssues s [14] b2 →
    let sh := shapeOf w2
    let t := fTD w1
    let ra := b2.core.reg (fRA w1)
    let rb := b2.core.reg (fRB w1)
    let rc := b2.core.reg (fRC w1)
    let legal : Prop := bits w1 1 0 = 0 ∧ onlyBits w2 (mROWS + mFMT + mBSC + mBSZ) = true ∧ sh.fmt ∈ moveFmts ∧
      (sh.bsc = true → sh.fmt ≠ 0 ∧ sh.fmt ≠ 8 ∧ rc.toNat % 8 = 0) ∧ (sh.bsc = false → bits w1 6 2 = 0) ∧ ra.toNat % 64 = 0 ∧ rb.toNat % 64 = 0
    let reaches (acc : Acc) : Prop :=
      ((List.range sh.m).mapM fun r => locateLts s.cfg acc (rowAddr ra rb r) 64 (rowAddr ra rb r)) b2 = .ok os b3 ∧
      (if sh.bsc then locateScales s.cfg acc rc sh.m else pure []) b3 = .ok scs b4 ∧
      LtsOpen b4 (os.map (fun o => (o, 64)) ++ scs.map fun p => p.2)
    let bytes := b4.lts.bytes
    (legal → reaches .load →
      ∃ tf, exec (.tload w1 w2) s = tileRetires s { b4 with tile := tf } ∧ TilesElse b4.tile tf [t] ∧ tf.used t = true ∧
        tf.tag t = mkTag sh.fmt sh.bsc sh.bsz ∧
        ∀ r, r < 64 →
          tf.row t r = (if r < sh.m then BitVec.ofNat 512 (natOfLE (Sparse.range bytes (os.getD r 0) 64)) else b4.tile.row t r) ∧
          tf.scale t r = (if r < sh.m then
            BitVec.ofNat 64 (natOfLE (((scs.flatMap fun p => Sparse.range bytes p.2.1 p.2.2).drop (8 * r)).take 8)) else b4.tile.scale t r)) ∧
    (legal → b2.tile.tagOk t sh.fmt sh.bsc sh.bsz = true → reaches .store → Apart (os.map (fun o => (o, 64)) ++ scs.map fun p => p.2) →
      ∃ b5, exec (.tstore w1 w2) s = tileRetires s b5 ∧
        Written b4 b5 (os.zipIdx.map (fun x => (x.1, bytesOf 64 (b4.tile.row t x.2))) ++ scs.map fun p =>
          (p.2.1, (((List.range sh.m).flatMap fun r => bytesOf 8 (b4.tile.scale t r)).drop (p.1 - rc).toNat).take p.2.2))) ∧
    (∀ oss : List (List Nat),
      let v := b2.tun.grp sh.grp
      let first := gBase v + (if bit w1 1 then gCap v else 0) + rc.toNat
      bit w1 0 = true → onlyBits w2 (mROWS + mFMT + mGRP) = true → sh.fmt = 8 → readableGroup v = true → (bit w1 1 = true → gClass v ≠ 0) →
      rc.toNat + sh.m ≤ gCap v → ra.toNat % 64 = 0 → rb.toNat % 64 = 0 →
      ((List.range sh.m).mapM fun r => locateRow s.cfg .store (rowAddr ra rb r) 4) b2 = .ok oss b3 →
      (halves (gBase v) (gRows v)).all (pdRuns b3) = true → LtsOpen b3 (oss.flatten.map fun o => (o, 64)) →
      Apart (oss.flatten.map fun o => (o, 64)) →
      ∃ b5, exec (.tstoreTun w1 w2) s = tileRetires s b5 ∧ exec (.tstore w1 w2) s = exec (.tstoreTun w1 w2) s ∧
        Written b3 b5 (oss.zipIdx.flatMap fun x => x.1.zipIdx.map fun y =>
          (y.1, bytesOf 64 (lane 512 (b3.tun.rows.get (first + x.2)) y.2))))

/-- R85–R90, R100, R127, R128: TGOPEN opens a group with its rows at their first values and its flags clear, and releases every other open group whose
rows it takes, with EVICT set; TGCLOSE makes a group FINAL, folding companion rows and the spilled part into its rows, and with the release bit
gives it back. R96, R99, R101, R126: the due spill that comes next writes each entry as binary64 to its group's LTS buffer, added to what the
buffer holds where the group has spilled before, sets the rows to zero, SPILLED to 1 and CCOUNT to 0; of two due spills that of a TBWD's gx comes
first; a group whose spill is not the next is left alone (log 4). -/
def Obligations.TunGroups : Prop :=
  (∀ (s : State) (w1 : BitVec 21) (w2 : W32) (b2 : Blk), TileIssues s [] b2 →
     let g := bits w2 25 22
     let ra := b2.core.reg (fRA w1)
     let v := b2.tun.grp g
     let on (x : Word) := (halves (gBase x) (gRows x)).all (pdRuns b2) = true
     (bits w1 15 0 = 0 → onlyBits w2 (0x1FFFFF + mGRP) = true → bits w2 7 0 + bits w2 15 8 ≤ 255 → bits ra 63 25 = 0 →
       let x : Word := BitVec.ofNat 64 (bits w2 17 0 +
         (if bits w2 17 16 < 2 then bits w2 20 18 * 2 ^ 18 + bits ra 11 0 * 2 ^ 24 + bits ra 24 12 * 2 ^ 48 else 0) + 2 ^ 21)
       let taken (h : Nat) : Prop := gOpen (b2.tun.grp h) = true ∧ rowsOverlap (b2.tun.grp h) x = true
       on x → (gSpill x ≠ 0 → ∀ p, p < 8 * gCap x → bufferFault s.cfg b2 (512 * gSbuf x + 64 * p) = none) →
       ∃ t : Tun, exec (.tgopen w1 w2) s = tileRetires s { b2 with tun := t } ∧ t.grp g = x ∧ gOpen x = true ∧ gFinal x = false ∧
         gSpilled x = false ∧ gCcount x = 0 ∧ (∀ f, f < 4 → bit t.flag (16 * f + g) = false) ∧ bit t.dirty g = true ∧
         (∀ h, h < 16 → h ≠ g → taken h → t.grp h = setBits (b2.tun.grp h) 23 21 0 ∧ bit t.dirty h = false ∧ bit t.flag (48 + h) = true ∧
           ∀ f, f < 3 → bit t.flag (16 * f + h) = bit b2.tun.flag (16 * f + h)) ∧
         (∀ h, h < 16 → h ≠ g → ¬ taken h → t.grp h = b2.tun.grp h ∧ bit t.dirty h = bit b2.tun.dirty h ∧
           ∀ f, f < 4 → bit t.flag (16 * f + h) = bit b2.tun.flag (16 * f + h)) ∧
         (∀ i, i < gRows x → t.rows.get (gBase x + i) = if i < gCap x then initMain (gClass x) else initComp (gClass x)) ∧
         RowsElse b2.tun t [(gBase x, gRows x)]) ∧
     (bits w1 20 1 = 0 → onlyBits w2 mGRP = true → gOpen v = true →
       (bit w1 0 = true → ∃ t : Tun, exec (.tgclose w1 w2) s = tileRetires s { b2 with tun := t } ∧ gOpen (t.grp g) = false ∧
         gFinal (t.grp g) = false ∧ gSpilled (t.grp g) = false ∧ bit t.dirty g = false ∧ t.rows = b2.tun.rows ∧ t.flag = b2.tun.flag) ∧
       (bit w1 0 = false → gFinal v = true → exec (.tgclose w1 w2) s = tileRetires s b2) ∧
       (bit w1 0 = false → gFinal v = false → gSpilled v = false ∨ 1 < gClass v → gClass v ≠ 1 →
         exec (.tgclose w1 w2) s = tileRetires s { b2 with tun := b2.tun.setGrp g (setBit v 22 true) }) ∧
       (bit w1 0 = false → gFinal v = false → gClass v < 2 → gSpilled v = true ∨ gClass v = 1 → on v →
         let at_ (i j : Nat) := 512 * gSbuf v + 512 * i + 8 * j
         let kept (i j : Nat) : Option Word :=
           if gSpilled v then some (BitVec.ofNat 64 (natOfLE (Sparse.range b2.lts.bytes (at_ i j) 8))) else none
         let closed (i j : Nat) := closeEntry (decide (gClass v = 1)) (entry (b2.tun.rows.get (gBase v + i)) j)
           (if gClass v = 1 then entry (b2.tun.rows.get (gBase v + gCap v + i)) j else 0) (kept i j)
         (gSpilled v = true → (∀ q, q < 4 → bit s.cfg.qen q = true → pdRuns b2 (25 + q) = true) ∧ (∀ o n, ltsWiping b2 o n = false) ∧
           b2.lts.flips = [] ∧ ∀ i j, i < gCap v → j < 64 → bufOk s.cfg b2 (at_ i j) = true) →
         ∃ t : Tun, exec (.tgclose w1 w2) s = tileRetires s { b2 with tun := t } ∧ t.grp g = setBit v 22 true ∧ bit t.dirty g = true ∧
           GroupsElse b2.tun t [g] ∧ RowsElse b2.tun t [(gBase v, gRows v)] ∧
           (bit t.flag g = true ↔ bit b2.tun.flag g = true ∨ ∃ i j, i < gCap v ∧ j < 64 ∧ (closed i j).2.1 = true) ∧
           (bit t.flag (16 + g) = true ↔ bit b2.tun.flag (16 + g) = true ∨ ∃ i j, i < gCap v ∧ j < 64 ∧ (closed i j).2.2 = true) ∧
           bit t.flag (32 + g) = bit b2.tun.flag (32 + g) ∧
           ∀ i, i < gCap v → (gClass v = 1 → t.rows.get (gBase v + gCap v + i) = 0) ∧
             ∀ j, j < 64 → entry (t.rows.get (gBase v + i)) j = (closed i j).1))) ∧
  (∀ (s : State) (g : BitVec 4),
     let b := s.blk
     let v := b.tun.grp g.toNat
     let at_ (i j : Nat) := 512 * gSbuf v + 512 * i + 8 * j
     let kept (i j : Nat) : Option Word :=
       if gSpilled v then some (BitVec.ofNat 64 (natOfLE (Sparse.range b.lts.bytes (at_ i j) 8))) else none
     let word (i j : Nat) := spillEntry (decide (gClass v = 1)) (entry (b.tun.rows.get (gBase v + i)) j)
       (if gClass v = 1 then entry (b.tun.rows.get (gBase v + gCap v + i)) j else 0) (kept i j)
     (nextSpill b.tun ≠ some g.toNat → exec (.tunSpill g) s = .next s) ∧
     (spillDue b.tun b.tun.gx.toNat = true → nextSpill b.tun = some b.tun.gx.toNat) ∧
     (nextSpill b.tun = some g.toNat → (halves (gBase v) (gRows v)).all (pdRuns b) = true →
       (∀ q, q < 4 → bit s.cfg.qen q = true → pdRuns b (25 + q) = true) → (∀ o n, ltsWiping b o n = false) → b.lts.flips = [] →
       b.sys.beats = [] → b.err.fatal = false → (∀ i j, i < gCap v → j < 64 → bufOk s.cfg b (at_ i j) = true) →
       ∃ b' : Blk, exec (.tunSpill g) s = .next { s with blk := countEvents b' 0x09 b.core.ps.level b.core.ps.world (gCap v) } ∧
         b' = { b with tun := b'.tun, lts := b'.lts } ∧
         b'.tun.grp g.toNat = setBits (setBit v 23 true) 47 36 0 ∧ bit b'.tun.dirty g.toNat = true ∧
         (bit b'.tun.flag (16 + g.toNat) = true ↔ bit b.tun.flag (16 + g.toNat) = true ∨ ∃ i j, i < gCap v ∧ j < 64 ∧ nan64 (word i j) = true) ∧
         bit b'.tun.flag (32 + g.toNat) = bit b.tun.flag (32 + g.toNat) ∧
         (∀ i, i < gCap v → b'.tun.rows.get (gBase v + i) = 0 ∧ (gClass v = 1 → b'.tun.rows.get (gBase v + gCap v + i) = 0) ∧
           ∀ j, j < 64 → Sparse.range b'.lts.bytes (at_ i j) 8 = leOfNat 8 (word i j).toNat) ∧
         GroupsElse b.tun b'.tun [g.toNat] ∧ RowsElse b.tun b'.tun [(gBase v, gRows v)] ∧
         ∀ j : Nat, j < 512 * gSbuf v ∨ 512 * gSbuf v + 512 * gCap v ≤ j → Sparse.get b'.lts.bytes j = Sparse.get b.lts.bytes j))

/-- R93–R98, R107, R124, R126: TMMA accumulates the products of each output entry into its entry of the group, and into the companion entry of a
compensated group; TBWD does so for both of its groups, leaving out the rows that the mask names. CCOUNT of each group counts its commit, SAT and
NAN take what happened in it, no other row or group changes, and the array's steps are counted (R474). R103, R125: TMAXI and TMINI keep in each
entry of the group the candidate that beats the other, of the best product and the entry, with its index in the companion entry; SAT is set where
a candidate overflowed, NAN where a NaN was written (R104). -/
def Obligations.TileMultiplies : Prop :=
  (∀ (s : State) (w1 : BitVec 21) (w2 : W32) (b2 : Blk), TileIssues s (pdsArray s.cfg) b2 →
     let sh := shapeOf w2
     let tf := b2.tile
     let v := b2.tun.grp sh.grp
     let ke := kElems sh.fmt sh.kb
     let old (x : Word) (i j : Nat) := entry (b2.tun.rows.get (gBase x + i)) j
     let oldC (x : Word) (i j : Nat) := if gClass x = 1 then entry (b2.tun.rows.get (gBase x + gCap x + i)) j else 0
     let on (x : Word) := (halves (gBase x) (gRows x)).all (pdRuns b2) = true
     let sums (x : Word) := gOpen x = true ∧ gClass x < 2 ∧ gFinal x = false
     let wide := sh.fmt = 0 ∧ 32 < sh.n
     (let ta := fTD w1
      let tb := fTB w1
      let roff := (b2.core.reg (fRA w1)).toNat
      let acc (i j : Nat) := accumulate (decide (gClass v = 1)) (gP v) (stepWidth sh.fmt) (sh.kb + 1)
        (products (tileElem tf sh ta i) (operandB tf sh tb j) ke) (old v (roff + i) j) (oldC v (roff + i) j)
      bits w1 15 11 = 0 → bits w1 2 0 = 0 → onlyBits w2 (mMul + mBSZ) = true → sh.fmt ≤ 3 →
      (sh.bsc = true → sh.fmt ≠ 0 ∧ sh.tfeed = false ∧ ke % blockSize sh.bsz = 0) → (sh.tfeed = true → ke ≤ 64) →
      (wide ∧ sh.tfeed = true → tb % 2 = 0 ∧ tf.tagOk (tb + 1) sh.fmt sh.bsc sh.bsz = true) →
      tf.tagOk ta sh.fmt sh.bsc sh.bsz = true → tf.tagOk tb sh.fmt sh.bsc sh.bsz = true → sums v → roff + sh.m ≤ gCap v → on v →
      ∃ t : Tun, exec (.tmma w1 w2) s = tileRetires s (countSteps s.cfg sh.m (sh.kb + 1) { b2 with tun := t }) ∧
        RowsHold b2.tun t (gBase v + roff) sh.m sh.n (fun i j => (acc i j).main) ∧
        (gClass v = 1 → RowsHold b2.tun t (gBase v + gCap v + roff) sh.m sh.n (fun i j => (acc i j).comp)) ∧
        RowsElse b2.tun t ((gBase v + roff, sh.m) :: if gClass v = 1 then [(gBase v + gCap v + roff, sh.m)] else []) ∧
        Commits b2.tun t sh.grp true (∃ i j, i < sh.m ∧ j < sh.n ∧ (acc i j).sat = true) (∃ i j, i < sh.m ∧ j < sh.n ∧ (acc i j).nan = true) ∧
        GroupsElse b2.tun t [sh.grp]) ∧
     (let tg := bits w1 15 12
      let tw := bits w1 11 8
      let tx := bits w1 7 4
      let gw := bits w1 3 0
      let u := b2.tun.grp gw
      let mask := b2.core.reg (fRA w1)
      let d := stepWidth sh.fmt
      let acc (i j : Nat) := accumulate (decide (gClass v = 1)) (gP v) d (sh.kb + 1)
        (products (tileElem tf sh tg i) (tileDown tf sh tw j) ke) (old v i j) (oldC v i j)
      let accW (o j : Nat) := accumulate (decide (gClass u = 1)) (gP u) d (ceilDiv sh.m d)
        (products (fun k => tileElem tf sh tg k o) (tileDown tf sh tx j) sh.m) (old u o j) (oldC u o j)
      onlyBits w2 (mROWS + mCOLS + mKB + mFMT + mGRP) = true → sh.fmt ≤ 2 → (∀ t ∈ [tg, tw, tx], tf.tagOk t sh.fmt false false = true) →
      (wide → tw % 2 = 0 ∧ tx % 2 = 0 ∧ tf.tagOk (tw + 1) sh.fmt false false = true ∧ tf.tagOk (tx + 1) sh.fmt false false = true) →
      sums v → sums u → gw ≠ sh.grp → rowsOverlap v u = false → sh.m ≤ gCap v → ke ≤ gCap u → on v → on u →
      ∃ t : Tun, exec (.tbwd w1 w2) s =
          tileRetires s (countSteps s.cfg ke (ceilDiv sh.m d) (countSteps s.cfg sh.m (sh.kb + 1) { b2 with tun := t })) ∧
        RowsHold b2.tun t (gBase v) sh.m sh.n (fun i j => (acc i j).main) ∧
        (gClass v = 1 → RowsHold b2.tun t (gBase v + gCap v) sh.m sh.n (fun i j => (acc i j).comp)) ∧
        RowsHold b2.tun t (gBase u) ke sh.n (fun o j => if bit mask o then old u o j else (accW o j).main) ∧
        (gClass u = 1 → RowsHold b2.tun t (gBase u + gCap u) ke sh.n (fun o j => if bit mask o then oldC u o j else (accW o j).comp)) ∧
        RowsElse b2.tun t ((gBase v, sh.m) :: (gBase u, ke) :: ((if gClass v = 1 then [(gBase v + gCap v, sh.m)] else []) ++
          if gClass u = 1 then [(gBase u + gCap u, ke)] else [])) ∧
        Commits b2.tun t sh.grp true (∃ i j, i < sh.m ∧ j < sh.n ∧ (acc i j).sat = true) (∃ i j, i < sh.m ∧ j < sh.n ∧ (acc i j).nan = true) ∧
        Commits b2.tun t gw true (∃ o j, o < ke ∧ j < sh.n ∧ bit mask o = false ∧ (accW o j).sat = true)
          (∃ o j, o < ke ∧ j < sh.n ∧ bit mask o = false ∧ (accW o j).nan = true) ∧
        GroupsElse b2.tun t [sh.grp, gw] ∧ t.gx.toNat = sh.grp)) ∧
  (∀ (s : State) (w1 : BitVec 21) (w2 : W32) (b2 : Blk) (isMax : Bool), TileIssues s (pdsArray s.cfg) b2 →
     let sh := shapeOf w2
     let tf := b2.tile
     let v := b2.tun.grp sh.grp
     let ta := fTD w1
     let tb := fTB w1
     let roff := (b2.core.reg (fRA w1)).toNat
     let ibase := (b2.core.reg (fRB w1)).toNat % 2 ^ 32
     let old (i j : Nat) : Cand :=
       { v := entry (b2.tun.rows.get (gBase v + roff + i)) j, i := entry (b2.tun.rows.get (gBase v + gCap v + roff + i)) j }
     let best (i j : Nat) := bestCand isMax ibase (products (tileElem tf sh ta i) (operandB tf sh tb j) (kElems sh.fmt sh.kb))
     let new (i j : Nat) : Cand :=
       match (best i j).1 with
       | some k => if beats isMax k (old i j) then k else old i j
       | none => old i j
     bits w1 2 0 = 0 → onlyBits w2 (mROWS + mCOLS + mKB + mGRP + mTFEED) = true →
     (sh.tfeed = true → kElems 0 sh.kb ≤ 64 ∧ (32 < sh.n → tb % 2 = 0 ∧ tf.tagOk (tb + 1) 0 false false = true)) →
     tf.tagOk ta 0 false false = true → tf.tagOk tb 0 false false = true → gOpen v = true → gFinal v = false →
     gClass v = (if isMax then 2 else 3) → roff + sh.m ≤ gCap v → (halves (gBase v) (gRows v)).all (pdRuns b2) = true →
     ∃ t : Tun, exec (if isMax then .tmaxi w1 w2 else .tmini w1 w2) s =
         tileRetires s (countSteps s.cfg sh.m (sh.kb + 1) { b2 with tun := t }) ∧
       RowsHold b2.tun t (gBase v + roff) sh.m sh.n (fun i j => (new i j).v) ∧
       RowsHold b2.tun t (gBase v + gCap v + roff) sh.m sh.n (fun i j => (new i j).i) ∧
       RowsElse b2.tun t [(gBase v + roff, sh.m), (gBase v + gCap v + roff, sh.m)] ∧
       Commits b2.tun t sh.grp false (∃ i j, i < sh.m ∧ j < sh.n ∧ (best i j).2 = true)
         (∃ i j, i < sh.m ∧ j < sh.n ∧ new i j ≠ old i j ∧ (decodeEx .b32 (new i j).v.toNat).isNaN = true) ∧ GroupsElse b2.tun t [sh.grp])

/-- R42–R45, R129–R133: TEPI converts each entry of its rows, after the scale, bias and activation it names, to the output format, in blocks with a
scale byte where BSC is 1; under stochastic rounding lane j advances once a row and gives the row's random value. R479, R480: in inspection mode
at M, INSPECT reads eight tile rows, two Tun rows, a tile's scale areas or the tile tags into a v register and is counted by no counter; elsewhere
it raises the privileged-instruction fault, whatever domains are off. -/
def Obligations.EpilogueAndInspection : Prop :=
  (∀ (s : State) (w1 : BitVec 21) (w2 : W32) (b2 : Blk), TileIssues s (if bit w1 3 then [14, 15, 5] else [14, 15]) b2 →
     let sh := shapeOf w2
     let F := fmtOf sh.fmt
     let td := fTD w1
     let v := b2.tun.grp sh.grp
     let roff := (b2.core.reg (fRA w1)).toNat
     let d := b2.vec.v.get (fRB w1).toNat
     let sr := bits w2 28 27 = 2
     let rm : RMode := if bits w2 28 27 = 0 then .rne else if bits w2 28 27 = 1 then .rtz else .sr
     let sm : SMode := if bit w2 29 then .ieee else .sat
     let B := blockSize sh.bsz
     let tiles := (List.range (tepiTiles sh.fmt sh.n)).map (td + ·)
     let perTile := if sh.fmt = 0 then 32 else if sh.fmt = 8 then 16 else 64
     let x (i j : Nat) : Ex :=
       let y := decodeFlushed .b32 (entry (b2.tun.rows.get (gBase v + roff + i)) j).toNat
       activate (bits w1 6 4) (if bit w1 3 then
         rnd32 (Ex.fused y (decodeFlushed .b32 (lane 32 d j).toNat) (decodeFlushed .b32 (lane 32 d (64 + j)).toNat)) else y)
     let state (n j : Nat) : W32 := laneAfter n (laneState b2.epi j)
     let rnd (i j : Nat) : Nat := if bits w2 28 27 = 2 then laneRandom (state (i + 1) j) F else 0
     let be (i q : Nat) : Nat := blockExponent ((List.range B).map fun k => x i (B * q + k)) F sm
     bits w1 2 0 = 0 → bits w1 6 4 ≤ 5 → (bit w1 3 = false → bits w1 15 11 = 0) →
     onlyBits w2 (mROWS + mCOLS + mFMT + mBSC + mBSZ + mGRP + 0x38000000) = true → bits w2 28 27 ≠ 3 → (sr → sh.fmt ≠ 8) →
     td % tepiTiles sh.fmt sh.n = 0 → (sh.bsc = true → sh.fmt ≠ 0 ∧ sh.fmt ≠ 8 ∧ sh.n % B = 0) → sh.fmt ∈ moveFmts →
     readableGroup v = true → roff + sh.m ≤ gCap v → (halves (gBase v) (gRows v)).all (pdRuns b2) = true →
     ∃ (tf : TileFile) (e : Epi), exec (.tepi w1 w2) s = tileRetires s { b2 with tile := tf, epi := e } ∧
       TilesElse b2.tile tf tiles ∧ (∀ t ∈ tiles, tf.used t = true ∧ tf.tag t = mkTag sh.fmt sh.bsc sh.bsz ∧
         ∀ r, sh.m ≤ r → r < 64 → tf.row t r = b2.tile.row t r ∧ tf.scale t r = b2.tile.scale t r) ∧
       (∀ i j, i < sh.m → j < sh.n → elemCode F (tf.row (td + j / perTile) i) (j % perTile) =
         (if sh.bsc then blockCode (be i (j / B)) F rm sm (rnd i j) (x i j) else rndFtz (x i j) F rm sm (rnd i j)) % 2 ^ F.width) ∧
       (sh.bsc = true → ∀ i q, i < sh.m → q < sh.n / B → (lane 8 (tf.scale td i) q).toNat = be i q % 256) ∧
       (∀ j, j < 64 → laneState e j = if sr ∧ j < sh.n then state sh.m j else laneState b2.epi j) ∧
       e.seed = b2.epi.seed ∧ e.cvt &&& b2.epi.cvt = b2.epi.cvt) ∧
  (∀ (s : State) (w1 : BitVec 21) (w2 : W32) (b2 : Blk), TileIssues s [] b2 →
     let r := (b2.core.reg (fRA w1)).toNat
     let td := fTD w1
     let reads (f : VReg → Prop) := ∃ d, exec (.inspect w1 w2) s = inspectRetires s { b2 with vec := b2.vec.put (fRB w1).toNat d } ∧ f d
     (b2.obs.inspect = true → b2.core.ps.level = 2 → pdRuns b2 5 = true → bits w1 6 0 = 0 →
       (pdRuns b2 14 = true → w2 = 0 → r % 8 = 0 → r ≤ 56 → reads fun d => ∀ i, i < 8 → lane 512 d i = b2.tile.row td (r + i)) ∧
       (w2 = 1 → r % 2 = 0 → r ≤ 2046 → td = 0 → (halves r 2).all (pdRuns b2) = true →
         reads fun d => lane 2048 d 0 = b2.tun.rows.get r ∧ lane 2048 d 1 = b2.tun.rows.get (r + 1)) ∧
       (pdRuns b2 14 = true → w2 = 2 → bits w1 20 16 = 0 → reads fun d => ∀ i, i < 64 → lane 64 d i = b2.tile.scale td i) ∧
       (pdRuns b2 14 = true → w2 = 3 → bits w1 20 16 = 0 → td = 0 →
         reads fun d => ∀ t, t < 16 → lane 8 d t = (b2.tile.tag t).zeroExtend 8)) ∧
     (¬ (b2.obs.inspect = true ∧ b2.core.ps.level = 2) → exec (.inspect w1 w2) s = trapped s (.inspect w1 w2)
       { cause := 3, detail := 0, faddr := 0, fault := .none, wlevel := none, ipa := none, keep := false } (start s) b2))

/-- R136–R147: element-wise arithmetic over elements 0 to n − 1 of v registers, n from CR_VL: in B32 and B64 each result and its flags are IEEE 754's
under CR_VCSR.RD, in W16 the exact result rounded with its CR_CVTSTAT flags; VMIN, VMAX, VABS, VNEG and VCMP in each format; VCVT and VCVTI
convert. Elements from n on keep their bytes. -/
def Obligations.VectorArithmetic : Prop :=
  ∀ (s : State) (w1 : BitVec 26) (w2 : BitVec 24) (b2 : Blk), VecIssues s b2 →
    let f := vf w1 w2
    let F := fmtOf f.fmt
    let w := F.width
    let n := b2.vec.vl.toNat
    let rd := bits b2.vec.vcsr 1 0
    let a (i : Nat) := elem w (b2.vec.v.get f.vs1.toNat) i
    let b (i : Nat) := elem w (b2.vec.v.get f.vs2.toNat) i
    let c (i : Nat) := elem w (b2.vec.v.get f.vs3.toNat) i
    let zeros : Prop := f.zero1 = true ∧ f.zero2 = true ∧ f.ew = 0 ∧ f.comp = false
    let plain : Prop := f.rmode = 0 ∧ f.smode = false
    let ieee (i : Instr) (op : Nat → Nat × FFlags) := VecWrites s (exec i s) (withVecFlags b2 n fun i => (op i).2) f.vd w 0 n fun i => (op i).1
    let narrow (i : Instr) (x : Nat → Ex) :=
      let rm : RMode := if f.rmode = 1 then .rtz else .rne
      let sm : SMode := if f.smode then .ieee else .sat
      VecWrites s (exec i s) (withCvtFlags b2 n fun i => cvtFlags (x i) F rm sm 0) f.vd w 0 n fun i => rndFtz (x i) F rm sm 0
    let value (x : Nat) := decodeEx .w16 x
    n ≤ cap w → zeros →
    ((f.fmt = 8 ∨ f.fmt = 9) → f.vs3 = 0 → f.fmt2 = 0 → plain → f.sub = 0 →
      ieee (.vadd w1 w2) (fun i => ieeeAdd F rd (a i) (b i)) ∧ ieee (.vsub w1 w2) (fun i => ieeeSub F rd (a i) (b i)) ∧
      ieee (.vmul w1 w2) (fun i => ieeeMul F rd (a i) (b i)) ∧ ieee (.vdiv w1 w2) (fun i => ieeeDiv F rd (a i) (b i)) ∧
      (f.vs2 = 0 → ieee (.vsqrt w1 w2) (fun i => ieeeSqrt F rd (a i)))) ∧
    (f.fmt = 0 → f.vs3 = 0 → f.fmt2 = 0 → f.rmode ≤ 1 → f.sub = 0 →
      narrow (.vadd w1 w2) (fun i => Ex.add (value (a i)) (value (b i))) ∧ narrow (.vsub w1 w2) (fun i => Ex.sub (value (a i)) (value (b i))) ∧
      narrow (.vmul w1 w2) (fun i => Ex.mul (value (a i)) (value (b i)))) ∧
    (f.fmt2 = 0 → f.sub = 0 →
      ((f.fmt = 8 ∨ f.fmt = 9) → plain → ieee (.vfma w1 w2) (fun i => ieeeFma F rd (a i) (b i) (c i))) ∧
      (f.fmt = 0 → f.rmode ≤ 1 → narrow (.vfma w1 w2) (fun i => Ex.fused (value (a i)) (value (b i)) (value (c i))))) ∧
    ((f.fmt = 0 ∨ f.fmt = 8 ∨ f.fmt = 9) → f.vs3 = 0 → f.fmt2 = 0 → plain →
      (f.sub = 0 → ieee (.vmin w1 w2) (fun i => ieeeMinMax false F (a i) (b i)) ∧ ieee (.vmax w1 w2) (fun i => ieeeMinMax true F (a i) (b i)) ∧
        (f.vs2 = 0 → ieee (.vabs w1 w2) (fun i => (fpAbs F (a i), {})) ∧ ieee (.vneg w1 w2) (fun i => (fpNeg F (a i), {})))) ∧
      (f.sub ≤ 3 → ieee (.vcmp w1 w2) (fun i =>
        (if (fpCompare F f.sub (a i) (b i)).1 then 2 ^ w - 1 else 0, (fpCompare F f.sub (a i) (b i)).2)))) ∧
    ((f.fmt = 8 ∨ f.fmt = 9) → f.vs2 = 0 → f.vs3 = 0 → f.fmt2 = 0 → plain →
      (f.sub = 0 → ieee (.vcvti w1 w2) (fun i => ((cvtToInt w F rd (a i)).1.toNat, (cvtToInt w F rd (a i)).2))) ∧
      (f.sub = 1 → ieee (.vcvti w1 w2) (fun i => cvtOfInt F rd (BitVec.ofNat w (a i)).toInt))) ∧
    (let G := fmtOf f.fmt2
     let x (i : Nat) := elem G.width (b2.vec.v.get f.vs1.toNat) i
     f.vs2 = 0 → f.vs3 = 0 → f.sub = 0 → f.fmt2 ∈ [0, 1, 2, 3, 8, 9] → f.fmt ≠ f.fmt2 → n ≤ cap G.width →
     (f.fmt ≤ 3 → f.rmode ≤ 1 → narrow (.vcvt w1 w2) (fun i => decodeEx G (x i))) ∧
     (f.fmt = 8 ∨ f.fmt = 9 → plain → ieee (.vcvt w1 w2) (fun i => cvtToIeee F G rd (x i))))

/-- R138, R142, R147, R148: the integer and logic instructions compute modulo 2^w and set no flag; VIOTA, VSEL and VTBL; VSPLAT and VINS take a scalar
and VEXT gives one; VSETL sets CR_VL to the least of rs and cap(EW). A count above cap(w) fails check 0x03. -/
def Obligations.VectorIntegersAndMoves : Prop :=
  ∀ (s : State) (w1 : BitVec 26) (w2 : BitVec 24) (b2 : Blk), VecIssues s b2 →
    let f := vf w1 w2
    let w := ewBits f.ew
    let n := b2.vec.vl.toNat
    let v (r : BitVec 5) := b2.vec.v.get r.toNat
    let a (i : Nat) := elem w (v f.vs1) i
    let b (i : Nat) := elem w (v f.vs2) i
    let x := (b2.core.reg f.vs1).toNat
    let fx := (b2.core.fregs.get f.vs1.toNat).toNat
    let zeros : Prop := f.zero1 = true ∧ f.zero2 = true ∧ f.fmt2 = 0 ∧ f.rmode = 0 ∧ f.smode = false ∧ f.comp = false
    let puts (i : Instr) (g : Nat → Nat) := VecWrites s (exec i s) b2 f.vd w 0 n g
    let index := (b2.core.reg f.vs2).toNat
    zeros →
    (f.fmt = 0 → 1 ≤ f.ew → f.ew ≤ 4 →
      (n ≤ cap w → f.vs3 = 0 → f.sub = 0 →
        puts (.viadd w1 w2) (fun i => a i + b i) ∧ puts (.visub w1 w2) (fun i => a i + 2 ^ w - b i) ∧ puts (.viand w1 w2) (fun i => a i &&& b i) ∧
        puts (.vior w1 w2) (fun i => a i ||| b i) ∧ puts (.vixor w1 w2) (fun i => a i ^^^ b i) ∧
        puts (.vishl w1 w2) (fun i => a i <<< (b i % w)) ∧ puts (.vishr w1 w2) (fun i => a i >>> (b i % w)) ∧
        (f.vs2 = 0 → puts (.viota w1 w2) (fun i => x + i) ∧ puts (.vsplat w1 w2) (fun _ => x))) ∧
      (n ≤ cap w → f.sub = 0 → puts (.vsel w1 w2) (fun i => elem w ((v f.vs1 &&& v f.vs3) ||| (v f.vs2 &&& ~~~(v f.vs3))) i)) ∧
      (n ≤ cap w → f.vs3 = 0 → f.sub ≤ 2 → f.vs1.toNat + 2 ^ f.sub ≤ 32 → puts (.vtbl w1 w2) (fun i =>
        if b i < 2 ^ f.sub * cap w then elem w (b2.vec.v.get (f.vs1.toNat + b i / cap w)) (b i % cap w) else 0)) ∧
      (f.vs3 = 0 → f.sub = 0 → index < cap w →
        VecWrites s (exec (.vins w1 w2) s) b2 f.vd w index 1 (fun _ => x) ∧
        exec (.vext w1 w2) s = vecRetires s { b2 with core := b2.core.setReg f.vd (BitVec.ofNat 64 (a index)) }) ∧
      (cap w < n → f.vs3 = 0 → f.sub = 0 → ∀ i ∈ [Instr.viadd w1 w2, .visub w1 w2, .viand w1 w2, .vior w1 w2, .vixor w1 w2, .vishl w1 w2,
          .vishr w1 w2, .vsel w1 w2, .vtbl w1 w2], exec i s = trapped s i
        { cause := 0x11, detail := 3, faddr := 0, fault := .vec 3 0, wlevel := none, ipa := none, keep := false } (start s) b2)) ∧
    (f.fmt = 0 → f.ew ≤ 4 → f.vs2 = 0 → f.vs3 = 0 → f.sub = 0 →
      let m := Nat.min x (cap w)
      exec (.vsetl w1 w2) s = vecRetires s { b2 with vec := { b2.vec with vl := BitVec.ofNat 11 m }, core := b2.core.setReg f.vd (BitVec.ofNat 64 m) }) ∧
    (let u := fmtWidth f.fmt
     let g := if f.fmt = 0 then fx >>> 16 else fx
     (f.fmt = 0 ∨ f.fmt = 8 ∨ f.fmt = 9) → f.ew = 0 → f.vs3 = 0 → f.sub = 1 →
     (f.vs2 = 0 → n ≤ cap u → VecWrites s (exec (.vsplat w1 w2) s) b2 f.vd u 0 n (fun _ => g)) ∧
     (index < cap u → VecWrites s (exec (.vins w1 w2) s) b2 f.vd u index 1 (fun _ => g) ∧
       exec (.vext w1 w2) s = vecRetires s { b2 with core := b2.core.setF f.vd (BitVec.ofNat 64
         (if f.fmt = 0 then widenW16 (elem u (v f.vs1) index) else elem u (v f.vs1) index)) }))

/-- R149–R151: VREDSUM folds elements 0 to n − 1, W16 ones widened to B32, by the pairwise tree and adds element 0 of VS2; with COMP each node keeps a
sum and its error; VREDMAX and VREDMIN fold by the maximum and minimum. With n zero nothing is written. -/
def Obligations.VectorReductions : Prop :=
  ∀ (s : State) (w1 : BitVec 26) (w2 : BitVec 24) (b2 : Blk), VecIssues s b2 →
    let f := vf w1 w2
    let u := fmtWidth f.fmt
    let F : Fmt := if f.fmt = 0 then .b32 else fmtOf f.fmt
    let n := b2.vec.vl.toNat
    let rd := bits b2.vec.vcsr 1 0
    let x (i : Nat) := let e := elem u (b2.vec.v.get f.vs1.toNat) i; if f.fmt = 0 then widenW16 e else e
    let init := b2.vec.v.get f.vs2.toNat
    let first := elem F.width init 0
    let best (isMax : Bool) (p q : Flagged) : Flagged := ((ieeeMinMax isMax F p.1 q.1).1, (p.2.or q.2).or (ieeeMinMax isMax F p.1 q.1).2)
    let tree (op : Flagged → Flagged → Flagged) := treeFold op n ((List.range n).map fun i => (x i, ({} : FFlags)))
    let gives (i : Instr) (op : Flagged → Flagged → Flagged) := ∀ t, tree op = some t →
      let r := op t (first, {})
      VecWrites s (exec i s) (withVecFlags b2 1 fun _ => r.2) f.vd F.width 0 1 fun _ => r.1
    f.zero1 = true → f.zero2 = true → f.vs3 = 0 → f.fmt2 = 0 → f.rmode = 0 → f.smode = false → f.ew = 0 → f.sub = 0 →
    (f.fmt = 0 ∨ f.fmt = 8 ∨ f.fmt = 9) → n ≤ cap u →
    (f.comp = false →
      gives (.vredsum w1 w2) (rdAdd F rd) ∧ gives (.vredmax w1 w2) (best true) ∧ gives (.vredmin w1 w2) (best false) ∧
      (n = 0 → ∀ i ∈ [Instr.vredsum w1 w2, .vredmax w1 w2, .vredmin w1 w2], exec i s = vecRetires s b2)) ∧
    (f.comp = true →
      (∀ t, treeFold (cnode F) n ((List.range n).map fun i => ((x i, 0), ({} : FFlags))) = some t →
        let r := cnode F t ((first, elem F.width init 1), {})
        VecWrites s (exec (.vredsumComp w1 w2) s) (withVecFlags b2 1 fun _ => r.2) f.vd F.width 0 2 fun i => if i = 0 then r.1.1 else r.1.2) ∧
      (n = 0 → exec (.vredsumComp w1 w2) s = vecRetires s b2))

/-- R152–R156: VLD reads, and VST writes, elements CR_VRESUME to n − 1 as little-endian bytes at rs1, here where every piece lies in this block's LTS;
CR_VRESUME becomes 0. With Q4 an odd CR_VRESUME resumes at the byte that holds the element (log 61). -/
def Obligations.VectorMemory : Prop :=
  ∀ (s : State) (w1 : BitVec 26) (w2 : BitVec 24) (b2 b3 : Blk) (ps : List VPiece), VecIssues s b2 →
    let f := vf w1 w2
    let w := ewBits f.ew
    let n := b2.vec.vl.toNat
    let i0 := b2.vec.vresume.toNat
    let k0 := elemBytes w i0
    let ra := b2.core.reg f.vs1
    let qs := clipPieces (elemBytes w n) ps
    let pieces := rangePieces 66 (ra + BitVec.ofNat 64 k0) (elemBytes w n - k0)
    let inLts : Prop := (∀ p ∈ qs, ∃ o, p.path = .lts o) ∧ LtsOpen b3 (qs.map fun p => (p.off, p.n))
    f.zero1 = true → f.zero2 = true → f.vs2 = 0 → f.vs3 = 0 → f.fmt = 0 → f.fmt2 = 0 → f.rmode = 0 → f.smode = false → f.sub = 0 →
    f.comp = false → f.ew ≤ 4 → n ≤ cap w → (f.ew = 0 → n % 2 = 0) →
    (n ≤ i0 → exec (.vld w1 w2) s = vecRetires s b2 ∧ exec (.vst w1 w2) s = vecRetires s b2) ∧
    (i0 < n → vLocate s.cfg .load ra pieces b2 = .ok (ps, none) b3 → inLts →
      VecWrites s (exec (.vld w1 w2) s) b3 f.vd w i0 (n - i0) fun j =>
        natOfLE (qs.flatMap fun p => Sparse.range b3.lts.bytes p.off p.n) >>> (w * (i0 + j) - 8 * k0)) ∧
    (i0 < n → vLocate s.cfg .store ra pieces b2 = .ok (ps, none) b3 → inLts → Apart (qs.map fun p => (p.off, p.n)) →
      ∃ b4, exec (.vst w1 w2) s = vecRetires s b4 ∧
        Written b3 b4 (qs.map fun p => (p.off, (((bytesOf 512 (b3.vec.v.get f.vd.toNat)).drop k0).drop (p.k - k0)).take p.n)))

/-- R377, R402, R409, R411, R418, R420, R443: HCP_WRITE writes the word at its offset, with the clamps of the register; an offset names its word; a
block that is held or unpowered takes no write. The record of a write that the lock refuses is log 66's. R425, R478, R482: LATCHING_LO_READ
latches the HI word of the pair whose LO word is read, and of no other: a read of any other offset latches nothing (log 77). -/
def Obligations.HostWritesAndLatches : Prop :=
  (∀ (s : State) (v : W32),
     let c := s.cfg
     let b := s.blk
     (hostAnswers b →
       GivesCfg s (.hcpWrite 0x228 v) { c with idle := v } (maltSource b 15) ∧
       exec (.hcpWrite 0x22B v) s = exec (.hcpWrite 0x228 v) s ∧
       (500 ≤ v.toNat → v.toNat ≤ 3000 → GivesCfg s (.hcpWrite 0x218 v) { c with cap := v.truncate 12 } (maltSource b 15)) ∧
       (3000 < v.toNat → v.toNat < 4096 →
         GivesCfg s (.hcpWrite 0x218 v) { c with cap := 3000 } (maltSource (logClamp b 0xFF 0x6C 0 v.toNat 3000) 15)) ∧
       (v.toNat < 48 → GivesCfg s (.hcpWrite 0xA10 v) { c with fpTmo := 48 } (logClamp b 0xFF 0x6A 0 v.toNat 48)) ∧
       (48 ≤ v.toNat → GivesCfg s (.hcpWrite 0xA10 v) { c with fpTmo := v } b) ∧
       GivesCfg s (.hcpWrite 0x114 v) { c with mimg := v ++ c.mimg.truncate 32 } b ∧
       Gives s (.hcpWrite 0x9C0 v) { b with err := { b.err with pend := b.err.pend && !bit v 0, overrun := b.err.overrun && !bit v 1 } } ∧
       (c.lock = true → Gives s (.hcpWrite 0x400 v) (logClamp b 0xFF 0x95 0 v.toNat (readWorld c b 0x400).toNat)) ∧
       (c.lock = false → secureForcedZero b = false → GivesCfg s (.hcpWrite 0x400 v) { c with ringsec := v } b)) ∧
     (¬ hostAnswers b → ∀ off, exec (.hcpWrite off v) s = .next s)) ∧
  (∀ (s : State), hostAnswers s.blk →
     let b := s.blk
     Gives s (.latchingLoRead 0x230) { b with pwr := { b.pwr with energyHi := BitVec.ofNat 32 (b.pwr.energy.toNat / 2 ^ 32) } } ∧
     Gives s (.latchingLoRead 0x238) { b with pwr := { b.pwr with sclkHi := BitVec.ofNat 32 (b.pwr.sclk / 2 ^ 32) } } ∧
     (obsRuns b = true → ∀ n : Nat, n < 12 → exec (.latchingLoRead (BitVec.ofNat 16 (0xC40 + 8 * n))) s =
       .next { s with blk := { b with obs := { b.obs with hi := b.obs.hi.set n (BitVec.ofNat 32 ((hcpCnt b n).toNat / 2 ^ 32)) } } }) ∧
     (∀ off : BitVec 16, latchingLo (off.toNat / 4 * 4) = false → exec (.latchingLoRead off) s = .next s))

/-- R325: DOORBELL sets a ring's index, clamped to the ring, and wakes the block for a running submission ring; in fatal state it is ignored. R308,
R324, R434: SETUP, START and STOP of a ring, where each is refused and what it does; BUSY stands after a STOP while a descriptor is still fetched
or completed (log 97). -/
def Obligations.RingHostCommands : Prop :=
  (∀ (s : State) (n : BitVec 5) (v : W32), hostAnswers s.blk →
     let b := s.blk
     let r := getRing b n.toNat
     let top := (if r.setUp then r.size else 16) - 1
     let rung (b0 : Blk) (i : BitVec 16) :=
       let b1 := maltSource (setRing b0 n.toNat { r with index := i }) 0
       Gives s (.doorbell n v) (if r.run && decide (n.toNat < 28) then wake b1 else b1)
     (b.err.fatal = true → exec (.doorbell n v) s = .next s) ∧
     (b.err.fatal = false → v.toNat < 65536 →
       (v.toNat ≤ top → rung b (v.truncate 16)) ∧
       (top < v.toNat → rung (logClamp b n.toNat 0x30 0xFFFE v.toNat top) (BitVec.ofNat 16 top)))) ∧
  (∀ (s : State) (n : BitVec 5), hostAnswers s.blk →
     let c := s.cfg
     let b := s.blk
     let r := getRing b n.toNat
     let refused := setRing b n.toNat { r with refused := true }
     let locked := c.lock && ringsecBit c b n.toNat
     let image := BitVec.ofNat 64 (r.ctxHi.toNat * 2 ^ 32 + r.ctxLo.toNat)
     let world := ringsecBit c b n.toNat
     let read (a : Word) : Request :=
       { op := .rd, addr := a, be := BitVec.allOnes 64, operand := 0, data := 0, world := world, purpose := .ctxImage n.toNat }
     ((locked = true ∨ r.run = true ∨ r.busy = true) → Gives s (.setup n) refused) ∧
     (locked = false → r.run = false → r.busy = false → b.err.fatal = true → exec (.setup n) s = .next s) ∧
     (locked = false → r.run = false → r.busy = false → b.err.fatal = false → b.pwr.state = .run →
       let b1 := setRing b n.toNat { r with busy := true, buf := List.replicate 128 0, awaited := 2, bad := false }
       OnPort c b1 image 64 world needR →
       let b2 := issueReq c false (read image) b1
       OnPort c b2 (image + 64) 64 world needR →
       Gives s (.setup n) (issueReq c false (read (image + 64)) b2)) ∧
     ((locked = true ∨ r.busy = true ∨ r.setUp = false ∨ c.sealed = false) → Gives s (.start n) refused) ∧
     (locked = false → r.busy = false → r.setUp = true → c.sealed = true →
       (r.run = true → exec (.start n) s = .next s) ∧
       (b.pwr.state = .run → r.run = false → r.st ≠ .waiting ∨ 8 ≤ n.toNat → Gives s (.start n) (setRing b n.toNat { r with run := true })) ∧
       (b.pwr.state = .run → r.run = false → r.st = .waiting → n.toNat < 8 → jobWaitOf b n.toNat = none →
         Gives s (.start n) (armJob c (setRing b n.toNat { r with run := true }) n.toNat))) ∧
     ((locked = true ∨ r.busy = true) → Gives s (.stop n) refused) ∧
     (locked = false → r.busy = false → r.run = false → exec (.stop n) s = .next s) ∧
     (locked = false → r.busy = false → r.run = true → b.err.fatal = true → r.halting = false →
       Gives s (.stop n) (setRing b n.toNat { r with run := false })) ∧
     (locked = false → r.busy = false → r.run = true → b.err.fatal = false → r.halting = false →
       (r.st = .fetching → Gives s (.stop n) (setRing b n.toNat { r with run := false, halting := true, busy := true })) ∧
       (28 ≤ n.toNat → r.st = .idle → Gives s (.stop n) (setRing b n.toNat { r with run := false })) ∧
       (8 ≤ n.toNat → n.toNat < 24 → r.st = .idle → dmaCh b (n.toNat - 8) = none → Gives s (.stop n) (setRing b n.toNat { r with run := false })) ∧
       (24 ≤ n.toNat → n.toNat < 28 → r.st = .idle → streamOf b (n.toNat - 24) = none → Gives s (.stop n) (setRing b n.toNat { r with run := false })) ∧
       (8 ≤ n.toNat → n.toNat < 28 → r.st = .done ∨ r.st = .completing → dmaCh b (n.toNat - 8) = none → streamOf b (n.toNat - 24) = none →
         Gives s (.stop n) (setRing b n.toNat { r with run := false, busy := true })) ∧
       (8 ≤ n.toNat → n.toNat < 28 → r.st = .ready → Gives s (.stop n) (setRing b n.toNat { r with run := false, st := .idle, desc := [] })) ∧
       (n.toNat < 8 → r.st ≠ .fetching → (∀ j, b.rings.offer = some j → j.ring.toNat = n.toNat) →
         Gives s (.stop n) (setRing { b with
           rings := { b.rings with offer := none, offerResume := if b.rings.offer.isSome then false else b.rings.offerResume }
           sync := { b.sync with waits := b.sync.waits.filter fun w => !(w.kind == .jobWait (BitVec.ofNat 3 n.toNat) && w.state == .armed) } }
           n.toNat { r with run := false }))))

/-- R190, R191, R308: CGT_LOAD asks for the image of its first entry, CGT_SAVE writes one to this block's LTS, a command is refused while one is in
progress, none is taken in fatal state, and CGT_ENTRY_APPLY puts a loaded entry in place, which loses VALID to a lower-numbered entry that it
clashes with. An image in this block's own LTS is written at once (log 65). -/
def Obligations.GroupTable : Prop :=
  ∀ (s : State) (first last : BitVec 6), hostAnswers s.blk → first.toNat ≤ last.toNat → s.cfg.lock = false →
    let c := s.cfg
    let b := s.blk
    let a := c.cgtBase + BitVec.ofNat 64 (32 * first.toNat)
    let cmd (save : Bool) : CgtCmd := { save := save, next := first, last := last, world := false, loaded := none }
    let b1 (save : Bool) : Blk := { b with chain := { b.chain with cmd := some (cmd save) } }
    (b.err.fatal = true → exec (.cgtLoad first last) s = .next s ∧ exec (.cgtSave first last) s = .next s) ∧
    (b.err.fatal = false → b.chain.cmd.isSome = true →
      ∀ i ∈ [Instr.cgtLoad first last, .cgtSave first last], Gives s i { b with chain := { b.chain with refused := true } }) ∧
    (b.err.fatal = false → b.chain.cmd = none → OnPort c (b1 false) a 32 false needR →
      Gives s (.cgtLoad first last) (issueReq c false
        { op := .rd, addr := BitVec.ofNat 64 (a.toNat / 64 * 64), be := byteMask (a.toNat % 64) 32, operand := 0, data := 0, world := false
          purpose := .cgtLoad first.toNat } (b1 false))) ∧
    (b.err.fatal = false → b.chain.cmd = none → first = last → ∀ o, AtLts c (b1 true) a 32 false needW o → b.lts.flips = [] →
      b.sys.beats = [] → b.ports.outMp = [] →
      ∃ b2, Written b b2 [(o, cgtImage (cge b first.toNat))] ∧
        Gives s (.cgtSave first last) { b2 with chain := { b.chain with cmd := none, done := true } }) ∧
    (∀ (save world : Bool) (n : BitVec 6) (e : CgtEntry),
      b.chain.cmd = some { save := save, next := n, last := n, world := world, loaded := some e } →
      ((∀ x ∈ b.chain.cgt, x.1 ≠ n.toNat → cgeClash e x.2 = false) →
        Gives s .cgtEntryApply { b with chain := { b.chain with cgt := alPut b.chain.cgt n.toNat e, cmd := none, done := true } }) ∧
      ((∃ x ∈ b.chain.cgt, x.1 < n.toNat ∧ cgeClash e x.2 = true) →
        let b2 := logClamp b 0xFE 0x57 n.toNat 1 0
        Gives s .cgtEntryApply { b2 with chain := { b.chain with cgt := alPut b.chain.cgt n.toNat { e with valid := false }, cmd := none, done := true } }))

/-- R449, R451, R452, R454: GO begins the start-up sequence from the wait for it or from FAILED; WARM returns all but the configuration to its reset
value and begins a wipe; CORE begins a core-only reset, from RUNNING only, in Run; elsewhere they are refused. What takes effect at the trigger,
what the wipe resets, and what a core-only reset does in Couch or Steep are logs 69, 70 and 71's. -/
def Obligations.ResetCommands : Prop :=
  ∀ (s : State), hostAnswers s.blk →
    let c := s.cfg
    let b := s.blk
    let refused := { b with sys := { b.sys with refused := true } }
    ((b.sys.phase = 1 ∨ b.sys.phase = 10) → Gives s .go { b with sys := { b.sys with phase := 2, failcode := 0, full := true } }) ∧
    (b.sys.phase ≠ 1 → b.sys.phase ≠ 10 → Gives s .go refused) ∧
    ((b.sys.phase = 0 ∨ b.sys.phase = 1) → Gives s .warm refused) ∧
    (b.sys.phase = 9 → b.sys.kiln = none →
      ∃ b1 : Blk, GivesCfg s .warm { c with lock := false, rgnX := [], featAcc := [], sealed := false } b1 ∧
        b1.core = Core.reset ∧ b1.mmu = Mmu.reset ∧ b1.caches = Caches.reset ∧ b1.lts = Lts.reset ∧ b1.tile = TileFile.reset ∧
        b1.tun = Tun.reset ∧ b1.vec = Vec.reset ∧ b1.epi = Epi.reset ∧ b1.sync = Sync.reset ∧ b1.dma = Dma.reset ∧
        b1.sparge = Sparge.reset ∧ b1.malt.ram = [] ∧ b1.malt.started = false ∧ b1.rings.rings = [] ∧ b1.rings.running = none ∧
        b1.rings.clog = b.rings.clog ∧ b1.chain.cgt = [] ∧ b1.err.fatal = false ∧ b1.ports.outMp = [] ∧ b1.ports.outFp = [] ∧
        (∀ p, (getLink b1 p).state = 0) ∧ b1.pwr.tcmp = 0 ∧ b1.pwr.wakepc = 0 ∧ b1.pwr.mnotice = 0 ∧ b1.sys.phase = 3 ∧ b1.sys.last = 2 ∧ b1.sys.resetKind = 2 ∧ b1.sys.kilnTrig = 2 ∧
        b1.pwr.pd = b.pwr.pd) ∧
    ((b.sys.phase ≠ 9 ∨ b.err.fatal = true) → Gives s .core refused) ∧
    (b.sys.phase = 9 → b.err.fatal = false → b.caches.l1d = [] → b.caches.l2 = [] → b.sys.beats = [] →
      ∃ b1 : Blk, Gives s .core b1 ∧ b1.core = Core.reset ∧ b1.pwr.state = .run ∧ b1.rings.running = none ∧ b1.rings.preempted = [] ∧ b1.rings.offer = none ∧
        b1.chain.txW = [] ∧ b1.chain.txE = [] ∧ b1.chain.rxW = [] ∧ b1.chain.rxE = [] ∧ b1.sys.phase = 8 ∧ b1.sys.last = 3 ∧
        b1.sys.resetKind = 3 ∧ b1.sys.kilnTrig = 3 ∧ b1.sync.objs = b.sync.objs ∧ b1.chain.cgt = b.chain.cgt ∧ b1.malt.ram = b.malt.ram)

/-- R293, R295, R312, R313, R344, R398, R434, R464, R471: the host writes that seal the features, set the pending epoch with its redirect table, lay
out the LTS, lock the world assignment, enable and retrain links, and set up the observation unit. A write that touches nothing that is due
changes nothing (log 4); a cleared EN bit takes its link DOWN (log 67); an idle Sparge applies the pending epoch with it (log 89). -/
def Obligations.HostConfiguration : Prop :=
  ∀ (s : State), hostAnswers s.blk →
    let c := s.cfg
    let b := s.blk
    (∀ v : W32, v.toNat ≤ 1 →
      (bit (c.featAcc.get 0) 0 = true → GivesCfg s (.featSealWrite v) { c with sealed := c.sealed || bit v 0 } b) ∧
      (bit (c.featAcc.get 0) 0 = false → c.sealed = false → Gives s (.featSealWrite v) (if v = 1 then logClamp b 0xFF 0x86 0 1 0 else b))) ∧
    (∀ v : W32, v.toNat < 65536 →
      let e : BitVec 16 := v.truncate 16
      (b.mmu.copyPend.isSome = true → Gives s (.modePendWrite v) (logClamp b 0xFF 0x68 0 v.toNat b.rings.epPend.toNat)) ∧
      (b.mmu.copyPend = none → b.mmu.older = none → (∀ d ∈ [2, 5, 14, 16, 17, 18], pdOn b d = true) → 1 ≤ (e - b.rings.epPend).toNat →
        (e - b.rings.epPend).toNat ≤ 32767 → (e - oldestEpoch b).toNat ≤ 32767 →
        Gives s (.modePendWrite v) { b with
          rings := { b.rings with epPend := e, epSparge := if b.sparge.streams = [] then e else b.rings.epSparge }
          mmu := { b.mmu with older := some b.mmu.live, live := { epoch := e, entries := c.nrt } } })) ∧
    (∀ t e, b.mmu.older = some t → b.mmu.copyPend = some e → (∀ d ∈ [2, 5, 14, 16, 17, 18], pdOn b d = true) →
      ((epochHeld b t.epoch = true ∨ t.epoch = b.mmu.live.epoch) → exec .nrtTableCopy s = .next s) ∧
      (epochHeld b t.epoch = false → t.epoch ≠ b.mmu.live.epoch →
        Gives s .nrtTableCopy { b with
          rings := { b.rings with epSparge := if b.sparge.streams = [] then b.rings.epPend else b.rings.epSparge }
          mmu := { b.mmu with older := some b.mmu.live, live := { epoch := e, entries := c.nrt }, copyPend := none } })) ∧
    (∀ v : W32, bits v 15 0 = 15 → bits v 31 22 = 0 → bits v 21 16 ≤ 48 →
      let sec := bits v 21 16
      let old := c.ltsSec.toNat
      (c.lock = true → GivesCfg s (.ltsCfgWrite v) { c with qen := 15 } (maltSource (logClamp b 0xFF 0x95 0 sec (effSec c b)) 15)) ∧
      (c.lock = false → secureForcedZero b = false → b.sys.kiln = none →
        GivesCfg s (.ltsCfgWrite v) { c with qen := 15, ltsSec := BitVec.ofNat 6 sec }
          (maltSource (if sec = old then b else { b with sys := { b.sys with
            kiln := some { cov := 0, lts := [(65536 * Nat.min old sec, 65536 * Nat.max old sec)], uworld := none }, kilnTrig := 6 } }) 15))) ∧
    (∀ v : W32, (c.lock = false → GivesCfg s (.worldLockWrite v) { c with lock := bit v 0 } b) ∧
      (c.lock = true → Gives s (.worldLockWrite v) (if bit v 0 then logClamp b 0xFF 0x95 0 v.toNat 1 else b))) ∧
    (∀ en : BitVec 4, ∃ b1 : Blk, GivesCfg s (.linkEnableWrite en) { c with linkEn := en } b1 ∧
      b1 = { b with ports := b1.ports, obs := b1.obs } ∧
      ∀ p : BitVec 2, let l := getLink b p
        getLink b1 p = if bit en p.toNat then l else (if l.state = stUp ∨ l.state = stPaused then l.driveCtl p 6 else l).down) ∧
    (c.linkEn = 15 → ∀ mask : BitVec 4, ∃ b1 : Blk, Gives s (.retrain mask) b1 ∧ b1 = { b with ports := b1.ports, obs := b1.obs } ∧
      ∀ p : BitVec 2, getLink b1 p =
        if bit mask p.toNat && ((getLink b p).state == stUp || (getLink b p).state == stFailed) then (getLink b p).retrain else getLink b p) ∧
    (∀ v : W32, obsRuns b = true → bits v 15 10 = 0 → bits v 31 21 = 0 → 8 ≤ bits v 20 16 → bits v 20 16 ≤ 24 →
      let b1 : Blk := { b with obs := { b.obs with cfg := v ||| 6 } }
      Gives s (.obsCfgWrite v) (if bit v 0 && !bit b.obs.cfg 0 then emitSync b1 else b1))

/-- R321, R324, R332, R339: DESCRIPTOR_FETCH reads the descriptor at the head of a started submission ring that has one pending, here in chip memory;
on an event ring, a stopped ring or one with nothing pending it does nothing (log 4). R339, R340: JOB_OFFER offers the ready job of highest
priority, in no other order among equals than the rings' turn; a job wait that found the wait table full is armed again by JOB_WAIT_ARM_RETRY. A
row that is not due changes nothing (log 4). -/
def Obligations.DescriptorsAndJobOffers : Prop :=
  (∀ (s : State) (n : BitVec 5),
     let c := s.cfg
     let b := s.blk
     let r := getRing b n.toNat
     let a := slotAddr n.toNat r r.head.toNat
     let read (i : Nat) : Request :=
       { op := .rd, addr := a + BitVec.ofNat 64 (64 * i), be := BitVec.allOnes 64, operand := 0, data := 0, world := r.ctx.world
         purpose := .descriptor n.toNat }
     let b1 (k : Nat) := setRing b n.toNat { r with
       st := .fetching, nclamp := 0, firstCode := 0, buf := List.replicate (64 * k) 0, awaited := BitVec.ofNat 4 k, bad := false }
     ((28 ≤ n.toNat ∨ r.run = false ∨ r.busy = true ∨ r.st ≠ .idle ∨ r.head = r.index) → exec (.descriptorFetch n) s = .next s) ∧
     (n.toNat < 28 → frontRuns b = true → r.run = true → r.busy = false → r.halting = false → r.st = .idle → r.head ≠ r.index →
       (8 ≤ n.toNat → OnPort c (b1 1) (read 0).addr 64 r.ctx.world needR →
         Gives s (.descriptorFetch n) (issueReq c false (read 0) (b1 1))) ∧
       (n.toNat < 8 → OnPort c (b1 2) (read 0).addr 64 r.ctx.world needR →
         OnPort c (issueReq c false (read 0) (b1 2)) (read 1).addr 64 r.ctx.world needR →
         Gives s (.descriptorFetch n) (issueReq c false (read 1) (issueReq c false (read 0) (b1 2)))))) ∧
  (∀ (s : State) (n : BitVec 3),
     let c := s.cfg
     let b := s.blk
     let r := getRing b n.toNat
     let ready (m : Nat) : Bool := (getRing b m).run && (getRing b m).st == .ready && jobEpochs b (getRing b m)
     let obj : BitVec 16 := BitVec.ofNat 16 (r.fld 0x40 15 0)
     let tgt : W32 := BitVec.ofNat 32 (r.fld 0x44 31 0)
     (frontRuns b = true → b.rings.offer = none → b.rings.noOffers = false → b.rings.running = none → b.rings.preempted = [] →
       ready n.toNat = true →
       (∀ m, m < 8 → m ≠ n.toNat → ready m = true →
         (getRing b m).ctx.prio.toNat < r.ctx.prio.toNat ∨
         ((getRing b m).ctx.prio = r.ctx.prio ∧
           (n.toNat + 7 - b.rings.lastRing.toNat) % 8 < (m + 7 - b.rings.lastRing.toNat) % 8)) →
       Gives s .jobOffer { b with rings := { b.rings with offer := some (jobOf b n.toNat), offerResume := false } }) ∧
     ((b.rings.offer.isSome = true ∨ b.rings.noOffers = true) → exec .jobOffer s = .next s) ∧
     (frontRuns b = true → r.run = true → r.st = .waiting → jobWaitOf b n.toNat = none → r.fld 0x40 18 18 = 1 →
       objWorld c b obj = r.ctx.world →
       let v := b.sync.objs.get obj.toNat
       let cond : BitVec 2 := BitVec.ofNat 2 (r.fld 0x40 17 16)
       let tmo : W32 := BitVec.ofNat 32 (r.fld 0x48 31 0)
       (condHolds cond v tgt = true → r.fld 0x40 19 19 = 0 →
         Gives s (.jobWaitArmRetry n) (setRing b n.toNat { r with st := .ready })) ∧
       (condHolds cond v tgt = false → tmo ≠ 0 → freeWait b = none → Gives s (.jobWaitArmRetry n) (setRing b n.toNat r)) ∧
       (condHolds cond v tgt = false → tmo ≠ 0 → ∀ e, freeWait b = some e →
         Gives s (.jobWaitArmRetry n)
           (setRing (armWait b e (.jobWait n) obj r.ctx.world cond (r.fld 0x40 19 19 == 1) tgt tmo).2 n.toNat r))) ∧
     (r.st ≠ .waiting → exec (.jobWaitArmRetry n) s = .next s))

/-- R330–R337: COMPLETION_WRITE, EVENT_WRITE and INTERRUPT_MESSAGE write a completion entry, an event entry and MSGDATA, here to chip memory and not
in fatal state; the phase bit of an entry turns where the ring wraps. A row that is not due changes nothing (log 4). INDEX is that of the
descriptor, also where a SETUP has put the head back since (log 97). -/
def Obligations.RingEntries : Prop :=
  ∀ (s : State) (n : BitVec 5) (e : BitVec 2), frontRuns s.blk = true →
    let c := s.cfg
    let b := s.blk
    let r := getRing b n.toNat
    let wrap (x : Ring) (i : BitVec 16) := if i.toNat + 1 = x.size then !x.phase else x.phase
    let write (a : Word) (bs : List Byte) (w : Bool) (p : Purpose) (b : Blk) := issueReq c false
      { op := .wr, addr := BitVec.ofNat 64 (a.toNat / 64 * 64), be := byteMask (a.toNat % 64) bs.length, operand := 0
        data := pieceOfBytes (a.toNat % 64) bs, world := w, purpose := p } b
    let q := getRing b (28 + e.toNat)
    (r.st = .done → r.ctx.even = false →
      let ws : List W32 :=
        [BitVec.ofNat 32 (0x4B5A + 65536 * r.phase.toNat + (if r.nclamp = 0 then 0 else 131072) + 2 ^ 24 * r.status.toNat),
         BitVec.ofNat 32 (r.cur.toNat + 65536 * r.firstCode.toNat + 2 ^ 24 * r.nclamp.toNat), r.tag, r.result,
         BitVec.ofNat 32 r.epoch.toNat, r.detail]
      let a := r.ctx.cbase + BitVec.ofNat 64 (32 * r.cur.toNat)
      let b1 := emitDesc (setRing b n.toNat { r with st := .completing, phase := wrap r r.cur }) r.ctx.world n.toNat r.status r.cur
      OnPort c b1 a 32 r.ctx.world needW →
      Gives s (.completionWrite n) (write a (entryBytes r.big ws b.pwr.sclk) r.ctx.world (.completion n.toNat) b1)) ∧
    (r.st ≠ .done → exec (.completionWrite n) s = .next s) ∧
    (∀ ev rest, getEq b e.toNat = ev :: rest → eventSlot b e.toNat = true →
      let ws : List W32 :=
        [BitVec.ofNat 32 (0x4B5A + 65536 * q.phase.toNat + 2 ^ 24 * ev.ty.toNat),
         BitVec.ofNat 32 (ev.src.toNat + 256 * ev.status.toNat + 65536 * ev.index.toNat), ev.a, ev.b, 0, 0]
      let a := q.ctx.cbase + BitVec.ofNat 64 (32 * q.head.toNat)
      let b1 := setRing (setEq b e.toNat rest) (28 + e.toNat)
        { q with head := BitVec.ofNat 16 ((q.head.toNat + 1) % q.size), phase := wrap q q.head }
      OnPort c b1 a 32 q.ctx.world needW →
      Gives s (.eventWrite e) (write a (entryBytes q.ctx.corder ws b.pwr.sclk) q.ctx.world (.event (28 + e.toNat)) b1)) ∧
    ((getEq b e.toNat = [] ∨ eventSlot b e.toNat = false) → exec (.eventWrite e) s = .next s) ∧
    (r.msgOwed ≠ 0 →
      let b1 := setRing b n.toNat { r with msgOwed := r.msgOwed - 1 }
      OnPort c b1 r.ctx.msgaddr 4 r.ctx.world needW →
      Gives s (.interruptMessage n) (write r.ctx.msgaddr (leOfNat 4 r.ctx.msgdata.toNat) r.ctx.world (.message n.toNat) b1)) ∧
    (r.msgOwed = 0 → exec (.interruptMessage n) s = .next s)

/-- R166–R175, R183–R188: STREAM_BEGIN begins a checked stream descriptor and asks for its first source bytes, here of a stream without translation;
SPARGE_CHUNK decodes and deposits a chunk, advances CR_SPROD, and ends a stream after its last or at a chunk that cannot be decoded. A row that is
not due changes nothing (log 4). -/
def Obligations.Streams : Prop :=
  ∀ (s : State) (n : BitVec 2),
    let c := s.cfg
    let b := s.blk
    let ring := 24 + n.toNat
    let r := getRing b ring
    let b0 := spargeEpoch b
    let x := r.stream b0.rings.epSparge
    let p := partition c b r.ctx.world
    let a := redirect c b0 b0.rings.epSparge x.src
    (frontRuns b = true → pdRuns b 17 = true → pdRuns b 18 = true → r.st = .ready → r.run = true → r.halting = false →
      (r.fld 0x30 16 16 = 0 ∨ reached b0.rings.epSparge (BitVec.ofNat 16 (r.fld 0x30 15 0)) = true) → r.ctx.ten = false →
      p.1 + 16384 ≤ p.2 → areaOk c b r.ctx.world x.bufoff x.buf = true →
      (x.narrow = true → areaOk c b r.ctx.world x.scoff (x.buf / 8) = true) →
      (x.len ≤ x.donesrc → (∀ o ∈ b.ports.outMp ++ b.ports.outFp, ∀ k, o.purpose ≠ .sparge n.toNat k ∧ o.purpose ≠ .adUpdate (16 + n.toNat)) →
        b.sparge.streams = [] →
        Gives s (.streamBegin n)
          (setRing { b0 with sparge := { b0.sparge with streams := [] } } ring { r with
            st := .done, status := 0, result := BitVec.ofNat 32 (65536 * x.epoch.toNat), detail := 0, epoch := x.epoch })) ∧
      (x.donesrc = 0 → 8 ≤ x.len → x.src.toNat % 64 = 0 → unassigned x.src = false → nodeOf a = c.node → inBlockSpace a = false →
        x.input = .need →
        (regionCheck c a r.ctx.world false needR false = .ok .uncached ∨ regionCheck c a r.ctx.world false needR false = .ok .device) →
        Gives s (.streamBegin n) (issueReq c false
          { op := .rd, addr := BitVec.ofNat 64 (a.toNat / 64 * 64), be := byteMask (a.toNat % 64) (Nat.min x.len 64), operand := 0, data := 0
            world := r.ctx.world, purpose := .sparge n.toNat 0 }
          (setStream (sprodAlign (setRing b0 ring { r with st := .begun }) n.toNat x) n.toNat { x with reading := true })))) ∧
    (r.fld 0x30 16 16 = 1 → reached b0.rings.epSparge (BitVec.ofNat 16 (r.fld 0x30 15 0)) = false → frontRuns b = true → pdRuns b 17 = true →
      Gives s (.streamBegin n) (if r.st = .ready ∧ r.run = true ∧ r.halting = false then b0 else b)) ∧
    (r.st ≠ .ready → exec (.streamBegin n) s = .next s) ∧
    (∀ (y : Stream) (dec : List Byte) (used : Nat),
      let start := nextCount b n.toNat
      let o := start % y.buf
      let out := y.output dec
      let ps := (y.bufoff + o, out.1) :: (if y.narrow then [(y.scoff + o / 8, out.2.1)] else [])
      b.err.fatal = false → pdRuns b 17 = true → b.pwr.state = .run → chunkPick b = some n.toNat → streamOf b n.toNat = some y →
      y.input = .ok dec used → y.len ≤ y.donesrc + used → y.syncen = false → y.signals = 0 → b.lts.flips = [] → b.sys.beats = [] →
      areaOk c b r.ctx.world (y.bufoff + o) y.chunk = true → (y.narrow = true → areaOk c b r.ctx.world (y.scoff + o / 8) (y.chunk / 8) = true) →
      ltsRangeReady b (y.bufoff + o) y.chunk = true → (y.narrow = true → ltsRangeReady b (y.scoff + o / 8) (y.chunk / 8) = true) →
      Apart (ps.map fun p => (p.1, p.2.length)) →
      ∃ b1 b2, Written b b2 ps ∧ Gives s .spargeChunk b1 ∧
        b1 = { b with lts := b2.lts, sparge := b1.sparge, rings := b1.rings, ports := b1.ports, obs := b1.obs } ∧
        b1.sparge.sprod = b.sparge.sprod.set n.toNat (BitVec.ofNat 64 (start + y.chunk)) ∧ b1.sparge.last = n ∧
        streamOf b1 n.toNat = none ∧ (getRing b1 ring).st = .done ∧ (getRing b1 ring).status = 0 ∧
        ∀ m, m ≠ ring → getRing b1 m = getRing b m) ∧
    (∀ (y : Stream) (e : Nat),
      b.err.fatal = false → pdRuns b 17 = true → b.pwr.state = .run → chunkPick b = some n.toNat → streamOf b n.toNat = some y →
      y.input = .err e → y.signals = 0 →
      ∃ b1, Gives s .spargeChunk b1 ∧ b1 = { b with sparge := b1.sparge, rings := b1.rings, ports := b1.ports } ∧
        b1.sparge.sprod = b.sparge.sprod ∧ b1.sparge.last = n ∧ streamOf b1 n.toNat = none ∧ (getRing b1 ring).st = .done ∧
        (getRing b1 ring).status = (if e % 256 = 0 then 0 else 1) ∧
        (getRing b1 ring).result = BitVec.ofNat 32 (y.flags.toNat + 256 * (e % 256) + 65536 * y.epoch.toNat) ∧
        ∀ m, m ≠ ring → getRing b1 m = getRing b m) ∧
    (chunkPick b = none → exec .spargeChunk s = .next s) ∧
    (∀ (y : Stream) (m : Nat), streamOf b m = some y → decide (nextCount b m + y.chunk ≤ (b.sparge.scons.get m).toNat + y.buf) = false →
      chunkPick b ≠ some m)

/-- R348, R350–R354, R360: DMA_DESCRIPTOR_BEGIN begins a checked descriptor, DMA_PIECE_ISSUE reads the next piece of the channel served next, here an
aligned piece of a copy without translation through the ports, and DMA_END_SIGNAL makes the end signal once every write is acknowledged. A row
that is not due changes nothing (log 4). -/
def Obligations.DmaChannels : Prop :=
  ∀ (s : State) (ch : BitVec 4),
    let c := s.cfg
    let b := s.blk
    let ring := 8 + ch.toNat
    let r := getRing b ring
    let b0 : Blk := match epochReady b with
      | some e => setEpDma b (ch.toNat / 4) e
      | none => b
    let x0 := r.dma (epDma b0 (ch.toNat / 4))
    (frontRuns b = true → r.st = .ready → r.run = true → r.halting = false → r.fld 0x08 6 6 = 0 →
      (x0.next < x0.len → Gives s (.dmaDescriptorBegin ch) (setDmaCh (setRing b0 ring { r with st := .begun }) ch.toNat x0)) ∧
      (x0.next = x0.len → x0.sigen = false → dmaCh b ch.toNat = none →
        ∃ b1, Gives s (.dmaDescriptorBegin ch) b1 ∧ b1 = { b0 with rings := b1.rings, dma := b1.dma } ∧ dmaCh b1 ch.toNat = none ∧
          getRing b1 ring = { r with st := .done, status := 0, result := 0, detail := 0, epoch := x0.epoch })) ∧
    (r.st ≠ .ready → exec (.dmaDescriptorBegin ch) s = .next s) ∧
    (∀ (x : DmaCh) (t1 t2 : RegionType) (f1 f2 : Bool),
      let len := Nat.min (x.len - x.next) 64
      let src := x.src + BitVec.ofNat 64 x.next
      let dst := x.dst + BitVec.ofNat 64 x.next
      let a1 := redirect c b x.epoch src
      let a2 := redirect c b x.epoch dst
      let p : DmaPiece := { k := x.next, off := x.next, len := len, data := 0, reads := 1
                            todo := [{ pos := 0, len := len, addr := a2, buddy := false }], writes := 0, failed := false }
      frontRuns b = true → b.dma.chs.foldl (fun a e => a + e.2.flying) 0 < 64 → dmaPick b = some (ch.toNat, x) → dmaCh b ch.toNat = some x →
      x.op = 0 → r.ctx.ten = false → src.toNat % 64 = 0 → dst.toNat % 64 = 0 → unassigned src = false → unassigned dst = false →
      resolve c b a1 len r.ctx.world false needR false = .ok (.port f1 t1) →
      resolve c b a2 len r.ctx.world false needW false = .ok (.port f2 t2) → pdRuns b 18 = true →
      (∀ o, route c a1 ≠ .lts o) → (∀ o, route c a2 ≠ .lts o) →
      Gives s .dmaPieceIssue (issueReq c f1
        { op := .rd, addr := BitVec.ofNat 64 (a1.toNat / 64 * 64), be := byteMask (a1.toNat % 64) len, operand := 0, data := 0
          world := r.ctx.world, purpose := .dmaRead ch.toNat x.next 0 }
        (countEvents (setDmaCh { b with dma := { b.dma with lastServed := ch } } ch.toNat
          { x with next := x.next + len, pieces := x.pieces ++ [p] }) 0x0B r.ctx.lv r.ctx.world 1))) ∧
    (dmaPick b = none → exec .dmaPieceIssue s = .next s) ∧
    (∀ (x : DmaCh) (obj : BitVec 16), dmaCh b ch.toNat = some x → frontRuns b = true → x.acked = true → x.signalling = false →
      x.writeback = false → x.stopping = false → localObject x.sigt obj →
      (x.sigen = true → Gives s (.dmaEndSignal ch) (setDmaCh { b with sync := { b.sync with queue := b.sync.queue ++
          [{ src := .dmaSignal ch.toNat, op := x.sigop, obj := obj, x := x.sigx, world := r.ctx.world }] } }
        ch.toNat { x with signalling := true })) ∧
      (x.sigen = false → exec (.dmaEndSignal ch) s = .next s))

/-- R365, R366, R368, R387, R388: RD, WR, AT and SYQ at the Far Port that reach this block are performed or queued for the sync engine, and the first
three are answered; a request that fails a check is answered with STATUS 1, or 9 for SYQ, and counted. The rows do no block accounting, and a
SYQ's credit returns when it is queued (log 45). -/
def Obligations.FarPortRequests : Prop :=
  ∀ (s : State) (h : Hdr) (data : Piece),
    let c := s.cfg
    let b := s.blk
    let hd (opc : BitVec 5) : Hdr := { h with opc := opc }
    let freed (opc : BitVec 5) (ch : Nat) := modLink b 1 fun l => l.free ch (1 + dataFlits (hd opc))
    let reply (b1 : Blk) (opc : BitVec 5) (st : BitVec 8) (d : Piece) (old : Word) :=
      sendPacket b1 true { h := { opc := opc, world := h.world, status := st, rtag := h.rtag, snode := 0, sblock := 0, addr := 0, be := 0
                                  operand := old }, data := d }
    let refused (b1 : Blk) : Blk := { b1 with ports := { b1.ports with
      iref := if b1.ports.iref = 0xFFFF then b1.ports.iref else b1.ports.iref + 1 } }
    b.ports.fp.state = stUp → pdRuns b 18 = true → b.pwr.state = .run → b.err.fatal = false →
    (∀ o, route c h.addr = .lts o → inPartition c b h.world o 64 = true → quarterOk c o = true → pdRuns b (quarterPd o) = true →
      ltsWiping b o 64 = false → b.sys.heldIn = [] → b.lts.flips = [] → b.sys.beats = [] → h.addr.toNat % 64 = 0 → h.be ≠ 0 →
      (∃ d : Piece, (∀ i, i < 64 → (lane 8 d i : Byte) = if bit h.be i then Sparse.get b.lts.bytes (o + i) else 0) ∧
        Gives s (.rdIn h) (reply (freed 1 0) 9 0 d 0)) ∧
      (∃ b2 : Blk, (b2 = { b with lts := b2.lts } ∧ b2.lts.flips = [] ∧ ∀ j : Nat, Sparse.get b2.lts.bytes j =
          if o ≤ j ∧ j < o + 64 ∧ bit h.be (j - o) = true then (lane 8 data (j - o) : Byte) else Sparse.get b.lts.bytes j) ∧
        Gives s (.wr h data) (reply { freed 2 0 with lts := b2.lts } 0x0A 0 0 0))) ∧
    (∀ o, let n := if bit h.be 4 then 4 else 8
      route c h.addr = .lts o → inPartition c b h.world o n = true → quarterOk c o = true → pdRuns b (quarterPd o) = true →
      ltsWiping b o 64 = false → b.sys.heldIn = [] → b.lts.flips = [] → b.sys.beats = [] → h.addr.toNat % n = 0 → bits h.be 3 0 ≤ 8 → o % n = 0 →
      let old := natOfLE (Sparse.range b.lts.bytes o n)
      ∃ b2, Written b b2 [(o, leOfNat n (atomicNew (bits h.be 3 0) (8 * n) old h.operand.toNat (data.toNat % 2 ^ 64)))] ∧
        Gives s (.atIn h data) (reply { freed 3 0 with lts := b2.lts } 0x0B 0 0 (BitVec.ofNat 64 old))) ∧
    (bits h.be 2 0 < 5 → bits h.addr 16 0 = c.node.toNat → bits h.addr 26 17 = c.block.toNat →
      Gives s (.syq h) { freed 0x11 2 with sync := { b.sync with queue := b.sync.queue ++
        [{ src := .farPort h.rtag, op := BitVec.ofNat 3 (bits h.be 2 0), obj := BitVec.ofNat 16 (bits h.addr 47 32)
           x := h.operand.truncate 32, world := h.world }] } }) ∧
    (h.addr.toNat % 64 = 0 → h.be ≠ 0 → (∀ o, route c h.addr = .lts o → inPartition c b h.world o 64 = false ∨ quarterOk c o = false) →
      Gives s (.rdIn h) (reply (refused (freed 1 0)) 9 1 0 0) ∧ Gives s (.wr h data) (reply (refused (freed 2 0)) 0x0A 1 0 0)) ∧
    (bits h.be 2 0 < 5 → (bits h.addr 16 0 ≠ c.node.toNat ∨ bits h.addr 26 17 ≠ c.block.toNat) →
      Gives s (.syq h) (reply (refused (freed 0x11 2)) 0x12 9 0 0))

/-- R207, R363–R365, R387, R388: a response frees its credits and its request: a read's data, an atomic's old value and a sync operation's result are
kept for the instruction that waits, a failed posted write is recorded; a response to no outstanding request, or to one whose timeout has passed,
is counted in LATE; a request that times out ends as a failure. A response of another STATUS is an error (log 48), and a timeout is reached at its
row (logs 4, 6). -/
def Obligations.PortResponses : Prop :=
  ∀ (s : State) (fp : Bool) (h : Hdr) (data : Piece) (o : Outst),
    let b := s.blk
    let p : BitVec 2 := if fp then 1 else 0
    let outs := if fp then b.ports.outFp else b.ports.outMp
    let hd (opc : BitVec 5) : Hdr := { h with opc := opc }
    let freed (opc : BitVec 5) (ch : Nat) := modLink b p fun l => l.free ch (1 + dataFlits (hd opc))
    let taken (b1 : Blk) : Blk := { b1 with ports :=
      if fp then { b1.ports with outFp := outs.filter fun x => x.rtag != o.rtag } else { b1.ports with outMp := outs.filter fun x => x.rtag != o.rtag } }
    let woken (k : Core) : Core := { k with blocked := if k.blocked = some .response then some .other else k.blocked }
    let kept (b1 : Blk) (r : CoreResp) : Blk := { b1 with core := woken { b.core with resp := b.core.resp ++ [r] } }
    let late (b1 : Blk) : Blk := { b1 with ports := { b1.ports with
      late := if b1.ports.late = 0xFFFF then b1.ports.late else b1.ports.late + 1 } }
    let first := !byWorld b.ports.werr o.world && !byWorld b.ports.wtmo o.world
    let failed (timeout : Bool) (b1 : Blk) : Blk := { b1 with
      ports := { b1.ports with
        werr := if timeout then b.ports.werr else setByWorld b.ports.werr o.world true
        wtmo := if timeout then setByWorld b.ports.wtmo o.world true else b.ports.wtmo
        wcount := setByWorld b.ports.wcount o.world
          (if byWorld b.ports.wcount o.world = 0xFFFF then 0xFFFF else byWorld b.ports.wcount o.world + 1)
        raddr := if first then setByWorld b.ports.raddr o.world o.addr else b.ports.raddr }
      core := woken b.core }
    (getLink b p).state = stUp → pdRuns b 18 = true → b.pwr.state = .run → b.mmu.older = none → b.sys.entry = none →
    (outs.find? (fun x => x.rtag == o.rtag) = some o → h.rtag = o.rtag →
      (o.inTime b.pwr.sclk = true →
        (o.op = .rd → o.purpose = .core → h.status = 0 → mergePiece data 0 o.be = 0 →
          Gives s (.rdr fp h data) (kept (taken (freed 9 1)) { op := .rd, addr := o.addr, be := o.be, status := 0, data := data, used := false })) ∧
        (o.op = .wr → o.purpose = .posted → h.status = 0 → Gives s (.wra fp h) { taken (freed 0x0A 1) with core := woken b.core }) ∧
        (o.op = .wr → o.purpose = .posted → h.status ≠ 0 → Gives s (.wra fp h) (failed false (taken (freed 0x0A 1)))) ∧
        (o.op = .at → o.purpose = .core → h.status = 0 →
          Gives s (.atr fp h) (kept (taken (freed 0x0B 1))
            { op := .at, addr := o.addr, be := o.be, status := 0, data := h.operand.zeroExtend 512, used := false })) ∧
        (fp = true → o.op = .sy → o.purpose = .syncCore →
          let st : BitVec 8 :=
            if h.status = 0 ∨ h.status = 3 ∨ h.status = 9 ∨ (h.status = 1 ∧ bits o.be 2 0 = 1) ∨ (h.status = 2 ∧ bits o.be 2 0 = 3) then h.status else 9
          Gives s (.syr h) (kept (taken (freed 0x12 2))
            { op := .sy, addr := o.addr, be := 1, status := st, data := h.operand.zeroExtend 512, used := false }))) ∧
      (∀ t, o.issued = some t →
        (o.op = .wr → o.purpose = .posted → Gives s (.requestTimeout fp o.rtag) (failed true (elapse (t + o.tmo.toNat) (taken b)))) ∧
        (o.op ≠ .sy → o.purpose = .core → Gives s (.requestTimeout fp o.rtag) (kept (elapse (t + o.tmo.toNat) (taken b))
          { op := o.op, addr := o.addr, be := o.be, status := 3, data := 0, used := false })))) ∧
    ((∀ x ∈ outs, x.rtag = h.rtag → x.inTime b.pwr.sclk = false) →
      Gives s (.rdr fp h data) (late (freed 9 1)) ∧ Gives s (.wra fp h) (late (freed 0x0A 1)) ∧ Gives s (.atr fp h) (late (freed 0x0B 1)) ∧
      (fp = true → Gives s (.syr h) (late (freed 0x12 2)))) ∧
    ((∀ x ∈ outs, x.rtag = h.rtag → x.issued = none) → exec (.requestTimeout fp h.rtag) s = .next s)

/-- R383, R384, R389–R393, R395: what a link in UP does with a received block: an in-order data block and an idle block act on their trailer, a
discarded block loses its CCNT, a block with a wrong CRC or ahead of its turn makes NAK owed, and PAUSE, RESUME and DOWN follow the far end. A
correct block ends the row of wrong ones, and one that is no TRAIN block the row of TRAIN blocks. The trailer of a duplicate is acted on (log 43),
and a received DOWN takes the link down (log 49). -/
def Obligations.LinkBlocks : Prop :=
  ∀ (s : State) (p : BitVec 2) (k : Block),
    let b := s.blk
    let l := getLink b p
    let a : BitVec 7 := BitVec.ofNat 7 (bits k.ctl 13 7)
    let seq : BitVec 7 := BitVec.ofNat 7 (bits k.ctl 6 0)
    let send (i : BitVec 2 → W32 → BitVec 1024 → BitVec 512 → W32 → Instr) := i p k.ctl k.data k.hdr k.crc
    let g : Link := { l with crcRow := 0, trainRow := if k.isTrain || l.trainRow == 64 then l.trainRow else 0 }
    let acked (l : Link) : Link := { l with
      retry := l.retry.filter fun x => !covered a x.seq
      replayRow := if (l.retry.filter fun x => !covered a x.seq).length < l.retry.length then 0 else l.replayRow }
    let trailed (l : Link) : Link := (acked l).credited (bits k.ctl 24 23) (BitVec.ofNat 7 (bits k.ctl 31 25))
    let then_ (l : Link) : Blk := stampSent (setLink b p l) (p == 1)
    let bad : Link := { l with
      crcErr := true, crcErrs := if l.crcErrs = 0xFFFF then l.crcErrs else l.crcErrs + 1, crcRow := l.crcRow + 1
      nak := true, nakOwed := !l.nak || l.nakOwed }
    l.state = stUp → portRuns b p = true →
    (k.good p = false → (l.crcRow + 1).toNat < 16 →
      ∀ i ∈ [send .dataBlock, send .idleBlock, send .train, send .advert, send .pause, send .resume, send .down],
        Gives s i (setLink b p bad)) ∧
    (k.good p = false → l.crcRow = 15 → Gives s (send .dataBlock) (emitLink (setLink b p bad.retrain) p stRetrain)) ∧
    (k.good p = true → p.toNat < 2 → l.sendQ = [] → (bit k.ctl 14 = true → (acked l).retry = []) →
      (k.btype = 0 → seq = l.eseq → bits k.ctl 22 17 = 0 → l.owed = [] →
        Gives s (send .dataBlock) (then_ (trailed { g with eseq := l.eseq + 1, nak := false }))) ∧
      (k.btype = 0 → seq ≠ l.eseq → 64 ≤ (seq - l.eseq).toNat → Gives s (send .dataBlock) (then_ (acked g))) ∧
      (k.btype = 0 → seq ≠ l.eseq → (seq - l.eseq).toNat < 64 →
        Gives s (send .dataBlock) (then_ (acked { g with nak := true, nakOwed := !l.nak || l.nakOwed }))) ∧
      (k.btype = 1 → Gives s (send .idleBlock) (then_ (trailed g)))) ∧
    (k.good p = true → k.btype = 2 →
      (k.sub = 4 → Gives s (send .pause) (setLink b p { g with farPaused := true })) ∧
      (k.sub = 5 → Gives s (send .resume) (setLink b p { g with farPaused := false, lreqO := false, lreqI := false })) ∧
      (k.sub = 6 → Gives s (send .down) (stampAll (emitLink (setLink b p (g.driveCtl p 6).down) p stDown) p)) ∧
      (k.sub = 1 → Gives s (send .train) (emitLink (setLink b p g.retrain) p stRetrain)))

/-- R382, R392, R393, R395, R397, R399, R316, R317, R429: bring-up of a link, its timers, lane margins, LREQ_I and DESKEW blocks. The four ADVERT
blocks and the control blocks of a Chain Port are log 27's, the replay of a RETRAIN and LREQ log 49's, the lanes' delays and numbers logs 81 and
85's, a DESKEW block's place log 79's, a DESKEW received log 47's; a row that is not due changes nothing (log 4). -/
def Obligations.LinkBringUp : Prop :=
  ∀ (s : State) (p : BitVec 2) (k : Block),
    let c := s.cfg
    let b := s.blk
    let l := getLink b p
    let now (l' : Link) := emitLink (setLink b p l') p l'.state
    (portRuns b p = true →
      (l.state = stDown → portEnabled c p = true → linkNeeded b p = true →
        let r := { l with state := stReq, lreqO := true }.driveTrain p
        Gives s (.linkRequest p) (if l.lreqI then emitLink (setLink (now r) p { r with state := stTrain }) p stTrain else now r)) ∧
      ((l.state ≠ stDown ∨ portEnabled c p = false ∨ linkNeeded b p = false) → exec (.linkRequest p) s = .next s) ∧
      (l.state = stTrain → k.good p = true → k.btype = 2 → k.sub = 1 → l.trainRow.toNat < 63 → trainPattern p k = true →
        Gives s (.train p k.ctl k.data k.hdr k.crc)
          (setLink b p { l with crcRow := 0, trainRow := l.trainRow + 1, sawLock := l.sawLock || bit k.ctl 7 })) ∧
      (l.state = stTrain → k.good p = true → k.btype = 2 → k.sub ≠ 1 → l.trainRow ≠ 64 →
        Gives s (.pause p k.ctl k.data k.hdr k.crc) (setLink b p { l with crcRow := 0, trainRow := 0 })) ∧
      (l.state = stTrain → k.good p = true → k.btype = 2 → k.sub = 1 → l.trainRow = 63 → trainPattern p k = true → bit k.ctl 7 = true →
        l.lreqI = true → l.advSent = 0 →
        Gives s (.train p k.ctl k.data k.hdr k.crc)
          (now ({ l with crcRow := 0, trainRow := 64, sawLock := true, advSent := 4, state := stAdvert }.driveAdvert p))) ∧
      (l.state = stAdvert → l.advSent = 4 → l.retraining = false → k.good p = true → k.btype = 2 → k.sub = 2 → advertOk p k = true →
        p.toNat < 2 → l.sendQ = [] →
        Gives s (.advert p k.ctl k.data k.hdr k.crc) (stampSent (now { l with
          state := stUp, trainRow := 0, sawLock := false, advSent := 0, advGot := true, attempts := 0, lreqO := false, lreqI := false
          crcRow := 0, nak := false, nakOwed := false, txSeq := 0, retry := [], replayRow := 0, credit0 := bits k.data 47 32
          credit1 := bits k.data 63 48, credit2 := bits k.data 79 64, ccnt0 := 0, ccnt1 := 0, ccnt2 := 0, eseq := 0, freed0 := 0
          freed1 := 0, freed2 := 0, rep0 := 0, rep1 := 0, rep2 := 0, turn := 0, owed := [], half := none, chainHdr := none, chainRows := []
          farPaused := false }) (p == 1))) ∧
      (l.state = stTrain → l.attempts.toNat < 3 → l.lreqI = false → l.retraining = false →
        Gives s (.bringupAttemptExpiry p) (now { l with
          state := stReq, attempts := l.attempts + 1, retrains := if l.retrains = 0xFF then 0xFF else l.retrains + 1, trainRow := 0
          sawLock := false, advSent := 0, advGot := false, lreqO := true })) ∧
      (l.state = stTrain → l.attempts = 3 →
        Gives s (.bringupAttemptExpiry p) (stampAll (now { l with
          state := stFailed, attempts := 0, retrains := if l.retrains = 0xFF then 0xFF else l.retrains + 1, trainRow := 0, sawLock := false
          advSent := 0, advGot := false, lreqO := false }) p)) ∧
      (l.state = stUp → l.retry ≠ [] → (l.replayRow + 1).toNat < 16 →
        let l' : Link := { l with replayRow := l.replayRow + 1, replays := if l.replays = 0xFFFF then 0xFFFF else l.replays + 1 }
        Gives s (.replayTimerExpiry p) (setLink (countEvents b 0x0C 0 false 1) p (l'.sendBlocks p l.retry))) ∧
      (l.retry = [] → exec (.replayTimerExpiry p) s = .next s) ∧
      (l.state ≠ stDown → l.state ≠ stFailed → l.state ≠ stPaused →
        Gives s (.deskew p) (setLink b p { l with crcRow := 0, trainRow := if l.trainRow = 64 then 64 else 0 })) ∧
      (l.state = stUp → ∀ x rest, l.tx = x :: rest →
        (p = 0 → Gives s (.deskewInsert p) (setLink b p { l with tx := [{ ctl := ~~~x.ctl, data := ~~~x.data, hdr := ~~~x.hdr, crc := ~~~x.crc }] })) ∧
        (p = 1 → ∃ y : Block, Gives s (.deskewInsert p) (setLink b p { l with tx := [y] }) ∧ y.ctl = ~~~x.crc ∧ y.crc = x.crc ∧
          lane 512 y.data 0 = ~~~(lane 512 x.data 1) ∧ lane 512 y.data 1 = ~~~(lane 512 y.data 0 : BitVec 512) ∧
          lane 256 y.hdr 0 = ~~~(lane 256 x.hdr 1) ∧ lane 256 y.hdr 1 = ~~~(lane 256 y.hdr 0 : BitVec 256)))) ∧
    (l.state ≠ stUp → exec (.deskewInsert p) s = .next s) ∧
    (∀ (lane : Nat) (move : Option Bool) (m : Byte), pdOn b (portPd p) = true →
      Gives s (.linkLaneTrim p lane move m) (setLink b p { l with
        trims := l.trims.set lane (trimMove (l.trims.get lane) move)
        margin := if l.marginSeen && decide (l.margin.toNat ≤ m.toNat) then l.margin else m, marginSeen := true })) ∧
    (∀ (lane : Nat) (move : Option Bool) (m : Byte), pdOn b 31 = true →
      Gives s (.bondLaneTrim lane move m) { b with sys := { b.sys with
        bondTrims := b.sys.bondTrims.set lane (trimMove (b.sys.bondTrims.get lane) move)
        bondMargin := if b.sys.bondSeen && decide (b.sys.bondMargin.toNat ≤ m.toNat) then b.sys.bondMargin else m, bondSeen := true } }) ∧
    (hostAnswers b →
      let b1 := maltSource (setLink b p { l with lreqI := true }) 2
      (l.state = stDown ∨ l.state = stPaused →
        Gives s (.lreqInRise p) { b1 with pwr := { b1.pwr with wakeHeld := b1.pwr.wakeHeld || decide (b1.pwr.state ≠ .run) } }) ∧
      (l.state = stUp ∨ l.state = stFailed → Gives s (.lreqInRise p) b1) ∧
      (l.state = stReq → l.trainRow ≠ 64 → portRuns b p = true →
        Gives s (.lreqInRise p) (emitLink (setLink b1 p { l with lreqI := true, state := stTrain }) p stTrain))) ∧
    exec .bondTrainingBeat s = .next s

/-- R189, R193, R194, R389, R390, R394: CHAIN_TRANSFER_SEND numbers the blocks of the oldest waiting transfer on an UP link that holds its credits;
CHH delivers a transfer to the receive buffer of its side, or discards it where no entry takes it. The blocks of a transfer and the row CHH are
log 46's; a send that is not due changes nothing (log 4). -/
def Obligations.ChainTransfers : Prop :=
  ∀ (s : State) (east : Bool),
    let b := s.blk
    let side : BitVec 2 := if east then 2 else 1
    let p : BitVec 2 := if east then 2 else 3
    let l := getLink b p
    l.state = stUp → portEnabled s.cfg p = true → pdRuns b 19 = true → b.err.fatal = false →
    (∀ (t : Transfer) (rest : List Transfer), txBuf b side = t :: rest → b.chain.rxW = [] → b.chain.rxE = [] → l.toSend = 0 → l.credit0 ≠ 0 →
      t.size ≤ l.credit1 → l.retry.length + (1 + 2 * t.size) ≤ 64 →
      ∃ l2 : Link, Gives s (.chainTransferSend east) (setTx (setLink b p l2) side rest) ∧
        l2 = { l with
          credit0 := l.credit0 - 1, credit1 := l.credit1 - t.size, toSend := 0, txSeq := l.txSeq + BitVec.ofNat 7 (1 + 2 * t.size)
          retry := l.retry ++ (List.range (1 + 2 * t.size)).map fun i =>
            { seq := l.txSeq + BitVec.ofNat 7 i, packets := [], transfers := [t], part := i }
          nakOwed := false, tx := l2.tx, freed0 := l2.freed0, freed1 := l2.freed1, freed2 := l2.freed2, rep0 := l2.rep0, rep1 := l2.rep1
          rep2 := l2.rep2, turn := l2.turn } ∧
        l2.tx.length = 2 ∧ ∀ k ∈ l2.tx, k.good p = true ∧ k.btype ≤ 1) ∧
    ((txBuf b side = [] ∨ l.toSend ≠ 0 ∨ l.credit0 = 0) → exec (.chainTransferSend east) s = .next s) ∧
    (∀ (world : Bool) (cls : BitVec 2) (tag : BitVec 16) (rows : List TunRow),
      let t : Transfer := { world := world, cls := cls, tag := tag, rows := rows }
      t.legal = true → rxRows b side + rows.length ≤ 64 → (rxBuf b side).length < 16 →
      (matchEntry b side t = none →
        Gives s (.chh east world cls tag rows) { setLink b p ((l.free 0 1).free 1 rows.length) with
          chain := if east then { b.chain with dropE := true } else { b.chain with dropW := true } }) ∧
      (∀ e, matchEntry b side t = some e → (∀ u ∈ rxBuf b side ++ [t], ∀ f, matchEntry b side u = some f → f.fwd = false) →
        Gives s (.chh east world cls tag rows) (setRx b side (rxBuf b side ++ [t]))))

/-- R249–R253, R256, R257: INTERRUPT_ENTRY enters the handler of the takeable interrupt of the highest level, with the cause 0x30 + its source and the
mask raised to its level; with none takeable nothing happens. A source that is pending and enabled is taken by its route, its level and the
running context; one of level 0 never at the level it is routed to. CR_IPEND holds the sources, an offer (R340) as source 0 or, while a job runs,
1. The entry is an event of its own, which changes nothing where none is due (log 4); its DETAIL is 0 but for source 2 (log 19), and it waits for
a notification that is due (log 42). R222, R223: WINDOW_SPILL writes the oldest resident window below its level's spill address and WINDOW_FILL
reads the newest spilled one back, while the engine runs; where neither is due nothing happens (log 4). Both work in the world of the window's
context (log 18). -/
def Obligations.InterruptsAndWindows : Prop :=
  (∀ (s : State) (b2 : Blk) (i : Nat) (t : BitVec 2) (d : Piece),
     let b := s.blk
     let k : Core := { b.core with resp := [] }
     let w := t == 2 || k.ps.world
     let n := bits k.ilevel (4 * i + 3) (4 * i)
     k.run = .running → k.replay = false → k.program = [] →
     (bestInterrupt b = some (i, t) → i ≠ 2 → streamRuns b = true → abandonable b = true → EntryFree k t →
       readTable s.cfg ((bankOf k t w).vbase + 8 * BitVec.ofNat 64 (0x30 + i)) 8 w (t == 2) (dropResp b) = .ok (.ok d) b2 → d.toNat % 4 = 0 →
       ∃ b3, exec .interruptEntry s = .next { s with blk := entered (abandon b3) } ∧
         Entered k b2 b3 { cause := BitVec.ofNat 6 (0x30 + i), detail := 0, faddr := 0, target := t, pc := k.pc
                           mask := some (BitVec.ofNat 4 n), handler := none, frozen := false }
           (BitVec.ofNat 64 d.toNat)) ∧
     ((∀ j, j < 7 → takeable b j = none) → exec .interruptEntry s = .next s) ∧
     (bit (ipend b) i = false ∨ bit k.ienable i = false ∨ k.frozen = true → i < 7 → takeable b i = none) ∧
     (bit (ipend b) i = true → bit k.ienable i = true → k.frozen = false →
       (bits k.iroute (2 * i + 1) (2 * i) = 2 →
         takeable b i = if (k.ps.level = 2 ∧ k.ps.mask.toNat < n) ∨ (k.ps.level ≠ 2 ∧ n ≠ 0) then some 2 else none) ∧
       (bits k.iroute (2 * i + 1) (2 * i) = k.ps.world.toNat → k.ps.level ≠ 2 →
         takeable b i = if (k.ps.level = 0 ∧ n ≠ 0) ∨ (k.ps.level ≠ 0 ∧ k.ps.mask.toNat < n) then some 1 else none) ∧
       (bits k.iroute (2 * i + 1) (2 * i) = (!k.ps.world).toNat → k.ps.level ≠ 2 → takeable b i = some 2) ∧
       (bits k.iroute (2 * i + 1) (2 * i) < 2 → k.ps.level = 2 → takeable b i = none)) ∧
     ((bit (ipend b) 0 = true ↔ b.rings.offer ≠ none ∧ b.rings.running = none) ∧ (bit (ipend b) 1 = true ↔ b.rings.offer ≠ none ∧ b.rings.running ≠ none) ∧
       (bit (ipend b) 3 = true ↔ bit b.pwr.tcmp 63 = true ∧ bits b.pwr.tcmp 62 0 ≤ b.pwr.sclk) ∧ (bit (ipend b) 4 = true ↔ b.pwr.mnotice ≠ 0) ∧
       (bit (ipend b) 5 = true ↔ b.err.pend = true) ∧ (bit (ipend b) 6 = true ↔ b.chain.dropW = true ∨ b.chain.dropE = true) ∧
       ∀ j, 7 ≤ j → bit (ipend b) j = false)) ∧
  (∀ (s : State) (b2 : Blk),
     let b := s.blk
     let k := b.core
     k.replay = false → k.program = [] → engineRuns b = true →
     (windowDue k = true →
       let slot := slotBelow k k.res.toNat
       let l := k.wlevel.get slot
       let a := byLevel k.wspill l - 128
       storeBytes s.cfg l (windowWorld k l) false 3 a (windowImage k slot) b = .ok () b2 → b2.core = k →
       Gives s .windowSpill (countEvents { b2 with core := { k with
         wspill := setByLevel k.wspill l a, wcnt := setByLevel k.wcnt l (byLevel k.wcnt l + 1), res := k.res - 1, resp := [] } }
         0x0F l (windowWorld k l) 1)) ∧
     (windowDue k = false → exec .windowSpill s = .next s) ∧
     (∀ l bs, fillLevel k = some l → k.res.toNat < 2 → k.flfault = false →
       let slot := slotBelow k (k.res.toNat + 1)
       let a := byLevel k.wspill l
       loadBytes s.cfg l (windowWorld k l) false 3 a 128 b = .ok bs b2 → b2.core = k →
       Gives s .windowFill (countEvents { b2 with core := { k with
         regs := Sparse.setAll k.regs (16 + 16 * slot) (wordsOf 16 bs), wspill := setByLevel k.wspill l (a + 128)
         wcnt := setByLevel k.wcnt l (byLevel k.wcnt l - 1), res := k.res + 1, wlevel := k.wlevel.set slot l, resp := [] } }
         0x10 l (windowWorld k l) 1)) ∧
     (k.wcnt = ⟨0, 0, 0⟩ → exec .windowFill s = .next s))

/-- R201, R205, R207, R208, R211, R212: SYNC_OP_APPLY applies one queued operation of the main core and returns its status and the old value; an ARMED
wait expires; the notification of a wait that fired or expired is delivered and its entry freed, or outside Run wakes the block with Maltster
source 14 (R429); a held CHRECV times out. The engine, the timers and the notifications are events, which change nothing where none is due (log
4); a timer's event brings the count to its time (log 6). -/
def Obligations.SyncEngine : Prop :=
  ∀ (s : State) (num : BitVec 8) (w : WaitEntry),
    let c := s.cfg
    let b := s.blk
    (∀ q : SyncOp, b.sync.queue = [q] → q.src = .core →
      (objWorld c b q.obj = q.world → armedOn b q.obj = [] → b.sys.beats = [] →
        let v := b.sync.objs.get q.obj.toNat
        let r := syncNew q.op.toNat v q.x
        Gives s .syncOpApply { b with sync := { b.sync with
          queue := [], rr := 2, objs := b.sync.objs.set q.obj.toNat r.1, coreDone := some (r.2, v, 0) } }) ∧
      (objWorld c b q.obj ≠ q.world →
        Gives s .syncOpApply { b with sync := { b.sync with queue := [], rr := 2, coreDone := some (3, 0, 0) } })) ∧
    (b.sync.queue = [] → exec .syncOpApply s = .next s) ∧
    (waitAt b num = none → exec (.swaitTimeout num) s = .next s ∧ exec (.waitNotify num) s = .next s) ∧
    (waitAt b num = some w →
      (w.state = .armed → exec (.waitNotify num) s = .next s) ∧
      (w.state = .armed → w.tmo ≠ 0xFFFFFFFF →
        Gives s (.swaitTimeout num) { elapse (w.armedAt + w.tmo.toNat) b with
          sync := { b.sync with waits := b.sync.waits.map fun x =>
            if x.num = num then { x with state := .expired, value := b.sync.objs.get w.obj.toNat } else x } }) ∧
      (w.state ≠ .armed → b.pwr.state ≠ .run →
        let b1 := maltSource b 14
        Gives s (.waitNotify num) { b1 with pwr := { b1.pwr with wakeHeld := true } }) ∧
      (w.state ≠ .armed → b.pwr.state = .run →
        let freed : Blk := { b with sync := { b.sync with waits := b.sync.waits.filter fun x => x.num != num } }
        (∀ task rd, w.kind = .coreWait task rd → b.core.run = .running → b.core.svcBanks = 0 →
          let k := b.core.setReg rd (syncRd w.value (if w.state = .fired then 0 else 4) w.handle)
          Gives s (.waitNotify num) (retire k.ps { freed with core := { k with pc := k.pc + 4, program := k.program.drop 1 } })) ∧
        (∀ e, w.kind = .eventWait e → eventSlot b e.toNat = false → exec (.waitNotify num) s = .next s) ∧
        (∀ e, w.kind = .eventWait e → frontRuns b = true → eventSlot b e.toNat = true →
          Gives s (.waitNotify num) (writeEvent c freed e.toNat { ty := 2, src := 0xFE, status := if w.state = .fired then 0 else 4, index := 0
                                                                  a := BitVec.ofNat 32 (w.obj.toNat + 65536 * w.handle.toNat), b := w.value })) ∧
        (∀ r, w.kind = .jobWait r → frontRuns b = true →
          Gives s (.waitNotify num) (setRing freed r.toNat
            (if w.state = .fired then { getRing b r.toNat with st := .ready }
             else { getRing b r.toNat with st := .done, status := 6, result := 0, detail := 4, epoch := b.rings.epCore }))))) ∧
    (∀ (rs1 : BitVec 5) (mbz : BitVec 13) (rest : List Instr) (t : Nat),
      let n := bits (b.core.reg rs1) 5 0
      let e := cge b n
      b.core.program = .chrecv rs1 mbz :: rest → b.chain.recvSince = some t → b.core.blocked.isSome = true → e.chtmo ≠ 0 → heldFor b e = none →
      coreReady b = true →
      let b1 : Blk := { elapse (t + e.chtmo.toNat) b with
        core := { b.core with program := rest, blocked := none }, chain := { b.chain with recvSince := none } }
      Gives s .chrecvTimeout (takeTrap c (.chrecv rs1 mbz)
        { cause := 0x12, detail := 8, faddr := 0, fault := .chain 8 (BitVec.ofNat 6 n), wlevel := none, ipa := none, keep := false } b1 b1))

/-- R395, R411, R413–R417: an idle block enters Couch, pausing its links; it wakes from there for a cause that is held, resuming them; from Couch it
goes down to Steep unless a condition of R414 holds it, the links going DOWN but for one that FAILED (R393), and a wake from Steep with both PLLs
stable starts the main core at CR_WAKEPC with the LTS, the L2 and its buffers and the Tun rows kept. The events change nothing where none is due
(log 4); a descent is the timer's expiry (log 6); what keeps a block from being idle is log 55's, which clocks run log 73's. -/
def Obligations.PowerStates : Prop :=
  ∀ (s : State) (cf cl : BitVec 16),
    let c := s.cfg
    let b := s.blk
    blockOn b = true →
    (b.pwr.state = .run → b.sys.phase = 9 → blockIdle b = true → (∀ p, (getLink b p).state = stUp → (getLink b p).nak = false) →
      ∃ b1 : Blk, Gives s .enterCouch b1 ∧ b1 = { b with pwr := b1.pwr, ports := b1.ports, obs := b1.obs, malt := b1.malt } ∧
        b1.pwr.state = .couch ∧ b1.pwr.idleSince = b.pwr.sclk ∧ b1.pwr.pd = b.pwr.pd ||| 3 ∧ b1.pwr.cd = 7 ||| cd39 b ∧
        ∀ p, getLink b1 p = if (getLink b p).state = stUp then ({ getLink b p with state := stPaused } : Link).driveCtl p 4 else getLink b p) ∧
    (b.pwr.state = .run → (∃ p, (getLink b p).state = stUp ∧ (getLink b p).nak = true) → exec .enterCouch s = .next s) ∧
    (blockIdle b = false → exec .enterCouch s = .next s ∧ exec .steepDescent s = .next s) ∧
    (b.pwr.state = .couch → (b.pwr.wakeHeld = true ∨ blockIdle b = false) →
      ∃ b1 : Blk, Gives s .wakeFromCouch b1 ∧ b1 = { b with pwr := b1.pwr, ports := b1.ports, obs := b1.obs, malt := b1.malt } ∧
        b1.pwr.state = .run ∧ b1.pwr.wakeHeld = false ∧ b1.pwr.cd = (cdMask (b.pwr.pd ||| 3) &&& ~~~b.malt.cdOff) ||| 7 ||| cd39 b ∧
        ∀ p, (getLink b1 p).state = (if (getLink b p).state = stPaused then stUp else (getLink b p).state) ∧
          ((getLink b p).state = stPaused → (getLink b p).sendQ = [] →
            getLink b1 p = ({ getLink b p with state := stUp } : Link).driveCtl p 5)) ∧
    (b.pwr.state = .couch → c.idle ≠ 0xFFFFFFFF → b.pwr.wakeHeld = false → blockIdle b = true →
      let sclk := Nat.max b.pwr.sclk (b.pwr.idleSince + c.idle.toNat)
      let b0 := maltSource (elapse (b.pwr.idleSince + c.idle.toNat) b) 5
      (holdBits b ≠ 0 → Gives s .steepDescent { b0 with pwr := { b0.pwr with hold := holdBits b } }) ∧
      (holdBits b = 0 → b.caches.l1d = [] →
        ∃ b1 : Blk, Gives s .steepDescent b1 ∧ b1.pwr.state = .steep ∧ b1.pwr.sclk = sclk ∧ b1.pwr.pd = 3 ∧ b1.pwr.pllF.on = false ∧
          b1.pwr.pllL.on = false ∧ b1.core = { b.core with run := .steep } ∧ b1.lts = b.lts ∧ b1.tun = b.tun ∧ b1.caches = b.caches ∧
          b1.sync = b.sync ∧
          ∀ p, if (getLink b p).state = stFailed then getLink b1 p = getLink b p else (getLink b1 p).state = stDown)) ∧
    (b.pwr.state = .steep → b.pwr.wakeHeld = true → b.pwr.pgL = false →
      ∃ b1 : Blk, Gives s (.wakeFromSteep cf cl) b1 ∧ b1 = { b with pwr := { b.pwr with state := .waking }, obs := b1.obs }) ∧
    (b.pwr.state = .steep → b.pwr.wakeHeld = true → b.pwr.pgL = true → b.pwr.pllF.fail = false → b.pwr.pllL.fail = false →
      pllStable b.pwr.k.toNat cf.toNat = true → pllStable 64 cl.toNat = true →
      ∃ b1 : Blk, Gives s (.wakeFromSteep cf cl) b1 ∧ b1.pwr.state = .run ∧ b1.pwr.wakeHeld = false ∧
        b1.core = { Core.reset with run := .running, pc := b.pwr.wakepc } ∧ b1.pwr.pllF.lock = true ∧ b1.pwr.pllL.lock = true ∧
        b1.pwr.pd = wakePds c ||| 3 ∧ b1.lts = b.lts ∧ b1.caches.l2 = b.caches.l2 ∧
        b1.caches.side = b.caches.side ∧ b1.caches.evict = b.caches.evict ∧ b1.caches.l1i = [] ∧ b1.caches.l1d = [] ∧
        b1.dma.lastServed = Dma.reset.lastServed ∧ b1.sparge.last = Sparge.reset.last ∧ b1.tun.rows = b.tun.rows ∧ b1.sync.objs = b.sync.objs ∧
        b1.tile = TileFile.reset ∧ b1.vec = Vec.reset)

/-- R402–R405, R417, R419–R426: the governor's period while the Maltster runs, oscillator trim with the search after a lost REFCLK, PLL retry, droop
and timer-compare events, and the rise of AON_WAKE_IN. A window's limits are log 28's, the notice bits of a negative step log 29's, a trim's
comparison log 30's, the checks of a PLL that failed log 50's; the timer's event brings the count to its time (log 6); what is not due changes
nothing (log 4). -/
def Obligations.GovernorAndClocks : Prop :=
  ∀ (s : State) (mw vsup : BitVec 12) (temp slack : Byte) (cf cl count : BitVec 16) (w : BitVec 128),
    let c := s.cfg
    let b := s.blk
    let k := b.pwr.k.toNat
    let t := b.pwr.t.toNat
    hostAnswers b →
    (b.malt.started = false →
      Gives s (.governorPeriod mw temp vsup slack cf cl) (maltSource { b with pwr := { b.pwr with
        mw := mw, temp := temp, vsup := vsup, energy := b.pwr.energy + BitVec.ofNat 64 (10 * mw.toNat) } } 6)) ∧
    (b.pwr.state = .run → b.malt.started = true → b.pwr.pllF = { b.pwr.pllF with on := true, lock := true, fail := false } →
      b.pwr.pllL = { b.pwr.pllL with on := true, lock := true, fail := false } → pllStable k cf.toNat = true → pllStable 64 cl.toNat = true →
      ∃ b1 : Blk, Gives s (.governorPeriod mw temp vsup slack cf cl) b1 ∧ b1 = { b with pwr := b1.pwr, malt := b1.malt, obs := b1.obs } ∧
        b1.pwr.mw = mw ∧ b1.pwr.temp = temp ∧ b1.pwr.vsup = vsup ∧ b1.pwr.margin = slack ∧
        b1.pwr.energy = b.pwr.energy + BitVec.ofNat 64 (10 * mw.toNat) ∧
        b1.pwr.minEver = (if slack.toNat < b.pwr.minEver.toNat then slack else b.pwr.minEver) ∧ b1.malt.mv = b1.pwr.mv ∧
        (11 * c.cap.toNat < 10 * mw.toNat → c.kmin.toNat + 4 ≤ k → k ≤ c.kmax.toNat + 4 →
          b1.pwr.k = b.pwr.k - 4 ∧ b1.pwr.t = b.pwr.t ∧ b1.pwr.low = 0 ∧ b1.pwr.mnotice = b.pwr.mnotice ||| 1) ∧
        (c.cap.toNat < mw.toNat → 10 * mw.toNat ≤ 11 * c.cap.toNat → k = c.kmin.toNat → k ≤ c.kmax.toNat →
          b1.pwr.k = b.pwr.k ∧ b1.pwr.t = (if b.pwr.t = 7 then 7 else b.pwr.t + 1) ∧ b1.pwr.low = 0) ∧
        (mw.toNat ≤ c.cap.toNat → temp.toInt ≤ c.tlim.toNat → (vbase k : Int) + 5 * b.pwr.moff.toInt ≤ vsup.toNat → k ≤ c.kmax.toNat →
          (19 * c.cap.toNat ≤ 20 * mw.toNat → b1.pwr.k = b.pwr.k ∧ b1.pwr.t = b.pwr.t ∧ b1.pwr.low = 0) ∧
          (20 * mw.toNat < 19 * c.cap.toNat → b.pwr.low.toNat < 7 →
            b1.pwr.k = b.pwr.k ∧ b1.pwr.t = b.pwr.t ∧ b1.pwr.low = b.pwr.low + 1) ∧
          (20 * mw.toNat < 19 * c.cap.toNat → b.pwr.low = 7 → t = 0 → k < c.kmax.toNat →
            b1.pwr.k = b.pwr.k + 1 ∧ b1.pwr.t = 0 ∧ b1.pwr.low = 0))) ∧
    (3 ≤ b.sys.phase.toNat →
      let b1 := maltSource b 7
      let e := c.refMhz.toNat * 16384
      let n := count.toNat * 48
      let trimmed (x : Byte) := Gives s (.oscillatorTrim count w) { b1 with pwr := { b1.pwr with trim := x } }
      (count = 0 → Gives s (.oscillatorTrim count w) { b1 with pwr := { b1.pwr with reflost := true } }) ∧
      (count ≠ 0 → b.pwr.reflost = true →
        ((∃ i, i < 8 ∧ bits w (16 * i + 15) (16 * i) = 0) → Gives s (.oscillatorTrim count w) b1) ∧
        ((∀ i, i < 8 → bits w (16 * i + 15) (16 * i) ≠ 0) →
          ∃ x : Byte, Gives s (.oscillatorTrim count w) { b1 with pwr := { b1.pwr with trim := x, reflost := false } } ∧
            ∀ i, i < 8 → bit x (7 - i) = decide (c.refMhz.toNat * 1024 ≤ bits w (16 * i + 15) (16 * i) * 48))) ∧
      (count ≠ 0 → b.pwr.reflost = false →
        (e < n → trimmed (if b.pwr.trim = 0xFF then 0xFF else b.pwr.trim + 1)) ∧
        (n < e → trimmed (if b.pwr.trim = 0 then 0 else b.pwr.trim - 1)) ∧ (n = e → trimmed b.pwr.trim))) ∧
    (b.pwr.reflost = false → b.pwr.state = .run → b.pwr.pllF.on = true → b.pwr.pllF.fail = true → b.pwr.pllL.fail = false →
      pllStable k cf.toNat = true →
      let b1 : Blk := { b with pwr := { b.pwr with
        pllF := { on := true, lock := true, fail := false, misses := 0, tries := 0 }, mnotice := setBit b.pwr.mnotice 3 true } }
      Gives s (.pllRetry cf cl) (maltSource b1 8)) ∧
    (b.pwr.pllF.fail = false → b.pwr.pllL.fail = false → exec (.pllRetry cf cl) s = .next s) ∧
    (b.pwr.state = .run →
      Gives s .droop { b with pwr := { b.pwr with droops := if b.pwr.droops = 0xFFF then 0xFFF else b.pwr.droops + 1 } }) ∧
    (bit b.pwr.tcmp 63 = false → exec .timerCompare s = .next s) ∧
    (bit b.pwr.tcmp 63 = true → b.pwr.state = .run → Gives s .timerCompare (elapse (b.pwr.tcmp.toNat % 2 ^ 63) b)) ∧
    (bit b.pwr.tcmp 63 = true → b.pwr.state ≠ .run →
      let b1 := maltSource (elapse (b.pwr.tcmp.toNat % 2 ^ 63) b) 14
      Gives s .timerCompare { b1 with pwr := { b1.pwr with wakeHeld := true } }) ∧
    (elapse count.toNat b = { b with pwr := { b.pwr with sclk := Nat.max b.pwr.sclk count.toNat }, obs := (elapse count.toNat b).obs }) ∧
    (b.pwr.state ≠ .run → let b1 := maltSource b 1; Gives s .wakeInRise { b1 with pwr := { b1.pwr with wakeHeld := true } }) ∧
    (b.pwr.state = .run → Gives s .wakeInRise (maltSource b 1))

/-- R407, R410, R428–R431: DOMAIN_POWER_UP powers a domain that is due, with all its clocks, and raises source 3; MPDREQ_WRITE switches off the
domains whose bit is 0 and that hold no work, a core's L1 caches with PD4; a source makes the Maltster's waiting task READY or is latched; a
Maltster instruction writes its register, and one that R428 does not define halts its task and records the fault. The Maltster's registers for a
domain that another command powers are log 31's, the tasks of instructions that R235 would fail log 35's, the domains that the sequencer powered
log 68's; what is not due changes nothing (log 4). -/
def Obligations.MaltsterAndDomains : Prop :=
  ∀ (s : State) (d : BitVec 5) (v : W32) (i : BitVec 4),
    let c := s.cfg
    let b := s.blk
    blockOn b = true →
    (b.pwr.state = .run → b.sys.phase = 9 → pdRuns b d.toNat = false → pdAllowed c d.toNat = true →
      (pdAsked b d.toNat = true ∨ bit b.malt.pdreq d.toNat = true ∨ pdRule c b d.toNat = true) →
      ∃ b1 : Blk, Gives s (.domainPowerUp d) b1 ∧ b1 = { b with pwr := b1.pwr, malt := b1.malt } ∧ pdRuns b1 d.toNat = true ∧
        (∀ e, e < 32 → e ≠ d.toNat → pdOn b1 e = pdOn b e) ∧ bit b1.malt.pdreq d.toNat = true ∧
        (if taskOf b.malt 3 = 3 then taskOf b1.malt 3 = 1 else bit b1.malt.msrc 3 = true)) ∧
    (pdRuns b d.toNat = true → exec (.domainPowerUp d) s = .next s) ∧
    (b.malt.started = true → (∀ l ∈ b.caches.l1d, (l.valid && l.dirty) = false) →
      ∃ b1 : Blk, Gives s (.mpdreqWrite v) b1 ∧ b1.malt = { b.malt with pdreq := v ||| 3 } ∧ b1.core = b.core ∧ b1.lts = b.lts ∧
        b1.caches = (if pdOn b 4 && !bit v 4 && !pdBusy c b 4 then { b.caches with l1i := [], l1d := [] } else b.caches) ∧
        ∀ e, e < 32 → pdOn b1 e = (pdOn b e && (bit (v ||| 3) e || pdBusy c b e))) ∧
    (taskOf b.malt i.toNat = 3 →
      ∃ m, Gives s (.maltsterSource i) { b with malt := m } ∧ m = { b.malt with stat := m.stat } ∧
        ∀ j, j < 16 → taskOf m j = if j = i.toNat then 1 else taskOf b.malt j) ∧
    (taskOf b.malt i.toNat ≠ 3 →
      ∃ m, Gives s (.maltsterSource i) { b with malt := m } ∧ m = { b.malt with msrc := m.msrc } ∧
        ∀ j, j < 16 → bit m.msrc j = (bit b.malt.msrc j || decide (j = i.toNat))) ∧
    (b.malt.started = true → maltPick b.malt = none → exec .maltsterInstruction s = .next s) ∧
    (∀ n, b.malt.started = true → b.sys.beats = [] → maltPick b.malt = some n →
      let pc := b.malt.pcs.get n
      let word : W32 := BitVec.ofNat 32 (natOfLE (b.malt.ram.range pc.toNat 4))
      let imm : BitVec 16 := word.truncate 16
      let m := maltRun b.malt n
      let stops (cause : BitVec 3) := Gives s .maltsterInstruction { b with
        malt := (let m := setTask m n 0
          if m.fault then m else { m with fault := true, ftask := BitVec.ofNat 4 n, fcause := cause, fpc := pc.truncate 16 })
        pwr := { b.pwr with mnotice := setBit b.pwr.mnotice 5 true } }
      (pc.toNat % 4 = 0 → pc.toNat < 0x10000 →
        (bits word 31 26 = 4 → Gives s .maltsterInstruction { b with malt := { m with
          regs := m.regs.set (32 * n + bits word 25 21) (m.regs.get (32 * n + bits word 20 16) + imm.signExtend 64)
          pcs := m.pcs.set n (pc + 4) } }) ∧
        (bits word 31 26 = 0x26 →
          Gives s .maltsterInstruction { b with malt := { m with pcs := m.pcs.set n (pc + (word.truncate 26 : BitVec 26).signExtend 64 * 4) } }) ∧
        (bits word 31 26 = 0x3F → stops 1)) ∧
      (pc.toNat % 4 ≠ 0 → stops 2) ∧
      (pc.toNat % 4 = 0 → 0x10000 ≤ pc.toNat → stops 3))

/-- R418, R440, R441, R444–R446, R449–R451: a cold reset, a falling supply line, a life-cycle change, and the end of a Kiln wipe. A warm reset takes
effect at its trigger (log 70) and keeps what log 71 names; a life-cycle change in a cold sequence starts a wipe in progress again (log 72); an
end that is not due changes nothing (log 4). A wipe with a write that fails on the bond puts the block in fatal state, with KILN_STAT.FAIL, and
ends a sequence with FAILCODE 10 (R462; log 78). -/
def Obligations.ResetsAndWipes : Prop :=
  ∀ (s : State) (lcs : BitVec 3) (valid : Bool),
    let c := s.cfg
    let b := s.blk
    let cold (porstN pgAon : Bool) (i : Instr) := ∃ b1 : Blk, GivesCfg s i Cfg.reset b1 ∧
      b1 = { Blk.reset with ports := b1.ports, pwr := { Power.reset with porstN := porstN, pgAon := pgAon, pgL := b.pwr.pgL, pgM := b.pwr.pgM }
                            freeCount := b.freeCount } ∧
      b1.ports.outMp = [] ∧ b1.ports.outFp = [] ∧ ∀ p, getLink b1 p = { Link.reset with lreqI := (getLink b p).lreqI }
    let warm (i : Instr) (c1 : Cfg) (last kind : BitVec 3) := ∃ b1 : Blk, GivesCfg s i c1 b1 ∧ b1.core = Core.reset ∧ b1.lts = Lts.reset ∧
      b1.caches = Caches.reset ∧ b1.tun = Tun.reset ∧ b1.sync = Sync.reset ∧ b1.rings.rings = [] ∧ b1.sys.phase = 3 ∧ b1.sys.last = last ∧
      b1.sys.resetKind = kind ∧ b1.pwr.tcmp = 0 ∧ b1.pwr.wakepc = 0 ∧ b1.pwr.mnotice = 0 ∧ b1.pwr.state = .run ∧ b1.err.fatal = false ∧
      b1.malt.started = false ∧ b1.ports.outMp = [] ∧ b1.ports.outFp = [] ∧
      ∀ p, (getLink b1 p).state = stDown ∧
        ((getLink b p).state = stUp ∨ (getLink b p).state = stPaused → (getLink b1 p).tx = ((getLink b p).driveCtl p 6).tx)
    let kept : Cfg := { c with lock := false, rgnX := [], featAcc := [], sealed := false }
    let lcsKept : Cfg := { kept with ringsec := 0, secobj := 0, cgtsec := 0 }
    let fresh := valid = true ∧ lcs.toNat < 4 ∧ ¬ (lcs = b.sys.lcs ∧ valid = b.sys.lcsValid)
    cold false b.pwr.pgAon .coldReset ∧ cold b.pwr.porstN false .powerGoodAonLow ∧
    (hostAnswers b → b.sys.phase = 9 →
      (b.pwr.state = .run ∨ b.pwr.state = .couch → warm .powerGoodLLow kept 4 2) ∧ warm .powerGoodMLow kept 5 2 ∧
      (fresh → warm (.lifeCycleChange lcs valid) lcsKept 6 4)) ∧
    (hostAnswers b → lcs = b.sys.lcs → valid = b.sys.lcsValid → exec (.lifeCycleChange lcs valid) s = .next s) ∧
    (hostAnswers b → b.sys.resetKind = 1 → b.sys.phase ≠ 9 → b.sys.phase ≠ 10 → fresh →
      ∃ b1 : Blk, GivesCfg s (.lifeCycleChange lcs valid) lcsKept b1 ∧ b1.sys.lcs = lcs ∧ b1.sys.lcsValid = true ∧
        b1.sys.phase = (if b.sys.phase = 0 then 1 else b.sys.phase) ∧ b1.err.pend = false ∧ b1.rings.clogTotal = 0 ∧
        (∀ w, b.sys.kiln = some w →
          b1.sys.kiln = some { cov := w.cov &&& 7 ||| 1, lts := [], uworld := none } ∧ b1.sys.kilnQueue = [] ∧ b1.sys.kilnTrig = 4)) ∧
    (blockOn b = true → b.sys.kiln = none → exec .kilnDone s = .next s) ∧
    (∀ lo hi, blockOn b = true → b.sys.kiln = some { cov := 0, lts := [(lo, hi)], uworld := none } → b.sys.kilnQueue = [] → b.sys.phase = 9 →
      b.sys.beats = [] →
      ∃ b1 : Blk, Gives s .kilnDone b1 ∧ b1 = { b with lts := b1.lts, sys := b1.sys, malt := b1.malt, pwr := b1.pwr } ∧ b1.sys.kiln = none ∧
        b1.sys.kilnCount = (if b.sys.kilnCount = 0xFFFF then 0xFFFF else b.sys.kilnCount + 1) ∧
        (∀ d, 25 ≤ d → d ≤ 28 → pdOn b1 d = (pdOn b d || bit c.qen (d - 25))) ∧
        ∀ j : Nat, Sparse.get b1.lts.bytes j = if lo ≤ j ∧ j < hi then 0 else Sparse.get b.lts.bytes j) ∧
    (∀ w, blockOn b = true → b.sys.kiln = some w → bit w.cov 2 = false → b.sys.phase = 8 ∨ b.sys.phase = 9 → (kilnCross b w).1 = false →
      ∃ b1 : Blk, Gives s .kilnDone b1 ∧ b1.sys.kilnFail = true ∧ b1.err.fatal = true ∧
        (b.sys.phase = 8 → b1.sys.phase = 10 ∧ b1.sys.failcode = 10))

/-- R312, R402, R440, R443, R455–R462: the phases of the start-up sequence, each with its next phase and its failure code, the firmware images as they
arrive, the release from the cold reset, and the supply-good lines. A phase that is not due changes nothing (log 4). The windows of TRIM are log
30's, BONDCAL's sweep log 5's, its margin log 81's and its lanes' delays log 85's; the images are read as logs 11 and 12 say, and a rejected one
sets SIGFAIL (log 53); WIPE ends as log 70 says; the release raises every supply line (log 52). -/
def Obligations.StartUp : Prop :=
  ∀ (s : State) (lcs : BitVec 3) (valid m : Bool) (w : BitVec 128) (cf cl : BitVec 16) (sweeps : List (BitVec 64)) (n : Nat) (h : Hdr) (data : Piece),
    let c := s.cfg
    let b := s.blk
    let window (i : Nat) := bits w (16 * i + 15) (16 * i)
    let fails (i : Instr) (code : BitVec 4) := ∃ b1 : Blk, Gives s i b1 ∧ b1.sys.phase = 10 ∧ b1.sys.failcode = code ∧ b1.pwr.pd = 3 ∧
      b1.core.run = .held ∧ ∀ p, (getLink b1 p).state = if (getLink b p).state = stFailed then stFailed else stDown
    let released (i : Instr) (e : Word) := ∃ b1 : Blk, Gives s i b1 ∧ b1.sys.phase = 9 ∧ b1.core.run = .running ∧ b1.core.pc = e ∧
      b1.core.ps = Pstate.reset ∧ b1.core.reg 8 = b.sys.last.zeroExtend 64 ∧ b1.core.reg 9 = c.cimg ∧
      b1.core.mb.vbase = BitVec.ofNat 64 (c.node.toNat * 2 ^ 47) ∧ ∀ d, 25 ≤ d → d ≤ 28 → bit c.qen (d - 25) = false → pdOn b1 d = false
    let starts (i : Instr) (base : Word) := ∃ (b1 : Blk) (r : Outst), Gives s i b1 ∧
      b1.sys = { b.sys with img := some { base := base, bytes := [], failed := false } } ∧ b1.ports.outMp = [r] ∧ r.purpose = .image ∧ r.op = .rd ∧
      r.addr = base ∧ r.world = true
    let engine (bs : List Byte) := 16 * (imgField bs 8 4 / 64) + 32 + 96000
    (blockOn b = false →
      ∃ b1 : Blk, Gives s (.powerOnResetRelease lcs valid) b1 ∧ blockOn b1 = true ∧ b1.pwr.pgL = true ∧ b1.pwr.pgM = true ∧ b1.sys.lcs = lcs ∧
        b1.sys.lcsValid = valid ∧ b1.sys.phase = (if valid && decide (lcs.toNat < 4) then 1 else 0) ∧ b1.pwr.pd = 3) ∧
    ((if m then b.pwr.pgM else b.pwr.pgL) = false → blockOn b = true →
      let b0 : Blk := { b with pwr := { b.pwr with pgM := m || b.pwr.pgM, pgL := !m || b.pwr.pgL, mnotice := setBit b.pwr.mnotice 4 true } }
      Gives s (.supplyGoodRise m) (maltSource b0 9)) ∧
    (blockOn b = true →
      (b.sys.phase = 2 → (∀ i, i < 8 → window i ≠ 0) →
        ∃ t : Byte, Gives s (.trim w) { b with pwr := { b.pwr with trim := t, reflost := false }, sys := { b.sys with phase := 3 } } ∧
          ∀ i, i < 8 → bit t (7 - i) = decide (c.refMhz.toNat * 1024 ≤ window i * 48)) ∧
      (b.sys.phase = 2 → (∃ i, i < 8 ∧ window i = 0) → fails (.trim w) 1 ∧ ∃ b1, Gives s (.trim w) b1 ∧ b1.pwr.reflost = true) ∧
      (b.sys.phase = 3 → b.sys.kiln = none → b.sys.resetKind = 1 → b.pwr.pllF.lock = false → b.pwr.pllL.lock = false →
        ∃ b1 : Blk, Gives s .wipe b1 ∧ b1.sys.kiln = some { cov := 1, lts := [], uworld := none } ∧ b1.sys.kilnTrig = 1 ∧
          b1.pwr.pd = allPds c ||| 3 ∧ b1.pwr.pllF.on = true ∧ b1.pwr.pllL.on = true ∧ b1.lts = Lts.reset ∧ b1.sys.phase = 3) ∧
      (∀ k, b.sys.phase = 3 → b.sys.kiln = some k → bit k.cov 2 = false → b.sys.kilnQueue = [] → b.sys.beats = [] →
        (wipePowered b = false → exec .kilnDone s = .next s) ∧
        (wipePowered b = true → ∃ b1 : Blk, Gives s .kilnDone b1 ∧ b1.sys.kiln = none ∧
          b1.sys.phase = if b.sys.full = true ∨ b.pwr.pllF.lock = false ∨ b.pwr.pllL.lock = false then 4 else 6)) ∧
      (b.sys.phase = 4 → b.pwr.pllF.lock = false → b.pwr.pllL.lock = false → pllStable b.pwr.k.toNat cf.toNat = true →
        pllStable 64 cl.toNat = true →
        ∃ b1 : Blk, Gives s (.pll cf cl) b1 ∧ b1.pwr.pllF.lock = true ∧ b1.pwr.pllL.lock = true ∧
          b1.sys = { b.sys with phase := if b.sys.full then 5 else 6 }) ∧
      (b.sys.phase = 4 → b.pwr.pllF.lock = false → b.pwr.pllF.tries = 3 → pllStable b.pwr.k.toNat cf.toNat = false →
        fails (.pll cf cl) 2 ∧ ∃ b1, Gives s (.pll cf cl) b1 ∧ b1.pwr.pllF.fail = true ∧
          (b.pwr.pllF.fail = true → b.pwr.pllL.fail = false → b.pwr.pllL.tries ≠ 3 → b1.pwr.mnotice = b.pwr.mnotice)) ∧
      (b.sys.phase = 5 → n < 16384 → exec (.bondcal sweeps n) s = .next s) ∧
      (∀ ws : List (Nat × Nat), b.sys.phase = 5 → 16384 ≤ n → ws.length = sweeps.length →
        (∀ i, i < ws.length → WidestWindow (sweeps.getD i 0) (ws.getD i (0, 0))) →
        let margin := ws.foldl (fun x k => Nat.min x (k.2 / 2)) 32
        (4 ≤ margin → Gives s (.bondcal sweeps n) { b with sys := { b.sys with
          bondTrims := Sparse.setAll [] 0 (ws.map fun k => BitVec.ofNat 6 (k.1 + k.2 / 2)), bondSeen := true, phase := 6
          bondMargin := if b.sys.bondSeen = true ∧ b.sys.bondMargin.toNat ≤ margin then b.sys.bondMargin else BitVec.ofNat 8 margin } }) ∧
        (margin < 4 → fails (.bondcal sweeps n) 4)) ∧
      (b.sys.phase = 6 → b.ports.mp.state = stUp → Gives s .link { b with sys := { b.sys with phase := 7 } }) ∧
      (b.sys.phase = 6 → b.ports.mp.state = stFailed → fails .link 5) ∧
      (b.sys.phase = 7 → b.err.fatal = false →
        (b.sys.img = none → b.ports.outMp = [] → starts (.mimg n) c.mimg) ∧
        (∀ x, b.sys.img = some x → x.failed = false → imgWants c 0 x.bytes = false →
          (imgLegal c 0 x.bytes = true → n < engine x.bytes → exec (.mimg n) s = .next s) ∧
          (imgLegal c 0 x.bytes && imgSigned b x.bytes = true → engine x.bytes ≤ n →
            Gives s (.mimg n) { b with sys := { b.sys with img := none, maltEntry := BitVec.ofNat 64 (imgEntry x.bytes), phase := 8 } }) ∧
          (imgLegal c 0 x.bytes && imgSigned b x.bytes = false → imgLegal c 0 x.bytes = false ∨ engine x.bytes ≤ n →
            fails (.mimg n) 7 ∧ ∃ b1, Gives s (.mimg n) b1 ∧ b1.malt.ram = [] ∧ b1.sys.sigfail = true))) ∧
      (b.sys.phase = 8 → b.err.fatal = false → b.sys.kiln = none → b.sys.entry = none →
        (b.sys.img = none → b.ports.outMp = [] → starts (.cimg n) c.cimg) ∧
        (∀ x, b.sys.img = some x → x.failed = false → imgWants c 1 x.bytes = false → b.ports.outMp = [] → b.ports.outFp = [] →
          (imgLegal c 1 x.bytes = true → n < engine x.bytes → exec (.cimg n) s = .next s) ∧
          (imgLegal c 1 x.bytes && imgSigned b x.bytes = true → engine x.bytes ≤ n → released (.cimg n) (BitVec.ofNat 64 (imgEntry x.bytes))) ∧
          (imgLegal c 1 x.bytes && imgSigned b x.bytes = false → imgLegal c 1 x.bytes = false ∨ engine x.bytes ≤ n →
            fails (.cimg n) 9 ∧ ∃ b1, Gives s (.cimg n) b1 ∧ b1.sys.sigfail = true)))) ∧
    (∀ (o : Outst), blockOn b = true → b.ports.outMp = [o] → b.ports.outFp = [] → h.rtag = o.rtag → o.inTime b.pwr.sclk = true →
      b.ports.mp.state = stUp → pdRuns b 18 = true → b.pwr.state = .run → b.mmu.older = none → b.err.fatal = false →
      (∀ e, b.sys.phase = 8 → b.sys.entry = some e → o.purpose = .boot → o.op = .wr →
        (b.sys.imgFail = 0 → h.status = 0 → released (.wra false h) e) ∧ (b.sys.imgFail = 0 → h.status ≠ 0 → fails (.wra false h) 8) ∧
        (b.sys.imgFail ≠ 0 → fails (.wra false h) b.sys.imgFail)) ∧
      (∀ x, b.sys.phase = 7 ∨ b.sys.phase = 8 → b.sys.entry = none → b.sys.img = some x → o.purpose = .image → o.op = .rd →
        mergePiece data 0 o.be = 0 → b.sys.beats = [] →
        let bs := x.bytes ++ bytesOf 64 data
        let n := x.bytes.length
        let at_ := imgField bs 0x10 8 + (n - 256)
        (h.status = 0 → ∃ b1 : Blk, Gives s (.rdr false h data) b1 ∧ b1.sys.img = some { x with bytes := bs } ∧ b1.sys.phase = b.sys.phase ∧
          b1.malt.ram = (if b.sys.phase = 7 ∧ 256 ≤ n then Sparse.setAll b.malt.ram at_ (bytesOf 64 data) else b.malt.ram) ∧
          (b.sys.phase = 8 → 256 ≤ n →
            ∃ r ∈ b1.ports.outMp, r.purpose = .boot ∧ r.op = .wr ∧ r.addr = BitVec.ofNat 64 at_ ∧ r.world = true) ∧
          (imgWants c (if b.sys.phase = 7 then 0 else 1) bs = true →
            ∃ r ∈ b1.ports.outMp, r.purpose = .image ∧ r.op = .rd ∧ r.addr = x.base + BitVec.ofNat 64 (n + 64) ∧ r.world = true)) ∧
        (h.status ≠ 0 → fails (.rdr false h data) (if b.sys.phase = 7 then 6 else 8))))

/-- R379, R380, R468–R471, R440: SYNC and PCS packets are made at their counts, the FIFO takes the highest waiting packet that fits and sends a word
on OBS_D with OBS_VALID and OBS_SOP, a LOST packet takes the lost count once its slot is empty, and the scan pins act in the TEST state only,
where the word shifted out is not given by the spec: the statement holds for every value of the model's free value (log 14). An event brings the
count to its time (log 6) and a row that is not due changes nothing (log 4); the port's edges are log 54's, OBS_D between words log 93's.
R469–R471: what a write of CR_TRACEW does with the USER and LOST slots: a packet that finds its slot full counts as lost and in DROPS, a LOST
packet takes the count when its own slot is empty, and a packet that the life-cycle state filters is not made and not counted. -/
def Obligations.ObservationEvents : Prop :=
  (∀ (s : State) (scanIn : Word),
     let b := s.blk
     let o := b.obs
     let quiet := pdRuns b 20 = true ∧ o.lost = 0 ∧ o.slots = [] ∧ o.fifo = [] ∧ o.valid = false ∧ lcsHeld b = false ∧ lcsFiltered b = false ∧
       bit o.cfg 0 = true
     let holds (i : Instr) (t : Nat) (p : ObsPacket) := ∃ b1 : Blk, Gives s i b1 ∧
       b1 = { b with pwr := { b.pwr with sclk := t }, obs := { o with slots := [p], cnt := b1.obs.cnt } }
     let sent : Obs := match o.fifo with
       | [] => { o with valid := false, sop := false }
       | x :: rest => { o with fifo := rest, d := x.2, valid := true, sop := x.1 }
     blockOn b = true →
     (quiet → bit o.cfg 1 = true → bit o.cfg 4 = false →
       let t := (b.pwr.sclk / 65536 + 1) * 65536
       holds .traceSync t { ty := 1, world := false, level := 3, ts := BitVec.ofNat 16 t, payload := [BitVec.ofNat 32 t, BitVec.ofNat 32 (t / 2 ^ 32)] }) ∧
     (quiet → bit o.cfg 1 = false → bit o.cfg 4 = true → b.core.run = .running →
       let t := (b.pwr.sclk / 2 ^ bits o.cfg 20 16 + 1) * 2 ^ bits o.cfg 20 16
       holds .pcSample t { ty := 4, world := b.core.ps.world, level := b.core.ps.level, ts := BitVec.ofNat 16 t
                           payload := [BitVec.ofNat 32 b.core.pc.toNat, BitVec.ofNat 32 (b.core.pc.toNat / 2 ^ 32)] }) ∧
     (pdRuns b 20 = false → exec .tracePacketAccept s = .next s) ∧
     (pdRuns b 20 = true →
       (o.slots = [] → Gives s .tracePacketAccept { b with obs := sent }) ∧
       (∀ p, o.slots = [p] → 1 ≤ p.ty.toNat → p.ty.toNat ≤ 9 →
         (sent.fifo.length + (1 + p.payload.length) ≤ 512 →
           (o.lost = 0 → Gives s .tracePacketAccept { b with obs := { sent with fifo := sent.fifo ++ p.words, slots := [] } }) ∧
           (o.lost ≠ 0 → Gives s .tracePacketAccept { b with obs := { sent with
             fifo := sent.fifo ++ p.words, lost := 0
             slots := [{ ty := 2, world := false, level := 3, ts := BitVec.ofNat 16 b.pwr.sclk, payload := [o.lost] }] } })) ∧
         (512 < sent.fifo.length + (1 + p.payload.length) → Gives s .tracePacketAccept { b with obs := sent }))) ∧
     (b.sys.lcsValid = true → b.sys.lcs = 0 → ∃ x, Gives s (.scanShift scanIn) { b with sys := { b.sys with scanOut := x }, freeCount := b.freeCount + 1 }) ∧
     ((b.sys.lcsValid = false ∨ b.sys.lcs ≠ 0) → exec (.scanShift scanIn) s = .next s)) ∧
  (∀ (s : State) (b1 : Blk) (rs1 : BitVec 5), Issues s 1 b1 →
     let x := b1.core.reg rs1
     let o := b1.obs
     let p : ObsPacket := { ty := 8, world := b1.core.ps.world, level := b1.core.ps.level, ts := BitVec.ofNat 16 b1.pwr.sclk
                            payload := [x.truncate 32, (x >>> 32).truncate 32] }
     let on := pdOn b1 20 = true ∧ bit o.cfg 0 = true ∧ bit o.cfg 8 = true
     let shown := lcsHeld b1 = false ∧ (lcsFiltered b1 = true → b1.core.ps.world = false ∧ b1.core.ps.level ≠ 2)
     on → ∀ i ∈ [Instr.crw rs1 0x140 0, .tracewWrite rs1],
       (shown → o.lost = 0 → (∀ q ∈ o.slots, q.ty ≠ 8) → exec i s = retired s 1 { b1 with obs := { o with slots := o.slots ++ [p] } }) ∧
       (shown → (∃ q ∈ o.slots, q.ty = 8) → (∃ q ∈ o.slots, q.ty = 2) →
         exec i s = retired s 1 { b1 with obs := { o with lost := if o.lost = 0xFFFFFFFF then o.lost else o.lost + 1
                                                          drops := if o.drops = 0xFFFF then o.drops else o.drops + 1 } }) ∧
       (shown → (∃ q ∈ o.slots, q.ty = 8) → (∀ q ∈ o.slots, q.ty ≠ 2) →
         exec i s = retired s 1 { b1 with obs := { o with
           slots := o.slots ++ [{ ty := 2, world := false, level := 3, ts := p.ts, payload := [if o.lost = 0xFFFFFFFF then o.lost else o.lost + 1] }]
           lost := 0, drops := if o.drops = 0xFFFF then o.drops else o.drops + 1 } }) ∧
       (¬ shown → exec i s = retired s 1 b1))

/-- R389, R391: the model's tick (logs 3 and 6): with an empty queue and nothing waiting in a powered block, SCLK advances by one, a running
observation port sends up to 16 words (log 54), and each link that runs drives the blocks of its state, one cycle a tick (log 27): in UP an idle
block with ACK the block before the one it expects, a NAK that it owes and owes no more, and a report of at most 64 more credits of its channels
in turn. An instruction that waits, but not for a response, is tried again; an unpowered block stands still. -/
def Obligations.TicksIdle : Prop :=
  ∀ (s : State), s.pending = [] → Settled s.blk →
    let b := s.blk
    let b1 := ports4.foldl linkCycle (elapse (b.pwr.sclk + 1) b)
    (blockOn b = true → (b.core.program = [] ∨ coreReady b = false ∨ b.core.blocked = some .response) → step s = .next { s with blk := b1 }) ∧
    (blockOn b = true → ∀ i rest, b.core.program = i :: rest → coreReady b = true → b.core.blocked ≠ some .response →
      step s = exec i { s with blk := { b1 with core := { b.core with replay := true, blocked := none } } }) ∧
    (blockOn b = false → b.core.program = [] → step s = .next s) ∧
    b1 = { b with pwr := { b.pwr with sclk := b.pwr.sclk + 1 }, obs := b1.obs, ports := b1.ports } ∧
    (pdRuns b 20 = true → bit b.obs.cfg 0 = false → b.obs.slots = [] → b1.obs.fifo = b.obs.fifo.drop 16 ∧ b1.obs.slots = []) ∧
    ∀ p : BitVec 2, let l := getLink b p
      (portRuns b p = false → getLink b1 p = l) ∧
      (portRuns b p = true → p.toNat < 2 → l.state = stUp → ∃ (k : Block) (l1 : Link), getLink b1 p = { l1 with tx := [k] } ∧
        l1 = { l with nakOwed := false, turn := l1.turn, rep0 := l1.rep0, rep1 := l1.rep1, rep2 := l1.rep2, freed0 := l1.freed0, freed1 := l1.freed1
                      freed2 := l1.freed2 } ∧
        k.good p = true ∧ k.btype = 1 ∧ k.data = 0 ∧ k.hdr = 0 ∧ bits k.ctl 13 7 = (l.eseq - 1).toNat ∧ bit k.ctl 14 = l.nakOwed ∧
        (p = 0 → l.turn = 0 → bits k.ctl 24 23 = 1 ∧ l1.turn = 0 ∧ l1.rep1 = l.rep1 + BitVec.ofNat 7 (Nat.min 64 l.freed1) ∧ l1.freed1 = l.freed1 - 64 ∧
          bits k.ctl 31 25 = l1.rep1.toNat) ∧
        (p = 1 → l.turn < 3 → bits k.ctl 24 23 = l.turn ∧ l1.turn = (l.turn + 1) % 3 ∧
          bits k.ctl 31 25 = (if l.turn = 0 then l1.rep0 else if l.turn = 1 then l1.rep1 else l1.rep2).toNat))

/-- R245, R408, R425, R442, R453, R455, R461, R482: after a cold reset the registers of the Host Control Port read the reset values of R482, the core
is held with CR_PSTATE 0xFE, every store is empty, and the configuration is legal. Where the spec gives no reset value the model's is zero (log
7), which no clause names. -/
def Obligations.ResetValues : Prop :=
  let on : Blk := { Blk.reset with pwr := { Power.reset with porstN := true, pgAon := true } }
  let open_ : Blk := { on with sys := { Sys.reset with lcsValid := true, lcs := 1 } }
  State.reset.pending = [] ∧ State.reset.cfg = Cfg.reset ∧ State.reset.blk = Blk.reset ∧ hcpRead Cfg.reset on 0x100 = 0x10 ∧
    (∀ x ∈ ([(0x000, 0x4B5A0004), (0x004, 0x00010000), (0x010, 1), (0x014, 0), (0x020, 0), (0x030, 0), (0x108, 0x10), (0x110, 0), (0x140, 0),
        (0x180, 0), (0x200, 0x64), (0x204, 0x8000), (0x208, 1), (0x20C, 3), (0x210, 7), (0x214, 0), (0x218, 0xBB8), (0x21C, 0x08644010),
        (0x220, 0x40), (0x224, 0), (0x228, 0xBB80), (0x230, 0), (0x234, 0), (0x238, 0), (0x23C, 0), (0x240, 8), (0x244, 0xF), (0x248, 0),
        (0x250, 0), (0x300, 0), (0x304, 0), (0x308, 0xFF00), (0x400, 0), (0x404, 0), (0x408, 0), (0x500, 0), (0x504, 0x000C0000),
        (0x5FC, 0x000C0000), (0x600, 0), (0x60C, 0), (0x800, 0), (0x900, 0), (0x9C0, 0), (0x9CC, 0), (0x9D0, 0), (0x9D4, 0), (0xA00, 0),
        (0xA10, 0x75300), (0xA14, 0), (0xA20, 0xF), (0xA24, 0), (0xA80, 0), (0xA8C, 0), (0xA90, 0), (0x1000, 0)] : List (BitVec 16 × W32)),
      hcpRead Cfg.reset open_ x.1 = x.2) ∧
    (let k := Blk.reset.core
     k.run = .held ∧ crGet Cfg.reset 0 Blk.reset = .ok 0xFE Blk.reset ∧ k.ps.level = 2 ∧ k.ps.world = true ∧ k.iroute = 0xAAAAAAAA ∧
       k.ilevel = 0x8888888888888888 ∧ k.frozen = false ∧ k.res = 0) ∧
    Blk.reset.lts.bytes = [] ∧ Blk.reset.tun.rows = [] ∧ Blk.reset.sync.objs = [] ∧ Blk.reset.sys.last = 1 ∧ Blk.reset.malt.mv = 750 ∧
    Cfg.Legal State.reset.cfg

/-- The configuration stays legal (R2, R3): every step keeps each configuration register in the range its write clamps to. -/
def Obligations.ConfigurationStaysLegal : Prop :=
  ∀ (s t : State), Cfg.Legal s.cfg → step s = .next t → Cfg.Legal t.cfg

/-- R4, R377, R434, R451: every command answers a next state and leaves the queue alone, an event that is not due the state it was given (log 4); only
a host write, a machine-firmware write of CR_HCPD, a Maltster instruction or a reset changes a configuration word. -/
def Obligations.EveryCommandAnswers : Prop :=
  ∀ (i : Instr) (s : State), ∃ t, exec i s = .next t ∧ t.pending = s.pending ∧ (writesCfg i = false → t.cfg = s.cfg)

/-- R309, R314, R315, R317: what is written to the LTS is read back, byte for byte, the other bytes are left alone and the store keeps its canonical
form; a word with one flipped bit is corrected and counted, and one with two is uncorrectable. A beat whose check fails is received again, up to
three times, each counted in RETRIES; one that fails four times is counted in FAILS and logged as kind 7: a write puts the block in fatal state
and changes no byte, and a read of the LTS is uncorrectable. What the beats of an access are the environment gives (log 78). -/
def Obligations.LtsReadsBack : Prop :=
  ∀ (b : Blk) (world : Bool) (o n w : Nat) (bs : List Byte),
    (b.lts.flips = [] → b.sys.beats = [] →
      (∃ b1 : Blk, ltsWrite world o bs b = (false, b1) ∧ Written b b1 [(o, bs)] ∧ ltsRead world o bs.length b1 = ((bs, none), b1)) ∧
      ltsRead world o n b = ((Sparse.range b.lts.bytes o n, none), b)) ∧
    (Sparse.wf b.lts.bytes = true → Sparse.wf b.lts.flips = true →
      Sparse.wf (ltsWrite world o bs b).2.lts.bytes = true ∧ Sparse.wf (ltsWrite world o bs b).2.lts.flips = true) ∧
    (popCount (b.lts.flips.get w) = 1 → ∃ b1 : Blk, ltsReadWord b w = (some (ltsWord b w), b1) ∧ b1 = { b with lts := b1.lts, err := b1.err } ∧
      (∀ j : Nat, Sparse.get b1.lts.bytes j = Sparse.get b.lts.bytes j) ∧ (∀ j, b1.lts.flips.get j = if j = w then 0 else b.lts.flips.get j) ∧
      b1.err = { b.err with ccount := if b.err.ccount = 0xFFFFFFFF then b.err.ccount else b.err.ccount + 1 }) ∧
    (popCount (b.lts.flips.get w) = 2 → ltsReadWord b w = (none, b)) ∧
    (∀ (bad rest : List Beat) (x : Beat), (∀ y ∈ bad, y.good = false) →
      (x.good = true → bad.length ≤ 3 → b.sys.beats = bad ++ x :: rest → ∃ b1 : Blk, beat b = (true, b1) ∧
        b1 = { b with sys := { b.sys with beats := rest, bondRetries := b1.sys.bondRetries }, obs := b1.obs } ∧
        b1.sys.bondRetries.toNat = Nat.min 0xFFFFFF (b.sys.bondRetries.toNat + bad.length)) ∧
      (bad.length = 4 → b.sys.beats = bad ++ rest → ∃ b1 : Blk, beat b = (false, b1) ∧
        b1 = { b with sys := { b.sys with beats := rest, bondRetries := b1.sys.bondRetries, bondFails := b1.sys.bondFails }, obs := b1.obs } ∧
        b1.sys.bondRetries.toNat = Nat.min 0xFFFFFF (b.sys.bondRetries.toNat + 3) ∧
        b1.sys.bondFails.toNat = Nat.min 0xFF (b.sys.bondFails.toNat + 1))) ∧
    (∀ b1, beat b = (false, b1) → b.err.pend = false →
      (0 < bs.length → o % 64 + bs.length ≤ 64 → ∃ b2 : Blk, ltsWrite world o bs b = (true, b2) ∧ b2.lts = b.lts ∧ b2.err.fatal = true ∧
        b2.err.kind = 7 ∧ b2.err.unit = 5) ∧
      (0 < n → o % 64 + n ≤ 64 → ∃ (ds : List Byte) (k : Nat) (b2 : Blk), ltsRead world o n b = ((ds, some k), b2) ∧ b2.lts = b.lts ∧
        b2.err.kind = 7 ∧ b2.err.unit = 5 ∧ b2.err.fatal = b.err.fatal))

/-- R1: KZ_ID and KZ_REV. R481: an offset that R482 does not list reads zero and ignores writes (R3); in 0x200 to 0x3FF the Maltster still sees that a
write came, its source 15 of R431 (log 33), and a read there latches nothing (log 77). -/
def Obligations.HostRegisterMap : Prop :=
  ∀ (s : State) (off : BitVec 16) (v : W32), blockOn s.blk = true →
    let o := off.toNat / 4 * 4
    (o = 0 → hcpRead s.cfg s.blk off = 0x4B5A0004) ∧ (o = 4 → hcpRead s.cfg s.blk off = 0x00010000) ∧
    ((o = 0 ∨ o = 4) → exec (.hcpWrite off v) s = .next s) ∧
    (listedOffset o = false → hcpRead s.cfg s.blk off = 0 ∧ exec (.latchingLoRead off) s = .next s ∧
      Gives s (.hcpWrite off v) (if lcsHeld s.blk = false ∧ 0x200 ≤ o ∧ o < 0x400 then maltSource s.blk 15 else s.blk))

/-- R472, R479: CR_TRACEW is written at every level and reads zero; a write fills the USER slot, is dropped when the slot is full, and has no effect
with its type, EN or PD20 off. CR_INSPECT holds EN in bit 0 and is read and written at M only. -/
def Obligations.TraceWritesAndInspection : Prop :=
  ∀ (s : State) (b1 : Blk) (rd rs1 : BitVec 5), Issues s 1 b1 →
    let x := b1.core.reg rs1
    let o := b1.obs
    let p : ObsPacket := { ty := 8, world := b1.core.ps.world, level := b1.core.ps.level, ts := BitVec.ofNat 16 b1.pwr.sclk
                           payload := [x.truncate 32, (x >>> 32).truncate 32] }
    let user (q : Obs) := q.slots.filter fun q => q.ty == 8
    let on := pdOn b1 20 = true ∧ bit o.cfg 0 = true ∧ bit o.cfg 8 = true
    let shown := lcsHeld b1 = false ∧ (lcsFiltered b1 = true → b1.core.ps.world = false ∧ b1.core.ps.level ≠ 2)
    exec (.crr rd 0x140 0) s = retired s 1 { b1 with core := b1.core.setReg rd 0 } ∧
    (∀ i ∈ [Instr.crw rs1 0x140 0, .tracewWrite rs1],
      (on → shown → user o = [] → ∃ q : Obs, exec i s = retired s 1 { b1 with obs := q } ∧ user q = [p]) ∧
      (on → shown → user o ≠ [] → ∃ q : Obs, exec i s = retired s 1 { b1 with obs := q } ∧ user q = user o) ∧
      (¬ on → exec i s = retired s 1 b1)) ∧
    (b1.core.ps.level = 2 → exec (.crr rd 0x142 0) s = retired s 1 { b1 with core := b1.core.setReg rd (if o.inspect then 1 else 0) }) ∧
    (b1.core.ps.level = 2 → pdOn b1 20 = true → exec (.crw rs1 0x142 0) s = retired s 1 { b1 with obs := { o with inspect := bit x 0 } }) ∧
    (b1.core.ps.level ≠ 2 → ∀ i ∈ [Instr.crr rd 0x142 0, .crw rs1 0x142 0], ∃ t, exec i s = trapped s i t (start s) b1)

/-- R437: descriptors govern chip space only; a descriptor matches by VALID, its node and the address bits from SIZE up; the lowest-numbered match
governs; with no match an access at M is normal uncached memory and any other is denied with reason 3. -/
def Obligations.RegionsGovern : Prop :=
  (∀ (c : Cfg) (b : Blk) (a : Word) (n : Nat) (world atM normal : Bool) (need : Need) (x : Sparse 64), inBlockSpace a = true →
    resolve { c with rgnX := x } b a n world atM need normal = resolve c b a n world atM need normal) ∧
  (∀ (c : Cfg) (d : BitVec 64) (a : Word), 12 ≤ rgnSize d → rgnSize d ≤ 47 →
    (rgnMatches c d a = true ↔
      d.getLsbD 0 = true ∧ (d.getLsbD 1 = true ∨ nodeOf a = c.node) ∧ ∀ k, rgnSize d ≤ k → k ≤ 46 → a.getLsbD k = d.getLsbD k)) ∧
  (∀ (c : Cfg) (a : Word),
    (∀ n, governing c a = some n ↔ n < 32 ∧ rgnMatches c (rgn c n) a = true ∧ ∀ m, m < n → rgnMatches c (rgn c m) a = false) ∧
    (governing c a = none ↔ ∀ n, n < 32 → rgnMatches c (rgn c n) a = false)) ∧
  (∀ (c : Cfg) (b : Blk) (a : Word) (n : Nat) (world normal : Bool) (need : Need), inBlockSpace a = false → governing c a = none →
    resolve c b a n world true need normal = .ok (.port (nodeOf a != c.node) .uncached) ∧
    resolve c b a n world false need normal = .error (.region 3 0))
end

