-- ==== Sys2Proof/Laws/Monad.lean ====
section
/-! SUPPORT. The computation of an instruction evaluated step by step: one equation per primitive of M. -/

namespace Sys2Proof.Laws

open Sys2Proof.Machine

@[simp] theorem bind_run (x : M α) (f : α → M β) (b : Blk) :
    (x >>= f) b = match x b with
      | .ok a b1 => f a b1
      | .error e b1 => .error e b1 := by
  simp only [bind, EStateM.bind]; cases x b <;> rfl
@[simp] theorem pure_run (a : α) (b : Blk) : (pure a : M α) b = .ok a b := rfl
@[simp] theorem map_run (f : α → β) (x : M α) (b : Blk) :
    (f <$> x) b = match x b with
      | .ok a b1 => .ok (f a) b1
      | .error e b1 => .error e b1 := by
  simp only [Functor.map, EStateM.map]; cases x b <;> rfl
@[simp] theorem get_run (b : Blk) : (get : M Blk) b = .ok b b := rfl
@[simp] theorem set_run (b1 b : Blk) : (set b1 : M PUnit) b = .ok ⟨⟩ b1 := rfl
@[simp] theorem modify_run (f : Blk → Blk) (b : Blk) : (modify f : M PUnit) b = .ok ⟨⟩ (f b) := rfl
@[simp] theorem throw_run (e : Stop) (b : Blk) : (throw e : M α) b = .error e b := rfl
@[simp] theorem ite_run (p : Prop) [Decidable p] (x y : M α) (b : Blk) : (if p then x else y) b = if p then x b else y b := by
  split <;> rfl
@[simp] theorem getCore_run (b : Blk) : getCore b = .ok b.core b := rfl
@[simp] theorem modCore_run (f : Core → Core) (b : Blk) : modCore f b = .ok () { b with core := f b.core } := rfl
@[simp] theorem modMmu_run (f : Mmu → Mmu) (b : Blk) : modMmu f b = .ok () { b with mmu := f b.mmu } := rfl
@[simp] theorem modCaches_run (f : Caches → Caches) (b : Blk) : modCaches f b = .ok () { b with caches := f b.caches } := rfl
@[simp] theorem modTile_run (f : TileFile → TileFile) (b : Blk) : modTile f b = .ok () { b with tile := f b.tile } := rfl
@[simp] theorem modTun_run (f : Tun → Tun) (b : Blk) : modTun f b = .ok () { b with tun := f b.tun } := rfl
@[simp] theorem modVec_run (f : Vec → Vec) (b : Blk) : modVec f b = .ok () { b with vec := f b.vec } := rfl
@[simp] theorem modEpi_run (f : Epi → Epi) (b : Blk) : modEpi f b = .ok () { b with epi := f b.epi } := rfl
@[simp] theorem modLts_run (f : Lts → Lts) (b : Blk) : modLts f b = .ok () { b with lts := f b.lts } := rfl
@[simp] theorem readReg_run (n : BitVec 5) (b : Blk) : readReg n b = .ok (b.core.reg n) b := rfl
@[simp] theorem writeReg_run (n : BitVec 5) (v : Word) (b : Blk) : writeReg n v b = .ok () { b with core := b.core.setReg n v } := rfl
@[simp] theorem readF_run (n : BitVec 5) (b : Blk) : readF n b = .ok (b.core.fregs.get n.toNat) b := rfl
@[simp] theorem writeF_run (n : BitVec 5) (v : Word) (b : Blk) : writeF n v b = .ok () { b with core := b.core.setF n v } := rfl
@[simp] theorem waitFor_run (w : WaitOn) (b : Blk) : (waitFor w : M α) b = .error (.wait w) b := rfl
@[simp] theorem check_run (p : Bool) (e : M Unit) (b : Blk) : check p e b = if p then .ok () b else e b := by
  unfold check; split <;> rfl
@[simp] theorem mustBeZero_zero (b : Blk) : mustBeZero 0#w b = .ok () b := by simp [mustBeZero]
theorem mustBeZero_bad {x : BitVec w} (h : x ≠ 0) (b : Blk) :
    mustBeZero x b = .error (.trap { cause := 1, detail := 1, faddr := 0, fault := .core 1 0, wlevel := none, ipa := none, keep := false }) b := by
  unfold mustBeZero check
  rw [if_neg (by simpa using h)]
  rfl

end Sys2Proof.Laws
end

