-- ==== Sys2Proof/Laws/Core.lean ====
section
/-! SUPPORT. What an instruction of the main core that issues does, by the end of its computation. -/

namespace Sys2Proof.Laws

open Sys2Proof.Machine

/-- What follows the end of the computation of instruction i that was tried in block b0. -/
def after (s : State) (i : Instr) (b0 : Blk) : EStateM.Result Stop Blk Unit → Blk
  | .ok _ b2 => retireOf i b0 b2
  | .error (.trap t) b2 => takeTrap s.cfg i t b0 (dropResp (ownCounts i b0 b2))
  | .error (.wait w) b2 => waitHead i w b0 (ownCounts i b0 b2)
  | .error (.lockup r cause) b2 => lockup r cause (restoreArch b0 b2)
  | .error .fatal b2 => stopCore b0 b2

theorem awaken_program (b : Blk) : (awaken b).core.program = b.core.program := by unfold awaken; split <;> rfl
theorem awaken_replay (b : Blk) : (awaken b).core.replay = b.core.replay := by unfold awaken; split <;> rfl

theorem runCore_new {s : State} {b1 : Blk} {n : Nat} (h : Issues s n b1) (i : Instr) (m : M Unit) :
    offered s i m = after s i (start s) (m (start s)) := by
  obtain ⟨h1, h2, h3, h4, _⟩ := h
  rw [← awaken_replay] at h2
  rw [← awaken_program] at h3
  unfold offered runCore
  simp only [h1, h2, h3, h4, Bool.not_true, Bool.not_false, Bool.and_false, Bool.false_eq_true, if_false, List.isEmpty_nil]
  unfold runHead start
  cases m (boundary (awaken (settle s.cfg s.blk))) with
  | ok a b2 => rfl
  | error e b2 => cases e <;> rfl

/-- A one-word or two-word instruction that issues: fetch is done, the body runs in the block after it. -/
theorem runCore_seq {s : State} {b1 : Blk} {n : Nat} (h : Issues s n b1) (i : Instr) (body : M Unit) :
    offered s i (seqOp s.cfg n body) =
      after s i (start s) ((do body; modCore fun k => { k with pc := k.pc + BitVec.ofNat 64 (4 * n) }) b1) := by
  rw [runCore_new h]
  obtain ⟨_, _, _, _, h4, _⟩ := h
  simp only [seqOp, bind_run, start, h4]

/-- A jump that issues. -/
theorem runCore_jump {s : State} {b1 : Blk} (h : Issues s 1 b1) (i : Instr) (body : M Word) :
    offered s i (jumpOp s.cfg body) =
      after s i (start s) ((do let t ← body; modCore fun k => { k with pc := t }) b1) := by
  rw [runCore_new h]
  obtain ⟨_, _, _, _, h4, _⟩ := h
  simp only [jumpOp, bind_run, start, h4]

theorem coreSeq_issue {s : State} {b1 : Blk} (h : Issues s 1 b1) (i : Instr) (body : M Unit) :
    coreSeq s i body = .next { s with blk := after s i (start s) ((do body; modCore fun k => { k with pc := k.pc + BitVec.ofNat 64 (4 * 1) }) b1) } := by
  unfold coreSeq; rw [runCore_seq h]

theorem coreSeq2_issue {s : State} {b1 : Blk} (h : Issues s 2 b1) (i : Instr) (body : M Unit) :
    coreSeq2 s i body = .next { s with blk := after s i (start s) ((do body; modCore fun k => { k with pc := k.pc + BitVec.ofNat 64 (4 * 2) }) b1) } := by
  unfold coreSeq2; rw [runCore_seq h]

theorem coreJump_issue {s : State} {b1 : Blk} (h : Issues s 1 b1) (i : Instr) (body : M Word) :
    coreJump s i body = .next { s with blk := after s i (start s) ((do let t ← body; modCore fun k => { k with pc := t }) b1) } := by
  unfold coreJump; rw [runCore_jump h]

end Sys2Proof.Laws
end

