-- ==== Sys2Proof/Laws/Sparse.lean ====
section
/-! SUPPORT. The sparse stores: a read after a write, and the canonical form that every operation keeps. -/

namespace Sys2Proof.Laws

open Sys2Proof

theorem get_insert_self (m : Sparse w) (k : Nat) (v : BitVec w) (h : ∀ c ∈ m, c.1 ≠ k) : (Sparse.insert m k v).get k = v := by
  induction m with
  | nil => simp [Sparse.insert, Sparse.get]
  | cons c m ih =>
    obtain ⟨a, u⟩ := c
    have ha : a ≠ k := h (a, u) (by simp)
    unfold Sparse.insert
    split
    · simp [Sparse.get]
    · simp only [Sparse.get, if_neg ha]
      exact ih fun c hc => h c (by simp [hc])

theorem get_insert_other (m : Sparse w) (k j : Nat) (v : BitVec w) (h : j ≠ k) : (Sparse.insert m k v).get j = m.get j := by
  induction m with
  | nil => simp [Sparse.insert, Sparse.get, Ne.symm h]
  | cons c m ih =>
    obtain ⟨a, u⟩ := c
    unfold Sparse.insert
    split
    · simp [Sparse.get, Ne.symm h]
    · simp [Sparse.get, ih]

theorem get_filter_other (m : Sparse w) (k j : Nat) (h : j ≠ k) : Sparse.get (m.filter fun c => decide (c.1 ≠ k)) j = m.get j := by
  induction m with
  | nil => rfl
  | cons c m ih =>
    obtain ⟨a, u⟩ := c
    by_cases e : a = k
    · have : ¬ a = j := fun x => h (by omega)
      simp [List.filter, e, Sparse.get, this] at *
      rw [ih, if_neg (by omega)]
    · simp [List.filter, e, Sparse.get] at *
      rw [ih]

theorem get_filter_self (m : Sparse w) (k : Nat) : Sparse.get (m.filter fun c => decide (c.1 ≠ k)) k = 0 := by
  induction m with
  | nil => rfl
  | cons c m ih =>
    obtain ⟨a, u⟩ := c
    by_cases e : a = k
    · simp [List.filter, e] at *; exact ih
    · simp [List.filter, e, Sparse.get] at *; exact ih

/-- A read after a write to the same key gives the value written. -/
@[simp] theorem get_set_self (m : Sparse w) (k : Nat) (v : BitVec w) : (m.set k v).get k = v := by
  unfold Sparse.set
  dsimp only
  split
  · rename_i e
    rw [get_filter_self, e]
  · exact get_insert_self _ _ _ fun c hc => by simpa using (List.mem_filter.mp hc).2

/-- A write leaves every other key alone. -/
theorem get_set_other (m : Sparse w) (k j : Nat) (v : BitVec w) (h : j ≠ k) : (m.set k v).get j = m.get j := by
  unfold Sparse.set
  dsimp only
  split
  · exact get_filter_other m k j h
  · rw [get_insert_other _ _ _ _ h, get_filter_other m k j h]

theorem wfFrom_mono {m : Sparse w} {lo lo' : Nat} (h : Sparse.wfFrom lo m = true) (hl : lo' ≤ lo) : Sparse.wfFrom lo' m = true := by
  cases m with
  | nil => rfl
  | cons c m =>
    simp only [Sparse.wfFrom, Bool.and_eq_true, decide_eq_true_eq] at *
    exact ⟨⟨Nat.le_trans hl h.1.1, h.1.2⟩, h.2⟩

theorem wfFrom_filter {m : Sparse w} {lo : Nat} (p : Nat × BitVec w → Bool) (h : Sparse.wfFrom lo m = true) :
    Sparse.wfFrom lo (m.filter p) = true := by
  induction m generalizing lo with
  | nil => rfl
  | cons c m ih =>
    simp only [Sparse.wfFrom, Bool.and_eq_true, decide_eq_true_eq] at h
    simp only [List.filter]
    split
    · simp only [Sparse.wfFrom, Bool.and_eq_true, decide_eq_true_eq]
      exact ⟨h.1, ih h.2⟩
    · exact wfFrom_mono (ih h.2) (by omega)

theorem wfFrom_insert {m : Sparse w} {lo k : Nat} {v : BitVec w} (h : Sparse.wfFrom lo m = true) (hk : ∀ c ∈ m, c.1 ≠ k) (hl : lo ≤ k)
    (hv : v ≠ 0) : Sparse.wfFrom lo (Sparse.insert m k v) = true := by
  induction m generalizing lo with
  | nil => simp only [Sparse.insert, Sparse.wfFrom]; simp [hl]; simpa using hv
  | cons c m ih =>
    obtain ⟨a, u⟩ := c
    have ha : a ≠ k := hk (a, u) (by simp)
    simp only [Sparse.wfFrom, Bool.and_eq_true, decide_eq_true_eq] at h
    unfold Sparse.insert
    split
    · rename_i hka
      simp only [Sparse.wfFrom, Bool.and_eq_true, decide_eq_true_eq]
      exact ⟨⟨hl, by simpa using hv⟩, ⟨⟨hka, h.1.2⟩, h.2⟩⟩
    · simp only [Sparse.wfFrom, Bool.and_eq_true, decide_eq_true_eq]
      exact ⟨h.1, ih h.2 (fun c hc => hk c (by simp [hc])) (by omega)⟩

/-- A write keeps the canonical form. -/
theorem wf_set {m : Sparse w} (h : m.wf = true) (k : Nat) (v : BitVec w) : (m.set k v).wf = true := by
  unfold Sparse.set
  dsimp only
  split
  · exact wfFrom_filter _ h
  · rename_i hv
    exact wfFrom_insert (wfFrom_filter _ h) (fun c hc => by simpa using (List.mem_filter.mp hc).2) (Nat.zero_le _) hv

/-- Clearing a range keeps the canonical form. -/
theorem wf_clear {m : Sparse w} (h : m.wf = true) (lo hi : Nat) : (m.clear lo hi).wf = true := wfFrom_filter _ h

/-- Writing consecutive cells keeps the canonical form. -/
theorem wf_setAll {m : Sparse w} (h : m.wf = true) (k : Nat) (vs : List (BitVec w)) : (Sparse.setAll m k vs).wf = true := by
  induction vs generalizing m k with
  | nil => exact h
  | cons v vs ih => exact ih (wf_set h k v) (k + 1)

/-- A cell below the range written is left alone. -/
theorem get_setAll_below (m : Sparse w) (k j : Nat) (vs : List (BitVec w)) (h : j < k) : (Sparse.setAll m k vs).get j = m.get j := by
  induction vs generalizing m k with
  | nil => rfl
  | cons v vs ih => rw [Sparse.setAll, ih _ _ (by omega), get_set_other _ _ _ _ (by omega)]

/-- A cell above the range written is left alone. -/
theorem get_setAll_above (m : Sparse w) (k j : Nat) (vs : List (BitVec w)) (h : k + vs.length ≤ j) :
    (Sparse.setAll m k vs).get j = m.get j := by
  induction vs generalizing m k with
  | nil => rfl
  | cons v vs ih =>
    simp only [List.length_cons] at h
    rw [Sparse.setAll, ih _ _ (by omega), get_set_other _ _ _ _ (by omega)]

/-- The cells of the range written read what was written. -/
theorem range_setAll (m : Sparse w) (k : Nat) (vs : List (BitVec w)) : Sparse.range (Sparse.setAll m k vs) k vs.length = vs := by
  induction vs generalizing m k with
  | nil => rfl
  | cons v vs ih =>
    simp only [Sparse.setAll, List.length_cons, Sparse.range]
    rw [get_setAll_below _ _ _ _ (by omega), get_set_self, ih]

end Sys2Proof.Laws
end

