-- ==== Sys2Proof/Laws/State.lean ====
section
/-! SUPPORT. One lemma per field per named update: what the update leaves alone. -/

namespace Sys2Proof.Laws

open Sys2Proof.Machine

/-! The core's register write. -/

@[simp] theorem setReg_run (k : Core) (n : BitVec 5) (v : Word) : (k.setReg n v).run = k.run := rfl
@[simp] theorem setReg_pc (k : Core) (n : BitVec 5) (v : Word) : (k.setReg n v).pc = k.pc := rfl
@[simp] theorem setReg_cwp (k : Core) (n : BitVec 5) (v : Word) : (k.setReg n v).cwp = k.cwp := rfl
@[simp] theorem setReg_res (k : Core) (n : BitVec 5) (v : Word) : (k.setReg n v).res = k.res := rfl
@[simp] theorem setReg_lowater (k : Core) (n : BitVec 5) (v : Word) : (k.setReg n v).lowater = k.lowater := rfl
@[simp] theorem setReg_frozen (k : Core) (n : BitVec 5) (v : Word) : (k.setReg n v).frozen = k.frozen := rfl
@[simp] theorem setReg_spfault (k : Core) (n : BitVec 5) (v : Word) : (k.setReg n v).spfault = k.spfault := rfl
@[simp] theorem setReg_flfault (k : Core) (n : BitVec 5) (v : Word) : (k.setReg n v).flfault = k.flfault := rfl
@[simp] theorem setReg_wlevel (k : Core) (n : BitVec 5) (v : Word) : (k.setReg n v).wlevel = k.wlevel := rfl
@[simp] theorem setReg_wspill (k : Core) (n : BitVec 5) (v : Word) : (k.setReg n v).wspill = k.wspill := rfl
@[simp] theorem setReg_wcnt (k : Core) (n : BitVec 5) (v : Word) : (k.setReg n v).wcnt = k.wcnt := rfl
@[simp] theorem setReg_spAddr (k : Core) (n : BitVec 5) (v : Word) : (k.setReg n v).spAddr = k.spAddr := rfl
@[simp] theorem setReg_flAddr (k : Core) (n : BitVec 5) (v : Word) : (k.setReg n v).flAddr = k.flAddr := rfl
@[simp] theorem setReg_fregs (k : Core) (n : BitVec 5) (v : Word) : (k.setReg n v).fregs = k.fregs := rfl
@[simp] theorem setReg_fcsr (k : Core) (n : BitVec 5) (v : Word) : (k.setReg n v).fcsr = k.fcsr := rfl
@[simp] theorem setReg_fdirty (k : Core) (n : BitVec 5) (v : Word) : (k.setReg n v).fdirty = k.fdirty := rfl
@[simp] theorem setReg_svcBanks (k : Core) (n : BitVec 5) (v : Word) : (k.setReg n v).svcBanks = k.svcBanks := rfl
@[simp] theorem setReg_svcTask (k : Core) (n : BitVec 5) (v : Word) : (k.setReg n v).svcTask = k.svcTask := rfl
@[simp] theorem setReg_taskStat (k : Core) (n : BitVec 5) (v : Word) : (k.setReg n v).taskStat = k.taskStat := rfl
@[simp] theorem setReg_taskPcs (k : Core) (n : BitVec 5) (v : Word) : (k.setReg n v).taskPcs = k.taskPcs := rfl
@[simp] theorem setReg_taskPc (k : Core) (n : BitVec 5) (v : Word) : (k.setReg n v).taskPc = k.taskPc := rfl
@[simp] theorem setReg_cfCode (k : Core) (n : BitVec 5) (v : Word) : (k.setReg n v).cfCode = k.cfCode := rfl
@[simp] theorem setReg_cfCr (k : Core) (n : BitVec 5) (v : Word) : (k.setReg n v).cfCr = k.cfCr := rfl
@[simp] theorem setReg_ps (k : Core) (n : BitVec 5) (v : Word) : (k.setReg n v).ps = k.ps := rfl
@[simp] theorem setReg_sn (k : Core) (n : BitVec 5) (v : Word) : (k.setReg n v).sn = k.sn := rfl
@[simp] theorem setReg_ss (k : Core) (n : BitVec 5) (v : Word) : (k.setReg n v).ss = k.ss := rfl
@[simp] theorem setReg_mb (k : Core) (n : BitVec 5) (v : Word) : (k.setReg n v).mb = k.mb := rfl
@[simp] theorem setReg_ienable (k : Core) (n : BitVec 5) (v : Word) : (k.setReg n v).ienable = k.ienable := rfl
@[simp] theorem setReg_iroute (k : Core) (n : BitVec 5) (v : Word) : (k.setReg n v).iroute = k.iroute := rfl
@[simp] theorem setReg_ilevel (k : Core) (n : BitVec 5) (v : Word) : (k.setReg n v).ilevel = k.ilevel := rfl
@[simp] theorem setReg_gbaseN (k : Core) (n : BitVec 5) (v : Word) : (k.setReg n v).gbaseN = k.gbaseN := rfl
@[simp] theorem setReg_gbaseS (k : Core) (n : BitVec 5) (v : Word) : (k.setReg n v).gbaseS = k.gbaseS := rfl
@[simp] theorem setReg_hcpa (k : Core) (n : BitVec 5) (v : Word) : (k.setReg n v).hcpa = k.hcpa := rfl
@[simp] theorem setReg_program (k : Core) (n : BitVec 5) (v : Word) : (k.setReg n v).program = k.program := rfl
@[simp] theorem setReg_blocked (k : Core) (n : BitVec 5) (v : Word) : (k.setReg n v).blocked = k.blocked := rfl
@[simp] theorem setReg_replay (k : Core) (n : BitVec 5) (v : Word) : (k.setReg n v).replay = k.replay := rfl
@[simp] theorem setReg_trapping (k : Core) (n : BitVec 5) (v : Word) : (k.setReg n v).trapping = k.trapping := rfl
@[simp] theorem setReg_resp (k : Core) (n : BitVec 5) (v : Word) : (k.setReg n v).resp = k.resp := rfl
@[simp] theorem setReg_hcpOut (k : Core) (n : BitVec 5) (v : Word) : (k.setReg n v).hcpOut = k.hcpOut := rfl

/-! Updates of one component of the block. -/

@[simp] theorem setRing_core (b : Blk) (n : Nat) (r : Ring) : (setRing b n r).core = b.core := rfl
@[simp] theorem setRing_mmu (b : Blk) (n : Nat) (r : Ring) : (setRing b n r).mmu = b.mmu := rfl
@[simp] theorem setRing_caches (b : Blk) (n : Nat) (r : Ring) : (setRing b n r).caches = b.caches := rfl
@[simp] theorem setRing_err (b : Blk) (n : Nat) (r : Ring) : (setRing b n r).err = b.err := rfl
@[simp] theorem setRing_lts (b : Blk) (n : Nat) (r : Ring) : (setRing b n r).lts = b.lts := rfl
@[simp] theorem setRing_tile (b : Blk) (n : Nat) (r : Ring) : (setRing b n r).tile = b.tile := rfl
@[simp] theorem setRing_tun (b : Blk) (n : Nat) (r : Ring) : (setRing b n r).tun = b.tun := rfl
@[simp] theorem setRing_vec (b : Blk) (n : Nat) (r : Ring) : (setRing b n r).vec = b.vec := rfl
@[simp] theorem setRing_epi (b : Blk) (n : Nat) (r : Ring) : (setRing b n r).epi = b.epi := rfl
@[simp] theorem setRing_ports (b : Blk) (n : Nat) (r : Ring) : (setRing b n r).ports = b.ports := rfl
@[simp] theorem setRing_obs (b : Blk) (n : Nat) (r : Ring) : (setRing b n r).obs = b.obs := rfl
@[simp] theorem setRing_chain (b : Blk) (n : Nat) (r : Ring) : (setRing b n r).chain = b.chain := rfl
@[simp] theorem setRing_sync (b : Blk) (n : Nat) (r : Ring) : (setRing b n r).sync = b.sync := rfl
@[simp] theorem setRing_dma (b : Blk) (n : Nat) (r : Ring) : (setRing b n r).dma = b.dma := rfl
@[simp] theorem setRing_sparge (b : Blk) (n : Nat) (r : Ring) : (setRing b n r).sparge = b.sparge := rfl
@[simp] theorem setRing_pwr (b : Blk) (n : Nat) (r : Ring) : (setRing b n r).pwr = b.pwr := rfl
@[simp] theorem setRing_malt (b : Blk) (n : Nat) (r : Ring) : (setRing b n r).malt = b.malt := rfl
@[simp] theorem setRing_sys (b : Blk) (n : Nat) (r : Ring) : (setRing b n r).sys = b.sys := rfl
@[simp] theorem setRing_freeCount (b : Blk) (n : Nat) (r : Ring) : (setRing b n r).freeCount = b.freeCount := rfl

@[simp] theorem modRing_core (b : Blk) (n : Nat) (f : Ring → Ring) : (modRing b n f).core = b.core := rfl
@[simp] theorem modRing_mmu (b : Blk) (n : Nat) (f : Ring → Ring) : (modRing b n f).mmu = b.mmu := rfl
@[simp] theorem modRing_caches (b : Blk) (n : Nat) (f : Ring → Ring) : (modRing b n f).caches = b.caches := rfl
@[simp] theorem modRing_err (b : Blk) (n : Nat) (f : Ring → Ring) : (modRing b n f).err = b.err := rfl
@[simp] theorem modRing_lts (b : Blk) (n : Nat) (f : Ring → Ring) : (modRing b n f).lts = b.lts := rfl
@[simp] theorem modRing_tile (b : Blk) (n : Nat) (f : Ring → Ring) : (modRing b n f).tile = b.tile := rfl
@[simp] theorem modRing_tun (b : Blk) (n : Nat) (f : Ring → Ring) : (modRing b n f).tun = b.tun := rfl
@[simp] theorem modRing_vec (b : Blk) (n : Nat) (f : Ring → Ring) : (modRing b n f).vec = b.vec := rfl
@[simp] theorem modRing_epi (b : Blk) (n : Nat) (f : Ring → Ring) : (modRing b n f).epi = b.epi := rfl
@[simp] theorem modRing_ports (b : Blk) (n : Nat) (f : Ring → Ring) : (modRing b n f).ports = b.ports := rfl
@[simp] theorem modRing_obs (b : Blk) (n : Nat) (f : Ring → Ring) : (modRing b n f).obs = b.obs := rfl
@[simp] theorem modRing_chain (b : Blk) (n : Nat) (f : Ring → Ring) : (modRing b n f).chain = b.chain := rfl
@[simp] theorem modRing_sync (b : Blk) (n : Nat) (f : Ring → Ring) : (modRing b n f).sync = b.sync := rfl
@[simp] theorem modRing_dma (b : Blk) (n : Nat) (f : Ring → Ring) : (modRing b n f).dma = b.dma := rfl
@[simp] theorem modRing_sparge (b : Blk) (n : Nat) (f : Ring → Ring) : (modRing b n f).sparge = b.sparge := rfl
@[simp] theorem modRing_pwr (b : Blk) (n : Nat) (f : Ring → Ring) : (modRing b n f).pwr = b.pwr := rfl
@[simp] theorem modRing_malt (b : Blk) (n : Nat) (f : Ring → Ring) : (modRing b n f).malt = b.malt := rfl
@[simp] theorem modRing_sys (b : Blk) (n : Nat) (f : Ring → Ring) : (modRing b n f).sys = b.sys := rfl
@[simp] theorem modRing_freeCount (b : Blk) (n : Nat) (f : Ring → Ring) : (modRing b n f).freeCount = b.freeCount := rfl

@[simp] theorem logClamp_core (b : Blk) (ring code index supplied applied : Nat) : (logClamp b ring code index supplied applied).core = b.core := rfl
@[simp] theorem logClamp_mmu (b : Blk) (ring code index supplied applied : Nat) : (logClamp b ring code index supplied applied).mmu = b.mmu := rfl
@[simp] theorem logClamp_caches (b : Blk) (ring code index supplied applied : Nat) : (logClamp b ring code index supplied applied).caches = b.caches := rfl
@[simp] theorem logClamp_err (b : Blk) (ring code index supplied applied : Nat) : (logClamp b ring code index supplied applied).err = b.err := rfl
@[simp] theorem logClamp_lts (b : Blk) (ring code index supplied applied : Nat) : (logClamp b ring code index supplied applied).lts = b.lts := rfl
@[simp] theorem logClamp_tile (b : Blk) (ring code index supplied applied : Nat) : (logClamp b ring code index supplied applied).tile = b.tile := rfl
@[simp] theorem logClamp_tun (b : Blk) (ring code index supplied applied : Nat) : (logClamp b ring code index supplied applied).tun = b.tun := rfl
@[simp] theorem logClamp_vec (b : Blk) (ring code index supplied applied : Nat) : (logClamp b ring code index supplied applied).vec = b.vec := rfl
@[simp] theorem logClamp_epi (b : Blk) (ring code index supplied applied : Nat) : (logClamp b ring code index supplied applied).epi = b.epi := rfl
@[simp] theorem logClamp_ports (b : Blk) (ring code index supplied applied : Nat) : (logClamp b ring code index supplied applied).ports = b.ports := rfl
@[simp] theorem logClamp_obs (b : Blk) (ring code index supplied applied : Nat) : (logClamp b ring code index supplied applied).obs = b.obs := rfl
@[simp] theorem logClamp_chain (b : Blk) (ring code index supplied applied : Nat) : (logClamp b ring code index supplied applied).chain = b.chain := rfl
@[simp] theorem logClamp_sync (b : Blk) (ring code index supplied applied : Nat) : (logClamp b ring code index supplied applied).sync = b.sync := rfl
@[simp] theorem logClamp_dma (b : Blk) (ring code index supplied applied : Nat) : (logClamp b ring code index supplied applied).dma = b.dma := rfl
@[simp] theorem logClamp_sparge (b : Blk) (ring code index supplied applied : Nat) : (logClamp b ring code index supplied applied).sparge = b.sparge := rfl
@[simp] theorem logClamp_pwr (b : Blk) (ring code index supplied applied : Nat) : (logClamp b ring code index supplied applied).pwr = b.pwr := rfl
@[simp] theorem logClamp_malt (b : Blk) (ring code index supplied applied : Nat) : (logClamp b ring code index supplied applied).malt = b.malt := rfl
@[simp] theorem logClamp_sys (b : Blk) (ring code index supplied applied : Nat) : (logClamp b ring code index supplied applied).sys = b.sys := rfl
@[simp] theorem logClamp_freeCount (b : Blk) (ring code index supplied applied : Nat) : (logClamp b ring code index supplied applied).freeCount = b.freeCount := rfl

@[simp] theorem setDmaCh_core (b : Blk) (n : Nat) (x : DmaCh) : (setDmaCh b n x).core = b.core := rfl
@[simp] theorem setDmaCh_mmu (b : Blk) (n : Nat) (x : DmaCh) : (setDmaCh b n x).mmu = b.mmu := rfl
@[simp] theorem setDmaCh_caches (b : Blk) (n : Nat) (x : DmaCh) : (setDmaCh b n x).caches = b.caches := rfl
@[simp] theorem setDmaCh_err (b : Blk) (n : Nat) (x : DmaCh) : (setDmaCh b n x).err = b.err := rfl
@[simp] theorem setDmaCh_lts (b : Blk) (n : Nat) (x : DmaCh) : (setDmaCh b n x).lts = b.lts := rfl
@[simp] theorem setDmaCh_tile (b : Blk) (n : Nat) (x : DmaCh) : (setDmaCh b n x).tile = b.tile := rfl
@[simp] theorem setDmaCh_tun (b : Blk) (n : Nat) (x : DmaCh) : (setDmaCh b n x).tun = b.tun := rfl
@[simp] theorem setDmaCh_vec (b : Blk) (n : Nat) (x : DmaCh) : (setDmaCh b n x).vec = b.vec := rfl
@[simp] theorem setDmaCh_epi (b : Blk) (n : Nat) (x : DmaCh) : (setDmaCh b n x).epi = b.epi := rfl
@[simp] theorem setDmaCh_ports (b : Blk) (n : Nat) (x : DmaCh) : (setDmaCh b n x).ports = b.ports := rfl
@[simp] theorem setDmaCh_obs (b : Blk) (n : Nat) (x : DmaCh) : (setDmaCh b n x).obs = b.obs := rfl
@[simp] theorem setDmaCh_chain (b : Blk) (n : Nat) (x : DmaCh) : (setDmaCh b n x).chain = b.chain := rfl
@[simp] theorem setDmaCh_sync (b : Blk) (n : Nat) (x : DmaCh) : (setDmaCh b n x).sync = b.sync := rfl
@[simp] theorem setDmaCh_rings (b : Blk) (n : Nat) (x : DmaCh) : (setDmaCh b n x).rings = b.rings := rfl
@[simp] theorem setDmaCh_sparge (b : Blk) (n : Nat) (x : DmaCh) : (setDmaCh b n x).sparge = b.sparge := rfl
@[simp] theorem setDmaCh_pwr (b : Blk) (n : Nat) (x : DmaCh) : (setDmaCh b n x).pwr = b.pwr := rfl
@[simp] theorem setDmaCh_malt (b : Blk) (n : Nat) (x : DmaCh) : (setDmaCh b n x).malt = b.malt := rfl
@[simp] theorem setDmaCh_sys (b : Blk) (n : Nat) (x : DmaCh) : (setDmaCh b n x).sys = b.sys := rfl
@[simp] theorem setDmaCh_freeCount (b : Blk) (n : Nat) (x : DmaCh) : (setDmaCh b n x).freeCount = b.freeCount := rfl

@[simp] theorem dropDmaCh_core (b : Blk) (n : Nat) : (dropDmaCh b n).core = b.core := rfl
@[simp] theorem dropDmaCh_mmu (b : Blk) (n : Nat) : (dropDmaCh b n).mmu = b.mmu := rfl
@[simp] theorem dropDmaCh_caches (b : Blk) (n : Nat) : (dropDmaCh b n).caches = b.caches := rfl
@[simp] theorem dropDmaCh_err (b : Blk) (n : Nat) : (dropDmaCh b n).err = b.err := rfl
@[simp] theorem dropDmaCh_lts (b : Blk) (n : Nat) : (dropDmaCh b n).lts = b.lts := rfl
@[simp] theorem dropDmaCh_tile (b : Blk) (n : Nat) : (dropDmaCh b n).tile = b.tile := rfl
@[simp] theorem dropDmaCh_tun (b : Blk) (n : Nat) : (dropDmaCh b n).tun = b.tun := rfl
@[simp] theorem dropDmaCh_vec (b : Blk) (n : Nat) : (dropDmaCh b n).vec = b.vec := rfl
@[simp] theorem dropDmaCh_epi (b : Blk) (n : Nat) : (dropDmaCh b n).epi = b.epi := rfl
@[simp] theorem dropDmaCh_ports (b : Blk) (n : Nat) : (dropDmaCh b n).ports = b.ports := rfl
@[simp] theorem dropDmaCh_obs (b : Blk) (n : Nat) : (dropDmaCh b n).obs = b.obs := rfl
@[simp] theorem dropDmaCh_chain (b : Blk) (n : Nat) : (dropDmaCh b n).chain = b.chain := rfl
@[simp] theorem dropDmaCh_sync (b : Blk) (n : Nat) : (dropDmaCh b n).sync = b.sync := rfl
@[simp] theorem dropDmaCh_rings (b : Blk) (n : Nat) : (dropDmaCh b n).rings = b.rings := rfl
@[simp] theorem dropDmaCh_sparge (b : Blk) (n : Nat) : (dropDmaCh b n).sparge = b.sparge := rfl
@[simp] theorem dropDmaCh_pwr (b : Blk) (n : Nat) : (dropDmaCh b n).pwr = b.pwr := rfl
@[simp] theorem dropDmaCh_malt (b : Blk) (n : Nat) : (dropDmaCh b n).malt = b.malt := rfl
@[simp] theorem dropDmaCh_sys (b : Blk) (n : Nat) : (dropDmaCh b n).sys = b.sys := rfl
@[simp] theorem dropDmaCh_freeCount (b : Blk) (n : Nat) : (dropDmaCh b n).freeCount = b.freeCount := rfl

@[simp] theorem setStream_core (b : Blk) (n : Nat) (x : Stream) : (setStream b n x).core = b.core := rfl
@[simp] theorem setStream_mmu (b : Blk) (n : Nat) (x : Stream) : (setStream b n x).mmu = b.mmu := rfl
@[simp] theorem setStream_caches (b : Blk) (n : Nat) (x : Stream) : (setStream b n x).caches = b.caches := rfl
@[simp] theorem setStream_err (b : Blk) (n : Nat) (x : Stream) : (setStream b n x).err = b.err := rfl
@[simp] theorem setStream_lts (b : Blk) (n : Nat) (x : Stream) : (setStream b n x).lts = b.lts := rfl
@[simp] theorem setStream_tile (b : Blk) (n : Nat) (x : Stream) : (setStream b n x).tile = b.tile := rfl
@[simp] theorem setStream_tun (b : Blk) (n : Nat) (x : Stream) : (setStream b n x).tun = b.tun := rfl
@[simp] theorem setStream_vec (b : Blk) (n : Nat) (x : Stream) : (setStream b n x).vec = b.vec := rfl
@[simp] theorem setStream_epi (b : Blk) (n : Nat) (x : Stream) : (setStream b n x).epi = b.epi := rfl
@[simp] theorem setStream_ports (b : Blk) (n : Nat) (x : Stream) : (setStream b n x).ports = b.ports := rfl
@[simp] theorem setStream_obs (b : Blk) (n : Nat) (x : Stream) : (setStream b n x).obs = b.obs := rfl
@[simp] theorem setStream_chain (b : Blk) (n : Nat) (x : Stream) : (setStream b n x).chain = b.chain := rfl
@[simp] theorem setStream_sync (b : Blk) (n : Nat) (x : Stream) : (setStream b n x).sync = b.sync := rfl
@[simp] theorem setStream_rings (b : Blk) (n : Nat) (x : Stream) : (setStream b n x).rings = b.rings := rfl
@[simp] theorem setStream_dma (b : Blk) (n : Nat) (x : Stream) : (setStream b n x).dma = b.dma := rfl
@[simp] theorem setStream_pwr (b : Blk) (n : Nat) (x : Stream) : (setStream b n x).pwr = b.pwr := rfl
@[simp] theorem setStream_malt (b : Blk) (n : Nat) (x : Stream) : (setStream b n x).malt = b.malt := rfl
@[simp] theorem setStream_sys (b : Blk) (n : Nat) (x : Stream) : (setStream b n x).sys = b.sys := rfl
@[simp] theorem setStream_freeCount (b : Blk) (n : Nat) (x : Stream) : (setStream b n x).freeCount = b.freeCount := rfl

@[simp] theorem dropStream_core (b : Blk) (n : Nat) : (dropStream b n).core = b.core := rfl
@[simp] theorem dropStream_mmu (b : Blk) (n : Nat) : (dropStream b n).mmu = b.mmu := rfl
@[simp] theorem dropStream_caches (b : Blk) (n : Nat) : (dropStream b n).caches = b.caches := rfl
@[simp] theorem dropStream_err (b : Blk) (n : Nat) : (dropStream b n).err = b.err := rfl
@[simp] theorem dropStream_lts (b : Blk) (n : Nat) : (dropStream b n).lts = b.lts := rfl
@[simp] theorem dropStream_tile (b : Blk) (n : Nat) : (dropStream b n).tile = b.tile := rfl
@[simp] theorem dropStream_tun (b : Blk) (n : Nat) : (dropStream b n).tun = b.tun := rfl
@[simp] theorem dropStream_vec (b : Blk) (n : Nat) : (dropStream b n).vec = b.vec := rfl
@[simp] theorem dropStream_epi (b : Blk) (n : Nat) : (dropStream b n).epi = b.epi := rfl
@[simp] theorem dropStream_ports (b : Blk) (n : Nat) : (dropStream b n).ports = b.ports := rfl
@[simp] theorem dropStream_obs (b : Blk) (n : Nat) : (dropStream b n).obs = b.obs := rfl
@[simp] theorem dropStream_chain (b : Blk) (n : Nat) : (dropStream b n).chain = b.chain := rfl
@[simp] theorem dropStream_sync (b : Blk) (n : Nat) : (dropStream b n).sync = b.sync := rfl
@[simp] theorem dropStream_dma (b : Blk) (n : Nat) : (dropStream b n).dma = b.dma := rfl
@[simp] theorem dropStream_pwr (b : Blk) (n : Nat) : (dropStream b n).pwr = b.pwr := rfl
@[simp] theorem dropStream_malt (b : Blk) (n : Nat) : (dropStream b n).malt = b.malt := rfl
@[simp] theorem dropStream_sys (b : Blk) (n : Nat) : (dropStream b n).sys = b.sys := rfl
@[simp] theorem dropStream_freeCount (b : Blk) (n : Nat) : (dropStream b n).freeCount = b.freeCount := rfl

@[simp] theorem spargeEpoch_core (b : Blk) : (spargeEpoch b).core = b.core := rfl
@[simp] theorem spargeEpoch_mmu (b : Blk) : (spargeEpoch b).mmu = b.mmu := rfl
@[simp] theorem spargeEpoch_caches (b : Blk) : (spargeEpoch b).caches = b.caches := rfl
@[simp] theorem spargeEpoch_err (b : Blk) : (spargeEpoch b).err = b.err := rfl
@[simp] theorem spargeEpoch_lts (b : Blk) : (spargeEpoch b).lts = b.lts := rfl
@[simp] theorem spargeEpoch_tile (b : Blk) : (spargeEpoch b).tile = b.tile := rfl
@[simp] theorem spargeEpoch_tun (b : Blk) : (spargeEpoch b).tun = b.tun := rfl
@[simp] theorem spargeEpoch_vec (b : Blk) : (spargeEpoch b).vec = b.vec := rfl
@[simp] theorem spargeEpoch_epi (b : Blk) : (spargeEpoch b).epi = b.epi := rfl
@[simp] theorem spargeEpoch_ports (b : Blk) : (spargeEpoch b).ports = b.ports := rfl
@[simp] theorem spargeEpoch_obs (b : Blk) : (spargeEpoch b).obs = b.obs := rfl
@[simp] theorem spargeEpoch_chain (b : Blk) : (spargeEpoch b).chain = b.chain := rfl
@[simp] theorem spargeEpoch_sync (b : Blk) : (spargeEpoch b).sync = b.sync := rfl
@[simp] theorem spargeEpoch_dma (b : Blk) : (spargeEpoch b).dma = b.dma := rfl
@[simp] theorem spargeEpoch_sparge (b : Blk) : (spargeEpoch b).sparge = b.sparge := rfl
@[simp] theorem spargeEpoch_pwr (b : Blk) : (spargeEpoch b).pwr = b.pwr := rfl
@[simp] theorem spargeEpoch_malt (b : Blk) : (spargeEpoch b).malt = b.malt := rfl
@[simp] theorem spargeEpoch_sys (b : Blk) : (spargeEpoch b).sys = b.sys := rfl
@[simp] theorem spargeEpoch_freeCount (b : Blk) : (spargeEpoch b).freeCount = b.freeCount := rfl

@[simp] theorem sprodAlign_core (b : Blk) (n : Nat) (s : Stream) : (sprodAlign b n s).core = b.core := rfl
@[simp] theorem sprodAlign_mmu (b : Blk) (n : Nat) (s : Stream) : (sprodAlign b n s).mmu = b.mmu := rfl
@[simp] theorem sprodAlign_caches (b : Blk) (n : Nat) (s : Stream) : (sprodAlign b n s).caches = b.caches := rfl
@[simp] theorem sprodAlign_err (b : Blk) (n : Nat) (s : Stream) : (sprodAlign b n s).err = b.err := rfl
@[simp] theorem sprodAlign_lts (b : Blk) (n : Nat) (s : Stream) : (sprodAlign b n s).lts = b.lts := rfl
@[simp] theorem sprodAlign_tile (b : Blk) (n : Nat) (s : Stream) : (sprodAlign b n s).tile = b.tile := rfl
@[simp] theorem sprodAlign_tun (b : Blk) (n : Nat) (s : Stream) : (sprodAlign b n s).tun = b.tun := rfl
@[simp] theorem sprodAlign_vec (b : Blk) (n : Nat) (s : Stream) : (sprodAlign b n s).vec = b.vec := rfl
@[simp] theorem sprodAlign_epi (b : Blk) (n : Nat) (s : Stream) : (sprodAlign b n s).epi = b.epi := rfl
@[simp] theorem sprodAlign_ports (b : Blk) (n : Nat) (s : Stream) : (sprodAlign b n s).ports = b.ports := rfl
@[simp] theorem sprodAlign_obs (b : Blk) (n : Nat) (s : Stream) : (sprodAlign b n s).obs = b.obs := rfl
@[simp] theorem sprodAlign_chain (b : Blk) (n : Nat) (s : Stream) : (sprodAlign b n s).chain = b.chain := rfl
@[simp] theorem sprodAlign_sync (b : Blk) (n : Nat) (s : Stream) : (sprodAlign b n s).sync = b.sync := rfl
@[simp] theorem sprodAlign_rings (b : Blk) (n : Nat) (s : Stream) : (sprodAlign b n s).rings = b.rings := rfl
@[simp] theorem sprodAlign_dma (b : Blk) (n : Nat) (s : Stream) : (sprodAlign b n s).dma = b.dma := rfl
@[simp] theorem sprodAlign_pwr (b : Blk) (n : Nat) (s : Stream) : (sprodAlign b n s).pwr = b.pwr := rfl
@[simp] theorem sprodAlign_malt (b : Blk) (n : Nat) (s : Stream) : (sprodAlign b n s).malt = b.malt := rfl
@[simp] theorem sprodAlign_sys (b : Blk) (n : Nat) (s : Stream) : (sprodAlign b n s).sys = b.sys := rfl
@[simp] theorem sprodAlign_freeCount (b : Blk) (n : Nat) (s : Stream) : (sprodAlign b n s).freeCount = b.freeCount := rfl

@[simp] theorem finishDesc_core (b : Blk) (n : Nat) (status : BitVec 8) (result detail : W32) (epoch : BitVec 16) : (finishDesc b n status result detail epoch).core = b.core := rfl
@[simp] theorem finishDesc_mmu (b : Blk) (n : Nat) (status : BitVec 8) (result detail : W32) (epoch : BitVec 16) : (finishDesc b n status result detail epoch).mmu = b.mmu := rfl
@[simp] theorem finishDesc_caches (b : Blk) (n : Nat) (status : BitVec 8) (result detail : W32) (epoch : BitVec 16) : (finishDesc b n status result detail epoch).caches = b.caches := rfl
@[simp] theorem finishDesc_err (b : Blk) (n : Nat) (status : BitVec 8) (result detail : W32) (epoch : BitVec 16) : (finishDesc b n status result detail epoch).err = b.err := rfl
@[simp] theorem finishDesc_lts (b : Blk) (n : Nat) (status : BitVec 8) (result detail : W32) (epoch : BitVec 16) : (finishDesc b n status result detail epoch).lts = b.lts := rfl
@[simp] theorem finishDesc_tile (b : Blk) (n : Nat) (status : BitVec 8) (result detail : W32) (epoch : BitVec 16) : (finishDesc b n status result detail epoch).tile = b.tile := rfl
@[simp] theorem finishDesc_tun (b : Blk) (n : Nat) (status : BitVec 8) (result detail : W32) (epoch : BitVec 16) : (finishDesc b n status result detail epoch).tun = b.tun := rfl
@[simp] theorem finishDesc_vec (b : Blk) (n : Nat) (status : BitVec 8) (result detail : W32) (epoch : BitVec 16) : (finishDesc b n status result detail epoch).vec = b.vec := rfl
@[simp] theorem finishDesc_epi (b : Blk) (n : Nat) (status : BitVec 8) (result detail : W32) (epoch : BitVec 16) : (finishDesc b n status result detail epoch).epi = b.epi := rfl
@[simp] theorem finishDesc_ports (b : Blk) (n : Nat) (status : BitVec 8) (result detail : W32) (epoch : BitVec 16) : (finishDesc b n status result detail epoch).ports = b.ports := rfl
@[simp] theorem finishDesc_obs (b : Blk) (n : Nat) (status : BitVec 8) (result detail : W32) (epoch : BitVec 16) : (finishDesc b n status result detail epoch).obs = b.obs := rfl
@[simp] theorem finishDesc_chain (b : Blk) (n : Nat) (status : BitVec 8) (result detail : W32) (epoch : BitVec 16) : (finishDesc b n status result detail epoch).chain = b.chain := rfl
@[simp] theorem finishDesc_sync (b : Blk) (n : Nat) (status : BitVec 8) (result detail : W32) (epoch : BitVec 16) : (finishDesc b n status result detail epoch).sync = b.sync := rfl
@[simp] theorem finishDesc_dma (b : Blk) (n : Nat) (status : BitVec 8) (result detail : W32) (epoch : BitVec 16) : (finishDesc b n status result detail epoch).dma = b.dma := rfl
@[simp] theorem finishDesc_sparge (b : Blk) (n : Nat) (status : BitVec 8) (result detail : W32) (epoch : BitVec 16) : (finishDesc b n status result detail epoch).sparge = b.sparge := rfl
@[simp] theorem finishDesc_pwr (b : Blk) (n : Nat) (status : BitVec 8) (result detail : W32) (epoch : BitVec 16) : (finishDesc b n status result detail epoch).pwr = b.pwr := rfl
@[simp] theorem finishDesc_malt (b : Blk) (n : Nat) (status : BitVec 8) (result detail : W32) (epoch : BitVec 16) : (finishDesc b n status result detail epoch).malt = b.malt := rfl
@[simp] theorem finishDesc_sys (b : Blk) (n : Nat) (status : BitVec 8) (result detail : W32) (epoch : BitVec 16) : (finishDesc b n status result detail epoch).sys = b.sys := rfl
@[simp] theorem finishDesc_freeCount (b : Blk) (n : Nat) (status : BitVec 8) (result detail : W32) (epoch : BitVec 16) : (finishDesc b n status result detail epoch).freeCount = b.freeCount := rfl

@[simp] theorem setCge_core (b : Blk) (n : Nat) (e : CgtEntry) : (setCge b n e).core = b.core := rfl
@[simp] theorem setCge_mmu (b : Blk) (n : Nat) (e : CgtEntry) : (setCge b n e).mmu = b.mmu := rfl
@[simp] theorem setCge_caches (b : Blk) (n : Nat) (e : CgtEntry) : (setCge b n e).caches = b.caches := rfl
@[simp] theorem setCge_err (b : Blk) (n : Nat) (e : CgtEntry) : (setCge b n e).err = b.err := rfl
@[simp] theorem setCge_lts (b : Blk) (n : Nat) (e : CgtEntry) : (setCge b n e).lts = b.lts := rfl
@[simp] theorem setCge_tile (b : Blk) (n : Nat) (e : CgtEntry) : (setCge b n e).tile = b.tile := rfl
@[simp] theorem setCge_tun (b : Blk) (n : Nat) (e : CgtEntry) : (setCge b n e).tun = b.tun := rfl
@[simp] theorem setCge_vec (b : Blk) (n : Nat) (e : CgtEntry) : (setCge b n e).vec = b.vec := rfl
@[simp] theorem setCge_epi (b : Blk) (n : Nat) (e : CgtEntry) : (setCge b n e).epi = b.epi := rfl
@[simp] theorem setCge_ports (b : Blk) (n : Nat) (e : CgtEntry) : (setCge b n e).ports = b.ports := rfl
@[simp] theorem setCge_obs (b : Blk) (n : Nat) (e : CgtEntry) : (setCge b n e).obs = b.obs := rfl
@[simp] theorem setCge_sync (b : Blk) (n : Nat) (e : CgtEntry) : (setCge b n e).sync = b.sync := rfl
@[simp] theorem setCge_rings (b : Blk) (n : Nat) (e : CgtEntry) : (setCge b n e).rings = b.rings := rfl
@[simp] theorem setCge_dma (b : Blk) (n : Nat) (e : CgtEntry) : (setCge b n e).dma = b.dma := rfl
@[simp] theorem setCge_sparge (b : Blk) (n : Nat) (e : CgtEntry) : (setCge b n e).sparge = b.sparge := rfl
@[simp] theorem setCge_pwr (b : Blk) (n : Nat) (e : CgtEntry) : (setCge b n e).pwr = b.pwr := rfl
@[simp] theorem setCge_malt (b : Blk) (n : Nat) (e : CgtEntry) : (setCge b n e).malt = b.malt := rfl
@[simp] theorem setCge_sys (b : Blk) (n : Nat) (e : CgtEntry) : (setCge b n e).sys = b.sys := rfl
@[simp] theorem setCge_freeCount (b : Blk) (n : Nat) (e : CgtEntry) : (setCge b n e).freeCount = b.freeCount := rfl

@[simp] theorem withObject_core (b : Blk) (o : BitVec 16) (v : W32) : (withObject b o v).core = b.core := rfl
@[simp] theorem withObject_mmu (b : Blk) (o : BitVec 16) (v : W32) : (withObject b o v).mmu = b.mmu := rfl
@[simp] theorem withObject_caches (b : Blk) (o : BitVec 16) (v : W32) : (withObject b o v).caches = b.caches := rfl
@[simp] theorem withObject_err (b : Blk) (o : BitVec 16) (v : W32) : (withObject b o v).err = b.err := rfl
@[simp] theorem withObject_lts (b : Blk) (o : BitVec 16) (v : W32) : (withObject b o v).lts = b.lts := rfl
@[simp] theorem withObject_tile (b : Blk) (o : BitVec 16) (v : W32) : (withObject b o v).tile = b.tile := rfl
@[simp] theorem withObject_tun (b : Blk) (o : BitVec 16) (v : W32) : (withObject b o v).tun = b.tun := rfl
@[simp] theorem withObject_vec (b : Blk) (o : BitVec 16) (v : W32) : (withObject b o v).vec = b.vec := rfl
@[simp] theorem withObject_epi (b : Blk) (o : BitVec 16) (v : W32) : (withObject b o v).epi = b.epi := rfl
@[simp] theorem withObject_ports (b : Blk) (o : BitVec 16) (v : W32) : (withObject b o v).ports = b.ports := rfl
@[simp] theorem withObject_obs (b : Blk) (o : BitVec 16) (v : W32) : (withObject b o v).obs = b.obs := rfl
@[simp] theorem withObject_chain (b : Blk) (o : BitVec 16) (v : W32) : (withObject b o v).chain = b.chain := rfl
@[simp] theorem withObject_rings (b : Blk) (o : BitVec 16) (v : W32) : (withObject b o v).rings = b.rings := rfl
@[simp] theorem withObject_dma (b : Blk) (o : BitVec 16) (v : W32) : (withObject b o v).dma = b.dma := rfl
@[simp] theorem withObject_sparge (b : Blk) (o : BitVec 16) (v : W32) : (withObject b o v).sparge = b.sparge := rfl
@[simp] theorem withObject_pwr (b : Blk) (o : BitVec 16) (v : W32) : (withObject b o v).pwr = b.pwr := rfl
@[simp] theorem withObject_malt (b : Blk) (o : BitVec 16) (v : W32) : (withObject b o v).malt = b.malt := rfl
@[simp] theorem withObject_sys (b : Blk) (o : BitVec 16) (v : W32) : (withObject b o v).sys = b.sys := rfl
@[simp] theorem withObject_freeCount (b : Blk) (o : BitVec 16) (v : W32) : (withObject b o v).freeCount = b.freeCount := rfl

@[simp] theorem setPhase_core (b : Blk) (p : BitVec 4) : (setPhase b p).core = b.core := rfl
@[simp] theorem setPhase_mmu (b : Blk) (p : BitVec 4) : (setPhase b p).mmu = b.mmu := rfl
@[simp] theorem setPhase_caches (b : Blk) (p : BitVec 4) : (setPhase b p).caches = b.caches := rfl
@[simp] theorem setPhase_err (b : Blk) (p : BitVec 4) : (setPhase b p).err = b.err := rfl
@[simp] theorem setPhase_lts (b : Blk) (p : BitVec 4) : (setPhase b p).lts = b.lts := rfl
@[simp] theorem setPhase_tile (b : Blk) (p : BitVec 4) : (setPhase b p).tile = b.tile := rfl
@[simp] theorem setPhase_tun (b : Blk) (p : BitVec 4) : (setPhase b p).tun = b.tun := rfl
@[simp] theorem setPhase_vec (b : Blk) (p : BitVec 4) : (setPhase b p).vec = b.vec := rfl
@[simp] theorem setPhase_epi (b : Blk) (p : BitVec 4) : (setPhase b p).epi = b.epi := rfl
@[simp] theorem setPhase_ports (b : Blk) (p : BitVec 4) : (setPhase b p).ports = b.ports := rfl
@[simp] theorem setPhase_obs (b : Blk) (p : BitVec 4) : (setPhase b p).obs = b.obs := rfl
@[simp] theorem setPhase_chain (b : Blk) (p : BitVec 4) : (setPhase b p).chain = b.chain := rfl
@[simp] theorem setPhase_sync (b : Blk) (p : BitVec 4) : (setPhase b p).sync = b.sync := rfl
@[simp] theorem setPhase_rings (b : Blk) (p : BitVec 4) : (setPhase b p).rings = b.rings := rfl
@[simp] theorem setPhase_dma (b : Blk) (p : BitVec 4) : (setPhase b p).dma = b.dma := rfl
@[simp] theorem setPhase_sparge (b : Blk) (p : BitVec 4) : (setPhase b p).sparge = b.sparge := rfl
@[simp] theorem setPhase_pwr (b : Blk) (p : BitVec 4) : (setPhase b p).pwr = b.pwr := rfl
@[simp] theorem setPhase_malt (b : Blk) (p : BitVec 4) : (setPhase b p).malt = b.malt := rfl
@[simp] theorem setPhase_freeCount (b : Blk) (p : BitVec 4) : (setPhase b p).freeCount = b.freeCount := rfl

@[simp] theorem releaseAt_mmu (b : Blk) (pc : Word) : (releaseAt b pc).mmu = b.mmu := rfl
@[simp] theorem releaseAt_caches (b : Blk) (pc : Word) : (releaseAt b pc).caches = b.caches := rfl
@[simp] theorem releaseAt_err (b : Blk) (pc : Word) : (releaseAt b pc).err = b.err := rfl
@[simp] theorem releaseAt_lts (b : Blk) (pc : Word) : (releaseAt b pc).lts = b.lts := rfl
@[simp] theorem releaseAt_tile (b : Blk) (pc : Word) : (releaseAt b pc).tile = b.tile := rfl
@[simp] theorem releaseAt_tun (b : Blk) (pc : Word) : (releaseAt b pc).tun = b.tun := rfl
@[simp] theorem releaseAt_vec (b : Blk) (pc : Word) : (releaseAt b pc).vec = b.vec := rfl
@[simp] theorem releaseAt_epi (b : Blk) (pc : Word) : (releaseAt b pc).epi = b.epi := rfl
@[simp] theorem releaseAt_ports (b : Blk) (pc : Word) : (releaseAt b pc).ports = b.ports := rfl
@[simp] theorem releaseAt_obs (b : Blk) (pc : Word) : (releaseAt b pc).obs = b.obs := rfl
@[simp] theorem releaseAt_chain (b : Blk) (pc : Word) : (releaseAt b pc).chain = b.chain := rfl
@[simp] theorem releaseAt_sync (b : Blk) (pc : Word) : (releaseAt b pc).sync = b.sync := rfl
@[simp] theorem releaseAt_rings (b : Blk) (pc : Word) : (releaseAt b pc).rings = b.rings := rfl
@[simp] theorem releaseAt_dma (b : Blk) (pc : Word) : (releaseAt b pc).dma = b.dma := rfl
@[simp] theorem releaseAt_sparge (b : Blk) (pc : Word) : (releaseAt b pc).sparge = b.sparge := rfl
@[simp] theorem releaseAt_pwr (b : Blk) (pc : Word) : (releaseAt b pc).pwr = b.pwr := rfl
@[simp] theorem releaseAt_malt (b : Blk) (pc : Word) : (releaseAt b pc).malt = b.malt := rfl
@[simp] theorem releaseAt_sys (b : Blk) (pc : Word) : (releaseAt b pc).sys = b.sys := rfl
@[simp] theorem releaseAt_freeCount (b : Blk) (pc : Word) : (releaseAt b pc).freeCount = b.freeCount := rfl

@[simp] theorem ltsPutWord_core (b : Blk) (w : Nat) (v : Word) : (ltsPutWord b w v).core = b.core := rfl
@[simp] theorem ltsPutWord_mmu (b : Blk) (w : Nat) (v : Word) : (ltsPutWord b w v).mmu = b.mmu := rfl
@[simp] theorem ltsPutWord_caches (b : Blk) (w : Nat) (v : Word) : (ltsPutWord b w v).caches = b.caches := rfl
@[simp] theorem ltsPutWord_err (b : Blk) (w : Nat) (v : Word) : (ltsPutWord b w v).err = b.err := rfl
@[simp] theorem ltsPutWord_tile (b : Blk) (w : Nat) (v : Word) : (ltsPutWord b w v).tile = b.tile := rfl
@[simp] theorem ltsPutWord_tun (b : Blk) (w : Nat) (v : Word) : (ltsPutWord b w v).tun = b.tun := rfl
@[simp] theorem ltsPutWord_vec (b : Blk) (w : Nat) (v : Word) : (ltsPutWord b w v).vec = b.vec := rfl
@[simp] theorem ltsPutWord_epi (b : Blk) (w : Nat) (v : Word) : (ltsPutWord b w v).epi = b.epi := rfl
@[simp] theorem ltsPutWord_ports (b : Blk) (w : Nat) (v : Word) : (ltsPutWord b w v).ports = b.ports := rfl
@[simp] theorem ltsPutWord_obs (b : Blk) (w : Nat) (v : Word) : (ltsPutWord b w v).obs = b.obs := rfl
@[simp] theorem ltsPutWord_chain (b : Blk) (w : Nat) (v : Word) : (ltsPutWord b w v).chain = b.chain := rfl
@[simp] theorem ltsPutWord_sync (b : Blk) (w : Nat) (v : Word) : (ltsPutWord b w v).sync = b.sync := rfl
@[simp] theorem ltsPutWord_rings (b : Blk) (w : Nat) (v : Word) : (ltsPutWord b w v).rings = b.rings := rfl
@[simp] theorem ltsPutWord_dma (b : Blk) (w : Nat) (v : Word) : (ltsPutWord b w v).dma = b.dma := rfl
@[simp] theorem ltsPutWord_sparge (b : Blk) (w : Nat) (v : Word) : (ltsPutWord b w v).sparge = b.sparge := rfl
@[simp] theorem ltsPutWord_pwr (b : Blk) (w : Nat) (v : Word) : (ltsPutWord b w v).pwr = b.pwr := rfl
@[simp] theorem ltsPutWord_malt (b : Blk) (w : Nat) (v : Word) : (ltsPutWord b w v).malt = b.malt := rfl
@[simp] theorem ltsPutWord_sys (b : Blk) (w : Nat) (v : Word) : (ltsPutWord b w v).sys = b.sys := rfl
@[simp] theorem ltsPutWord_freeCount (b : Blk) (w : Nat) (v : Word) : (ltsPutWord b w v).freeCount = b.freeCount := rfl

@[simp] theorem countErr_core (b : Blk) : (countErr b).core = b.core := rfl
@[simp] theorem countErr_mmu (b : Blk) : (countErr b).mmu = b.mmu := rfl
@[simp] theorem countErr_caches (b : Blk) : (countErr b).caches = b.caches := rfl
@[simp] theorem countErr_lts (b : Blk) : (countErr b).lts = b.lts := rfl
@[simp] theorem countErr_tile (b : Blk) : (countErr b).tile = b.tile := rfl
@[simp] theorem countErr_tun (b : Blk) : (countErr b).tun = b.tun := rfl
@[simp] theorem countErr_vec (b : Blk) : (countErr b).vec = b.vec := rfl
@[simp] theorem countErr_epi (b : Blk) : (countErr b).epi = b.epi := rfl
@[simp] theorem countErr_ports (b : Blk) : (countErr b).ports = b.ports := rfl
@[simp] theorem countErr_obs (b : Blk) : (countErr b).obs = b.obs := rfl
@[simp] theorem countErr_chain (b : Blk) : (countErr b).chain = b.chain := rfl
@[simp] theorem countErr_sync (b : Blk) : (countErr b).sync = b.sync := rfl
@[simp] theorem countErr_rings (b : Blk) : (countErr b).rings = b.rings := rfl
@[simp] theorem countErr_dma (b : Blk) : (countErr b).dma = b.dma := rfl
@[simp] theorem countErr_sparge (b : Blk) : (countErr b).sparge = b.sparge := rfl
@[simp] theorem countErr_pwr (b : Blk) : (countErr b).pwr = b.pwr := rfl
@[simp] theorem countErr_malt (b : Blk) : (countErr b).malt = b.malt := rfl
@[simp] theorem countErr_sys (b : Blk) : (countErr b).sys = b.sys := rfl
@[simp] theorem countErr_freeCount (b : Blk) : (countErr b).freeCount = b.freeCount := rfl

@[simp] theorem maltGo_core (b : Blk) (i : Nat) (pc : Word) : (maltGo b i pc).core = b.core := rfl
@[simp] theorem maltGo_mmu (b : Blk) (i : Nat) (pc : Word) : (maltGo b i pc).mmu = b.mmu := rfl
@[simp] theorem maltGo_caches (b : Blk) (i : Nat) (pc : Word) : (maltGo b i pc).caches = b.caches := rfl
@[simp] theorem maltGo_err (b : Blk) (i : Nat) (pc : Word) : (maltGo b i pc).err = b.err := rfl
@[simp] theorem maltGo_lts (b : Blk) (i : Nat) (pc : Word) : (maltGo b i pc).lts = b.lts := rfl
@[simp] theorem maltGo_tile (b : Blk) (i : Nat) (pc : Word) : (maltGo b i pc).tile = b.tile := rfl
@[simp] theorem maltGo_tun (b : Blk) (i : Nat) (pc : Word) : (maltGo b i pc).tun = b.tun := rfl
@[simp] theorem maltGo_vec (b : Blk) (i : Nat) (pc : Word) : (maltGo b i pc).vec = b.vec := rfl
@[simp] theorem maltGo_epi (b : Blk) (i : Nat) (pc : Word) : (maltGo b i pc).epi = b.epi := rfl
@[simp] theorem maltGo_ports (b : Blk) (i : Nat) (pc : Word) : (maltGo b i pc).ports = b.ports := rfl
@[simp] theorem maltGo_obs (b : Blk) (i : Nat) (pc : Word) : (maltGo b i pc).obs = b.obs := rfl
@[simp] theorem maltGo_chain (b : Blk) (i : Nat) (pc : Word) : (maltGo b i pc).chain = b.chain := rfl
@[simp] theorem maltGo_sync (b : Blk) (i : Nat) (pc : Word) : (maltGo b i pc).sync = b.sync := rfl
@[simp] theorem maltGo_rings (b : Blk) (i : Nat) (pc : Word) : (maltGo b i pc).rings = b.rings := rfl
@[simp] theorem maltGo_dma (b : Blk) (i : Nat) (pc : Word) : (maltGo b i pc).dma = b.dma := rfl
@[simp] theorem maltGo_sparge (b : Blk) (i : Nat) (pc : Word) : (maltGo b i pc).sparge = b.sparge := rfl
@[simp] theorem maltGo_pwr (b : Blk) (i : Nat) (pc : Word) : (maltGo b i pc).pwr = b.pwr := rfl
@[simp] theorem maltGo_sys (b : Blk) (i : Nat) (pc : Word) : (maltGo b i pc).sys = b.sys := rfl
@[simp] theorem maltGo_freeCount (b : Blk) (i : Nat) (pc : Word) : (maltGo b i pc).freeCount = b.freeCount := rfl

@[simp] theorem obsLost_core (b : Blk) : (obsLost b).core = b.core := rfl
@[simp] theorem obsLost_mmu (b : Blk) : (obsLost b).mmu = b.mmu := rfl
@[simp] theorem obsLost_caches (b : Blk) : (obsLost b).caches = b.caches := rfl
@[simp] theorem obsLost_err (b : Blk) : (obsLost b).err = b.err := rfl
@[simp] theorem obsLost_lts (b : Blk) : (obsLost b).lts = b.lts := rfl
@[simp] theorem obsLost_tile (b : Blk) : (obsLost b).tile = b.tile := rfl
@[simp] theorem obsLost_tun (b : Blk) : (obsLost b).tun = b.tun := rfl
@[simp] theorem obsLost_vec (b : Blk) : (obsLost b).vec = b.vec := rfl
@[simp] theorem obsLost_epi (b : Blk) : (obsLost b).epi = b.epi := rfl
@[simp] theorem obsLost_ports (b : Blk) : (obsLost b).ports = b.ports := rfl
@[simp] theorem obsLost_chain (b : Blk) : (obsLost b).chain = b.chain := rfl
@[simp] theorem obsLost_sync (b : Blk) : (obsLost b).sync = b.sync := rfl
@[simp] theorem obsLost_rings (b : Blk) : (obsLost b).rings = b.rings := rfl
@[simp] theorem obsLost_dma (b : Blk) : (obsLost b).dma = b.dma := rfl
@[simp] theorem obsLost_sparge (b : Blk) : (obsLost b).sparge = b.sparge := rfl
@[simp] theorem obsLost_pwr (b : Blk) : (obsLost b).pwr = b.pwr := rfl
@[simp] theorem obsLost_malt (b : Blk) : (obsLost b).malt = b.malt := rfl
@[simp] theorem obsLost_sys (b : Blk) : (obsLost b).sys = b.sys := rfl
@[simp] theorem obsLost_freeCount (b : Blk) : (obsLost b).freeCount = b.freeCount := rfl

@[simp] theorem countIref_core (b : Blk) : (countIref b).core = b.core := rfl
@[simp] theorem countIref_mmu (b : Blk) : (countIref b).mmu = b.mmu := rfl
@[simp] theorem countIref_caches (b : Blk) : (countIref b).caches = b.caches := rfl
@[simp] theorem countIref_err (b : Blk) : (countIref b).err = b.err := rfl
@[simp] theorem countIref_lts (b : Blk) : (countIref b).lts = b.lts := rfl
@[simp] theorem countIref_tile (b : Blk) : (countIref b).tile = b.tile := rfl
@[simp] theorem countIref_tun (b : Blk) : (countIref b).tun = b.tun := rfl
@[simp] theorem countIref_vec (b : Blk) : (countIref b).vec = b.vec := rfl
@[simp] theorem countIref_epi (b : Blk) : (countIref b).epi = b.epi := rfl
@[simp] theorem countIref_obs (b : Blk) : (countIref b).obs = b.obs := rfl
@[simp] theorem countIref_chain (b : Blk) : (countIref b).chain = b.chain := rfl
@[simp] theorem countIref_sync (b : Blk) : (countIref b).sync = b.sync := rfl
@[simp] theorem countIref_rings (b : Blk) : (countIref b).rings = b.rings := rfl
@[simp] theorem countIref_dma (b : Blk) : (countIref b).dma = b.dma := rfl
@[simp] theorem countIref_sparge (b : Blk) : (countIref b).sparge = b.sparge := rfl
@[simp] theorem countIref_pwr (b : Blk) : (countIref b).pwr = b.pwr := rfl
@[simp] theorem countIref_malt (b : Blk) : (countIref b).malt = b.malt := rfl
@[simp] theorem countIref_sys (b : Blk) : (countIref b).sys = b.sys := rfl
@[simp] theorem countIref_freeCount (b : Blk) : (countIref b).freeCount = b.freeCount := rfl

@[simp] theorem maltSource_core (b : Blk) (i : Nat) : (maltSource b i).core = b.core := by unfold maltSource; dsimp only; (repeat' split) <;> rfl
@[simp] theorem maltSource_mmu (b : Blk) (i : Nat) : (maltSource b i).mmu = b.mmu := by unfold maltSource; dsimp only; (repeat' split) <;> rfl
@[simp] theorem maltSource_caches (b : Blk) (i : Nat) : (maltSource b i).caches = b.caches := by unfold maltSource; dsimp only; (repeat' split) <;> rfl
@[simp] theorem maltSource_err (b : Blk) (i : Nat) : (maltSource b i).err = b.err := by unfold maltSource; dsimp only; (repeat' split) <;> rfl
@[simp] theorem maltSource_lts (b : Blk) (i : Nat) : (maltSource b i).lts = b.lts := by unfold maltSource; dsimp only; (repeat' split) <;> rfl
@[simp] theorem maltSource_tile (b : Blk) (i : Nat) : (maltSource b i).tile = b.tile := by unfold maltSource; dsimp only; (repeat' split) <;> rfl
@[simp] theorem maltSource_tun (b : Blk) (i : Nat) : (maltSource b i).tun = b.tun := by unfold maltSource; dsimp only; (repeat' split) <;> rfl
@[simp] theorem maltSource_vec (b : Blk) (i : Nat) : (maltSource b i).vec = b.vec := by unfold maltSource; dsimp only; (repeat' split) <;> rfl
@[simp] theorem maltSource_epi (b : Blk) (i : Nat) : (maltSource b i).epi = b.epi := by unfold maltSource; dsimp only; (repeat' split) <;> rfl
@[simp] theorem maltSource_ports (b : Blk) (i : Nat) : (maltSource b i).ports = b.ports := by unfold maltSource; dsimp only; (repeat' split) <;> rfl
@[simp] theorem maltSource_obs (b : Blk) (i : Nat) : (maltSource b i).obs = b.obs := by unfold maltSource; dsimp only; (repeat' split) <;> rfl
@[simp] theorem maltSource_chain (b : Blk) (i : Nat) : (maltSource b i).chain = b.chain := by unfold maltSource; dsimp only; (repeat' split) <;> rfl
@[simp] theorem maltSource_sync (b : Blk) (i : Nat) : (maltSource b i).sync = b.sync := by unfold maltSource; dsimp only; (repeat' split) <;> rfl
@[simp] theorem maltSource_rings (b : Blk) (i : Nat) : (maltSource b i).rings = b.rings := by unfold maltSource; dsimp only; (repeat' split) <;> rfl
@[simp] theorem maltSource_dma (b : Blk) (i : Nat) : (maltSource b i).dma = b.dma := by unfold maltSource; dsimp only; (repeat' split) <;> rfl
@[simp] theorem maltSource_sparge (b : Blk) (i : Nat) : (maltSource b i).sparge = b.sparge := by unfold maltSource; dsimp only; (repeat' split) <;> rfl
@[simp] theorem maltSource_pwr (b : Blk) (i : Nat) : (maltSource b i).pwr = b.pwr := by unfold maltSource; dsimp only; (repeat' split) <;> rfl
@[simp] theorem maltSource_sys (b : Blk) (i : Nat) : (maltSource b i).sys = b.sys := by unfold maltSource; dsimp only; (repeat' split) <;> rfl
@[simp] theorem maltSource_freeCount (b : Blk) (i : Nat) : (maltSource b i).freeCount = b.freeCount := by unfold maltSource; dsimp only; (repeat' split) <;> rfl

@[simp] theorem wake_core (b : Blk) : (wake b).core = b.core := by unfold wake; dsimp only; (repeat' split) <;> rfl
@[simp] theorem wake_mmu (b : Blk) : (wake b).mmu = b.mmu := by unfold wake; dsimp only; (repeat' split) <;> rfl
@[simp] theorem wake_caches (b : Blk) : (wake b).caches = b.caches := by unfold wake; dsimp only; (repeat' split) <;> rfl
@[simp] theorem wake_err (b : Blk) : (wake b).err = b.err := by unfold wake; dsimp only; (repeat' split) <;> rfl
@[simp] theorem wake_lts (b : Blk) : (wake b).lts = b.lts := by unfold wake; dsimp only; (repeat' split) <;> rfl
@[simp] theorem wake_tile (b : Blk) : (wake b).tile = b.tile := by unfold wake; dsimp only; (repeat' split) <;> rfl
@[simp] theorem wake_tun (b : Blk) : (wake b).tun = b.tun := by unfold wake; dsimp only; (repeat' split) <;> rfl
@[simp] theorem wake_vec (b : Blk) : (wake b).vec = b.vec := by unfold wake; dsimp only; (repeat' split) <;> rfl
@[simp] theorem wake_epi (b : Blk) : (wake b).epi = b.epi := by unfold wake; dsimp only; (repeat' split) <;> rfl
@[simp] theorem wake_ports (b : Blk) : (wake b).ports = b.ports := by unfold wake; dsimp only; (repeat' split) <;> rfl
@[simp] theorem wake_obs (b : Blk) : (wake b).obs = b.obs := by unfold wake; dsimp only; (repeat' split) <;> rfl
@[simp] theorem wake_chain (b : Blk) : (wake b).chain = b.chain := by unfold wake; dsimp only; (repeat' split) <;> rfl
@[simp] theorem wake_sync (b : Blk) : (wake b).sync = b.sync := by unfold wake; dsimp only; (repeat' split) <;> rfl
@[simp] theorem wake_rings (b : Blk) : (wake b).rings = b.rings := by unfold wake; dsimp only; (repeat' split) <;> rfl
@[simp] theorem wake_dma (b : Blk) : (wake b).dma = b.dma := by unfold wake; dsimp only; (repeat' split) <;> rfl
@[simp] theorem wake_sparge (b : Blk) : (wake b).sparge = b.sparge := by unfold wake; dsimp only; (repeat' split) <;> rfl
@[simp] theorem wake_malt (b : Blk) : (wake b).malt = b.malt := by unfold wake; dsimp only; (repeat' split) <;> rfl
@[simp] theorem wake_sys (b : Blk) : (wake b).sys = b.sys := by unfold wake; dsimp only; (repeat' split) <;> rfl
@[simp] theorem wake_freeCount (b : Blk) : (wake b).freeCount = b.freeCount := by unfold wake; dsimp only; (repeat' split) <;> rfl

@[simp] theorem setLink_core (b : Blk) (p : BitVec 2) (l : Link) : (setLink b p l).core = b.core := by unfold setLink; dsimp only; (repeat' split) <;> rfl
@[simp] theorem setLink_mmu (b : Blk) (p : BitVec 2) (l : Link) : (setLink b p l).mmu = b.mmu := by unfold setLink; dsimp only; (repeat' split) <;> rfl
@[simp] theorem setLink_caches (b : Blk) (p : BitVec 2) (l : Link) : (setLink b p l).caches = b.caches := by unfold setLink; dsimp only; (repeat' split) <;> rfl
@[simp] theorem setLink_err (b : Blk) (p : BitVec 2) (l : Link) : (setLink b p l).err = b.err := by unfold setLink; dsimp only; (repeat' split) <;> rfl
@[simp] theorem setLink_lts (b : Blk) (p : BitVec 2) (l : Link) : (setLink b p l).lts = b.lts := by unfold setLink; dsimp only; (repeat' split) <;> rfl
@[simp] theorem setLink_tile (b : Blk) (p : BitVec 2) (l : Link) : (setLink b p l).tile = b.tile := by unfold setLink; dsimp only; (repeat' split) <;> rfl
@[simp] theorem setLink_tun (b : Blk) (p : BitVec 2) (l : Link) : (setLink b p l).tun = b.tun := by unfold setLink; dsimp only; (repeat' split) <;> rfl
@[simp] theorem setLink_vec (b : Blk) (p : BitVec 2) (l : Link) : (setLink b p l).vec = b.vec := by unfold setLink; dsimp only; (repeat' split) <;> rfl
@[simp] theorem setLink_epi (b : Blk) (p : BitVec 2) (l : Link) : (setLink b p l).epi = b.epi := by unfold setLink; dsimp only; (repeat' split) <;> rfl
@[simp] theorem setLink_obs (b : Blk) (p : BitVec 2) (l : Link) : (setLink b p l).obs = b.obs := by unfold setLink; dsimp only; (repeat' split) <;> rfl
@[simp] theorem setLink_chain (b : Blk) (p : BitVec 2) (l : Link) : (setLink b p l).chain = b.chain := by unfold setLink; dsimp only; (repeat' split) <;> rfl
@[simp] theorem setLink_sync (b : Blk) (p : BitVec 2) (l : Link) : (setLink b p l).sync = b.sync := by unfold setLink; dsimp only; (repeat' split) <;> rfl
@[simp] theorem setLink_rings (b : Blk) (p : BitVec 2) (l : Link) : (setLink b p l).rings = b.rings := by unfold setLink; dsimp only; (repeat' split) <;> rfl
@[simp] theorem setLink_dma (b : Blk) (p : BitVec 2) (l : Link) : (setLink b p l).dma = b.dma := by unfold setLink; dsimp only; (repeat' split) <;> rfl
@[simp] theorem setLink_sparge (b : Blk) (p : BitVec 2) (l : Link) : (setLink b p l).sparge = b.sparge := by unfold setLink; dsimp only; (repeat' split) <;> rfl
@[simp] theorem setLink_pwr (b : Blk) (p : BitVec 2) (l : Link) : (setLink b p l).pwr = b.pwr := by unfold setLink; dsimp only; (repeat' split) <;> rfl
@[simp] theorem setLink_malt (b : Blk) (p : BitVec 2) (l : Link) : (setLink b p l).malt = b.malt := by unfold setLink; dsimp only; (repeat' split) <;> rfl
@[simp] theorem setLink_sys (b : Blk) (p : BitVec 2) (l : Link) : (setLink b p l).sys = b.sys := by unfold setLink; dsimp only; (repeat' split) <;> rfl
@[simp] theorem setLink_freeCount (b : Blk) (p : BitVec 2) (l : Link) : (setLink b p l).freeCount = b.freeCount := by unfold setLink; dsimp only; (repeat' split) <;> rfl

@[simp] theorem modLink_core (b : Blk) (p : BitVec 2) (f : Link → Link) : (modLink b p f).core = b.core := by simp [modLink]
@[simp] theorem modLink_mmu (b : Blk) (p : BitVec 2) (f : Link → Link) : (modLink b p f).mmu = b.mmu := by simp [modLink]
@[simp] theorem modLink_caches (b : Blk) (p : BitVec 2) (f : Link → Link) : (modLink b p f).caches = b.caches := by simp [modLink]
@[simp] theorem modLink_err (b : Blk) (p : BitVec 2) (f : Link → Link) : (modLink b p f).err = b.err := by simp [modLink]
@[simp] theorem modLink_lts (b : Blk) (p : BitVec 2) (f : Link → Link) : (modLink b p f).lts = b.lts := by simp [modLink]
@[simp] theorem modLink_tile (b : Blk) (p : BitVec 2) (f : Link → Link) : (modLink b p f).tile = b.tile := by simp [modLink]
@[simp] theorem modLink_tun (b : Blk) (p : BitVec 2) (f : Link → Link) : (modLink b p f).tun = b.tun := by simp [modLink]
@[simp] theorem modLink_vec (b : Blk) (p : BitVec 2) (f : Link → Link) : (modLink b p f).vec = b.vec := by simp [modLink]
@[simp] theorem modLink_epi (b : Blk) (p : BitVec 2) (f : Link → Link) : (modLink b p f).epi = b.epi := by simp [modLink]
@[simp] theorem modLink_obs (b : Blk) (p : BitVec 2) (f : Link → Link) : (modLink b p f).obs = b.obs := by simp [modLink]
@[simp] theorem modLink_chain (b : Blk) (p : BitVec 2) (f : Link → Link) : (modLink b p f).chain = b.chain := by simp [modLink]
@[simp] theorem modLink_sync (b : Blk) (p : BitVec 2) (f : Link → Link) : (modLink b p f).sync = b.sync := by simp [modLink]
@[simp] theorem modLink_rings (b : Blk) (p : BitVec 2) (f : Link → Link) : (modLink b p f).rings = b.rings := by simp [modLink]
@[simp] theorem modLink_dma (b : Blk) (p : BitVec 2) (f : Link → Link) : (modLink b p f).dma = b.dma := by simp [modLink]
@[simp] theorem modLink_sparge (b : Blk) (p : BitVec 2) (f : Link → Link) : (modLink b p f).sparge = b.sparge := by simp [modLink]
@[simp] theorem modLink_pwr (b : Blk) (p : BitVec 2) (f : Link → Link) : (modLink b p f).pwr = b.pwr := by simp [modLink]
@[simp] theorem modLink_malt (b : Blk) (p : BitVec 2) (f : Link → Link) : (modLink b p f).malt = b.malt := by simp [modLink]
@[simp] theorem modLink_sys (b : Blk) (p : BitVec 2) (f : Link → Link) : (modLink b p f).sys = b.sys := by simp [modLink]
@[simp] theorem modLink_freeCount (b : Blk) (p : BitVec 2) (f : Link → Link) : (modLink b p f).freeCount = b.freeCount := by simp [modLink]

@[simp] theorem setEq_core (b : Blk) (e : Nat) (q : List Event) : (setEq b e q).core = b.core := by unfold setEq; dsimp only; (repeat' split) <;> rfl
@[simp] theorem setEq_mmu (b : Blk) (e : Nat) (q : List Event) : (setEq b e q).mmu = b.mmu := by unfold setEq; dsimp only; (repeat' split) <;> rfl
@[simp] theorem setEq_caches (b : Blk) (e : Nat) (q : List Event) : (setEq b e q).caches = b.caches := by unfold setEq; dsimp only; (repeat' split) <;> rfl
@[simp] theorem setEq_err (b : Blk) (e : Nat) (q : List Event) : (setEq b e q).err = b.err := by unfold setEq; dsimp only; (repeat' split) <;> rfl
@[simp] theorem setEq_lts (b : Blk) (e : Nat) (q : List Event) : (setEq b e q).lts = b.lts := by unfold setEq; dsimp only; (repeat' split) <;> rfl
@[simp] theorem setEq_tile (b : Blk) (e : Nat) (q : List Event) : (setEq b e q).tile = b.tile := by unfold setEq; dsimp only; (repeat' split) <;> rfl
@[simp] theorem setEq_tun (b : Blk) (e : Nat) (q : List Event) : (setEq b e q).tun = b.tun := by unfold setEq; dsimp only; (repeat' split) <;> rfl
@[simp] theorem setEq_vec (b : Blk) (e : Nat) (q : List Event) : (setEq b e q).vec = b.vec := by unfold setEq; dsimp only; (repeat' split) <;> rfl
@[simp] theorem setEq_epi (b : Blk) (e : Nat) (q : List Event) : (setEq b e q).epi = b.epi := by unfold setEq; dsimp only; (repeat' split) <;> rfl
@[simp] theorem setEq_ports (b : Blk) (e : Nat) (q : List Event) : (setEq b e q).ports = b.ports := by unfold setEq; dsimp only; (repeat' split) <;> rfl
@[simp] theorem setEq_obs (b : Blk) (e : Nat) (q : List Event) : (setEq b e q).obs = b.obs := by unfold setEq; dsimp only; (repeat' split) <;> rfl
@[simp] theorem setEq_chain (b : Blk) (e : Nat) (q : List Event) : (setEq b e q).chain = b.chain := by unfold setEq; dsimp only; (repeat' split) <;> rfl
@[simp] theorem setEq_sync (b : Blk) (e : Nat) (q : List Event) : (setEq b e q).sync = b.sync := by unfold setEq; dsimp only; (repeat' split) <;> rfl
@[simp] theorem setEq_dma (b : Blk) (e : Nat) (q : List Event) : (setEq b e q).dma = b.dma := by unfold setEq; dsimp only; (repeat' split) <;> rfl
@[simp] theorem setEq_sparge (b : Blk) (e : Nat) (q : List Event) : (setEq b e q).sparge = b.sparge := by unfold setEq; dsimp only; (repeat' split) <;> rfl
@[simp] theorem setEq_pwr (b : Blk) (e : Nat) (q : List Event) : (setEq b e q).pwr = b.pwr := by unfold setEq; dsimp only; (repeat' split) <;> rfl
@[simp] theorem setEq_malt (b : Blk) (e : Nat) (q : List Event) : (setEq b e q).malt = b.malt := by unfold setEq; dsimp only; (repeat' split) <;> rfl
@[simp] theorem setEq_sys (b : Blk) (e : Nat) (q : List Event) : (setEq b e q).sys = b.sys := by unfold setEq; dsimp only; (repeat' split) <;> rfl
@[simp] theorem setEq_freeCount (b : Blk) (e : Nat) (q : List Event) : (setEq b e q).freeCount = b.freeCount := by unfold setEq; dsimp only; (repeat' split) <;> rfl

@[simp] theorem logErr_core (b : Blk) (unit kind : Nat) (world : Bool) (addr : Word) : (logErr b unit kind world addr).core = b.core := by unfold logErr; dsimp only; (repeat' split) <;> rfl
@[simp] theorem logErr_mmu (b : Blk) (unit kind : Nat) (world : Bool) (addr : Word) : (logErr b unit kind world addr).mmu = b.mmu := by unfold logErr; dsimp only; (repeat' split) <;> rfl
@[simp] theorem logErr_caches (b : Blk) (unit kind : Nat) (world : Bool) (addr : Word) : (logErr b unit kind world addr).caches = b.caches := by unfold logErr; dsimp only; (repeat' split) <;> rfl
@[simp] theorem logErr_lts (b : Blk) (unit kind : Nat) (world : Bool) (addr : Word) : (logErr b unit kind world addr).lts = b.lts := by unfold logErr; dsimp only; (repeat' split) <;> rfl
@[simp] theorem logErr_tile (b : Blk) (unit kind : Nat) (world : Bool) (addr : Word) : (logErr b unit kind world addr).tile = b.tile := by unfold logErr; dsimp only; (repeat' split) <;> rfl
@[simp] theorem logErr_tun (b : Blk) (unit kind : Nat) (world : Bool) (addr : Word) : (logErr b unit kind world addr).tun = b.tun := by unfold logErr; dsimp only; (repeat' split) <;> rfl
@[simp] theorem logErr_vec (b : Blk) (unit kind : Nat) (world : Bool) (addr : Word) : (logErr b unit kind world addr).vec = b.vec := by unfold logErr; dsimp only; (repeat' split) <;> rfl
@[simp] theorem logErr_epi (b : Blk) (unit kind : Nat) (world : Bool) (addr : Word) : (logErr b unit kind world addr).epi = b.epi := by unfold logErr; dsimp only; (repeat' split) <;> rfl
@[simp] theorem logErr_ports (b : Blk) (unit kind : Nat) (world : Bool) (addr : Word) : (logErr b unit kind world addr).ports = b.ports := by unfold logErr; dsimp only; (repeat' split) <;> rfl
@[simp] theorem logErr_obs (b : Blk) (unit kind : Nat) (world : Bool) (addr : Word) : (logErr b unit kind world addr).obs = b.obs := by unfold logErr; dsimp only; (repeat' split) <;> rfl
@[simp] theorem logErr_chain (b : Blk) (unit kind : Nat) (world : Bool) (addr : Word) : (logErr b unit kind world addr).chain = b.chain := by unfold logErr; dsimp only; (repeat' split) <;> rfl
@[simp] theorem logErr_sync (b : Blk) (unit kind : Nat) (world : Bool) (addr : Word) : (logErr b unit kind world addr).sync = b.sync := by unfold logErr; dsimp only; (repeat' split) <;> rfl
@[simp] theorem logErr_rings (b : Blk) (unit kind : Nat) (world : Bool) (addr : Word) : (logErr b unit kind world addr).rings = b.rings := by unfold logErr; dsimp only; (repeat' split) <;> rfl
@[simp] theorem logErr_dma (b : Blk) (unit kind : Nat) (world : Bool) (addr : Word) : (logErr b unit kind world addr).dma = b.dma := by unfold logErr; dsimp only; (repeat' split) <;> rfl
@[simp] theorem logErr_sparge (b : Blk) (unit kind : Nat) (world : Bool) (addr : Word) : (logErr b unit kind world addr).sparge = b.sparge := by unfold logErr; dsimp only; (repeat' split) <;> rfl
@[simp] theorem logErr_pwr (b : Blk) (unit kind : Nat) (world : Bool) (addr : Word) : (logErr b unit kind world addr).pwr = b.pwr := by unfold logErr; dsimp only; (repeat' split) <;> rfl
@[simp] theorem logErr_malt (b : Blk) (unit kind : Nat) (world : Bool) (addr : Word) : (logErr b unit kind world addr).malt = b.malt := by unfold logErr; dsimp only; (repeat' split) <;> rfl
@[simp] theorem logErr_sys (b : Blk) (unit kind : Nat) (world : Bool) (addr : Word) : (logErr b unit kind world addr).sys = b.sys := by unfold logErr; dsimp only; (repeat' split) <;> rfl
@[simp] theorem logErr_freeCount (b : Blk) (unit kind : Nat) (world : Bool) (addr : Word) : (logErr b unit kind world addr).freeCount = b.freeCount := by unfold logErr; dsimp only; (repeat' split) <;> rfl

@[simp] theorem countEvents_core (b : Blk) (ev : Nat) (level : BitVec 2) (world : Bool) (k : Nat) : (countEvents b ev level world k).core = b.core := by unfold countEvents; dsimp only; (repeat' split) <;> rfl
@[simp] theorem countEvents_mmu (b : Blk) (ev : Nat) (level : BitVec 2) (world : Bool) (k : Nat) : (countEvents b ev level world k).mmu = b.mmu := by unfold countEvents; dsimp only; (repeat' split) <;> rfl
@[simp] theorem countEvents_caches (b : Blk) (ev : Nat) (level : BitVec 2) (world : Bool) (k : Nat) : (countEvents b ev level world k).caches = b.caches := by unfold countEvents; dsimp only; (repeat' split) <;> rfl
@[simp] theorem countEvents_err (b : Blk) (ev : Nat) (level : BitVec 2) (world : Bool) (k : Nat) : (countEvents b ev level world k).err = b.err := by unfold countEvents; dsimp only; (repeat' split) <;> rfl
@[simp] theorem countEvents_lts (b : Blk) (ev : Nat) (level : BitVec 2) (world : Bool) (k : Nat) : (countEvents b ev level world k).lts = b.lts := by unfold countEvents; dsimp only; (repeat' split) <;> rfl
@[simp] theorem countEvents_tile (b : Blk) (ev : Nat) (level : BitVec 2) (world : Bool) (k : Nat) : (countEvents b ev level world k).tile = b.tile := by unfold countEvents; dsimp only; (repeat' split) <;> rfl
@[simp] theorem countEvents_tun (b : Blk) (ev : Nat) (level : BitVec 2) (world : Bool) (k : Nat) : (countEvents b ev level world k).tun = b.tun := by unfold countEvents; dsimp only; (repeat' split) <;> rfl
@[simp] theorem countEvents_vec (b : Blk) (ev : Nat) (level : BitVec 2) (world : Bool) (k : Nat) : (countEvents b ev level world k).vec = b.vec := by unfold countEvents; dsimp only; (repeat' split) <;> rfl
@[simp] theorem countEvents_epi (b : Blk) (ev : Nat) (level : BitVec 2) (world : Bool) (k : Nat) : (countEvents b ev level world k).epi = b.epi := by unfold countEvents; dsimp only; (repeat' split) <;> rfl
@[simp] theorem countEvents_ports (b : Blk) (ev : Nat) (level : BitVec 2) (world : Bool) (k : Nat) : (countEvents b ev level world k).ports = b.ports := by unfold countEvents; dsimp only; (repeat' split) <;> rfl
@[simp] theorem countEvents_chain (b : Blk) (ev : Nat) (level : BitVec 2) (world : Bool) (k : Nat) : (countEvents b ev level world k).chain = b.chain := by unfold countEvents; dsimp only; (repeat' split) <;> rfl
@[simp] theorem countEvents_sync (b : Blk) (ev : Nat) (level : BitVec 2) (world : Bool) (k : Nat) : (countEvents b ev level world k).sync = b.sync := by unfold countEvents; dsimp only; (repeat' split) <;> rfl
@[simp] theorem countEvents_rings (b : Blk) (ev : Nat) (level : BitVec 2) (world : Bool) (k : Nat) : (countEvents b ev level world k).rings = b.rings := by unfold countEvents; dsimp only; (repeat' split) <;> rfl
@[simp] theorem countEvents_dma (b : Blk) (ev : Nat) (level : BitVec 2) (world : Bool) (k : Nat) : (countEvents b ev level world k).dma = b.dma := by unfold countEvents; dsimp only; (repeat' split) <;> rfl
@[simp] theorem countEvents_sparge (b : Blk) (ev : Nat) (level : BitVec 2) (world : Bool) (k : Nat) : (countEvents b ev level world k).sparge = b.sparge := by unfold countEvents; dsimp only; (repeat' split) <;> rfl
@[simp] theorem countEvents_pwr (b : Blk) (ev : Nat) (level : BitVec 2) (world : Bool) (k : Nat) : (countEvents b ev level world k).pwr = b.pwr := by unfold countEvents; dsimp only; (repeat' split) <;> rfl
@[simp] theorem countEvents_malt (b : Blk) (ev : Nat) (level : BitVec 2) (world : Bool) (k : Nat) : (countEvents b ev level world k).malt = b.malt := by unfold countEvents; dsimp only; (repeat' split) <;> rfl
@[simp] theorem countEvents_sys (b : Blk) (ev : Nat) (level : BitVec 2) (world : Bool) (k : Nat) : (countEvents b ev level world k).sys = b.sys := by unfold countEvents; dsimp only; (repeat' split) <;> rfl
@[simp] theorem countEvents_freeCount (b : Blk) (ev : Nat) (level : BitVec 2) (world : Bool) (k : Nat) : (countEvents b ev level world k).freeCount = b.freeCount := by unfold countEvents; dsimp only; (repeat' split) <;> rfl

@[simp] theorem fillLost_core (b : Blk) : (fillLost b).core = b.core := by unfold fillLost; dsimp only; (repeat' split) <;> rfl
@[simp] theorem fillLost_mmu (b : Blk) : (fillLost b).mmu = b.mmu := by unfold fillLost; dsimp only; (repeat' split) <;> rfl
@[simp] theorem fillLost_caches (b : Blk) : (fillLost b).caches = b.caches := by unfold fillLost; dsimp only; (repeat' split) <;> rfl
@[simp] theorem fillLost_err (b : Blk) : (fillLost b).err = b.err := by unfold fillLost; dsimp only; (repeat' split) <;> rfl
@[simp] theorem fillLost_lts (b : Blk) : (fillLost b).lts = b.lts := by unfold fillLost; dsimp only; (repeat' split) <;> rfl
@[simp] theorem fillLost_tile (b : Blk) : (fillLost b).tile = b.tile := by unfold fillLost; dsimp only; (repeat' split) <;> rfl
@[simp] theorem fillLost_tun (b : Blk) : (fillLost b).tun = b.tun := by unfold fillLost; dsimp only; (repeat' split) <;> rfl
@[simp] theorem fillLost_vec (b : Blk) : (fillLost b).vec = b.vec := by unfold fillLost; dsimp only; (repeat' split) <;> rfl
@[simp] theorem fillLost_epi (b : Blk) : (fillLost b).epi = b.epi := by unfold fillLost; dsimp only; (repeat' split) <;> rfl
@[simp] theorem fillLost_ports (b : Blk) : (fillLost b).ports = b.ports := by unfold fillLost; dsimp only; (repeat' split) <;> rfl
@[simp] theorem fillLost_chain (b : Blk) : (fillLost b).chain = b.chain := by unfold fillLost; dsimp only; (repeat' split) <;> rfl
@[simp] theorem fillLost_sync (b : Blk) : (fillLost b).sync = b.sync := by unfold fillLost; dsimp only; (repeat' split) <;> rfl
@[simp] theorem fillLost_rings (b : Blk) : (fillLost b).rings = b.rings := by unfold fillLost; dsimp only; (repeat' split) <;> rfl
@[simp] theorem fillLost_dma (b : Blk) : (fillLost b).dma = b.dma := by unfold fillLost; dsimp only; (repeat' split) <;> rfl
@[simp] theorem fillLost_sparge (b : Blk) : (fillLost b).sparge = b.sparge := by unfold fillLost; dsimp only; (repeat' split) <;> rfl
@[simp] theorem fillLost_pwr (b : Blk) : (fillLost b).pwr = b.pwr := by unfold fillLost; dsimp only; (repeat' split) <;> rfl
@[simp] theorem fillLost_malt (b : Blk) : (fillLost b).malt = b.malt := by unfold fillLost; dsimp only; (repeat' split) <;> rfl
@[simp] theorem fillLost_sys (b : Blk) : (fillLost b).sys = b.sys := by unfold fillLost; dsimp only; (repeat' split) <;> rfl
@[simp] theorem fillLost_freeCount (b : Blk) : (fillLost b).freeCount = b.freeCount := by unfold fillLost; dsimp only; (repeat' split) <;> rfl

@[simp] theorem emit_core (b : Blk) (p : ObsPacket) : (emit b p).core = b.core := by unfold emit; (repeat' split) <;> simp
@[simp] theorem emit_mmu (b : Blk) (p : ObsPacket) : (emit b p).mmu = b.mmu := by unfold emit; (repeat' split) <;> simp
@[simp] theorem emit_caches (b : Blk) (p : ObsPacket) : (emit b p).caches = b.caches := by unfold emit; (repeat' split) <;> simp
@[simp] theorem emit_err (b : Blk) (p : ObsPacket) : (emit b p).err = b.err := by unfold emit; (repeat' split) <;> simp
@[simp] theorem emit_lts (b : Blk) (p : ObsPacket) : (emit b p).lts = b.lts := by unfold emit; (repeat' split) <;> simp
@[simp] theorem emit_tile (b : Blk) (p : ObsPacket) : (emit b p).tile = b.tile := by unfold emit; (repeat' split) <;> simp
@[simp] theorem emit_tun (b : Blk) (p : ObsPacket) : (emit b p).tun = b.tun := by unfold emit; (repeat' split) <;> simp
@[simp] theorem emit_vec (b : Blk) (p : ObsPacket) : (emit b p).vec = b.vec := by unfold emit; (repeat' split) <;> simp
@[simp] theorem emit_epi (b : Blk) (p : ObsPacket) : (emit b p).epi = b.epi := by unfold emit; (repeat' split) <;> simp
@[simp] theorem emit_ports (b : Blk) (p : ObsPacket) : (emit b p).ports = b.ports := by unfold emit; (repeat' split) <;> simp
@[simp] theorem emit_chain (b : Blk) (p : ObsPacket) : (emit b p).chain = b.chain := by unfold emit; (repeat' split) <;> simp
@[simp] theorem emit_sync (b : Blk) (p : ObsPacket) : (emit b p).sync = b.sync := by unfold emit; (repeat' split) <;> simp
@[simp] theorem emit_rings (b : Blk) (p : ObsPacket) : (emit b p).rings = b.rings := by unfold emit; (repeat' split) <;> simp
@[simp] theorem emit_dma (b : Blk) (p : ObsPacket) : (emit b p).dma = b.dma := by unfold emit; (repeat' split) <;> simp
@[simp] theorem emit_sparge (b : Blk) (p : ObsPacket) : (emit b p).sparge = b.sparge := by unfold emit; (repeat' split) <;> simp
@[simp] theorem emit_pwr (b : Blk) (p : ObsPacket) : (emit b p).pwr = b.pwr := by unfold emit; (repeat' split) <;> simp
@[simp] theorem emit_malt (b : Blk) (p : ObsPacket) : (emit b p).malt = b.malt := by unfold emit; (repeat' split) <;> simp
@[simp] theorem emit_sys (b : Blk) (p : ObsPacket) : (emit b p).sys = b.sys := by unfold emit; (repeat' split) <;> simp
@[simp] theorem emit_freeCount (b : Blk) (p : ObsPacket) : (emit b p).freeCount = b.freeCount := by unfold emit; (repeat' split) <;> simp

@[simp] theorem setPlls_core (b : Blk) (f l : Pll) : (setPlls b f l).core = b.core := rfl
@[simp] theorem setPlls_mmu (b : Blk) (f l : Pll) : (setPlls b f l).mmu = b.mmu := rfl
@[simp] theorem setPlls_caches (b : Blk) (f l : Pll) : (setPlls b f l).caches = b.caches := rfl
@[simp] theorem setPlls_err (b : Blk) (f l : Pll) : (setPlls b f l).err = b.err := rfl
@[simp] theorem setPlls_lts (b : Blk) (f l : Pll) : (setPlls b f l).lts = b.lts := rfl
@[simp] theorem setPlls_tile (b : Blk) (f l : Pll) : (setPlls b f l).tile = b.tile := rfl
@[simp] theorem setPlls_tun (b : Blk) (f l : Pll) : (setPlls b f l).tun = b.tun := rfl
@[simp] theorem setPlls_vec (b : Blk) (f l : Pll) : (setPlls b f l).vec = b.vec := rfl
@[simp] theorem setPlls_epi (b : Blk) (f l : Pll) : (setPlls b f l).epi = b.epi := rfl
@[simp] theorem setPlls_ports (b : Blk) (f l : Pll) : (setPlls b f l).ports = b.ports := rfl
@[simp] theorem setPlls_obs (b : Blk) (f l : Pll) : (setPlls b f l).obs = b.obs := rfl
@[simp] theorem setPlls_chain (b : Blk) (f l : Pll) : (setPlls b f l).chain = b.chain := rfl
@[simp] theorem setPlls_sync (b : Blk) (f l : Pll) : (setPlls b f l).sync = b.sync := rfl
@[simp] theorem setPlls_rings (b : Blk) (f l : Pll) : (setPlls b f l).rings = b.rings := rfl
@[simp] theorem setPlls_dma (b : Blk) (f l : Pll) : (setPlls b f l).dma = b.dma := rfl
@[simp] theorem setPlls_sparge (b : Blk) (f l : Pll) : (setPlls b f l).sparge = b.sparge := rfl
@[simp] theorem setPlls_malt (b : Blk) (f l : Pll) : (setPlls b f l).malt = b.malt := rfl
@[simp] theorem setPlls_sys (b : Blk) (f l : Pll) : (setPlls b f l).sys = b.sys := rfl
@[simp] theorem setPlls_freeCount (b : Blk) (f l : Pll) : (setPlls b f l).freeCount = b.freeCount := rfl

end Sys2Proof.Laws
end

