-- ==== Sys2Proof/Laws/Memory.lean ====
section
/-! SUPPORT. Every operation of the local tensor store and of the Maltster RAM keeps the canonical form of its cells. -/

namespace Sys2Proof.Laws

open Sys2Proof.Machine

/-- The cells of the local tensor store and of its flipped bits are in canonical form. -/
def ltsWf (b : Blk) : Prop := Memory.wf b.lts.bytes = true ∧ Sparse.wf b.lts.flips = true

/-- The memory of the block is in canonical form: the local tensor store and the Maltster RAM. -/
def memoryWf (b : Blk) : Prop := ltsWf b ∧ Memory.wf b.malt.ram = true

theorem memoryWf_reset : memoryWf State.reset.blk := ⟨⟨rfl, rfl⟩, rfl⟩

theorem ltsWf_of {b b' : Blk} (h : ltsWf b) (e : b'.lts = b.lts) : ltsWf b' := by rw [ltsWf, e]; exact h

/-- What every step of a fold keeps, the fold keeps. -/
theorem foldl_keeps {P : β → Prop} {f : β → α → β} (hf : ∀ r a, P r → P (f r a)) : ∀ (as : List α) (r : β), P r → P (as.foldl f r)
  | [], _, h => h
  | a :: as, _, h => foldl_keeps hf as _ (hf _ a h)

/-- The beats of the bond interface touch no bank (R315). -/
theorem beatGo_lts (n : Nat) : ∀ b, (beatGo n b).2.lts = b.lts := by
  induction n with
  | zero => intro b; rfl
  | succ n ih =>
    intro b
    have h (c : Blk) : (reread c).lts = c.lts := by unfold reread countEvents; (repeat' split) <;> rfl
    have h1 : (receiveBeat b).2.lts = b.lts := by unfold receiveBeat; split <;> rfl
    unfold beatGo
    dsimp only
    (repeat' split) <;> simp only [ih, h, h1]

theorem crossing_lts (world : Bool) (addr : Nat → Word) (k : Nat) : ∀ p b, (crossing world addr k p b).2.lts = b.lts := by
  induction k with
  | zero => intro p b; rfl
  | succ k ih =>
    intro p b
    unfold crossing
    dsimp only [beat]
    split
    · rfl
    · rw [ih]
      split
      · exact beatGo_lts 4 b
      · rw [logErr_lts]; exact beatGo_lts 4 b

theorem goFatal_lts (b : Blk) : (goFatal b).lts = b.lts := by
  have h (c : Blk) : (fatalFront c).lts = c.lts := by
    unfold fatalFront
    refine foldl_keeps (P := fun d : Blk => d.lts = c.lts) ?_ _ _ ?_
    · intro d e hd
      split <;> simp [hd]
    · split
      · simp [emitJob]
      · rfl
  unfold goFatal
  split
  · rfl
  · rw [h, maltSource_lts]

theorem ltsSend_lts (world : Bool) (o n : Nat) (b : Blk) : (ltsSend world o n b).2.lts = b.lts := by
  unfold ltsSend
  dsimp only [ltsCross]
  split
  · exact crossing_lts _ _ _ _ _
  · rw [goFatal_lts]; exact crossing_lts _ _ _ _ _

theorem ltsWf_putWord {b : Blk} (h : ltsWf b) (w : Nat) (v : Word) : ltsWf (ltsPutWord b w v) :=
  ⟨wf_setAll h.1 _ _, wf_set (w := 72) (m := b.lts.flips) h.2 w 0⟩

theorem ltsWf_readWord {b : Blk} (h : ltsWf b) (w : Nat) : ltsWf (ltsReadWord b w).2 := by
  unfold ltsReadWord
  dsimp only
  repeat' split
  all_goals first | exact h | exact ltsWf_of (ltsWf_putWord h _ _) (countErr_lts _)

theorem ltsWf_takeWord {b : Blk} (h : ltsWf b) (bad : List Nat) (w : Nat) : ltsWf (ltsTakeWord bad b w).2 := by
  unfold ltsTakeWord
  split
  · exact h
  · exact ltsWf_readWord h w

theorem ltsWf_readWords (world : Bool) (bad : List Nat) (n : Nat) :
    ∀ {b : Blk} (w : Nat), ltsWf b → ltsWf (ltsReadWords world bad n w b).2 := by
  induction n with
  | zero => intro b w h; exact h
  | succ n ih =>
    intro b w h
    have h1 := ltsWf_takeWord h bad w
    unfold ltsReadWords
    split
    · rename_i e; rw [e] at h1; exact ih _ h1
    · rename_i e; rw [e] at h1; exact ih _ (ltsWf_of h1 (logErr_lts _ _ _ _ _))

theorem ltsWf_bankRead {b : Blk} (h : ltsWf b) (world : Bool) (bad : List Nat) (o n : Nat) : ltsWf (ltsBankRead world bad o n b).2 := by
  unfold ltsBankRead
  split
  · exact h
  · exact ltsWf_readWords _ _ _ _ h

theorem ltsWf_read {b : Blk} (h : ltsWf b) (world : Bool) (o n : Nat) : ltsWf (ltsRead world o n b).2 :=
  ltsWf_bankRead (ltsWf_of h (crossing_lts _ _ _ _ _)) _ _ _ _

theorem ltsWf_writeWord {b : Blk} (h : ltsWf b) (world : Bool) (w k : Nat) (bs : List Byte) : ltsWf (ltsWriteWord world w k bs b).2 := by
  have h1 := ltsWf_readWord h w
  unfold ltsWriteWord
  split
  · exact ltsWf_putWord h _ _
  · split
    · rename_i e; rw [e] at h1; exact ltsWf_putWord h1 _ _
    · rename_i e; rw [e] at h1; exact ltsWf_of h1 (logErr_lts _ _ _ _ _)

theorem ltsWf_writeGo (world : Bool) (n : Nat) : ∀ {b : Blk} (o : Nat) (bs : List Byte), ltsWf b → ltsWf (ltsWriteGo world n o bs b).2 := by
  induction n with
  | zero => intro b o bs h; exact h
  | succ n ih =>
    intro b o bs h
    unfold ltsWriteGo
    split
    · exact h
    · exact ih _ _ (ltsWf_writeWord h _ _ _ _)

theorem ltsWf_write {b : Blk} (h : ltsWf b) (world : Bool) (o : Nat) (bs : List Byte) : ltsWf (ltsWrite world o bs b).2 := by
  have h1 := ltsWf_of h (ltsSend_lts world o bs.length b)
  unfold ltsWrite
  dsimp only
  split
  · exact ltsWf_writeGo _ _ _ _ h1
  · exact h1

theorem ltsWf_wipe {b : Blk} (h : ltsWf b) (r : Nat × Nat) : ltsWf (wipeLts b r) := ⟨wf_clear h.1 _ _, wf_clear h.2 _ _⟩

theorem ltsWf_bankWriteMasked {b : Blk} (h : ltsWf b) (world : Bool) (o : Nat) (data : Piece) (be : Word) :
    ltsWf (ltsBankWriteMasked world o data be b).2 := by
  unfold ltsBankWriteMasked
  refine foldl_keeps (P := fun r : Bool × Blk => ltsWf r.2) ?_ _ _ h
  intro r i hr
  have h1 := ltsWf_readWord hr (o / 8 + i)
  dsimp only
  split
  · exact hr
  · split
    · exact ltsWf_writeWord hr _ _ _ _
    · split
      · rename_i e; rw [e] at h1; exact ltsWf_putWord h1 _ _
      · rename_i e; rw [e] at h1; exact ltsWf_of h1 (logErr_lts _ _ _ _ _)

theorem ltsWf_writeMasked {b : Blk} (h : ltsWf b) (world : Bool) (o : Nat) (data : Piece) (be : Word) :
    ltsWf (ltsWriteMasked world o data be b).2 := by
  have h1 := ltsWf_of h (ltsSend_lts world o 64 b)
  unfold ltsWriteMasked
  dsimp only
  split
  · exact ltsWf_bankWriteMasked h1 _ _ _ _
  · exact h1

/-- A word read whose check is clean gives the stored bytes and changes nothing. -/
theorem ltsReadWord_clean {b : Blk} {w : Nat} (h : b.lts.flips.get w = 0) : ltsReadWord b w = (some (ltsWord b w), b) := by
  simp [ltsReadWord, h]

/-- A word just written reads clean. -/
@[simp] theorem flips_putWord (b : Blk) (w : Nat) (v : Word) : (ltsPutWord b w v).lts.flips.get w = 0 := get_set_self (w := 72) b.lts.flips w 0

end Sys2Proof.Laws
end

