-- ==== Sys2Proof/Laws/Rings.lean ====
section
/-! SUPPORT. The stores kept as association lists, and the links: what is put is got, and the last put counts. -/

namespace Sys2Proof.Laws

open Sys2Proof.Machine

theorem alPut_alPut (xs : List (Nat × α)) (n : Nat) (x y : α) : alPut (alPut xs n x) n y = alPut xs n y := by
  induction xs with
  | nil => simp [alPut]
  | cons a xs ih =>
    obtain ⟨m, z⟩ := a
    by_cases h : n < m
    · simp [alPut, h]
    · by_cases h2 : n = m
      · simp [alPut, h2]
      · simp [alPut, h, h2, ih]

theorem alGet_alPut (xs : List (Nat × α)) (n : Nat) (x d : α) : alGet (alPut xs n x) d n = x := by
  induction xs with
  | nil => simp [alPut, alGet]
  | cons a xs ih =>
    obtain ⟨m, z⟩ := a
    by_cases h : n < m
    · simp [alPut, h, alGet]
    · by_cases h2 : n = m
      · simp [alPut, h2, alGet]
      · have : ¬ m = n := fun e => h2 e.symm
        simp [alPut, h, h2, alGet, this] at *
        exact ih

/-- Putting a key leaves the other keys alone. -/
theorem alGet_alPut_other (xs : List (Nat × α)) (n j : Nat) (x d : α) (h : j ≠ n) : alGet (alPut xs n x) d j = alGet xs d j := by
  have hn : ¬ n = j := fun e => h e.symm
  unfold alGet
  congr 2
  induction xs with
  | nil => simp [alPut, hn]
  | cons a xs ih =>
    obtain ⟨m, z⟩ := a
    by_cases h1 : n < m
    · simp [alPut, h1, hn]
    · by_cases h2 : n = m
      · subst h2
        simp [alPut, hn]
      · simp only [alPut, h1, h2, if_false, List.find?_cons, ih]

@[simp] theorem setRing_setRing (b : Blk) (n : Nat) (x y : Ring) : setRing (setRing b n x) n y = setRing b n y := by
  simp [setRing, alPut_alPut]
@[simp] theorem getRing_setRing (b : Blk) (n : Nat) (x : Ring) : getRing (setRing b n x) n = x := by
  simp [setRing, getRing, alGet_alPut]
theorem getRing_setRing_other (b : Blk) (n j : Nat) (x : Ring) (h : j ≠ n) : getRing (setRing b n x) j = getRing b j := by
  simp [setRing, getRing, alGet_alPut_other _ _ _ _ _ h]
@[simp] theorem cge_setCge (b : Blk) (n : Nat) (e : CgtEntry) : cge (setCge b n e) n = e := by
  simp [setCge, cge, alGet_alPut]
theorem cge_setCge_other (b : Blk) (n j : Nat) (e : CgtEntry) (h : j ≠ n) : cge (setCge b n e) j = cge b j := by
  simp [setCge, cge, alGet_alPut_other _ _ _ _ _ h]

/-- A port has one of four numbers. -/
theorem port_cases (p : BitVec 2) : p = 0 ∨ p = 1 ∨ p = 2 ∨ p = 3 := by
  have : ∀ q : BitVec 2, q = 0 ∨ q = 1 ∨ q = 2 ∨ q = 3 := by decide
  exact this p

@[simp] theorem getLink_setLink (b : Blk) (p : BitVec 2) (l : Link) : getLink (setLink b p l) p = l := by
  rcases port_cases p with h | h | h | h <;> subst h <;> simp [getLink, setLink]
theorem getLink_setLink_other (b : Blk) (p q : BitVec 2) (l : Link) (h : q ≠ p) : getLink (setLink b p l) q = getLink b q := by
  rcases port_cases p with h1 | h1 | h1 | h1 <;> rcases port_cases q with h2 | h2 | h2 | h2 <;> subst h1 <;> subst h2 <;>
    first | exact absurd rfl h | simp [getLink, setLink]
@[simp] theorem getLink_modLink (b : Blk) (p : BitVec 2) (f : Link → Link) : getLink (modLink b p f) p = f (getLink b p) := by
  simp [modLink]

end Sys2Proof.Laws
end

