-- ==== Sys2Proof/Laws/Ops.lean ====
section
/-! SUPPORT. One lemma per shared operation: what it answers and what it can change. -/

namespace Sys2Proof.Laws

open Sys2Proof.Machine

/-- A command that acts on the block alone answers a next state with the configuration and the queue as they were. -/
theorem blkNext_next (s : State) (f : Blk → Blk) : ∃ t, blkNext s f = .next t ∧ t.pending = s.pending ∧ t.cfg = s.cfg ∧ t.blk = f s.blk :=
  ⟨_, rfl, rfl, rfl, rfl⟩

/-- A command that acts on the configuration too answers a next state with the queue as it was. -/
theorem cbNext_next (s : State) (f : Cfg → Blk → Cfg × Blk) :
    ∃ t, cbNext s f = .next t ∧ t.pending = s.pending ∧ (t.cfg, t.blk) = f s.cfg s.blk := ⟨_, rfl, rfl, rfl⟩

/-- The architectural state of before, with the responses the memory system has given since. -/
theorem restoreArch_eq (b0 b1 : Blk) : (restoreArch b0 b1).core = { b0.core with resp := b1.core.resp.map fun r => { r with used := false } } ∧ (restoreArch b0 b1).tile = b0.tile ∧
    (restoreArch b0 b1).tun = b0.tun ∧ (restoreArch b0 b1).vec = b0.vec ∧ (restoreArch b0 b1).epi = b0.epi ∧
    (restoreArch b0 b1).lts = b1.lts ∧ (restoreArch b0 b1).caches = b1.caches := ⟨rfl, rfl, rfl, rfl, rfl, rfl, rfl⟩

/-- An instruction that waits stays at the head of the program with the rest behind it. -/
theorem waitHead_core (i : Instr) (w : WaitOn) (b0 b1 : Blk) : (waitHead i w b0 b1).core =
    { b0.core with resp := b1.core.resp.map fun r => { r with used := false }, program := i :: b0.core.program, blocked := some w, replay := false } := rfl

/-- An exception whose entry waits is held with its instruction. -/
theorem waitEntry_core (i : Instr) (x : Trap) (w : WaitOn) (b0 b1 : Blk) : (waitEntry i x w b0 b1).core =
    { b0.core with resp := b1.core.resp.map fun r => { r with used := false }, program := i :: b0.core.program, blocked := some w, replay := false, trapping := some x } := rfl

/-- An access that meets a fatal error stops the core. -/
theorem stopCore_core (b0 b1 : Blk) : (stopCore b0 b1).core =
    { b0.core with run := .stopped, program := [], blocked := none, replay := false, trapping := none, resp := [] } := rfl

/-- The fault record of a trap changes the fault registers alone. -/
theorem recordFault_frame (t : Trap) (b : Blk) : let b' := recordFault t b
    b'.lts = b.lts ∧ b'.caches = b.caches ∧ b'.tun = b.tun ∧ b'.sync = b.sync ∧ b'.rings = b.rings ∧ b'.ports = { b.ports with lkind := b'.ports.lkind } ∧ b'.pwr = b.pwr ∧
      b'.core.regs = b.core.regs ∧ b'.core.pc = b.core.pc ∧ b'.core.ps = b.core.ps := by
  unfold recordFault
  dsimp only
  cases t.fault <;> dsimp only <;> (repeat' split) <;> exact ⟨rfl, rfl, rfl, rfl, rfl, rfl, rfl, rfl, rfl, rfl⟩

/-- A pending epoch applies at an instruction boundary: nothing but the core's epoch changes. -/
theorem boundary_eq (b : Blk) : boundary b = { b with rings := (boundary b).rings } ∧
    (boundary b).rings = { b.rings with epCore := (boundary b).rings.epCore } := by
  unfold boundary
  split <;> exact ⟨rfl, rfl⟩

/-- A clamp that passes leaves the block alone; one that clamps changes the log alone. -/
theorem logClamps_eq (ring index : Nat) (cs : List Clamp) : ∀ b : Blk, logClamps b ring index cs = { b with rings := (logClamps b ring index cs).rings } := by
  unfold logClamps
  induction cs with
  | nil => intro b; rfl
  | cons c cs ih =>
    intro b
    rw [List.foldl_cons, ih]
    rfl
@[simp] theorem logClamps_nil (b : Blk) (ring index : Nat) : logClamps b ring index [] = b := rfl

/-- A packet offered to the observation unit changes that unit alone (R466). -/
theorem emit_eq (b : Blk) (p : ObsPacket) : emit b p = { b with obs := (emit b p).obs } := by
  have h (c : Blk) : fillLost c = { c with obs := (fillLost c).obs } := by unfold fillLost; split <;> rfl
  unfold emit
  split
  · rfl
  · split
    · rfl
    · split <;> exact h _

/-- Counted events change the counters alone (R466). -/
theorem countEvents_eq (b : Blk) (ev : Nat) (level : BitVec 2) (world : Bool) (k : Nat) :
    countEvents b ev level world k = { b with obs := (countEvents b ev level world k).obs } := by
  unfold countEvents
  (repeat' split) <;> rfl

/-- A fixed count changes the counters alone (R466). -/
theorem countFixed_eq (b : Blk) (ps : Pstate) (n k : Nat) : countFixed b ps n k = { b with obs := (countFixed b ps n k).obs } := by
  unfold countFixed
  split <;> rfl

/-- What a block is but for the observation unit. -/
def sameButObs (b b' : Blk) : Prop := b' = { b with obs := b'.obs }

theorem sameButObs_trans {a b c : Blk} (h1 : sameButObs a b) (h2 : sameButObs b c) : sameButObs a c := by
  unfold sameButObs at *
  rw [h2, h1]

theorem emit_same (b : Blk) (p : ObsPacket) : sameButObs b (emit b p) := emit_eq b p
theorem countEvents_same (b : Blk) (ev : Nat) (l : BitVec 2) (w : Bool) (k : Nat) : sameButObs b (countEvents b ev l w k) := countEvents_eq b ev l w k
theorem countFixed_same (b : Blk) (ps : Pstate) (n k : Nat) : sameButObs b (countFixed b ps n k) := countFixed_eq b ps n k

theorem obsEdge_same (b : Blk) : sameButObs b (obsEdge b) := by
  have h (c : Blk) : fillLost c = { c with obs := (fillLost c).obs } := by unfold fillLost; split <;> rfl
  have h' (c : Blk) (o : Obs) (hc : sameButObs c { c with obs := o }) : sameButObs c (fillLost { c with obs := o }) := h { c with obs := o }
  unfold obsEdge
  dsimp only
  (repeat' split) <;> first | rfl | exact h' _ _ rfl

theorem obsEdges_same (n : Nat) : ∀ b, sameButObs b (obsEdges n b) := by
  induction n with
  | zero => intro b; rfl
  | succ n ih =>
    intro b
    unfold obsEdges
    split
    · rfl
    · exact sameButObs_trans (obsEdge_same b) (ih _)

theorem atMultiples_same (n t0 t : Nat) (ev : Blk → Blk) (b : Blk) : sameButObs b (atMultiples n t0 t ev b) := by
  unfold atMultiples
  dsimp only
  have ho (n : Nat) (o : Obs) : sameButObs b (obsEdges n { b with obs := o }) := obsEdges_same n { b with obs := o }
  (repeat' split) <;> first | rfl | exact ho _ _

theorem countEdges_same (t0 t : Nat) (b : Blk) : sameButObs b (countEdges t0 t b) := by
  unfold countEdges
  dsimp only
  split <;> (repeat' split) <;>
    (repeat' first
      | exact rfl
      | refine sameButObs_trans ?_ (countEvents_same ..)
      | refine sameButObs_trans ?_ (countFixed_same ..))

/-- The passing of time changes the SCLK count and what is observed alone (R405, R466). -/
theorem elapse_eq (t : Nat) (b : Blk) :
    elapse t b = { b with pwr := { b.pwr with sclk := Nat.max b.pwr.sclk t }, obs := (elapse t b).obs } := by
  unfold elapse
  dsimp only
  split
  · rename_i h
    rw [show Nat.max b.pwr.sclk t = b.pwr.sclk from Nat.max_eq_left h]
  · rename_i h
    have hm : Nat.max b.pwr.sclk t = t := Nat.max_eq_right (by omega)
    have h1 := sameButObs_trans (obsEdges_same (Nat.min 1024 (16 * (t - b.pwr.sclk))) b)
      (countEdges_same b.pwr.sclk t (obsEdges (Nat.min 1024 (16 * (t - b.pwr.sclk))) b))
    generalize countEdges b.pwr.sclk t (obsEdges (Nat.min 1024 (16 * (t - b.pwr.sclk))) b) = c at h1
    unfold sameButObs at h1
    have h2 := sameButObs_trans (atMultiples_same 65536 b.pwr.sclk t emitSync { c with pwr := { c.pwr with sclk := t } })
      (atMultiples_same (pcsEvery { c with pwr := { c.pwr with sclk := t } }) b.pwr.sclk t emitPcs _)
    unfold sameButObs at h2
    rw [hm]
    conv => lhs; rw [h2]
    rw [h1]

/-- A source of the Maltster changes its task states and latches alone (R429). -/
theorem maltSource_eq (b : Blk) (i : Nat) : ∃ st src, maltSource b i = { b with malt := { b.malt with stat := st, msrc := src } } := by
  unfold maltSource
  dsimp only
  split <;> exact ⟨_, _, rfl⟩

/-- A wake cause is held outside Run and does nothing in it (R417). -/
theorem wake_eq (b : Blk) : wake b = { b with pwr := { b.pwr with wakeHeld := decide (b.pwr.state ≠ .run) || b.pwr.wakeHeld } } := by
  unfold wake
  split
  · rename_i h
    have h1 : decide (b.pwr.state ≠ .run) = false := by simp [h]
    rw [h1, Bool.false_or]
  · rename_i h
    have h1 : decide (b.pwr.state ≠ .run) = true := by simp [h]
    rw [h1, Bool.true_or]

/-- What the sync engine returns to the main core leaves the core as it was: the operation's answer is kept in the engine. -/
theorem syncReturn_core (b : Blk) (q : SyncOp) (status : BitVec 8) (value : W32) (h : q.src = .core) :
    (syncReturn b q status value).core = b.core := by
  unfold syncReturn
  rw [h]

end Sys2Proof.Laws
end

