-- ==== Sys2Proof/Tests/Slice0.lean ====
section
/-! SUPPORT. The writer's own tests: ill-formed commands that `wellFormed` refuses, a witness for the hypotheses of every statement, and a few single
steps whose expected results are computed by hand from the spec. -/

namespace Sys2Proof.Tests

set_option Elab.async false

open Sys2Proof Sys2Proof.Machine

/-! ### States -/

/-- A powered block in Run with every domain on, in DEVELOP and RUNNING, its core running at M from its own LTS, which holds an
instruction of OP (R229) at the PC. -/
def tBlk : Blk := { Blk.reset with
  core := { Core.reset with run := .running, pc := 0x400000000000 }
  lts := { Lts.reset with bytes := [(3, 0x04)] }
  pwr := { Power.reset with
    pd := 0xFFFFFFFF, cd := 0x7FFFFFFFFF, porstN := true, pgAon := true, pgL := true, pgM := true
    pllF := { Pll.reset with on := true, lock := true }, pllL := { Pll.reset with on := true, lock := true } }
  sys := { Sys.reset with lcsValid := true, lcs := 1, phase := 9 } }

/-- The state of block b with the configuration after reset. -/
def tSt (b : Blk) : State := { State.reset with blk := b }

/-- The block with register n holding x. -/
def withReg (b : Blk) (n : BitVec 5) (x : Word) : Blk := { b with core := b.core.setReg n x }

/-- An identity entry of 1 GiB over the LTS. -/
def idEntry (w u : Bool) : TlbEntry :=
  { kind := .world w, vmid := 0, asid := 0, g := true, size := 30, va := 0x400000000000, out := 0x400000000000, ipa := 0x400000000000
    l1 := 2, r1 := true, w1 := true, x1 := true, u1 := u, l2 := 2, r2 := true, w2 := true, x2 := true
    leafAddr := 0x400000200000, leaf := 0x400000000000 + 0xFF }

/-- The block with its core at level l of world w and an identity entry in its TLBs. -/
def atLevel (b : Blk) (l : BitVec 2) (w : Bool) : Blk :=
  let s : TlbSlot := { idx := 0, seq := 0, e := idEntry w (l == 0) }
  { b with
    core := { b.core with ps := { b.core.ps with level := l, world := w, uworld := if l = 0 then w else b.core.ps.uworld } }
    mmu := { b.mmu with itlb := [s], dtlb := [s], l2tlb := [s], seq := 1 } }

/-- A configuration with chip space open to all, uncached, and the features sealed. -/
def cfgR : Cfg := { Cfg.reset with
  rgnX := [(0, BitVec.ofNat 64 (47 * 2 ^ 48 + 0x3F7) ^^^ 0x000C000000000000)], featAcc := [(0, 1)], sealed := true }

def stR (b : Blk) : State := { State.reset with cfg := cfgR, blk := b }

/-- The block a computation of the core ends in. -/
def endOf (r : EStateM.Result Stop Blk α) : Blk :=
  match r with
  | .ok _ b => b
  | .error _ b => b

/-- A Boolean test over the numbers below n holds of each of them. -/
theorem below {n : Nat} {p : Nat → Prop} [DecidablePred p] (h : (List.range n).all (fun i => decide (p i)) = true) : ∀ i, i < n → p i := by
  simpa using h

/-- A computation ends normally with x in block b. -/
def endsIn [DecidableEq α] (r : EStateM.Result Stop Blk α) (x : α) (b : Blk) : Bool :=
  match r with
  | .ok y c => decide (y = x) && decide (c = b)
  | .error _ _ => false

theorem ends_in [DecidableEq α] {r : EStateM.Result Stop Blk α} {x : α} {b : Blk} (h : endsIn r x b = true) : r = .ok x b := by
  cases r with
  | ok y c => simp only [endsIn, Bool.and_eq_true, decide_eq_true_eq] at h; rw [h.1, h.2]
  | error e c => simp [endsIn] at h

theorem issues {s : State} {n : Nat} {b : Blk}
    (h : (let b0 := settle s.cfg s.blk
      coreReady (awaken b0) && !b0.core.replay && b0.core.program.isEmpty && (boundaryEntry s.cfg (awaken b0)).isNone &&
        endsIn (fetch s.cfg n (boundary (awaken b0))) () b && b.sys.beats.isEmpty && !b.err.fatal) = true) :
    Issues s n b := by
  simp only [Bool.and_eq_true, Bool.not_eq_true', List.isEmpty_iff, Option.isNone_iff_eq_none] at h
  exact ⟨h.1.1.1.1.1.1, h.1.1.1.1.1.2, h.1.1.1.1.2, h.1.1.1.2, ends_in h.1.1.2, h.1.2, h.2⟩

/-- The conditions of `Fetches`. -/
def fetches (s : State) : Bool :=
  let b := settle s.cfg s.blk
  coreReady (awaken b) && !b.core.replay && b.core.program.isEmpty && (boundaryEntry s.cfg (awaken b)).isNone

theorem fetches_of {s : State} (h : fetches s = true) : Fetches s := by
  simp only [fetches, Bool.and_eq_true, Bool.not_eq_true', List.isEmpty_iff, Option.isNone_iff_eq_none] at h
  exact ⟨h.1.1.1, h.1.1.2, h.1.2, h.2⟩

/-- A computation answers x in block b. -/
def answersIn [DecidableEq α] (r : EStateM.Result Stop Blk (Except ε α)) (x : α) (b : Blk) : Bool :=
  match r with
  | .ok (.ok y) c => decide (y = x) && decide (c = b)
  | _ => false

theorem answers_in [DecidableEq α] {r : EStateM.Result Stop Blk (Except ε α)} {x : α} {b : Blk} (h : answersIn r x b = true) :
    r = .ok (.ok x) b := by
  match r with
  | .ok (.ok y) c => simp only [answersIn, Bool.and_eq_true, decide_eq_true_eq] at h; rw [h.1, h.2]
  | .ok (.error e) c => simp [answersIn] at h
  | .error e c => simp [answersIn] at h

/-- A computation that ends normally ends normally in its own last block. -/
theorem ends_ok {r : EStateM.Result Stop Blk Unit} (h : (match r with | .ok _ _ => true | .error _ _ => false) = true) : r = .ok () (endOf r) := by
  cases r with
  | ok y c => rfl
  | error e c => simp at h

/-! ### Witnesses for the hypotheses of the statements -/

theorem test_wit_issues1 : Issues (tSt tBlk) 1 tBlk := issues (by decide +kernel)
theorem test_wit_issues2 : Issues (tSt tBlk) 2 tBlk := issues (by decide +kernel)

/-- Registers at the corners of division. -/
def divBlk : Blk := withReg (withReg tBlk 9 0x8000000000000000) 10 (BitVec.allOnes 64)
theorem test_wit_division : Issues (tSt divBlk) 1 divBlk ∧ divBlk.core.reg 8 = 0 ∧ divBlk.core.reg 9 = 0x8000000000000000 ∧
    divBlk.core.reg 10 = BitVec.allOnes 64 := ⟨issues (by decide +kernel), by decide +kernel⟩

theorem test_wit_coreFaults : ((1 : BitVec 5) ≠ 0 ∧ (0x80 : BitVec 8) ≠ 0 ∧ (0x018 ≤ (0x018 : BitVec 11).toNat ∧ (0x018 : BitVec 11).toNat < 0x020) ∧
    0x024 ≤ (0x024 : BitVec 11).toNat) ∧ ((withReg tBlk 9 0x400000000007).core.reg 9 + (0 : BitVec 16).signExtend 64).toNat % 2 ≠ 0 := by
  decide +kernel

def frozenBlk : Blk := { tBlk with core := { tBlk.core with frozen := true } }
theorem test_wit_frozenCalls : Issues (tSt frozenBlk) 1 frozenBlk ∧ frozenBlk.core.svcBanks = 0 ∧ frozenBlk.core.frozen = true :=
  ⟨issues (by decide +kernel), rfl, rfl⟩

def ltsBlk : Blk := withReg tBlk 9 0x400000000040
theorem test_wit_inLts : Issues (tSt ltsBlk) 1 ltsBlk ∧ ∀ n ∈ [1, 2, 4, 8], ∀ acc ∈ [Acc.load, .store, .atomic],
    InLts Cfg.reset acc ltsBlk (ltsBlk.core.reg 9) n 0x400000000040 0x40 ltsBlk := by
  refine ⟨issues (by decide +kernel), ?_⟩
  have key : ([1, 2, 4, 8].all fun n => [Acc.load, .store, .atomic].all fun acc =>
      decide ((ltsBlk.core.reg 9).toNat % n = 0 ∧ (0x400000000040 : Word).toNat % 64 + n ≤ 64 ∧ pdRuns ltsBlk (quarterPd 0x40) = true ∧
        pdRuns ltsBlk (quarterPd (0x40 + n - 1)) = true ∧ ltsWiping ltsBlk 0x40 n = false ∧ ltsBlk.lts.flips = [] ∧ ltsBlk.sys.beats = [] ∧
        ltsBlk.err.fatal = false) &&
      endsIn (locate Cfg.reset acc ltsBlk.core.ps.level ltsBlk.core.ps.world (ltsBlk.core.reg 9) n false ltsBlk) (0x400000000040, .lts 0x40) ltsBlk)
      = true := by decide +kernel
  intro n hn acc ha
  have h := List.all_eq_true.mp (List.all_eq_true.mp key n hn) acc ha
  simp only [Bool.and_eq_true, decide_eq_true_eq] at h
  exact ⟨h.1.1, h.1.2.1, ends_in h.2, h.1.2.2.1, h.1.2.2.2.1, h.1.2.2.2.2.1, h.1.2.2.2.2.2.1, h.1.2.2.2.2.2.2⟩

/-- The block with two given words at its PC. -/
def wordsBlk (w1 w2 : W32) : Blk := { tBlk with lts := { bytes := Sparse.setAll [] 0 (leOfNat 4 w1.toNat ++ leOfNat 4 w2.toNat), flips := [] } }
/-- A word and a long form of reserved encodings: OP FUNCT 0x024, SOP operation 5, TOP 0x13, VOP 0x33. -/
theorem test_wit_reserved : ∀ x ∈ [((0x04000024 : W32), Decoded.core), (0, .core), (0xD0000501, .sync)],
    fetches (tSt (wordsBlk x.1 0)) = true ∧ endsIn (fetchWord Cfg.reset 0x400000000000 (start (tSt (wordsBlk x.1 0)))) x.1 (wordsBlk x.1 0) = true ∧
      isLong x.1 = false ∧ decode x.1 0 = x.2 := by decide +kernel
theorem test_wit_reservedLong : ∀ x ∈ [((0xFA600000 : W32), (0 : W32), Decoded.tile), (0xF4000000, 0x33, .vector)],
    fetches (tSt (wordsBlk x.1 x.2.1)) = true ∧ isLong x.1 = true ∧ decode x.1 x.2.1 = x.2.2 ∧
      endsIn (fetchWord Cfg.reset 0x400000000004 (wordsBlk x.1 x.2.1)) x.2.1 (wordsBlk x.1 x.2.1) = true := by decide +kernel
theorem test_wit_fp : (fpFmt true).width = 64 ∧ 0xFFFFFFFF < 2 ^ (fpFmt false).width ∧ isNaNCode (fpFmt false) 0xFFFFFFFF = true ∧
    isNaNCode (fpFmt false) 0x80000000 = false ∧ isNaNCode (fpFmt true) (2 ^ 63) = false := by decide +kernel

/-- Every sync object is secure, as the core is. -/
def secSt (b : Blk) : State := { State.reset with cfg := { Cfg.reset with secobj := 256 }, blk := b }
def syncBlk : Blk := withReg tBlk 9 0xFFFF
theorem test_wit_syncOps : Issues (secSt syncBlk) 1 syncBlk ∧ Issues (tSt syncBlk) 1 syncBlk ∧ syncBlk.err.fatal = false ∧
    localObject (syncBlk.core.reg 9) 0xFFFF ∧ quietObject syncBlk 0xFFFF ∧ objWorld (secSt syncBlk).cfg syncBlk 0xFFFF = syncBlk.core.ps.world ∧
    objWorld Cfg.reset syncBlk 0xFFFF ≠ syncBlk.core.ps.world :=
  ⟨issues (by decide +kernel), issues (by decide +kernel), rfl, rfl, ⟨rfl, rfl, by decide +kernel⟩, by decide +kernel⟩

/-- rs1 9 names object 0xFFFF, with timeout 1 in r10's target word of an event wait. -/
def swBlk (a t : Word) : Blk := withReg (withReg tBlk 9 a) 10 t
def armedEntry (n : BitVec 8) : WaitEntry :=
  { num := n, gen := 1, state := .armed, kind := .eventWait 3, obj := 5, world := true, cond := 0, consume := false, tgt := 9, tmo := 4
    armedAt := 0, order := 0, value := 0 }
theorem test_wit_swaitMet : let b := swBlk 0xFFFF 0x400000000
    Issues (secSt b) 1 b ∧ b.err.fatal = false ∧ ownWait b = none ∧ (b.core.reg 9).toNat < 2 ^ 48 ∧ (b.core.reg 10).toNat < 2 ^ 35 ∧
      BitVec.ofNat 2 (bits (b.core.reg 10) 33 32) ≠ 3 ∧ (bit (b.core.reg 10) 34 = true → BitVec.ofNat 2 (bits (b.core.reg 10) 33 32) = 0) ∧
      objWorld (secSt b).cfg b ((b.core.reg 9).truncate 16) = b.core.ps.world ∧
      condHolds (BitVec.ofNat 2 (bits (b.core.reg 10) 33 32)) (b.sync.objs.get 0xFFFF) ((b.core.reg 10).truncate 32) = true ∧ armedOn b 0xFFFF = [] :=
  ⟨issues (by decide +kernel), by decide +kernel⟩
theorem test_wit_swaitUnmet : let b := swBlk 0xFFFF 0x400000001
    Issues (secSt b) 1 b ∧ condHolds (BitVec.ofNat 2 (bits (b.core.reg 10) 33 32)) (b.sync.objs.get 0xFFFF) ((b.core.reg 10).truncate 32) = false ∧
      bits (b.core.reg 9) 47 16 = 0 := ⟨issues (by decide +kernel), by decide +kernel⟩
def swEventBlk : Blk := { swBlk 0x1FFFF 0x800000001 with
  sync := { Sync.reset with waits := [armedEntry 0] }
  rings := { Rings.reset with rings := [(28, { Ring.zero with setUp := true, ctx := { RingCtx.zero with world := true } })] } }
theorem test_wit_swaitEvent : let b := swEventBlk
    Issues (secSt b) 1 b ∧ b.err.fatal = false ∧ (b.core.reg 9).toNat < 2 ^ 48 ∧ (b.core.reg 10).toNat < 2 ^ 38 ∧ bit (b.core.reg 10) 35 = true ∧
      BitVec.ofNat 2 (bits (b.core.reg 10) 33 32) ≠ 3 ∧ bit (b.core.reg 10) 34 = false ∧
      eventRingWorld b (bits (b.core.reg 10) 37 36) = b.core.ps.world ∧ objWorld (secSt b).cfg b ((b.core.reg 9).truncate 16) = b.core.ps.world ∧
      condHolds 0 (b.sync.objs.get 0xFFFF) ((b.core.reg 10).truncate 32) = false ∧ bits (b.core.reg 9) 47 16 ≠ 0 ∧
      (∀ w ∈ b.sync.waits, w.num.toNat ≠ 1) ∧ (∀ m, m < 1 → ∃ w ∈ b.sync.waits, w.num.toNat = m) :=
  ⟨issues (by decide +kernel), by decide +kernel⟩
theorem test_wit_swcancel : let b := { withReg tBlk 9 0x1FF with sync := { Sync.reset with waits := [armedEntry 0xFF] } }
    Issues (tSt b) 1 b ∧ (b.core.reg 9).toNat < 2 ^ 16 ∧ ∀ w ∈ b.sync.waits, w.handle.toNat = (b.core.reg 9).toNat ∧ w.state = .armed ∧
      w.world = b.core.ps.world ∧ w.kind = .eventWait 3 := ⟨issues (by decide +kernel), by decide +kernel⟩
theorem test_wit_swcancelMiss : (tBlk.core.reg 9).toNat < 2 ^ 16 ∧ ∀ w ∈ tBlk.sync.waits, w.handle.toNat ≠ 0 := by decide +kernel

def postedOut : Outst := { rtag := 0, op := .wr, addr := 0, be := 1, world := true, purpose := .posted, epoch := 0, tmo := 100, issued := some 0 }
theorem test_wit_fences : unacknowledged tBlk = false ∧
    (let b := { tBlk with ports := { tBlk.ports with outMp := [postedOut] } }; Issues (tSt b) 1 b ∧ unacknowledged b = true) :=
  ⟨rfl, issues (by decide +kernel), rfl⟩
theorem test_wit_fenceM : let b := { tBlk with ports := { tBlk.ports with
      outMp := [{ postedOut with issued := none }]
      mp := { tBlk.ports.mp with sendQ := [{ h := { opc := 2, world := true, status := 0, rtag := 0, snode := 0, sblock := 0, addr := 0, be := 1, operand := 0 }, data := 0 }] } } }
    Issues (tSt b) 1 b ∧ unsent b = true ∧ unsent tBlk = false := ⟨issues (by decide +kernel), by decide +kernel⟩

/-- Group 3 of 32 rows open for sums, and entry 63 of the communication group table sending West and receiving from West. -/
def chainGroup : Word := BitVec.ofNat 64 (31 * 2 ^ 8 + 2 ^ 21)
def chainEntry : CgtEntry := { CgtEntry.zero with valid := true, world := true, chin := 1, chout := 1, tag := 7 }
def chainBlk : Blk := { withReg tBlk 9 (BitVec.ofNat 64 (63 + 3 * 2 ^ 6)) with
  tun := { Tun.reset with grpX := Sparse.set [] 3 (chainGroup ^^^ 0x000C0000) }, chain := { Chain.reset with cgt := [(63, chainEntry)] } }
theorem test_wit_chsend : let x := chainBlk.core.reg 9
    Issues (tSt chainBlk) 1 chainBlk ∧ ChainLegal chainBlk x true ∧
      rowsHeld (txBuf chainBlk 1) + (sendRows chainBlk.tun (chainArg x)).length ≤ 64 :=
  ⟨issues (by decide +kernel), by unfold ChainLegal; decide +kernel⟩
def chainTransfer : Transfer := { world := true, cls := 0, tag := 7, rows := [1] }
def recvBlk : Blk := { chainBlk with chain := { chainBlk.chain with rxW := [chainTransfer] } }
theorem test_wit_chrecv : let x := recvBlk.core.reg 9
    Issues (tSt recvBlk) 1 recvBlk ∧ ChainLegal recvBlk x false ∧
      heldFor recvBlk (cge recvBlk 63) = some chainTransfer ∧ gSums (recvBlk.tun.grp 3) = true ∧ (chainArg x).m = 1 ∧ (chainArg x).e = 63 :=
  ⟨issues (by decide +kernel), by unfold ChainLegal; decide +kernel, by decide +kernel⟩
def atU : Blk := atLevel tBlk 0 false
def atS : Blk := atLevel tBlk 1 false
theorem test_wit_levels : Issues (tSt atU) 1 atU ∧ Issues (tSt atS) 1 atS ∧ atU.core.ps.level = 0 ∧ atS.core.ps.level = 1 ∧ tBlk.core.ps.level = 2 :=
  ⟨issues (by decide +kernel), issues (by decide +kernel), by decide +kernel⟩
theorem test_wit_crValues : (withReg tBlk 9 4).core.svcBanks = 0 ∧ (∀ t, t < 64 → tBlk.core.taskStat.get t = 0) ∧ (4 : Word).toNat ≤ 4 ∧
    5 ≤ (5 : Word).toNat ∧ (7 : Word).toNat < 8 ∧ tBlk.tile.used 15 = false ∧ (0 : Word).toNat % 2 = 0 ∧
    crPermits atU false 0xFFF = false ∧ crPermits atU true 0x47 = true ∧ crPermits atU true 0 = false ∧ crPermits atS true 0x10 = true ∧
    crPermits atS true 0x18 = false ∧ crPermits tBlk true 0x35 = true ∧ crPermits atS true 0x35 = false ∧ atU.core.hcpOut = none :=
  ⟨by decide +kernel, below (by decide +kernel), by decide +kernel⟩
def tileBlk : Blk := { withReg tBlk 9 0x8000 with tile := { TileFile.reset with inuse := 0x8000 } }
theorem test_wit_tinuse : tileBlk.tile.used 15 = true ∧ bit (tileBlk.core.reg 9) 15 = true ∧ tileBlk.core.ps.level ≠ 0 := by decide +kernel
def obsBlk : Blk := { tBlk with obs := { Obs.reset with cfg := 0x001003FF } }
theorem test_wit_tracew : pdOn obsBlk 20 = true ∧ bit obsBlk.obs.cfg 0 = true ∧ bit obsBlk.obs.cfg 8 = true ∧ lcsHeld obsBlk = false ∧
    lcsFiltered obsBlk = false ∧ obsBlk.obs.lost = 0 ∧ (∀ p ∈ obsBlk.obs.slots, p.ty ≠ 8) ∧
    pdOn { obsBlk with pwr := { obsBlk.pwr with pd := 0xFFEFFFFF } } 20 = false := by decide +kernel
def obs8 : ObsPacket := { ty := 8, world := false, level := 2, ts := 0, payload := [0, 0] }
def obs2 : ObsPacket := { ty := 2, world := false, level := 3, ts := 0, payload := [0] }
def obsIn (ps : List ObsPacket) (lcs : BitVec 3) : Blk := { obsBlk with
  obs := { obsBlk.obs with slots := ps, lost := 0xFFFFFFFF, drops := 0xFFFF }, sys := { obsBlk.sys with lcs := lcs } }
theorem test_wit_traceFull : Issues (tSt (obsIn [obs8, obs2] 1)) 1 (obsIn [obs8, obs2] 1) ∧ (∃ q ∈ (obsIn [obs8, obs2] 1).obs.slots, q.ty = 8) ∧
    (∃ q ∈ (obsIn [obs8, obs2] 1).obs.slots, q.ty = 2) ∧ Issues (tSt (obsIn [obs8] 1)) 1 (obsIn [obs8] 1) ∧
    (∃ q ∈ (obsIn [obs8] 1).obs.slots, q.ty = 8) ∧ (∀ q ∈ (obsIn [obs8] 1).obs.slots, q.ty ≠ 2) ∧
    Issues (tSt (obsIn [] 2)) 1 (obsIn [] 2) ∧ lcsFiltered (obsIn [] 2) = true ∧ (obsIn [] 2).core.ps.world = true :=
  ⟨issues (by decide +kernel), by decide +kernel, by decide +kernel, issues (by decide +kernel), by decide +kernel, by decide +kernel,
   issues (by decide +kernel), by decide +kernel⟩

theorem test_wit_scons : let b := { tBlk with sparge := { Sparge.reset with sprod := [(3, 9)], scons := [(3, 4)] } }
    (b.sparge.scons.get 3).toNat ≤ (9 : Word).toNat ∧ (9 : Word).toNat ≤ (b.sparge.sprod.get 3).toNat ∧
      ¬ ((b.sparge.scons.get 3).toNat ≤ (10 : Word).toNat ∧ (10 : Word).toNat ≤ (b.sparge.sprod.get 3).toNat) := by decide +kernel
/-- A ring that is set up and started, 16 entries, head 3 and index 7. -/
def ringA : Ring := { Ring.zero with
  setUp := true, run := true, head := 3, index := 7
  ctx := { RingCtx.zero with dbase := 0x10000, cbase := 0x20000, msgaddr := 0x30014, msgdata := 0xABCD } }
theorem test_wit_tails : let b := setRing (setRing atS 27 ringA) 23 ringA
    b.core.ps.level ≠ 0 ∧ b.err.fatal = false ∧ b.pwr.state = .run ∧ (getRing b 27).setUp = true ∧ (15 : Word).toNat < (getRing b 27).size ∧
      (getRing b 23).setUp = true ∧ (getRing b 23).ctx.world = b.core.ps.world ∧ (15 : Word).toNat < (getRing b 23).size := by decide +kernel
theorem test_wit_hcpd : let b := { tBlk with core := { tBlk.core with hcpa := 0x228 } }
    b.core.ps.level = 2 ∧ blockOn b = true ∧ lcsHeld b = false ∧ b.core.hcpa = 0x228 ∧ b.core.hcpOut = none := by decide +kernel

def jobJ : Job := { ring := 7, index := 3, prio := 0, world := true, desc := [], tag := 0, big := false, nclamp := 0, firstCode := 0, stopped := 0 }
def jobBlk (offer running : Option Job) : Blk :=
  { setRing tBlk 7 { ringA with st := .begun } with rings := { (setRing tBlk 7 { ringA with st := .begun }).rings with offer := offer, running := running } }
theorem test_wit_jobs :
    (let b := jobBlk (some jobJ) none
     Issues (tSt b) 1 b ∧ b.core.ps.level ≠ 0 ∧ b.rings.offer = some jobJ ∧ b.rings.running = none ∧ jobVisible 2 true jobJ = true ∧
       b.rings.offerResume = false) ∧
    (let b := jobBlk none (some jobJ)
     b.rings.offer = none ∧ b.rings.running = some jobJ ∧ (getRing b 7).fld 0x58 3 3 = 0) ∧
    (let b := jobBlk (some { jobJ with ring := 6 }) (some jobJ)
     b.rings.running = some jobJ ∧ b.rings.offer ≠ none ∧ b.rings.preempted = [] ∧ b.rings.preempting = none ∧ (getRing b 7).fld 0x38 19 0 = 0 ∧
       (getRing b 7).ctx.even = false) :=
  ⟨⟨issues (by decide +kernel), by decide +kernel⟩, by decide +kernel, by decide +kernel⟩

/-- Chip space cacheable for both worlds; line 0x401 of the secure world dirty in the L2. -/
def cfgC : Cfg := { cfgR with rgnX := [(0, BitVec.ofNat 64 (47 * 2 ^ 48 + 0x3F3) ^^^ 0x000C000000000000)] }
def cacheLine (c : CacheId) (dirty : Bool) : Line :=
  { idx := c.ways * c.set 0x401, valid := true, dirty := dirty, world := true, ref := true, tag := 0x401, data := 5, perr := false
    terr := false, serr := false }
def cacheBlk (l1d l2 : List Line) : Blk := { withReg tBlk 9 0x10040 with caches := { Caches.reset with l1d := l1d, l2 := l2 } }
def stC (b : Blk) : State := { State.reset with cfg := cfgC, blk := b }
theorem test_wit_cmoDirty : let b := cacheBlk [] [cacheLine .l2 true]
    Issues (stC b) 1 b ∧ cmoLocate cfgC .load 0x10040 1 false b = .ok (0x401, .cached) b ∧ b.err.fatal = false ∧
      findLine b .l2 0x401 true = some (cacheLine .l2 true) ∧ findLine b .l1d 0x401 true = none ∧ b.sys.beats = [] ∧ NoTagErrors b 0x401 ∧
      oneCopy b 0x401 true :=
  ⟨issues (by decide +kernel), ends_in (by decide +kernel), by decide +kernel, by decide +kernel, by decide +kernel, rfl,
   by intro c; cases c <;> decide +kernel, by intro c; cases c <;> decide +kernel⟩
theorem test_wit_cmoDirtyL1 : let b := cacheBlk [cacheLine .l1d true] [cacheLine .l2 false]
    Issues (stC b) 1 b ∧ cmoLocate cfgC .load 0x10040 1 false b = .ok (0x401, .cached) b ∧ findLine b .l2 0x401 true = some (cacheLine .l2 false) ∧
      findLine b .l1d 0x401 true = some (cacheLine .l1d true) ∧ NoTagErrors b 0x401 ∧ oneCopy b 0x401 true ∧
      (∀ c, findLine b c 0x401 false = none) :=
  ⟨issues (by decide +kernel), ends_in (by decide +kernel), by decide +kernel, by decide +kernel, by intro c; cases c <;> decide +kernel,
   by intro c; cases c <;> decide +kernel, by intro c; cases c <;> decide +kernel⟩
theorem test_wit_cmoUncached : cmoLocate cfgR .load 0x10040 1 false (cacheBlk [] []) = .ok (0x401, .port false .uncached) (cacheBlk [] []) ∧
    (victim (cacheBlk [] []) .l2 (CacheId.l2.set 0x401)).valid = false ∧ (victim (cacheBlk [] []) .l1d (CacheId.l1d.set 0x401)).valid = false :=
  ⟨ends_in (by decide +kernel), by decide +kernel⟩
theorem test_wit_cmoClean : let b := cacheBlk [cacheLine .l1d false] [cacheLine .l2 false]
    Issues (stC b) 1 b ∧ cmoLocate cfgC .load 0x10040 1 false b = .ok (0x401, .cached) b ∧
      cmoLocate cfgC .store 0x10040 1 false b = .ok (0x401, .cached) b ∧ cmoLocate cfgC .fetch 0x10040 1 false b = .ok (0x401, .cached) b ∧
      cmoLocate cfgC .store 0x10040 64 true b = .ok (0x401, .cached) b ∧ dirtyAnywhere b 0x401 true = false ∧ oneCopy b 0x401 true ∧
      findLine b .l1d 0x401 true = some (cacheLine .l1d false) ∧ (∀ l ∈ b.caches.l1d ++ b.caches.l2, l.perr = false) ∧
      (∀ l ∈ b.caches.l1d ++ b.caches.l2, l.dirty = false) ∧ b.core.ps.level = 2 :=
  ⟨issues (by decide +kernel), ends_in (by decide +kernel), ends_in (by decide +kernel), ends_in (by decide +kernel), ends_in (by decide +kernel),
   by decide +kernel, by intro c; cases c <;> decide +kernel, by decide +kernel⟩
/-- The core enters handlers through a table at LTS offset 0x1000 whose every used entry names 0x400000002000. -/
def tabBlk (entries : List Nat) : Blk := { tBlk with
  core := { tBlk.core with mb := { Bank.reset with vbase := 0x400000001000 }, gbaseS := 0x400000001000 }
  lts := { bytes := entries.foldl (fun l e => Sparse.setAll l (0x1000 + e) [0, 0x20, 0, 0, 0, 0x40]) [(3, 0x04)], flips := [] } }
def handlerPiece : Piece := 0x400000002000
theorem test_wit_break : let b := tabBlk [8 * 0x1E]
    Issues (tSt b) 1 b ∧ restoreArch (start (tSt b)) (dropResp b) = b ∧ 4 ≤ b.core.ps.mask.toNat ∧ EntryFree b.core 2 ∧
      readTable Cfg.reset ((bankOf b.core 2 true).vbase + 8 * 0x1E) 8 true true b = .ok (.ok handlerPiece) b ∧ handlerPiece.toNat % 4 = 0 := by
  refine ⟨issues (by decide +kernel), by decide +kernel, by decide +kernel, by unfold EntryFree; decide +kernel, answers_in (by decide +kernel), by decide +kernel⟩
theorem test_wit_breakUnmasked : let b0 := tabBlk [8 * 5]
    let b := { b0 with core := { b0.core with ps := { b0.core.ps with mask := 3 } } }
    b.core.ps.mask.toNat < 4 ∧ EntryFree b.core 2 ∧
      readTable Cfg.reset ((bankOf b.core 2 true).vbase + 8 * 5) 8 true true b = .ok (.ok handlerPiece) b :=
  ⟨by decide +kernel, by unfold EntryFree; decide +kernel, answers_in (by decide +kernel)⟩
/-- Gate 255 of the table at M names level 2, gate 0 is not valid; at S gate 255 enters M. -/
def gateBlk (e : Byte) : Blk :=
  let b := tabBlk [16 * 255]
  { b with lts := { b.lts with bytes := Sparse.setAll b.lts.bytes (0x1000 + 16 * 255 + 8) [e] } }
def gatePiece (e : Nat) : Piece := BitVec.ofNat 512 (0x400000002000 + e * 2 ^ 64)
theorem test_wit_gateStops : Issues (tSt (gateBlk 5)) 1 (gateBlk 5) ∧ (gateBlk 5).core.frozen = false ∧
    readTable Cfg.reset ((gateBlk 5).core.gbaseS + 16 * 255) 16 true true (gateBlk 5) = .ok (.ok (gatePiece 5)) (gateBlk 5) ∧
    readTable Cfg.reset ((gateBlk 0).core.gbaseS + 16 * 255) 16 true true (gateBlk 0) = .ok (.ok (gatePiece 0)) (gateBlk 0) ∧
    (BitVec.ofNat 2 (bits (5 : Word) 2 1)).toNat ≤ (gateBlk 5).core.ps.level.toNat ∧ bit (5 : Word) 0 = true ∧ bit (0 : Word) 0 = false :=
  ⟨issues (by decide +kernel), by decide +kernel, answers_in (by decide +kernel), answers_in (by decide +kernel), by decide +kernel⟩
/-- At S in the non-secure world, whose gate table is the same one. -/
def gateSBlk : Blk :=
  let b := atLevel (gateBlk 13) 1 false
  { b with core := { b.core with gbaseN := 0x400000001000 } }
theorem test_wit_gateEnters : Issues (tSt gateSBlk) 1 gateSBlk ∧ gateSBlk.core.frozen = false ∧
    readTable Cfg.reset (gateSBlk.core.gbaseN + 16 * 255) 16 false false gateSBlk = .ok (.ok (gatePiece 13)) gateSBlk ∧
    bit (13 : Word) 0 = true ∧ gateSBlk.core.ps.level.toNat < (BitVec.ofNat 2 (bits (13 : Word) 2 1)).toNat ∧ bit (13 : Word) 3 = true ∧
    (∀ i, i < 8 → bit (13 : Word) (8 + i) = false) ∧ EntryFree gateSBlk.core 2 :=
  ⟨issues (by decide +kernel), by decide +kernel, answers_in (by decide +kernel), by decide +kernel, by decide +kernel, by decide +kernel, by decide +kernel,
   by unfold EntryFree; decide +kernel⟩

/-- At M with a record of the given cause in its bank and one window below. -/
def recBlk (cause : BitVec 6) (occ : Bool) : Blk := { tBlk with core := { tBlk.core with
  res := 1, mb := { Bank.reset with epc := 0x400000000100, epwLevel := 2, epwWorld := true, olevel := 2, oworld := true, occ := occ, cause := cause } } }
theorem test_wit_returns :
    (∀ x ∈ [((5 : BitVec 6), false), (0x20, true), (0x13, false)],
      let b := recBlk x.1 true
      let bk := bankOf b.core 2 true
      b.core.svcBanks = 0 ∧ bk.depth = 0 ∧ bk.occ = true ∧ ((bk.cause = 0x20) ↔ x.2 = true) ∧
        pwordFail bk.epwLevel bk.epwWorld bk.olevel bk.oworld b.core.ps = none ∧ bk.epwWorld = b.core.ps.uworld ∧
        frozenRec bk.cause bk.detail = decide (x.1 = 0x13) ∧ b.core.res ≠ 0) ∧
    Issues (tSt (recBlk 5 true)) 1 (recBlk 5 true) ∧ Issues (tSt (recBlk 0x20 true)) 1 (recBlk 0x20 true) ∧
    Issues (tSt (recBlk 0x13 true)) 1 (recBlk 0x13 true) ∧ (bankOf (recBlk 5 false).core 2 true).occ = false :=
  ⟨by decide +kernel, issues (by decide +kernel), issues (by decide +kernel), issues (by decide +kernel), by decide +kernel⟩

/-- Service mode with two banks of tasks: task 0 runs, the others' states are given. -/
def svcBlk (st : Sparse 2) (t : Word) : Blk :=
  { tBlk with core := ({ tBlk.core with svcBanks := 4, svcTask := 0, taskStat := st } : Core).setReg 9 t }
theorem test_wit_tasks :
    (let b := svcBlk [(0, 2), (5, 3)] 5
     Issues (tSt b) 1 b ∧ b.core.svcBanks ≠ 0 ∧ (∃ u, u < b.core.banks ∧ u ≠ b.core.svcTask.toNat ∧ b.core.taskStat.get u ≠ 0) ∧
       (b.core.reg 9).toNat < b.core.banks ∧ b.core.taskStat.get (b.core.reg 9).toNat = 3 ∧ taskWaitOf b 5 = none) ∧
    (let b := svcBlk [(0, 2)] 5
     (¬ ∃ u, u < b.core.banks ∧ u ≠ b.core.svcTask.toNat ∧ b.core.taskStat.get u ≠ 0) ∧ b.core.taskStat.get (b.core.reg 9).toNat = 0) ∧
    (let b := svcBlk [(0, 2)] 64
     b.core.banks ≤ (b.core.reg 9).toNat) ∧ tBlk.core.svcBanks = 0 :=
  ⟨⟨issues (by decide +kernel), by decide +kernel, ⟨5, by decide +kernel⟩, by decide +kernel⟩,
   ⟨by decide +kernel, by decide +kernel⟩, by decide +kernel, rfl⟩
/-- At S in the handler of an exception taken from U, whose window is the one below; a save area begins at 0x400000003000. -/
def ctxBlk (bytes : List Host.Cell) : Blk := { withReg atS 9 0x400000003000 with
  core := { (withReg atS 9 0x400000003000).core with
    res := 1, cwp := 1, wlevel := [(1, 1)], sn := { Bank.reset with occ := true, epc := 0x400000000100, cause := 5 } }
  lts := { bytes := (3, 0x04) :: bytes, flips := [] } }
def ctxRec : Rec :=
  { pc := 0x400000000100, level := 0, world := false, mask := 0, cause := 5, detail := 0, olevel := 0, oworld := false, stacked := false }
/-- A legal lower image: its magic number and LOWATER 63. -/
def ctxImage : List Host.Cell := [(0x3000, 0x34), (0x3001, 0x4B), (0x3240, 63)]
def ctxVa : Word := 0x400000003000
def lowerParts (b : Blk) : List (Nat × List Byte) := [(0, lowerImage b.core ctxRec), (0x240, leOfNat 8 b.core.lowater.toNat)]
theorem test_wit_ctxsaveL : let b := ctxBlk []
    Issues (tSt b) 1 b ∧ ctxChecks Cfg.reset ctxVa b = .ok ctxRec b ∧ b.core.res = 1 ∧ b.core.fdirty = 0 ∧
      ∃ b3, Saves Cfg.reset ctxVa (lowerParts b) b b3 :=
  ⟨issues (by decide +kernel), ends_in (by decide +kernel), by decide +kernel, by decide +kernel,
   _, _, ends_ok (by decide +kernel), _, ends_ok (by decide +kernel), rfl⟩
def ctxBytes : List Byte := Sparse.range ctxImage 0x3000 0x248
theorem test_wit_ctxloadL : let b := ctxBlk ctxImage
    let w (i : Nat) : Word := (wordsOf 73 ctxBytes).getD i 0
    Issues (tSt b) 1 b ∧ ctxChecks Cfg.reset ctxVa b = .ok ctxRec b ∧ Reads Cfg.reset ctxVa [(0, 0x248, ctxBytes)] b b ∧ b.core.ps.level = 1 ∧
      bits (w 0) 15 0 = 0x4B34 ∧ (w 4).toNat % 128 = 0 ∧ bits (w 72) 5 0 ≠ 0 ∧ ctxRec.stacked = false ∧
      pwordFail (BitVec.ofNat 2 (bits (w 2) 1 0)) (bit (w 2) 2) ctxRec.olevel ctxRec.oworld b.core.ps = none :=
  ⟨issues (by decide +kernel), ends_in (by decide +kernel), ⟨_, ends_in (by decide +kernel), rfl⟩, by decide +kernel⟩
/-- The parts that CTXSAVE.U writes of a block whose vector, tile and Tun state is clean. -/
def upperParts (b : Blk) : List (Nat × List Byte) := [
  (0x400, bytesOfWords [b.vec.vl.zeroExtend 64, b.vec.vcsr.zeroExtend 64, b.vec.vresume.zeroExtend 64, 0]),
  (0x420, bytesOfWords [b.tile.inuse.zeroExtend 64]), (0x428, bytesOfWords [b.tun.flag]),
  (0x440, bytesOfWords ((List.range 16).map b.tun.grp)), (0x430, bytesOfWords [b.epi.seed.zeroExtend 64, b.epi.cvt.zeroExtend 64]),
  (0x4C0, List.replicate 64 0), (0x500, (List.range 64).flatMap fun j => leOfNat 4 (laneState b.epi j).toNat)]
theorem test_wit_ctxsaveU : let b := ctxBlk []
    Issues (tSt b) 1 b ∧ ctxChecks Cfg.reset ctxVa b = .ok ctxRec b ∧ upperPds.all (pdRuns b) = true ∧
      b.vec.vdirty = 0 ∧ b.tile.dirty = 0 ∧ b.tun.dirty = 0 ∧ ∃ b3, Saves Cfg.reset ctxVa (upperParts b) b b3 :=
  ⟨issues (by decide +kernel), ends_in (by decide +kernel), by decide +kernel, by decide +kernel, by decide +kernel,
   by decide +kernel, _, _, ends_ok (by decide +kernel), _, ends_ok (by decide +kernel), _, ends_ok (by decide +kernel), _, ends_ok (by decide +kernel), _, ends_ok (by decide +kernel), _, ends_ok (by decide +kernel), _, ends_ok (by decide +kernel), rfl⟩
def zeros (n : Nat) : List Byte := List.replicate n 0
theorem test_wit_ctxloadU : let b := ctxBlk []
    let w (i : Nat) : Word := (wordsOf 24 (zeros 0x200)).getD i 0
    Reads Cfg.reset ctxVa ([(0x400, 0x200, zeros 0x200)] ++ (List.range 8).map (fun g => (0x800 + 0x800 * g, 0x800, zeros 0x800)) ++
      [(0x500, 0x100, zeros 0x100)]) b b ∧ b.core.ps.level = 1 ∧ bits (w 0) 10 0 ≤ 1024 ∧ bits (w 2) 10 0 ≤ 1024 ∧ bits (w 4) 15 0 = 0 ∧
      (∀ g, g < 16 → w (8 + g) = 0) :=
  ⟨⟨ctxBlk [], ends_in (by decide +kernel), ctxBlk [], ends_in (by decide +kernel), ctxBlk [], ends_in (by decide +kernel), ctxBlk [], ends_in (by decide +kernel),
    ctxBlk [], ends_in (by decide +kernel), ctxBlk [], ends_in (by decide +kernel), ctxBlk [], ends_in (by decide +kernel), ctxBlk [], ends_in (by decide +kernel),
    ctxBlk [], ends_in (by decide +kernel), ctxBlk [], ends_in (by decide +kernel), rfl⟩, by decide +kernel, by decide +kernel, by decide +kernel,
   by decide +kernel, below (by decide +kernel)⟩
/-- Page tables in the LTS: stage 1 at 0x3000, stage 2 at 0x10000 and the machine's at 0x5000 map the LTS to itself. -/
def ptLts : Lts := { flips := [], bytes :=
  [(3, 0x04), (0x3400, 3), (0x3401, 0x40), (0x3405, 0x40), (0x4000, 0x1D), (0x4005, 0x40), (0x5400, 0x1D), (0x5405, 0x40), (0x10400, 0x1D), (0x10405, 0x40)] }
def walkBlk (l : BitVec 2) : Blk :=
  let b := withReg (atLevel tBlk l false) 9 0x400000012345
  { b with lts := ptLts, mmu := { b.mmu with tn := { b.mmu.tn with s1lo := 0x400000003000, s2root := 0x400000010000 } } }
/-- The entry a walk answers. -/
def walked (r : EStateM.Result Stop Blk (Except ε TlbEntry)) : TlbEntry :=
  match r with
  | .ok (.ok e) _ => e
  | _ => idEntry false false
def walk1 : EStateM.Result Stop Blk (Except WalkFail TlbEntry) :=
  walkWorld Cfg.reset (walkReader (walkBlk 1) 0x400000012345) (coreCtx (walkBlk 1) 1 false) 0x400000012345 (walkBlk 1)
theorem test_wit_twalk : Issues (tSt (walkBlk 1)) 1 (walkBlk 1) ∧ (walkBlk 1).core.ps.level = 1 ∧
    walkWorld Cfg.reset (walkReader (walkBlk 1) 0x400000012345) (coreCtx (walkBlk 1) 1 false) 0x400000012345 (walkBlk 1) =
      .ok (.ok (walked walk1)) (walkBlk 1) := ⟨issues (by decide +kernel), by decide +kernel, answers_in (by decide +kernel)⟩
def reqR : TrReq := { requester := 19, kindWrite := true, reason := 0, world := false, level := true, va := 0x400000000999 }
def reqBlk (l : BitVec 2) (v : Word) (rs : List TrReq) : Blk :=
  let b := withReg (walkBlk l) 9 v
  { b with mmu := { b.mmu with treqs := rs } }
def reqWalkBlk (l : BitVec 2) : Blk :=
  setRing (reqBlk l 0 [reqR]) 27 { Ring.zero with ctx := { RingCtx.zero with level := true, s1lo := 0x400000003000, s2root := 0x400000010000 } }
def walkR (l : BitVec 2) : EStateM.Result Stop Blk (Except WalkFail TlbEntry) :=
  walkWorld Cfg.reset (walkReader (reqWalkBlk l) reqR.va) (reqCtx (reqWalkBlk l) reqR) reqR.va (reqWalkBlk l)
theorem test_wit_twalkR : Issues (tSt (reqWalkBlk 1)) 1 (reqWalkBlk 1) ∧ shownReq (reqWalkBlk 1) 1 false = some reqR ∧
    walkWorld Cfg.reset (walkReader (reqWalkBlk 1) reqR.va) (reqCtx (reqWalkBlk 1) reqR) reqR.va (reqWalkBlk 1) =
      .ok (.ok (walked (walkR 1))) (reqWalkBlk 1) ∧
    Issues (tSt (reqWalkBlk 2)) 1 (reqWalkBlk 2) ∧ shownReq (reqWalkBlk 2) 2 false = some reqR ∧
    walkWorld Cfg.reset (walkReader (reqWalkBlk 2) reqR.va) (reqCtx (reqWalkBlk 2) reqR) reqR.va (reqWalkBlk 2) =
      .ok (.ok (walked (walkR 2))) (reqWalkBlk 2) ∧ shownReq (walkBlk 1) 1 false = none ∧ (walkBlk 1).mmu.walkBuf = none :=
  ⟨issues (by decide +kernel), by decide +kernel, answers_in (by decide +kernel), issues (by decide +kernel), by decide +kernel,
   answers_in (by decide +kernel), by decide +kernel, rfl⟩
/-- At M with a machine root, whose fetches hit a machine entry. -/
def machBlk : Blk := { walkBlk 2 with
  mmu := { Mmu.reset with mroot := 0x400000005001, itlb := [{ idx := 0, seq := 0, e := { idEntry false false with kind := .machine } }] } }
def walkM : EStateM.Result Stop Blk (Except WalkFail TlbEntry) :=
  walkMachine Cfg.reset (walkReader machBlk 0x400000012345) machBlk.mmu.mroot 0x400000012345 machBlk
theorem test_wit_twalkMachine : Issues (tSt machBlk) 1 machBlk ∧ machBlk.core.ps.level = 2 ∧ bit machBlk.mmu.mroot 0 = true ∧
    walkMachine Cfg.reset (walkReader machBlk 0x400000012345) machBlk.mmu.mroot 0x400000012345 machBlk = .ok (.ok (walked walkM)) machBlk ∧
    bit tBlk.mmu.mroot 0 = false := ⟨issues (by decide +kernel), by decide +kernel, by decide +kernel, answers_in (by decide +kernel), by decide +kernel⟩
def bufBlk : Blk := { walkBlk 1 with mmu := { (walkBlk 1).mmu with walkBuf := some (idEntry false false) } }
theorem test_wit_tlbw : Issues (tSt bufBlk) 1 bufBlk ∧ bufBlk.core.ps.level ≠ 0 ∧ bufBlk.mmu.walkBuf = some (idEntry false false) :=
  ⟨issues (by decide +kernel), by decide +kernel, by decide +kernel⟩
theorem test_wit_invalidations : (∀ seqs, agentsHold (reqBlk 1 0xFFFF []) seqs = false) ∧ (∀ seqs, agentsHold (reqBlk 2 0 []) seqs = false) ∧
    Issues (tSt (reqBlk 1 0xFFFF [])) 1 (reqBlk 1 0xFFFF []) ∧ Issues (tSt (reqBlk 2 0 [])) 1 (reqBlk 2 0 []) ∧
    (0x400000012001 : Word).toNat % 4096 ≤ 1 ∧ (0xFFFF : Word).toNat < 65536 ∧ (0xFFFF0001FFFF : Word).toNat &&& 0xFFFF0001FFFF = 0xFFFF0001FFFF ∧
    (0xFFFFFFFFFF001 : Word).toNat &&& 0xFFFFFFFFFF001 = (0xFFFFFFFFFF001 : Word).toNat ∧ (0x1FFFF : Word).toNat < 2 ^ 17 :=
  ⟨fun _ => rfl, fun _ => rfl, issues (by decide +kernel), issues (by decide +kernel), by decide +kernel⟩
theorem test_wit_trqres : (∀ l ∈ [(1 : BitVec 2), 2], (let b := reqBlk l 0x113 [reqR]
      b.core.ps.level ≠ 0 ∧ (b.core.reg 9).toNat &&& 0x11F = (b.core.reg 9).toNat ∧ bits (b.core.reg 9) 4 0 ≤ 19 ∧ b.mmu.treqs = [reqR] ∧
        reqR.requester.toNat = bits (b.core.reg 9) 4 0)) ∧ Issues (tSt (reqBlk 2 0x113 [reqR])) 1 (reqBlk 2 0x113 [reqR]) ∧
    ({ reqR with world := true } : TrReq).world ≠ (reqBlk 1 0x113 [{ reqR with world := true }]).core.ps.world ∧
    (∀ r ∈ (reqBlk 1 0x113 []).mmu.treqs, r.requester.toNat ≠ 19) :=
  ⟨by decide +kernel, issues (by decide +kernel), by decide +kernel, by decide +kernel⟩
theorem tile_issues {b : Blk} {pds : List Nat} (h1 : Issues (tSt b) 2 b)
    (h3 : (pds.all (pdRuns b) && decide (tileEpoch b = b)) = true) : TileIssues (tSt b) pds b := by
  simp only [Bool.and_eq_true, decide_eq_true_eq] at h3
  exact ⟨b, h1, h3.1, h3.2.symm⟩

/-- Tiles 9 to 11 in use with formats W16, K8 and K8 with scales; addresses in r1 and r3, a stride in r2. -/
def tilesBlk : Blk := { withReg (withReg (withReg tBlk 1 0x400000001000) 2 0x80) 3 0x400000001F40 with
  tile := { TileFile.reset with rows := [(577, 7)], inuse := 0xE00, tags := [(10, mkTag 1 false false), (11, mkTag 1 true false)] } }
theorem test_wit_tileIssues : TileIssues (tSt tilesBlk) [5, 14] tilesBlk ∧ TileIssues (tSt tilesBlk) [14] tilesBlk ∧
    TileIssues (tSt tilesBlk) [] tilesBlk :=
  ⟨tile_issues (issues (by decide +kernel)) (by decide +kernel),
   tile_issues (issues (by decide +kernel)) (by decide +kernel),
   tile_issues (issues (by decide +kernel)) (by decide +kernel)⟩
/-- First words of a tile instruction: RA, RB, the tile, RC and the low bits. -/
def tw1 (ra rb t rc lo : Nat) : BitVec 21 := BitVec.ofNat 21 (ra * 65536 + rb * 2048 + t * 128 + rc * 4 + lo)
theorem test_wit_tmov : let w1 := tw1 0 31 9 0 7
    bits w1 20 16 = 0 ∧ bits w1 6 3 = 0 ∧ onlyBits (7 : W32) (mROWS + mFMT) = true ∧ (shapeOf 7).m ≤ 8 ∧ (shapeOf 7).fmt ∈ moveFmts ∧
      tilesBlk.tile.tagOk 9 0 false false = true := by decide +kernel
theorem test_wit_tzero : layoutZ (tw1 0 0 15 0 0) = true ∧ (let w2 : W32 := 0x310000
    onlyBits w2 (mFMT + mBSC + mBSZ) = true ∧ (shapeOf w2).fmt ∈ moveFmts ∧ ((shapeOf w2).bsc = true → (shapeOf w2).fmt ≠ 0 ∧ (shapeOf w2).fmt ≠ 8)) := by
  decide +kernel
/-- What a computation answers. -/
def answer (d : α) (r : EStateM.Result Stop Blk α) : α :=
  match r with
  | .ok x _ => x
  | .error _ _ => d
/-- A TLOAD or TSTORE of two rows with scales at RC: each row is reached, and no two ranges meet. -/
theorem test_wit_tileMemory : let b := tilesBlk
    let w1 := tw1 1 2 11 3 0
    let w2 : W32 := 0x110001
    let sh := shapeOf w2
    let ra := b.core.reg (fRA w1)
    let rb := b.core.reg (fRB w1)
    let rc := b.core.reg (fRC w1)
    (bits w1 1 0 = 0 ∧ onlyBits w2 (mROWS + mFMT + mBSC + mBSZ) = true ∧ sh.fmt ∈ moveFmts ∧
      (sh.bsc = true → sh.fmt ≠ 0 ∧ sh.fmt ≠ 8 ∧ rc.toNat % 8 = 0) ∧ (sh.bsc = false → bits w1 6 2 = 0) ∧ ra.toNat % 64 = 0 ∧ rb.toNat % 64 = 0) ∧
    b.tile.tagOk 11 sh.fmt sh.bsc sh.bsz = true ∧
    (∀ acc, acc = Acc.load ∨ acc = .store →
      ((List.range sh.m).mapM fun r => locateLts Cfg.reset acc (rowAddr ra rb r) 64 (rowAddr ra rb r)) b = .ok [0x1000, 0x1080] b ∧
      (if sh.bsc then locateScales Cfg.reset acc rc sh.m else pure []) b = .ok [(0x400000001F40, 0x1F40, 16)] b) ∧
    LtsOpen b ([0x1000, 0x1080].map (fun o => (o, 64)) ++ [((0x400000001F40 : Word), 0x1F40, 16)].map fun p => p.2) ∧
    Apart ([0x1000, 0x1080].map (fun o => (o, 64)) ++ [((0x400000001F40 : Word), 0x1F40, 16)].map fun p => p.2) := by
  refine ⟨by decide +kernel, by decide +kernel, ?_, ⟨by decide +kernel, by decide +kernel, by decide +kernel⟩, by unfold Apart; decide +kernel⟩
  intro acc h
  rcases h with rfl | rfl
  · exact ⟨ends_in (by decide +kernel), ends_in (by decide +kernel)⟩
  · exact ⟨ends_in (by decide +kernel), ends_in (by decide +kernel)⟩
/-- Group 3: eight rows from row 8, compensated, FINAL. -/
def tunGroup (base rows cls flags : Nat) : Word := BitVec.ofNat 64 (base + (rows - 1) * 256 + cls * 65536 + flags * 2 ^ 21)
def withGroup (b : Blk) (g : Nat) (v : Word) : Blk := { b with tun := b.tun.setGrp g v }
def tunBlk : Blk := withGroup tilesBlk 3 (tunGroup 1 2 1 3)
theorem test_wit_tstoreTun : let b := tunBlk
    let w1 := tw1 1 2 0 0 3
    let w2 : W32 := BitVec.ofNat 32 (8 * 65536 + 3 * 2 ^ 22)
    let sh := shapeOf w2
    let v := b.tun.grp sh.grp
    let ra := b.core.reg (fRA w1)
    let rb := b.core.reg (fRB w1)
    TileIssues (tSt b) [14] b ∧ bit w1 0 = true ∧ onlyBits w2 (mROWS + mFMT + mGRP) = true ∧ sh.fmt = 8 ∧ readableGroup v = true ∧
      (bit w1 1 = true → gClass v ≠ 0) ∧ (b.core.reg (fRC w1)).toNat + sh.m ≤ gCap v ∧ ra.toNat % 64 = 0 ∧ rb.toNat % 64 = 0 ∧
      ((List.range sh.m).mapM fun r => locateRow Cfg.reset .store (rowAddr ra rb r) 4) b = .ok [[0x1000, 0x1040, 0x1080, 0x10C0]] b ∧
      (halves (gBase v) (gRows v)).all (pdRuns b) = true ∧ LtsOpen b ([[0x1000, 0x1040, 0x1080, 0x10C0]].flatten.map fun o => (o, 64)) ∧
      Apart ([[0x1000, 0x1040, 0x1080, 0x10C0]].flatten.map fun o => (o, 64)) :=
  ⟨tile_issues (issues (by decide +kernel)) (by decide +kernel), by decide +kernel, by decide +kernel, by decide +kernel,
   by decide +kernel, by decide +kernel, by decide +kernel, by decide +kernel, by decide +kernel, ends_in (by decide +kernel), by decide +kernel,
   ⟨by decide +kernel, by decide +kernel, by decide +kernel⟩, by unfold Apart; decide +kernel⟩
/-- The block with U in world 0, to which the whole of the LTS belongs. -/
def inWorld0 (b : Blk) : Blk := { b with core := { b.core with ps := { b.core.ps with uworld := false } } }
/-- A group of 32 rows that takes group 3's rows, spills after five commits and has its buffer at LTS row 1; and one of class 2. -/
theorem test_wit_tgopen : let b := inWorld0 (withReg (withReg tunBlk 8 0x1005) 9 0x1FFF000)
    let hyp (r : BitVec 5) (w2 : W32) (g : Nat) : Prop :=
      let w1 := tw1 r.toNat 0 0 0 0
      let ra := b.core.reg (fRA w1)
      let x : Word := BitVec.ofNat 64 (bits w2 17 0 +
        (if bits w2 17 16 < 2 then bits w2 20 18 * 2 ^ 18 + bits ra 11 0 * 2 ^ 24 + bits ra 24 12 * 2 ^ 48 else 0) + 2 ^ 21)
      bits w1 15 0 = 0 ∧ onlyBits w2 (0x1FFFFF + mGRP) = true ∧ bits w2 25 22 = g ∧ bits w2 7 0 + bits w2 15 8 ≤ 255 ∧ bits ra 63 25 = 0 ∧
        (halves (gBase x) (gRows x)).all (pdRuns b) = true ∧ (gSpill x ≠ 0 → ∀ p, p < 8 * gCap x → bufferFault Cfg.reset b (512 * gSbuf x + 64 * p) = none)
    TileIssues (tSt b) [] b ∧ hyp 8 (BitVec.ofNat 32 (0x1F * 256 + 2 ^ 18 + 15 * 2 ^ 22)) 15 ∧
      hyp 9 (BitVec.ofNat 32 (0xE0 + 0x1F * 256 + 2 * 65536 + 2 ^ 18 + 2 ^ 22)) 1 ∧
      gOpen (b.tun.grp 3) = true ∧ rowsOverlap (b.tun.grp 3) (tunGroup 0 32 0 1) = true :=
  ⟨tile_issues (issues (by decide +kernel)) (by decide +kernel),
   ⟨by decide +kernel, by decide +kernel, by decide +kernel, by decide +kernel, by decide +kernel, by decide +kernel, fun _ => below (by decide +kernel)⟩,
   ⟨by decide +kernel, by decide +kernel, by decide +kernel, by decide +kernel, by decide +kernel, by decide +kernel, fun _ => below (by decide +kernel)⟩,
   by decide +kernel, by decide +kernel⟩
/-- TGCLOSE of a final group, of a chunked one, of a compensated one, and of one that has spilled to LTS row 1. -/
theorem test_wit_tgclose : let w2 : W32 := BitVec.ofNat 32 (3 * 2 ^ 22)
    let grp (cls flags : Nat) : Word := (withGroup tilesBlk 3 (tunGroup 1 2 cls flags)).tun.grp 3
    let v : Word := grp 0 5 + BitVec.ofNat 64 (2 ^ 48)
    let b := inWorld0 (withGroup tilesBlk 3 v)
    TileIssues (tSt b) [] b ∧
    (bits (1 : BitVec 21) 20 1 = 0 ∧ bit (1 : BitVec 21) 0 = true ∧ bit (0 : BitVec 21) 0 = false ∧ onlyBits w2 mGRP = true ∧ bits w2 25 22 = 3 ∧
      (gOpen (grp 1 3) = true ∧ gFinal (grp 1 3) = true) ∧
      (gOpen (grp 0 1) = true ∧ gFinal (grp 0 1) = false ∧ gSpilled (grp 0 1) = false ∧ gClass (grp 0 1) ≠ 1) ∧
      (gOpen (grp 1 1) = true ∧ gFinal (grp 1 1) = false ∧ gSpilled (grp 1 1) = false ∧ gClass (grp 1 1) = 1 ∧
        (halves (gBase (grp 1 1)) (gRows (grp 1 1))).all (pdRuns tilesBlk) = true)) ∧
    (gOpen v = true ∧ gFinal v = false ∧ gClass v = 0 ∧ gSpilled v = true ∧ gSbuf v = 1 ∧ (halves (gBase v) (gRows v)).all (pdRuns b) = true ∧
      (∀ q, q < 4 → bit Cfg.reset.qen q = true → pdRuns b (25 + q) = true) ∧ (∀ o n, ltsWiping b o n = false) ∧ b.lts.flips = [] ∧
      ∀ i, i < gCap v → ∀ j, j < 64 → bufOk Cfg.reset b (512 * gSbuf v + 512 * i + 8 * j) = true) :=
  ⟨tile_issues (issues (by decide +kernel)) (by decide +kernel), by decide +kernel,
   by decide +kernel, by decide +kernel, by decide +kernel, by decide +kernel, by decide +kernel, by decide +kernel, below (by decide +kernel),
   fun _ _ => rfl, by decide +kernel, below (by decide +kernel)⟩
/-- A chunked group of eight rows whose spill is due after two commits, with its buffer at LTS row 8. -/
def dueGroup : Word := tunGroup 0 1 0 1 + BitVec.ofNat 64 (2 * 2 ^ 24 + 2 * 2 ^ 36 + 8 * 2 ^ 48)
def dueBlk : Blk := inWorld0 (withGroup tBlk 15 dueGroup)
theorem test_wit_tunSpill : let b := dueBlk
    let v := b.tun.grp 15
    nextSpill b.tun = some 15 ∧ nextSpill b.tun ≠ some 0 ∧ gClass v = 0 ∧ gSpilled v = false ∧ (halves (gBase v) (gRows v)).all (pdRuns b) = true ∧
      b.sys.beats = [] ∧ b.err.fatal = false ∧ (∀ q, q < 4 → bit Cfg.reset.qen q = true → pdRuns b (25 + q) = true) ∧ (∀ o n, ltsWiping b o n = false) ∧ b.lts.flips = [] ∧
      (∀ i, i < gCap v → ∀ j, j < 64 → bufOk Cfg.reset b (512 * gSbuf v + 512 * i + 8 * j) = true) :=
  ⟨by decide +kernel, by decide +kernel, by decide +kernel, by decide +kernel, by decide +kernel, by decide +kernel, by decide +kernel,
   below (by decide +kernel), fun _ _ => rfl, by decide +kernel, below (by decide +kernel)⟩
/-- Two spills due at once: that of the group a TBWD's gx names comes first, whatever its number. -/
def twoDue : Blk := { withGroup dueBlk 2 (dueGroup + 0x2000) with tun := { (withGroup dueBlk 2 (dueGroup + 0x2000)).tun with gx := 15 } }
theorem test_wit_spillOrder : spillDue twoDue.tun 2 = true ∧ spillDue twoDue.tun twoDue.tun.gx.toNat = true ∧ nextSpill twoDue.tun = some 15 := by
  decide +kernel

/-- Operand tiles 0 and 1 in W16, groups 2 (chunked) and 3 (compensated) open. -/
def mulBlk : Blk := withGroup (withGroup { tBlk with tile := { TileFile.reset with rows := [(0, 0x3F803F80), (64, 0x40004000)], inuse := 3 } }
  2 (tunGroup 0 8 0 1)) 3 (tunGroup 20 8 1 1)
/-- ROWS, COLS, KB, FMT, GRP and TFEED of a second word. -/
def tw2 (m n kb fmt grp tfeed : Nat) : W32 := BitVec.ofNat 32 ((m - 1) + (n - 1) * 64 + kb * 4096 + fmt * 65536 + grp * 2 ^ 22 + tfeed * 2 ^ 26)
theorem test_wit_mulIssues : TileIssues (tSt mulBlk) (pdsArray Cfg.reset) mulBlk :=
  tile_issues (issues (by decide +kernel)) (by decide +kernel)
/-- The hypotheses of the TMMA clauses on the two words of the instruction. -/
def tmmaHyp (w1 : BitVec 21) (w2 : W32) : Prop :=
    let sh := shapeOf w2
    let v := mulBlk.tun.grp sh.grp
    let ok (t : Nat) : Bool := mulBlk.tile.tagOk t sh.fmt sh.bsc sh.bsz
    bits w1 15 11 = 0 ∧ bits w1 2 0 = 0 ∧ onlyBits w2 (mMul + mBSZ) = true ∧ sh.fmt ≤ 3 ∧ sh.bsc = false ∧ (sh.tfeed = true → kElems sh.fmt sh.kb ≤ 64) ∧
      ((sh.fmt = 0 ∧ 32 < sh.n) ∧ sh.tfeed = true → fTB w1 % 2 = 0 ∧ ok (fTB w1 + 1) = true) ∧ ok (fTD w1) = true ∧ ok (fTB w1) = true ∧
      gOpen v = true ∧ gClass v < 2 ∧ gFinal v = false ∧ (mulBlk.core.reg (fRA w1)).toNat + sh.m ≤ gCap v ∧
      (halves (gBase v) (gRows v)).all (pdRuns mulBlk) = true
/-- The largest chunked form, and a compensated one that feeds 64 columns from a pair of tiles. -/
theorem test_wit_tmma : tmmaHyp (tw1 8 0 0 2 0) (tw2 64 64 15 0 2 0) ∧ tmmaHyp (tw1 8 0 0 4 0) (tw2 32 64 0 0 3 1) := by
  unfold tmmaHyp; exact ⟨by decide +kernel, by decide +kernel⟩
/-- TBWD of tiles 0, 2 and 4 in W16 into groups 2 and 3, with rows masked by r8. -/
theorem test_wit_tbwd : let w1 : BitVec 21 := BitVec.ofNat 21 (8 * 65536 + 2 * 256 + 4 * 16 + 3)
    let w2 := tw2 64 64 3 0 2 0
    let sh := shapeOf w2
    let v := mulBlk.tun.grp sh.grp
    let u := mulBlk.tun.grp (bits w1 3 0)
    onlyBits w2 (mROWS + mCOLS + mKB + mFMT + mGRP) = true ∧ sh.fmt ≤ 2 ∧ (∀ t ∈ [bits w1 15 12, bits w1 11 8, bits w1 7 4],
        mulBlk.tile.tagOk t sh.fmt false false = true) ∧
      (bits w1 11 8 % 2 = 0 ∧ bits w1 7 4 % 2 = 0 ∧ mulBlk.tile.tagOk 3 0 false false = true ∧ mulBlk.tile.tagOk 5 0 false false = true) ∧
      gOpen v = true ∧ gClass v < 2 ∧ gFinal v = false ∧ gOpen u = true ∧ gClass u < 2 ∧ gFinal u = false ∧ bits w1 3 0 ≠ sh.grp ∧
      rowsOverlap v u = false ∧ sh.m ≤ gCap v ∧ kElems sh.fmt sh.kb ≤ gCap u ∧ (halves (gBase v) (gRows v)).all (pdRuns mulBlk) = true ∧
      (halves (gBase u) (gRows u)).all (pdRuns mulBlk) = true := by decide +kernel
def bestBlk (cls : Nat) : Blk := withGroup mulBlk 15 (tunGroup 100 8 cls 1)
theorem test_wit_best : TileIssues (tSt (bestBlk 2)) (pdsArray Cfg.reset) (bestBlk 2) ∧ TileIssues (tSt (bestBlk 3)) (pdsArray Cfg.reset) (bestBlk 3) ∧
    ∀ isMax ∈ [true, false], (let w1 := tw1 8 0 0 4 0
      let w2 := tw2 32 64 15 0 15 1
      let sh := shapeOf w2
      let b := bestBlk (if isMax then 2 else 3)
      let v := b.tun.grp sh.grp
      bits w1 2 0 = 0 ∧ onlyBits w2 (mROWS + mCOLS + mKB + mGRP + mTFEED) = true ∧ kElems 0 sh.kb ≤ 64 ∧ fTB w1 % 2 = 0 ∧
        b.tile.tagOk 3 0 false false = true ∧ b.tile.tagOk (fTD w1) 0 false false = true ∧ b.tile.tagOk (fTB w1) 0 false false = true ∧
        gOpen v = true ∧ gFinal v = false ∧ gClass v = (if isMax then 2 else 3) ∧ (b.core.reg (fRA w1)).toNat + sh.m ≤ gCap v ∧
        (halves (gBase v) (gRows v)).all (pdRuns b) = true) :=
  ⟨tile_issues (issues (by decide +kernel)) (by decide +kernel),
   tile_issues (issues (by decide +kernel)) (by decide +kernel), by decide +kernel⟩
/-- TEPI of 32 columns to K8 in blocks of 16 with scale bytes, under stochastic rounding, scaled and biased by r9's v register. -/
theorem test_wit_tepi : let b := withGroup tBlk 3 (tunGroup 20 8 1 3)
    let w1 : BitVec 21 := BitVec.ofNat 21 (8 * 65536 + 9 * 2048 + 4 * 128 + 5 * 16 + 8)
    let w2 : W32 := tw2 32 32 0 1 3 0 ||| 0x30100000
    let sh := shapeOf w2
    let v := b.tun.grp sh.grp
    TileIssues (tSt b) [14, 15, 5] b ∧ bit w1 3 = true ∧ bits w1 2 0 = 0 ∧ bits w1 6 4 ≤ 5 ∧
      onlyBits w2 (mROWS + mCOLS + mFMT + mBSC + mBSZ + mGRP + 0x38000000) = true ∧ bits w2 28 27 = 2 ∧ sh.fmt ≠ 8 ∧
      fTD w1 % tepiTiles sh.fmt sh.n = 0 ∧ (sh.bsc = true ∧ sh.fmt ≠ 0 ∧ sh.fmt ≠ 8 ∧ sh.n % blockSize sh.bsz = 0) ∧ sh.fmt ∈ moveFmts ∧
      readableGroup v = true ∧ (b.core.reg (fRA w1)).toNat + sh.m ≤ gCap v ∧ (halves (gBase v) (gRows v)).all (pdRuns b) = true :=
  ⟨tile_issues (issues (by decide +kernel)) (by decide +kernel), by decide +kernel⟩
theorem test_wit_inspect : let b (r : Word) := withReg { tBlk with obs := { Obs.reset with inspect := true } } 9 r
    TileIssues (tSt (b 56)) [] (b 56) ∧ TileIssues (tSt tBlk) [] tBlk ∧ pdRuns (b 56) 5 = true ∧ (b 56).obs.inspect = true ∧ (b 56).core.ps.level = 2 ∧
      bits (tw1 9 3 0 0 0) 6 0 = 0 ∧ bits (tw1 0 3 15 0 0) 20 16 = 0 ∧ fTD (tw1 9 3 0 0 0) = 0 ∧ pdRuns (b 56) 14 = true ∧
      ((b 56).core.reg 9).toNat % 8 = 0 ∧ ((b 56).core.reg 9).toNat ≤ 56 ∧ ((b 2046).core.reg 9).toNat % 2 = 0 ∧ ((b 2046).core.reg 9).toNat ≤ 2046 ∧
      (halves 2046 2).all (pdRuns (b 2046)) = true ∧ ¬ (tBlk.obs.inspect = true ∧ tBlk.core.ps.level = 2) :=
  ⟨tile_issues (issues (by decide +kernel)) (by decide +kernel),
   tile_issues (issues (by decide +kernel)) (by decide +kernel), by decide +kernel⟩
/-- A vector block with n elements and CR_VRESUME i. -/
def vecBlk (n i : Nat) : Blk := { withReg tBlk 9 0x400000001060 with vec := { Vec.reset with vl := BitVec.ofNat 11 n, vresume := BitVec.ofNat 11 i } }
theorem vec_issues {b : Blk} (h1 : Issues (tSt b) 2 b) (h2 : (pdRuns b 5 && decide (vecEpoch b = b)) = true) : VecIssues (tSt b) b := by
  simp only [Bool.and_eq_true, decide_eq_true_eq] at h2
  exact ⟨b, h1, h2.1, h2.2.symm⟩
theorem test_wit_vecIssues : VecIssues (tSt (vecBlk 64 0)) (vecBlk 64 0) ∧ VecIssues (tSt (vecBlk 1024 0)) (vecBlk 1024 0) ∧
    VecIssues (tSt (vecBlk 0 0)) (vecBlk 0 0) ∧ VecIssues (tSt (vecBlk 16 3)) (vecBlk 16 3) :=
  ⟨vec_issues (issues (by decide +kernel)) (by decide +kernel), vec_issues (issues (by decide +kernel)) (by decide +kernel),
   vec_issues (issues (by decide +kernel)) (by decide +kernel), vec_issues (issues (by decide +kernel)) (by decide +kernel)⟩
/-- First and second words of a vector instruction. -/
def vw1 (vd a b c : Nat) : BitVec 26 := BitVec.ofNat 26 (vd * 2 ^ 21 + a * 2 ^ 16 + b * 2 ^ 11 + c * 2 ^ 6)
def vw2 (fmt fmt2 rm sm ew sub comp : Nat) : BitVec 24 :=
  BitVec.ofNat 24 (fmt + fmt2 * 16 + rm * 256 + sm * 1024 + ew * 2 ^ 11 + sub * 2 ^ 14 + comp * 2 ^ 17)
theorem test_wit_vecArith :
    (∀ fmt ∈ [0, 8, 9], (let f := vf (vw1 31 9 0 0) (vw2 fmt 0 0 0 0 0 0)
      64 ≤ cap (fmtOf f.fmt).width ∧ f.zero1 = true ∧ f.zero2 = true ∧ f.ew = 0 ∧ f.comp = false ∧ f.rmode = 0 ∧ f.smode = false ∧ f.fmt = fmt ∧
        f.vs2 = 0 ∧ f.vs3 = 0 ∧ f.fmt2 = 0 ∧ f.sub = 0)) ∧
    (let f := vf (vw1 31 9 10 11) (vw2 0 0 1 1 0 0 0)
     f.fmt = 0 ∧ f.fmt2 = 0 ∧ f.sub = 0 ∧ f.rmode ≤ 1 ∧ f.smode = true) ∧ (vf (vw1 31 9 0 0) (vw2 8 0 0 0 0 3 0)).sub ≤ 3 ∧
    (∀ x ∈ [(3, 9), (8, 3), (9, 0)], (let f := vf (vw1 31 9 0 0) (vw2 x.1 x.2 0 0 0 0 0)
      f.fmt2 ∈ [0, 1, 2, 3, 8, 9] ∧ f.fmt ≠ f.fmt2 ∧ 64 ≤ cap (fmtOf f.fmt2).width ∧ 64 ≤ cap (fmtOf f.fmt).width)) := by decide +kernel
theorem test_wit_vecInts :
    (∀ ew ∈ [1, 2, 3, 4], (let f := vf (vw1 31 9 0 0) (vw2 0 0 0 0 ew 0 0)
      f.zero1 = true ∧ f.zero2 = true ∧ f.fmt2 = 0 ∧ f.rmode = 0 ∧ f.smode = false ∧ f.comp = false ∧ f.fmt = 0 ∧ 1 ≤ f.ew ∧ f.ew ≤ 4 ∧
        64 ≤ cap (ewBits f.ew) ∧ f.vs2 = 0 ∧ f.vs3 = 0 ∧ f.sub = 0 ∧ ((vecBlk 64 0).core.reg f.vs2).toNat < cap (ewBits f.ew))) ∧
    (let f := vf (vw1 0 28 9 0) (vw2 0 0 0 0 1 2 0)
     f.vs3 = 0 ∧ f.sub ≤ 2 ∧ f.vs1.toNat + 2 ^ f.sub ≤ 32) ∧ cap (ewBits 4) < 1024 ∧
    (let f := vf (vw1 0 9 0 0) (vw2 0 0 0 0 0 0 0)
     f.fmt = 0 ∧ f.ew ≤ 4 ∧ f.vs2 = 0 ∧ f.vs3 = 0 ∧ f.sub = 0) ∧
    (∀ fmt ∈ [0, 8, 9], (let f := vf (vw1 31 9 0 0) (vw2 fmt 0 0 0 0 1 0)
      f.fmt = fmt ∧ f.ew = 0 ∧ f.vs3 = 0 ∧ f.sub = 1 ∧ f.vs2 = 0 ∧ 64 ≤ cap (fmtWidth f.fmt) ∧
        ((vecBlk 64 0).core.reg f.vs2).toNat < cap (fmtWidth f.fmt))) := by decide +kernel
theorem test_wit_vecReduce :
    (∀ fmt ∈ [0, 8, 9], ∀ comp ∈ [0, 1], (let f := vf (vw1 31 9 10 0) (vw2 fmt 0 0 0 0 0 comp)
      f.zero1 = true ∧ f.zero2 = true ∧ f.vs3 = 0 ∧ f.fmt2 = 0 ∧ f.rmode = 0 ∧ f.smode = false ∧ f.ew = 0 ∧ f.sub = 0 ∧ f.fmt = fmt ∧
        f.comp = decide (comp = 1) ∧ 64 ≤ cap (fmtWidth f.fmt))) ∧
    (treeFold (rdAdd .b32 0) 5 ((List.range 5).map fun i => (i, ({} : FFlags)))).isSome = true ∧
    (treeFold (cnode .b32) 5 ((List.range 5).map fun i => ((i, 0), ({} : FFlags)))).isSome = true ∧ (vecBlk 0 0).vec.vl.toNat = 0 := by decide +kernel
/-- Elements 3 to 15 of 32 bits, in two pieces of the LTS. -/
def vPieces : List VPiece :=
  [{ k := 12, va := 0x40000000106C, gpa := 0x40000000106C, n := 20, path := .lts 0x106C },
   { k := 32, va := 0x400000001080, gpa := 0x400000001080, n := 32, path := .lts 0x1080 }]
theorem test_wit_vecMemory : let b := vecBlk 16 3
    let f := vf (vw1 31 9 0 0) (vw2 0 0 0 0 3 0 0)
    let ra := b.core.reg f.vs1
    let pieces := rangePieces 66 (ra + BitVec.ofNat 64 (elemBytes 32 3)) (elemBytes 32 16 - elemBytes 32 3)
    let qs := clipPieces (elemBytes 32 16) vPieces
    (f.zero1 = true ∧ f.zero2 = true ∧ f.vs2 = 0 ∧ f.vs3 = 0 ∧ f.fmt = 0 ∧ f.fmt2 = 0 ∧ f.rmode = 0 ∧ f.smode = false ∧ f.sub = 0 ∧ f.comp = false ∧
      f.ew ≤ 4 ∧ ewBits f.ew = 32 ∧ 16 ≤ cap 32 ∧ b.vec.vresume.toNat < 16 ∧ (vecBlk 16 16).vec.vresume.toNat = 16) ∧
      vLocate Cfg.reset .load ra pieces b = .ok (vPieces, none) b ∧ vLocate Cfg.reset .store ra pieces b = .ok (vPieces, none) b ∧
      (∀ p ∈ qs, ∃ o, p.path = .lts o) ∧ LtsOpen b (qs.map fun p => (p.off, p.n)) ∧ Apart (qs.map fun p => (p.off, p.n)) := by
  refine ⟨by decide +kernel, ends_in (by decide +kernel), ends_in (by decide +kernel), ?_, ⟨by decide +kernel, by decide +kernel, by decide +kernel⟩,
    by unfold Apart; decide +kernel⟩
  intro p hp
  have h : p = { k := 12, va := 0x40000000106C, gpa := 0x40000000106C, n := 20, path := .lts 0x106C } ∨
      p = { k := 32, va := 0x400000001080, gpa := 0x400000001080, n := 32, path := .lts 0x1080 } := by
    simpa [clipPieces, vPieces, elemBytes] using hp
  rcases h with rfl | rfl
  · exact ⟨_, rfl⟩
  · exact ⟨_, rfl⟩
/-- An access of n bytes is permitted and leaves by a port or by the caches. -/
def leaves (c : Cfg) (b : Blk) (a : Word) (n : Nat) (world : Bool) (need : Need) : Bool :=
  match resolve c b a n world false need false with
  | .ok (.lts _) => false
  | .ok _ => true
  | .error _ => false
theorem on_port {c : Cfg} {b : Blk} {a : Word} {n : Nat} {world : Bool} {need : Need} (h : leaves c b a n world need = true) :
    OnPort c b a n world need := by
  unfold leaves at h
  unfold OnPort
  split at h
  · simp at h
  · next p hp hr => exact ⟨p, hr, fun o he => hp o he⟩
  · simp at h
def reaches (c : Cfg) (b : Blk) (a : Word) (n : Nat) (world : Bool) (need : Need) (o : Nat) : Bool :=
  match resolve c b a n world false need false with
  | .ok (.lts x) => x == o
  | _ => false
theorem at_lts {c : Cfg} {b : Blk} {a : Word} {n : Nat} {world : Bool} {need : Need} {o : Nat} (h : reaches c b a n world need o = true) :
    AtLts c b a n world need o := by
  unfold reaches at h
  unfold AtLts
  split at h
  · next x hr => rw [hr, eq_of_beq h]
  · simp at h

theorem test_wit_hostWrites : hostAnswers tBlk ∧ ¬ hostAnswers Blk.reset ∧ (500 ≤ (500 : W32).toNat ∧ (3000 : W32).toNat ≤ 3000) ∧
    (3000 < (3001 : W32).toNat ∧ (0xFFF : W32).toNat < 4096) ∧ (47 : W32).toNat < 48 ∧ 48 ≤ (48 : W32).toNat ∧ secureForcedZero tBlk = false ∧
    Cfg.reset.lock = false ∧ obsRuns tBlk = true ∧ latchingLo ((0x234 : BitVec 16).toNat / 4 * 4) = false := by
  unfold hostAnswers
  decide +kernel
theorem test_wit_doorbell : tBlk.err.fatal = false ∧ (65535 : W32).toNat < 65536 ∧ (15 : W32).toNat ≤ 15 ∧ 15 < (16 : W32).toNat ∧
    ({ tBlk with err := { tBlk.err with fatal := true } } : Blk).err.fatal = true := by decide +kernel
def secLock : Cfg := { cfgR with lock := true, ringsec := 0x80000000 }
theorem test_wit_ringCommands : hostAnswers tBlk ∧
    ((secLock.lock && ringsecBit secLock tBlk 31) = true) ∧ ((cfgR.lock && ringsecBit cfgR tBlk 31) = false) ∧
    (let r := { ringA with run := false, ctxLo := 0x10000 }
     let b := setRing tBlk 31 r
     let image : Word := 0x10000
     let b1 := setRing b 31 { r with busy := true, buf := List.replicate 128 0, awaited := 2, bad := false }
     let read (a : Word) : Request :=
       { op := .rd, addr := a, be := BitVec.allOnes 64, operand := 0, data := 0, world := false, purpose := .ctxImage 31 }
     r.run = false ∧ r.busy = false ∧ b.pwr.state = .run ∧ OnPort cfgR b1 image 64 false needR ∧
       OnPort cfgR (issueReq cfgR false (read image) b1) (image + 64) 64 false needR ∧
       r.setUp = true ∧ cfgR.sealed = true ∧ r.st ≠ .waiting ∧
       ({ r with st := RingPhase.waiting, run := false } : Ring).st = .waiting ∧ jobWaitOf b 7 = none ∧ dmaCh b 0 = none ∧ streamOf b 3 = none) ∧
    (let r := ringA
     r.busy = false ∧ r.run = true ∧ r.halting = false ∧ r.st ≠ .fetching ∧ { r with st := RingPhase.ready }.st = .ready ∧ 28 ≤ (28 : BitVec 5).toNat ∧
       8 ≤ (27 : BitVec 5).toNat ∧ (27 : BitVec 5).toNat < 28 ∧ ∀ j, tBlk.rings.offer = some j → j.ring.toNat = 7) ∧
    ∀ j, (jobBlk (some jobJ) none).rings.offer = some j → j.ring.toNat = 7 := by
  refine ⟨by unfold hostAnswers; decide +kernel, by decide +kernel, by decide +kernel,
    ⟨by decide +kernel, by decide +kernel, by decide +kernel, on_port (by decide +kernel), on_port (by decide +kernel), by decide +kernel⟩,
    ⟨by decide +kernel, by decide +kernel, by decide +kernel, by decide +kernel, by decide +kernel, by decide +kernel, by decide +kernel, by decide +kernel,
     fun j h => by simp [tBlk, Blk.reset, Rings.reset] at h⟩, fun j h => ?_⟩
  simp only [jobBlk, Option.some.injEq] at h
  subst h
  rfl
theorem test_wit_groupTable : let c := { cfgR with cgtBase := 0x20000 }
    let l := { cfgR with cgtBase := 0x400000001000 }
    let cmd (save : Bool) (n : BitVec 6) : CgtCmd := { save := save, next := n, last := n, world := false, loaded := none }
    let b1 (save : Bool) (n : BitVec 6) : Blk := { tBlk with chain := { tBlk.chain with cmd := some (cmd save n) } }
    tBlk.chain.cmd = none ∧ (63 : BitVec 6).toNat ≤ (63 : BitVec 6).toNat ∧ c.lock = false ∧ (b1 true 63).chain.cmd.isSome = true ∧
      OnPort c (b1 false 63) (c.cgtBase + BitVec.ofNat 64 (32 * 63)) 32 false needR ∧
      AtLts l (b1 true 63) (l.cgtBase + BitVec.ofNat 64 (32 * 63)) 32 false needW 0x17E0 ∧ tBlk.lts.flips = [] ∧ tBlk.sys.beats = [] ∧ tBlk.ports.outMp = [] ∧
      (∀ x ∈ tBlk.chain.cgt, x.1 ≠ 63 → cgeClash chainEntry x.2 = false) ∧ cgeClash chainEntry { chainEntry with tag := 7 } = true :=
  ⟨by decide +kernel, by decide +kernel, by decide +kernel, by decide +kernel, on_port (by decide +kernel), at_lts (by decide +kernel),
   by decide +kernel, by decide +kernel, by decide +kernel, by decide +kernel⟩
theorem test_wit_resetCommands : tBlk.sys.phase = 9 ∧ tBlk.sys.kiln = none ∧ tBlk.err.fatal = false ∧ tBlk.caches.l1d = [] ∧ tBlk.caches.l2 = [] ∧ tBlk.sys.beats = [] ∧
    (∀ p ∈ [(0 : BitVec 4), 1, 10], hostAnswers { tBlk with sys := { tBlk.sys with phase := p } }) := by
  unfold hostAnswers
  decide +kernel
theorem test_wit_hostConfiguration :
    bit (cfgR.featAcc.get 0) 0 = true ∧ bit (Cfg.reset.featAcc.get 0) 0 = false ∧ Cfg.reset.sealed = false ∧ (1 : W32).toNat ≤ 1 ∧
    (let b := tBlk
     b.mmu.copyPend = none ∧ b.mmu.older = none ∧ (∀ d ∈ [2, 5, 14, 16, 17, 18], pdOn b d = true) ∧ 1 ≤ ((32767 : BitVec 16) - b.rings.epPend).toNat ∧
       ((32767 : BitVec 16) - b.rings.epPend).toNat ≤ 32767 ∧ ((32767 : BitVec 16) - oldestEpoch b).toNat ≤ 32767) ∧
    (let t : LiveTable := { epoch := 9, entries := [] }
     let b : Blk := { tBlk with mmu := { tBlk.mmu with older := some t, copyPend := some 7 } }
     b.mmu.older = some t ∧ b.mmu.copyPend = some 7 ∧ epochHeld b t.epoch = false ∧ t.epoch ≠ b.mmu.live.epoch ∧
       epochHeld { b with rings := { b.rings with epCore := 9 } } t.epoch = true) ∧
    (let v : W32 := 0x0030000F
     bits v 15 0 = 15 ∧ bits v 31 22 = 0 ∧ bits v 21 16 ≤ 48) ∧
    Cfg.reset.linkEn = 15 ∧ (let v : W32 := 0x001803FF
     obsRuns tBlk = true ∧ bits v 15 10 = 0 ∧ bits v 31 21 = 0 ∧ 8 ≤ bits v 20 16 ∧ bits v 20 16 ≤ 24) := by decide +kernel
/-- A descriptor of n bytes with fields (byte offset, bit, value). -/
def mkDesc (n : Nat) (fs : List (Nat × Nat × Nat)) : List Byte := leOfNat n (fs.foldl (fun a f => a + f.2.2 * 2 ^ (8 * f.1 + f.2.1)) 0)
theorem test_wit_descriptorFetch :
    (∀ n ∈ [0, 7, 8, 27], (let b := setRing tBlk n ringA
      let r := getRing b n
      frontRuns b = true ∧ r.run = true ∧ r.busy = false ∧ r.halting = false ∧ r.st = .idle ∧ r.head ≠ r.index)) ∧
    (let b := setRing tBlk 27 { ringA with st := .fetching, buf := List.replicate 64 0, awaited := 1 }
     OnPort cfgR b (slotAddr 27 ringA 3) 64 false needR) ∧
    (let b := setRing tBlk 0 { ringA with st := .fetching, buf := List.replicate 128 0, awaited := 2 }
     let a := slotAddr 0 ringA 3
     OnPort cfgR b a 64 false needR ∧
       OnPort cfgR (issueReq cfgR false { op := .rd, addr := a, be := BitVec.allOnes 64, operand := 0, data := 0, world := false
                                          purpose := .descriptor 0 } b) (a + 64) 64 false needR) :=
  ⟨by decide +kernel, on_port (by decide +kernel), on_port (by decide +kernel), on_port (by decide +kernel)⟩
/-- Rings 2 and 5 ready with priority 3, ring 6 with priority 0. -/
def offerBlk : Blk :=
  let r (p : BitVec 3) : Ring := { ringA with st := .ready, desc := mkDesc 128 [], ctx := { ringA.ctx with prio := p } }
  setRing (setRing (setRing tBlk 2 (r 3)) 5 (r 3)) 6 (r 0)
theorem test_wit_jobOffer : let b := offerBlk
    let ready (m : Nat) : Bool := (getRing b m).run && (getRing b m).st == .ready && jobEpochs b (getRing b m)
    frontRuns b = true ∧ b.rings.offer = none ∧ b.rings.noOffers = false ∧ b.rings.running = none ∧ b.rings.preempted = [] ∧ ready 2 = true ∧
      (∀ m, m < 8 → m ≠ 2 → ready m = true → (getRing b m).ctx.prio.toNat < (getRing b 2).ctx.prio.toNat ∨
        ((getRing b m).ctx.prio = (getRing b 2).ctx.prio ∧ (2 + 7 - b.rings.lastRing.toNat) % 8 < (m + 7 - b.rings.lastRing.toNat) % 8)) :=
  ⟨by decide +kernel, by decide +kernel, by decide +kernel, by decide +kernel, by decide +kernel, by decide +kernel, below (by decide +kernel)⟩
def waitBlk (fs : List (Nat × Nat × Nat)) (ws : List WaitEntry) : Blk :=
  let b := setRing tBlk 7 { ringA with st := .waiting, desc := mkDesc 128 ((0x40, 0, 9) :: (0x40, 18, 1) :: fs) }
  { b with sync := { b.sync with waits := ws } }
theorem test_wit_jobWait :
    (let b := waitBlk [] []
     frontRuns b = true ∧ (getRing b 7).run = true ∧ (getRing b 7).st = .waiting ∧ jobWaitOf b 7 = none ∧ (getRing b 7).fld 0x40 18 18 = 1 ∧
       objWorld cfgR b 9 = (getRing b 7).ctx.world ∧ condHolds 0 (b.sync.objs.get 9) 0 = true ∧ (getRing b 7).fld 0x40 19 19 = 0) ∧
    (let b := waitBlk [(0x44, 0, 7), (0x48, 0, 1)] []
     condHolds 0 (b.sync.objs.get 9) 7 = false ∧ BitVec.ofNat 32 ((getRing b 7).fld 0x48 31 0) ≠ 0 ∧ freeWait b = some 0) ∧
    freeWait (waitBlk [] ((List.range 256).map fun n => armedEntry (BitVec.ofNat 8 n))) = none := by decide +kernel
def evQ : Event := { ty := 3, src := 4, status := 5, index := 6, a := 7, b := 8 }
def entryBlk : Blk := setEq (setRing (setRing tBlk 27 { ringA with st := .done, head := 15, desc := mkDesc 64 [], msgOwed := 1 }) 31 ringA) 3 [evQ]
theorem test_wit_entries : let b := entryBlk
    let r := getRing b 27
    let q := getRing b 31
    frontRuns b = true ∧ r.st = .done ∧ r.ctx.even = false ∧ r.msgOwed ≠ 0 ∧ getEq b 3 = [evQ] ∧ eventSlot b 3 = true ∧
      OnPort cfgR (emitDesc (setRing b 27 { r with st := .completing, phase := true }) r.ctx.world 27 r.status r.head)
        (r.ctx.cbase + BitVec.ofNat 64 (32 * r.head.toNat)) 32 r.ctx.world needW ∧
      OnPort cfgR (setRing (setEq b 3 []) 31 { q with head := 4 }) (q.ctx.cbase + BitVec.ofNat 64 (32 * q.head.toNat)) 32 q.ctx.world needW ∧
      OnPort cfgR (setRing b 27 { r with msgOwed := 0 }) r.ctx.msgaddr 4 r.ctx.world needW :=
  ⟨by decide +kernel, by decide +kernel, by decide +kernel, by decide +kernel, by decide +kernel, by decide +kernel, on_port (by decide +kernel),
   on_port (by decide +kernel), on_port (by decide +kernel)⟩
/-- Stream ring 3 with a checked descriptor: partition rows from 0x4000, source 0x50000. -/
def streamBlk (len : Nat) : Blk :=
  setRing tBlk 27 { ringA with st := .ready, desc := mkDesc 64 [(0x0C, 0, 0x4000), (0x18, 0, 0x50000), (0x20, 0, len)] }
theorem test_wit_streamBegin :
    (∀ len ∈ [0, 8], (let b := streamBlk len
      let r := getRing b 27
      let x := r.stream b.rings.epSparge
      let p := partition cfgR b r.ctx.world
      epochReady b = some 0 ∧ frontRuns b = true ∧ pdRuns b 17 = true ∧ pdRuns b 18 = true ∧ r.st = .ready ∧ r.run = true ∧ r.halting = false ∧
        r.fld 0x30 16 16 = 0 ∧ r.ctx.ten = false ∧ p.1 + 16384 ≤ p.2 ∧ areaOk cfgR b r.ctx.world x.bufoff x.buf = true ∧ x.narrow = false ∧
        b.ports.outMp ++ b.ports.outFp = [] ∧ b.sparge.streams = [] ∧ (len = 0 → x.len ≤ x.donesrc))) ∧
    (let b := streamBlk 8
     let x := (getRing b 27).stream b.rings.epSparge
     let a := redirect cfgR b b.rings.epSparge x.src
     x.donesrc = 0 ∧ 8 ≤ x.len ∧ x.src.toNat % 64 = 0 ∧ unassigned x.src = false ∧ nodeOf a = cfgR.node ∧ inBlockSpace a = false ∧ x.input = .need ∧
       regionCheck cfgR a false false needR false = .ok .uncached) := by decide +kernel
/-- A stream of mode 2 whose one chunk is staged. -/
def chunkStream : Stream := { (getRing (streamBlk 8) 27).stream 0 with mode := 2, ofmt := 1, len := 1024, staged := List.replicate 1024 0, scoff := 0x9000 }
def chunkBlk : Blk := { streamBlk 8 with sparge := { Sparge.reset with streams := [(3, chunkStream)] } }
def chunkInput : List Byte × Nat :=
  match chunkStream.input with
  | .ok d u => (d, u)
  | _ => ([], 0)
theorem test_wit_chunk : let b := chunkBlk
    let y := chunkStream
    let o := nextCount b 3 % y.buf
    let out := y.output chunkInput.1
    let ps := (y.bufoff + o, out.1) :: (if y.narrow then [(y.scoff + o / 8, out.2.1)] else [])
    b.err.fatal = false ∧ pdRuns b 17 = true ∧ b.pwr.state = .run ∧ chunkPick b = some 3 ∧ streamOf b 3 = some y ∧
      y.input = .ok chunkInput.1 chunkInput.2 ∧ y.len ≤ y.donesrc + chunkInput.2 ∧ y.syncen = false ∧ y.signals = 0 ∧ b.lts.flips = [] ∧ b.sys.beats = [] ∧
      areaOk cfgR b (getRing b 27).ctx.world (y.bufoff + o) y.chunk = true ∧
      (y.narrow = true → areaOk cfgR b (getRing b 27).ctx.world (y.scoff + o / 8) (y.chunk / 8) = true) ∧
      ltsRangeReady b (y.bufoff + o) y.chunk = true ∧ (y.narrow = true → ltsRangeReady b (y.scoff + o / 8) (y.chunk / 8) = true) ∧
      Apart (ps.map fun p => (p.1, p.2.length)) ∧ chunkPick tBlk = none := by
  unfold Apart
  decide +kernel
/-- The stream with an illegal frame header staged. -/
def errStream : Stream := { chunkStream with mode := 1, staged := List.replicate 64 0xFF, len := 64 }
def errBlk : Blk := { chunkBlk with sparge := { Sparge.reset with streams := [(3, errStream)] } }
theorem test_wit_chunkError : (match errStream.input with | .err e => e % 256 != 0 | _ => false) = true ∧ chunkPick errBlk = some 3 ∧
    streamOf errBlk 3 = some errStream ∧ errStream.signals = 0 ∧ pdRuns errBlk 17 = true ∧ errBlk.pwr.state = .run := by decide +kernel
theorem test_wit_chunkCredit : let b := { chunkBlk with sparge := { chunkBlk.sparge with sprod := chunkBlk.sparge.sprod.set 3 (BitVec.ofNat 64 chunkStream.buf) } }
    streamOf b 3 = some chunkStream ∧ decide (nextCount b 3 + chunkStream.chunk ≤ (b.sparge.scons.get 3).toNat + chunkStream.buf) = false ∧
      chunkPick b = none := by decide +kernel
def dmaBlk (fs : List (Nat × Nat × Nat)) (chs : List (Nat × DmaCh)) : Blk :=
  let b := setRing tBlk 23 { ringA with st := .ready, desc := mkDesc 64 fs }
  { b with dma := { b.dma with chs := chs } }
def dmaX (len next : Nat) (sigen : Bool) : DmaCh :=
  { (getRing (dmaBlk [] []) 23).dma 0 with len := len, next := next, src := 0x40000, dst := 0x60000, sigen := sigen, sigt := 77 }
theorem test_wit_dma :
    (∀ len ∈ [0, 100], (let b := dmaBlk [(0x28, 0, len), (0x10, 0, 0x40000), (0x18, 0, 0x50000)] []
      let r := getRing b 23
      let x := r.dma (epDma b 3)
      epochReady b = some 0 ∧ frontRuns b = true ∧ r.st = .ready ∧ r.run = true ∧ r.halting = false ∧ r.fld 0x08 6 6 = 0 ∧ x.sigen = false ∧
        dmaCh b 15 = none ∧ (if len = 0 then x.next = x.len else x.next < x.len))) ∧
    (let x := dmaX 200 192 false
     let b := dmaBlk [] [(15, x)]
     frontRuns b = true ∧ b.dma.chs.foldl (fun a e => a + e.2.flying) 0 < 64 ∧ dmaPick b = some (15, x) ∧ dmaCh b 15 = some x ∧ x.op = 0 ∧
       (getRing b 23).ctx.ten = false ∧ (x.src + 192).toNat % 64 = 0 ∧ (x.dst + 192).toNat % 64 = 0 ∧ unassigned (x.src + 192) = false ∧
       unassigned (x.dst + 192) = false ∧ pdRuns b 18 = true) ∧
    (∀ x ∈ [dmaX 200 200 false, dmaX 200 200 true], (let b := dmaBlk [] [(15, x)]
      dmaCh b 15 = some x ∧ frontRuns b = true ∧ x.acked = true ∧ x.signalling = false ∧ x.writeback = false ∧ x.stopping = false ∧
        x.sigt = (77 : BitVec 16).zeroExtend 64)) ∧ dmaPick tBlk = none := by decide +kernel
theorem test_wit_dmaPaths : let x := dmaX 200 192 false
    let b := dmaBlk [] [(15, x)]
    let a1 := redirect cfgR b x.epoch (x.src + 192)
    let a2 := redirect cfgR b x.epoch (x.dst + 192)
    resolve cfgR b a1 8 false false needR false = .ok (.port false .uncached) ∧ resolve cfgR b a2 8 false false needW false = .ok (.port false .uncached) ∧
      (∀ o, route cfgR a1 ≠ .lts o) ∧ (∀ o, route cfgR a2 ≠ .lts o) := by
  refine ⟨rfl, rfl, fun o h => ?_, fun o h => ?_⟩
  · exact Route.noConfusion h
  · exact Route.noConfusion h
def linkUp0 : Link := { Link.reset with state := stUp, credit0 := 100, credit1 := 100, credit2 := 100 }
def portsBlk (l : Link) : Blk := { tBlk with ports := { tBlk.ports with mp := l, fp := l, ce := l, cw := l } }
def hdrAt (a be : Word) : Hdr :=
  { opc := 0, world := false, status := 0, rtag := 0x1234, snode := 7, sblock := 3, addr := a, be := be, operand := 77 }
theorem test_wit_farPort : let b := portsBlk linkUp0
    b.ports.fp.state = stUp ∧ pdRuns b 18 = true ∧ b.pwr.state = .run ∧ b.err.fatal = false ∧
      (let h := hdrAt 0x4000002FFFC0 0x8000000000000000
       route cfgR h.addr = .lts 0x2FFFC0 ∧ inPartition cfgR b h.world 0x2FFFC0 64 = true ∧ quarterOk cfgR 0x2FFFC0 = true ∧
         pdRuns b (quarterPd 0x2FFFC0) = true ∧ ltsWiping b 0x2FFFC0 64 = false ∧ b.sys.heldIn = [] ∧ b.lts.flips = [] ∧ b.sys.beats = [] ∧ h.addr.toNat % 64 = 0 ∧
         h.be ≠ 0) ∧
      (let h := hdrAt 0x4000002FFFF8 8
       route cfgR h.addr = .lts 0x2FFFF8 ∧ inPartition cfgR b h.world 0x2FFFF8 8 = true ∧ quarterOk cfgR 0x2FFFF8 = true ∧ bit h.be 4 = false ∧
         h.addr.toNat % 8 = 0 ∧ bits h.be 3 0 ≤ 8 ∧ 0x2FFFF8 % 8 = 0) ∧ bit (0x18 : Word) 4 = true ∧
      (bits (4 : Word) 2 0 < 5 ∧ bits (0xFFFF00000000 : Word) 16 0 = cfgR.node.toNat ∧ bits (0xFFFF00000000 : Word) 26 17 = cfgR.block.toNat) ∧
      bits (1 : Word) 16 0 ≠ cfgR.node.toNat := by decide +kernel
theorem test_wit_farPortRefused : ∀ o, route cfgR (hdrAt 0 1).addr = .lts o → inPartition cfgR (portsBlk linkUp0) false o 64 = false ∨ quarterOk cfgR o = false :=
  fun o h => by exact Route.noConfusion h
def outO (op : ReqOp) (p : Purpose) : Outst :=
  { rtag := 0x1234, op := op, addr := 0x5000, be := 0xFF, world := true, purpose := p, epoch := 0, tmo := 100, issued := some 5 }
def outBlk (fp : Bool) (o : Outst) : Blk :=
  let b := portsBlk linkUp0
  { b with ports := if fp then { b.ports with outFp := [o] } else { b.ports with outMp := [o] }, core := { b.core with blocked := some .response } }
theorem test_wit_responses :
    (∀ o ∈ [outO .rd .core, outO .wr .posted, outO .at .core, outO .sy .syncCore], (let b := outBlk true o
      (getLink b 1).state = stUp ∧ pdRuns b 18 = true ∧ b.pwr.state = .run ∧ b.mmu.older = none ∧ b.sys.entry = none ∧
        b.ports.outFp.find? (fun x => x.rtag == o.rtag) = some o ∧ (hdrAt 0 0).rtag = o.rtag ∧ o.inTime b.pwr.sclk = true ∧ o.issued = some 5 ∧ (hdrAt 0 0).status = 0 ∧
        mergePiece (0xFF : Piece) 0 o.be = 0 ∧ ({ hdrAt 0 0 with status := 1 } : Hdr).status ≠ 0)) ∧
    (∀ x ∈ (outBlk false (outO .rd .core)).ports.outMp, x.rtag ≠ 0x1235) ∧
    ({ outO .rd .core with issued := some 0, tmo := 0 } : Outst).inTime 5 = false ∧ ({ outO .rd .core with issued := none } : Outst).issued = none := by decide +kernel

/-- A block whose CRC is right. -/
def blockOf (p : BitVec 2) (ctl : Nat) (data : BitVec 1024) (hdr : BitVec 512) : Block :=
  let k : Block := { ctl := BitVec.ofNat 32 ctl, data := data, hdr := hdr, crc := 0 }
  { k with crc := crc32c (bytesOf 128 k.data ++ (if p.toNat < 2 then bytesOf 64 k.hdr else []) ++ bytesOf 4 k.ctl) }
def ctlOf (seq ack nak bt cnt : Nat) : Nat := seq + ack * 2 ^ 7 + nak * 2 ^ 14 + bt * 2 ^ 15 + cnt * 2 ^ 25
/-- A link in UP that expects SEQ 10 and has sent SEQ 5 and 6. -/
def linkA : Link := { linkUp0 with
  eseq := 10, txSeq := 7, retry := [{ seq := 5, packets := [], transfers := [], part := 0 }, { seq := 6, packets := [], transfers := [], part := 0 }] }
theorem test_wit_linkBlocks : let b := portsBlk linkA
    linkA.state = stUp ∧ portRuns b 1 = true ∧ (linkA.crcRow + 1).toNat < 16 ∧ ({ blockOf 1 0 0 0 with crc := 0 } : Block).good 1 = false ∧
      linkA.sendQ = [] ∧ linkA.owed = [] ∧ ({ linkA with crcRow := 15 } : Link).crcRow = 15 ∧
      (∀ x ∈ [(10, 0), (9, 0), (74, 0), (73, 0), (5, 1)], (let k := blockOf 1 (ctlOf x.1 6 1 x.2 3) 0 0
        k.good 1 = true ∧ k.btype = x.2 ∧ bit k.ctl 14 = true ∧
          (linkA.retry.filter fun y => !covered (BitVec.ofNat 7 (bits k.ctl 13 7)) y.seq) = [] ∧ bits k.ctl 22 17 = 0)) ∧
      (BitVec.ofNat 7 10 = linkA.eseq ∧ 64 ≤ (BitVec.ofNat 7 9 - linkA.eseq).toNat ∧ 64 ≤ (BitVec.ofNat 7 74 - linkA.eseq).toNat ∧
        (BitVec.ofNat 7 73 - linkA.eseq).toNat < 64 ∧ BitVec.ofNat 7 73 ≠ linkA.eseq) ∧
      (∀ sub ∈ [1, 4, 5, 6], (let k := blockOf 3 (ctlOf sub 0 0 2 0) 0 0
        k.good 3 = true ∧ k.btype = 2 ∧ k.sub = sub)) := by decide +kernel
def trainData (v : Nat) (n : Nat) : Nat := (List.range n).foldl (fun a _ => a * 256 + v) 0
theorem test_wit_linkBringUp :
    (let b := { portsBlk { Link.reset with lreqI := true } with sys := { tBlk.sys with phase := 6 } }
     portRuns b 0 = true ∧ (getLink b 0).state = stDown ∧ portEnabled cfgR 0 = true ∧ linkNeeded b 0 = true ∧
       linkNeeded (portsBlk Link.reset) 2 = false) ∧
    (let k := blockOf 2 (ctlOf 1 0 0 2 0) (BitVec.ofNat 1024 (trainData 0x55 128)) 0
     k.good 2 = true ∧ k.btype = 2 ∧ k.sub = 1 ∧ trainPattern 2 k = true ∧ (62 : BitVec 7).toNat < 63) ∧
    (let k := blockOf 0 (ctlOf 1 3 0 2 0) (BitVec.ofNat 1024 (trainData 0xAA 128)) (BitVec.ofNat 512 (trainData 0xAA 64))
     k.good 0 = true ∧ k.btype = 2 ∧ k.sub = 1 ∧ trainPattern 0 k = true ∧ bit k.ctl 7 = true) ∧
    (let k := blockOf 1 (ctlOf 2 0 0 2 0) (BitVec.ofNat 1024 (1 + 2 ^ 16 + 2 ^ 32 + 2 ^ 48 + 2 ^ 64)) 0
     k.good 1 = true ∧ k.btype = 2 ∧ k.sub = 2 ∧ advertOk 1 k = true ∧ (1 : BitVec 2).toNat < 2) ∧
    (let l : Link := { Link.reset with state := stTrain, attempts := 2 }
     l.attempts.toNat < 3 ∧ l.lreqI = false ∧ l.retraining = false) ∧
    (let k := blockOf 2 (ctlOf 5 0 0 2 0) 0 0
     k.good 2 = true ∧ k.btype = 2 ∧ k.sub ≠ 1 ∧ ({ Link.reset with state := stTrain, trainRow := 9 } : Link).trainRow ≠ 64) ∧
    (let l : Link := { linkUp0 with tx := [blockOf 1 0 0 0] }
     l.state = stUp ∧ ∃ x rest, l.tx = x :: rest) ∧ (({ Link.reset with state := stTrain, attempts := 3 } : Link).attempts = 3) ∧
    linkA.retry ≠ [] ∧ (linkA.replayRow + 1).toNat < 16 ∧ pdOn tBlk (portPd 3) = true ∧ pdOn tBlk 31 = true ∧ hostAnswers tBlk ∧
    ((getLink tBlk 3).state = stDown ∨ (getLink tBlk 3).state = stPaused) ∧ ({ Link.reset with state := stReq } : Link).trainRow ≠ 64 := by
  refine ⟨by decide +kernel, by decide +kernel, by decide +kernel, by decide +kernel, by decide +kernel, by decide +kernel, ⟨by decide +kernel, _, _, rfl⟩, ?_⟩
  unfold hostAnswers
  decide +kernel
def chainT (tag : BitVec 16) : Transfer := { world := false, cls := 0, tag := tag, rows := [1, 2] }
def chainPorts (east : Bool) : Blk := { portsBlk { linkUp0 with credit0 := 1, credit1 := 2 } with chain := { tBlk.chain with
  cgt := [(63, { chainEntry with world := false, chin := if east then 2 else 1 })]
  txW := [chainT 7], txE := [chainT 7] } }
theorem test_wit_chainTransfers : ∀ east ∈ [true, false], (let b := chainPorts east
    let side : BitVec 2 := if east then 2 else 1
    let p : BitVec 2 := if east then 2 else 3
    let l := getLink b p
    (l.state = stUp ∧ portEnabled cfgR p = true ∧ pdRuns b 19 = true ∧ b.err.fatal = false) ∧
    (txBuf b side = [chainT 7] ∧ b.chain.rxW = [] ∧ b.chain.rxE = [] ∧ l.toSend = 0 ∧ l.credit0 ≠ 0 ∧ (chainT 7).size ≤ l.credit1 ∧
      l.retry.length + (1 + 2 * (chainT 7).size) ≤ 64) ∧
    ((chainT 7).legal = true ∧ rxRows b side + 2 ≤ 64 ∧ (rxBuf b side).length < 16 ∧ matchEntry b side (chainT 8) = none ∧
      (matchEntry b side (chainT 7)).isSome = true ∧
      ∀ u ∈ rxBuf b side ++ [chainT 7], (matchEntry b side u).all (fun f => !f.fwd) = true)) := by
  intro east h
  cases east <;> decide +kernel
/-- A vector table of the LTS at 0x8000 whose handlers are 4 bytes apart. -/
def vecLts : Lts := { bytes := Sparse.setAll [(3, 0x04)] 0x8000 ((List.range 0x40).flatMap fun i => leOfNat 8 (0x1000 + 4 * i)), flips := [] }
/-- The core at M with every source enabled and a notice of the Maltster pending. -/
def intBlk : Blk := { tBlk with
  core := { tBlk.core with ps := { tBlk.core.ps with mask := 0 }, mb := { tBlk.core.mb with vbase := 0x400000008000 }, ienable := 0xFF }
  pwr := { tBlk.pwr with mnotice := 1 }, lts := vecLts }
theorem test_wit_interruptEnters : (intBlk.core.run = .running ∧ intBlk.core.replay = false ∧ intBlk.core.program = []) ∧
    (bestInterrupt intBlk = some (4, 2) ∧ (4 : Nat) ≠ 2 ∧ streamRuns intBlk = true ∧ abandonable intBlk = true) ∧
    readTable cfgR ((bankOf intBlk.core 2 true).vbase + 8 * BitVec.ofNat 64 (0x30 + 4)) 8 true true intBlk = .ok (.ok 0x10D0) intBlk :=
  ⟨by decide +kernel, by decide +kernel, answers_in (by decide +kernel)⟩
theorem test_wit_interruptEntryFree : EntryFree intBlk.core 2 := by unfold EntryFree; decide +kernel
/-- Interrupts routed to the running world, to the other world and to M, at levels 8 and 0. -/
def srcBlk (l : BitVec 2) (r : W32) (n : Word) : Blk := { tBlk with
  core := { tBlk.core with ienable := 0xFF, iroute := r, ilevel := n, ps := { tBlk.core.ps with mask := 0, level := l } }
  pwr := { tBlk.pwr with mnotice := 1 } }
theorem test_wit_takeable : (bit (ipend (srcBlk 0 0xAAAAAAAA 0)) 4 = true ∧ bit (srcBlk 0 0xAAAAAAAA 0).core.ienable 4 = true ∧
      (srcBlk 0 0xAAAAAAAA 0).core.frozen = false) ∧ takeable (srcBlk 0 0xAAAAAAAA 0) 4 = none ∧ takeable (srcBlk 1 0xAAAAAAAA 0x80000) 4 = some 2 ∧
    takeable (srcBlk 1 0 0) 4 = some 2 ∧ takeable (srcBlk 0 0x55555555 0x80000) 4 = some 1 ∧ takeable (srcBlk 2 0 0x80000) 4 = none ∧
    bit (ipend (srcBlk 0 0 0)) 3 = false := by decide +kernel
theorem test_wit_interruptNone : ∀ j, j < 7 → takeable tBlk j = none := below (by decide +kernel)
/-- The entry itself, computed by hand: source 4 of level 8 enters M at the handler of cause 0x34. -/
theorem test_interruptEntry : (match execInterruptEntry (stR intBlk) with
    | .next t => decide (t.blk.core.pc = 0x10D0 ∧ t.blk.core.mb.cause = 0x34 ∧ t.blk.core.mb.epc = 0x400000000000 ∧ t.blk.core.ps.mask = 8)
    | _ => false) = true := by decide +kernel

/-- A register store with res windows of level M resident and cnt spilled at 0x9000. -/
def winBlk (res : BitVec 7) (cnt : W32) : Blk := { tBlk with core := { tBlk.core with
  res := res, cwp := 5, wlevel := [(4, 2), (5, 2), (12, 2)], wspill := ⟨0, 0, 0x400000009000⟩, wcnt := ⟨0, 0, cnt⟩, regs := [(30, 7), (90, 9)] } }
theorem test_wit_windowSpill : (let b := winBlk 120 0
    let k := b.core
    k.replay = false ∧ k.program = [] ∧ engineRuns b = true ∧ windowDue k = true) ∧
    storeBytes cfgR 2 true false 3 0x400000008F80 (windowImage (winBlk 120 0).core (slotBelow (winBlk 120 0).core 120)) (winBlk 120 0) =
      .ok () (endOf (storeBytes cfgR 2 true false 3 0x400000008F80 (windowImage (winBlk 120 0).core (slotBelow (winBlk 120 0).core 120)) (winBlk 120 0))) ∧
    (endOf (storeBytes cfgR 2 true false 3 0x400000008F80 (windowImage (winBlk 120 0).core (slotBelow (winBlk 120 0).core 120)) (winBlk 120 0))).core =
      (winBlk 120 0).core := ⟨by decide +kernel, ends_ok (by decide +kernel), by decide +kernel⟩
theorem test_wit_windowFill : ∀ r ∈ [0, 1], fillLevel (winBlk r 3).core = some 2 ∧ (winBlk r 3).core.res.toNat < 2 ∧ (winBlk r 3).core.flfault = false ∧
    windowDue (winBlk r 3).core = false ∧ loadBytes cfgR 2 true false 3 0x400000009000 128 (winBlk r 3) = .ok (List.replicate 128 0) (winBlk r 3) := by
  rintro r hr
  have h : ([0, 1].all fun r => decide (fillLevel (winBlk r 3).core = some 2 ∧ (winBlk r 3).core.res.toNat < 2 ∧ (winBlk r 3).core.flfault = false ∧
    windowDue (winBlk r 3).core = false) && endsIn (loadBytes cfgR 2 true false 3 0x400000009000 128 (winBlk r 3)) (List.replicate 128 0) (winBlk r 3)) = true := by
    decide +kernel
  have h := List.all_eq_true.mp h r hr
  simp only [Bool.and_eq_true, decide_eq_true_eq] at h
  exact ⟨h.1.1, h.1.2.1, h.1.2.2.1, h.1.2.2.2, ends_in h.2⟩
theorem test_wit_windowNone : (winBlk 50 0).core.wcnt = ⟨0, 0, 0⟩ ∧ windowDue (winBlk 50 0).core = false := by decide +kernel

/-- One operation of the main core in the sync queue. -/
def syncOp (op : BitVec 3) (world : Bool) : SyncOp := { src := .core, op := op, obj := 5, x := 3, world := world }
def queueBlk (op : BitVec 3) (world : Bool) : Blk := { tBlk with sync := { tBlk.sync with queue := [syncOp op world], objs := [(5, 9)] } }
theorem test_wit_syncEngine : (∀ n, n < 5 → (queueBlk (BitVec.ofNat 3 n) false).sync.queue = [syncOp (BitVec.ofNat 3 n) false] ∧
    objWorld cfgR (queueBlk (BitVec.ofNat 3 n) false) 5 = false ∧ armedOn (queueBlk (BitVec.ofNat 3 n) false) 5 = [] ∧
      (queueBlk (BitVec.ofNat 3 n) false).sys.beats = []) ∧
    objWorld cfgR (queueBlk 1 true) 5 ≠ (syncOp 1 true).world ∧ tBlk.sync.queue = [] ∧ waitAt tBlk 3 = none :=
  ⟨below (by decide +kernel), by decide +kernel⟩
def waitOf (k : WaitKind) (st : WaitState) : WaitEntry :=
  { num := 3, gen := 9, kind := k, state := st, obj := 7, world := false, cond := 0, consume := false, tgt := 5, value := 11, tmo := 100
    armedAt := 50, order := 1 }
def waitsBlk (w : WaitEntry) : Blk :=
  { setRing tBlk 2 { getRing tBlk 2 with st := .waiting, setUp := true, run := true } with
    sync := { tBlk.sync with waits := [w] }, core := { tBlk.core with program := [.swait 5 6 7 0, .fenceA 0] } }
theorem test_wit_waits : (let b := waitsBlk (waitOf (.eventWait 1) .armed); waitAt b 3 = some (waitOf (.eventWait 1) .armed) ∧
      (waitOf (.eventWait 1) .armed).tmo ≠ 0xFFFFFFFF) ∧
    (let b := waitsBlk (waitOf (.eventWait 1) .fired)
     waitAt b 3 = some (waitOf (.eventWait 1) .fired) ∧ eventSlot b 1 = false ∧
       (let r : Ring := { Ring.zero with setUp := true, run := true, index := 4 }
        frontRuns (setRing b 29 r) = true ∧ eventSlot (setRing b 29 r) 1 = true) ∧
       ({ b with pwr := { b.pwr with state := .couch } } : Blk).pwr.state ≠ .run) ∧
    (∀ st ∈ [WaitState.fired, .expired], let b := waitsBlk (waitOf (.coreWait 0 9) st)
      waitAt b 3 = some (waitOf (.coreWait 0 9) st) ∧ st ≠ .armed ∧ b.pwr.state = .run ∧ b.core.run = .running ∧ b.core.svcBanks = 0) ∧
    (let b := waitsBlk (waitOf (.jobWait 2) .fired); waitAt b 3 = some (waitOf (.jobWait 2) .fired) ∧ b.pwr.state = .run ∧ frontRuns b = true) := by
  decide +kernel
def recvWaitBlk : Blk := { tBlk with
  core := { tBlk.core.setReg 5 3 with program := [.chrecv 5 0, .fenceA 0], blocked := some .other }
  chain := { tBlk.chain with recvSince := some 40, cgt := [(3, { cge tBlk 3 with valid := true, chtmo := 60 })] } }
theorem test_wit_chrecvTimeout : recvWaitBlk.core.program = .chrecv 5 0 :: [.fenceA 0] ∧ recvWaitBlk.chain.recvSince = some 40 ∧
    recvWaitBlk.core.blocked.isSome = true ∧ bits (recvWaitBlk.core.reg 5) 5 0 = 3 ∧ (cge recvWaitBlk 3).chtmo ≠ 0 ∧ heldFor recvWaitBlk (cge recvWaitBlk 3) = none ∧
    coreReady recvWaitBlk = true := by decide +kernel

/-! Power states. -/

/-- An idle block with the Memory Port UP and the Far Port FAILED. -/
def idleBlk : Blk := { tBlk with
  core := { tBlk.core with run := .sleeping }, pwr := { tBlk.pwr with sclk := 1000, pd := 0xFFEFFFFF, deep := true }
  ports := { tBlk.ports with mp := { Link.reset with state := stUp }, fp := { Link.reset with state := stFailed } } }
def couchBlk : Blk := { idleBlk with
  pwr := { idleBlk.pwr with state := .couch, idleSince := 1000, pd := 0xFFEFFFFF ||| 3 }
  ports := { idleBlk.ports with mp := { Link.reset with state := stPaused } } }
def steepBlk : Blk := { idleBlk with
  pwr := { idleBlk.pwr with state := .steep, wakeHeld := true, wakepc := 0x1234, pd := 3, pllF := Pll.reset, pllL := Pll.reset }
  tun := { idleBlk.tun with rows := [(3, 7)] } }
theorem test_wit_enterCouch : blockOn idleBlk = true ∧ idleBlk.pwr.state = .run ∧ idleBlk.sys.phase = 9 ∧ blockIdle idleBlk = true ∧
    (∀ p : BitVec 2, (getLink idleBlk p).state = stUp → (getLink idleBlk p).nak = false) ∧ blockIdle tBlk = false ∧
    (let b := portsBlk { linkUp0 with nak := true }; (getLink b 2).state = stUp ∧ (getLink b 2).nak = true) := by
  refine ⟨by decide +kernel, by decide +kernel, by decide +kernel, by decide +kernel, by decide +kernel, by decide +kernel, by decide +kernel⟩
theorem test_wit_couch : blockOn couchBlk = true ∧ couchBlk.pwr.state = .couch ∧ cfgR.idle ≠ 0xFFFFFFFF ∧ couchBlk.pwr.wakeHeld = false ∧
    blockIdle couchBlk = true ∧ holdBits couchBlk = 0 ∧ couchBlk.caches.l1d = [] ∧
    (let b : Blk := { couchBlk with pwr := { couchBlk.pwr with deep := false } }
     b.pwr.state = .couch ∧ b.pwr.wakeHeld = false ∧ blockIdle b = true ∧ holdBits b ≠ 0) ∧
    (let b : Blk := { couchBlk with pwr := { couchBlk.pwr with wakeHeld := true } }
     b.pwr.state = .couch ∧ (b.pwr.wakeHeld = true ∨ blockIdle b = false)) := by decide +kernel
theorem test_wit_steepWake : blockOn steepBlk = true ∧ steepBlk.pwr.state = .steep ∧ steepBlk.pwr.wakeHeld = true ∧ steepBlk.pwr.pgL = true ∧
    steepBlk.pwr.pllF.fail = false ∧ steepBlk.pwr.pllL.fail = false ∧ (List.range 2000).any (pllStable steepBlk.pwr.k.toNat) = true ∧
    pllStable 64 1050 = true := by decide +kernel

/-! The governor, the trim and the clocks. -/

def govBlk (k : BitVec 7) (t : BitVec 3) (low : BitVec 4) : Blk := { tBlk with pwr := { tBlk.pwr with k := k, t := t, low := low } }
theorem test_wit_governor : hostAnswers tBlk ∧ (∀ x ∈ [(64, 0, 0, 1067), (20, 0, 0, 333), (16, 7, 0, 267), (16, 2, 7, 267), (63, 0, 7, 1050)],
    let b := govBlk x.1 x.2.1 x.2.2.1
    b.pwr.state = .run ∧ ({ b with malt := { b.malt with started := true } } : Blk).malt.started = true ∧ b.pwr.pllF = { b.pwr.pllF with on := true, lock := true, fail := false } ∧
      b.pwr.pllL = { b.pwr.pllL with on := true, lock := true, fail := false } ∧ pllStable b.pwr.k.toNat x.2.2.2 = true) := by
  unfold hostAnswers; decide +kernel
/-- The boundaries of the load clauses with CAP at 3,000: 3,301 is above 110 per cent and 3,300 is not; 2,849 is below 95 per cent, 2,850 not. -/
theorem test_wit_governorLoad : cfgR.cap = 3000 ∧ cfgR.kmin = 16 ∧ cfgR.kmax = 64 ∧ 11 * 3000 < 10 * 3301 ∧ ¬ 11 * 3000 < 10 * 3300 ∧ 3000 < 3001 ∧
    19 * 3000 ≤ 20 * 2850 ∧ 20 * 2849 < 19 * 3000 ∧ (64 ≤ cfgR.kmax.toNat + 4 ∧ cfgR.kmin.toNat + 4 ≤ 20) ∧
    (50 : Byte).toInt ≤ cfgR.tlim.toNat ∧ (vbase 16 : Int) + 5 * tBlk.pwr.moff.toInt ≤ 900 ∧ (vbase 63 : Int) + 5 * tBlk.pwr.moff.toInt ≤ 2000 := by
  decide +kernel
/-- The reference at 100 MHz asks for 34,133 1/3 counts: no whole count is exact, and at 48 MHz 16,384 is. -/
theorem test_wit_trim : (∃ i, i < 8 ∧ bits (0x1 : BitVec 128) (16 * i + 15) (16 * i) = 0) ∧ 3 ≤ tBlk.sys.phase.toNat ∧ (34134 * 48 > cfgR.refMhz.toNat * 16384) ∧ (34133 * 48 < cfgR.refMhz.toNat * 16384) ∧
    16384 * 48 = ({ cfgR with refMhz := 48 } : Cfg).refMhz.toNat * 16384 ∧ (34134 : BitVec 16) ≠ 0 ∧ tBlk.pwr.reflost = false ∧ tBlk.malt.started = false :=
  ⟨⟨1, by decide +kernel⟩, by decide +kernel⟩
def retryBlk : Blk := { tBlk with pwr := { tBlk.pwr with k := 64, pllF := { tBlk.pwr.pllF with lock := false, fail := true, tries := 3 } } }
theorem test_wit_pllRetry : hostAnswers retryBlk ∧ retryBlk.pwr.reflost = false ∧ retryBlk.pwr.state = .run ∧ retryBlk.pwr.pllF.on = true ∧
    retryBlk.pwr.pllF.fail = true ∧ retryBlk.pwr.pllL.fail = false ∧ pllStable retryBlk.pwr.k.toNat 1050 = true ∧
    (tBlk.pwr.pllF.fail = false ∧ tBlk.pwr.pllL.fail = false) := by unfold hostAnswers; decide +kernel
theorem test_wit_timer : (let b : Blk := { tBlk with pwr := { tBlk.pwr with tcmp := 0x8000000000001388 } }
      bit b.pwr.tcmp 63 = true ∧ b.pwr.state = .run) ∧
    (let b : Blk := { couchBlk with pwr := { couchBlk.pwr with tcmp := 0x8000000000001388 } }; bit b.pwr.tcmp 63 = true ∧ b.pwr.state ≠ .run) ∧
    hostAnswers couchBlk := by unfold hostAnswers; decide +kernel

/-- The Maltster with task 0 in a state, a word of its RAM at 0x100 and a PC, PD5 off. -/
def maltBlk (st word : W32) (pc : Word) : Blk := { tBlk with
  malt := { tBlk.malt with started := true, stat := st, ram := Sparse.setAll [] 0x100 (leOfNat 4 word.toNat), pcs := [(0, pc)], regs := [(3, 77)] }
  pwr := { tBlk.pwr with pd := 0xFFFFFFDF } }
theorem test_wit_domainUp : (let b := maltBlk 1 0 0x100
    blockOn b = true ∧ b.pwr.state = .run ∧ b.sys.phase = 9 ∧ pdRuns b 5 = false ∧ pdAllowed cfgR 5 = true ∧
      (pdAsked b 5 = true ∨ bit b.malt.pdreq 5 = true ∨ pdRule cfgR b 5 = true)) ∧ pdRuns tBlk 5 = true := by decide +kernel
theorem test_wit_maltster : (maltBlk 1 0 0).sys.beats = [] ∧ (∀ l ∈ (maltBlk 1 0 0).caches.l1d, (l.valid && l.dirty) = false) ∧ (maltBlk 1 0 0).malt.started = true ∧ (∀ i ∈ [0, 5, 15], taskOf (maltBlk (3 * BitVec.ofNat 32 (4 ^ i)) 0 0).malt i = 3) ∧
    (∀ i ∈ [0, 5, 15], taskOf (maltBlk 2 0 0).malt i ≠ 3) ∧ maltPick (maltBlk 0 0 0).malt = none ∧
    (∀ x ∈ [((0x10A3FFF0 : W32), 4), (0x9BFFFFFE, 0x26), (0xFC000000, 0x3F)], let b := maltBlk 1 x.1 0x100
      maltPick b.malt = some 0 ∧ (b.malt.pcs.get 0).toNat % 4 = 0 ∧ (b.malt.pcs.get 0).toNat < 0x10000 ∧
        bits (BitVec.ofNat 32 (natOfLE (b.malt.ram.range 0x100 4)) : W32) 31 26 = x.2) ∧
    (maltPick (maltBlk 1 0 0x101).malt = some 0 ∧ ((maltBlk 1 0 0x101).malt.pcs.get 0).toNat % 4 ≠ 0) ∧
    (maltPick (maltBlk 1 0 0x10000).malt = some 0 ∧ ((maltBlk 1 0 0x10000).malt.pcs.get 0).toNat % 4 = 0 ∧
      0x10000 ≤ ((maltBlk 1 0 0x10000).malt.pcs.get 0).toNat) := by decide +kernel

/-! Resets, wipes and start-up. -/

def kilnBlk : Blk := { tBlk with
  sys := { tBlk.sys with kiln := some { cov := 0, lts := [(0, 65536)], uworld := none }, kilnTrig := 6 }, lts := { bytes := [(5, 5), (70000, 7)], flips := [] } }
theorem test_wit_resets : hostAnswers tBlk ∧ tBlk.sys.phase = 9 ∧ tBlk.pwr.state = .run ∧ (2 : BitVec 3).toNat < 4 ∧ (2 : BitVec 3) ≠ tBlk.sys.lcs ∧
    tBlk.sys.kiln = none ∧ blockOn kilnBlk = true ∧ kilnBlk.sys.kiln = some { cov := 0, lts := [(0, 65536)], uworld := none } ∧
    kilnBlk.sys.kilnQueue = [] ∧ kilnBlk.sys.phase = 9 ∧ kilnBlk.sys.beats = [] := by unfold hostAnswers; decide +kernel

/-- A beat whose check word is wrong, four times. -/
def badBeats : List Beat := List.replicate 4 { data := 0, header := 0, crc := bondCrc (List.replicate 72 0) + 1 }
theorem test_wit_kilnFails : let b : Blk := { kilnBlk with sys := { kilnBlk.sys with beats := badBeats } }
    (∀ ph ∈ [(8 : BitVec 4), 9], let b : Blk := { b with sys := { b.sys with phase := ph } }
      blockOn b = true ∧ (kilnCross b { cov := 0, lts := [(0, 256)], uworld := none }).1 = false) ∧ bit (0 : BitVec 4) 2 = false := by decide +kernel
/-- A life-cycle change in a cold sequence, in a wipe and before it. -/
theorem test_wit_lcsCold : (∀ n ∈ [(0 : BitVec 4), 3], let b : Blk := { tBlk with sys := { tBlk.sys with phase := n, resetKind := 1 } }
    hostAnswers b ∧ b.sys.resetKind = 1 ∧ b.sys.phase ≠ 9 ∧ b.sys.phase ≠ 10 ∧ (2 : BitVec 3).toNat < 4 ∧ ¬ ((2 : BitVec 3) = b.sys.lcs ∧ true = b.sys.lcsValid)) := by
  unfold hostAnswers; decide +kernel
/-- The block in a phase of the start-up sequence. -/
def phaseBlk (n : BitVec 4) : Blk := { tBlk with
  core := { tBlk.core with run := .held }, pwr := { tBlk.pwr with pd := 3, cd := 7, pllF := Pll.reset, pllL := Pll.reset, reflost := true, k := 64 }
  sys := { tBlk.sys with phase := n } }
def trimWindows : BitVec 128 := 0x08560855085608550001FFFF08560855
theorem test_wit_startUp : blockOn Blk.reset = false ∧ (∀ n, n < 11 → blockOn (phaseBlk (BitVec.ofNat 4 n)) = true) ∧
    (∀ i, i < 8 → bits trimWindows (16 * i + 15) (16 * i) ≠ 0) ∧ bits (0x1 : BitVec 128) (16 * 1 + 15) (16 * 1) = 0 ∧
    (phaseBlk 2).sys.phase = 2 ∧ ((phaseBlk 3).sys.kiln = none ∧ (phaseBlk 3).sys.resetKind = 1) ∧
    ((phaseBlk 4).pwr.pllF.lock = false ∧ (phaseBlk 4).pwr.pllL.lock = false ∧ pllStable (phaseBlk 4).pwr.k.toNat 1050 = true ∧ pllStable 64 1050 = true ∧
      pllStable (phaseBlk 4).pwr.k.toNat 0 = false) ∧
    ((phaseBlk 8).sys.kiln = none ∧ (phaseBlk 8).sys.entry = none ∧ (phaseBlk 8).sys.img = none ∧ (phaseBlk 8).ports.outMp = [] ∧
      (phaseBlk 8).err.fatal = false) ∧
    (let k : Wipe := { cov := 1, lts := [], uworld := none }
     let b : Blk := { phaseBlk 3 with sys := { (phaseBlk 3).sys with kiln := some k } }
     b.sys.kiln = some k ∧ bit k.cov 2 = false ∧ b.sys.kilnQueue = [] ∧ b.sys.beats = [] ∧ wipePowered b = false ∧
       (let p : Power := { b.pwr with pd := 0xFFFFFFFF, pllF := { Pll.reset with on := true }, pllL := { Pll.reset with on := true } }
        let b1 : Blk := { b with pwr := { p with cd := cdsRun { b with pwr := p } p.pd } }
        wipePowered b1 = true)) :=
  ⟨by decide +kernel, below (by decide +kernel), below (by decide +kernel), by decide +kernel⟩
theorem test_wit_startUpLinks : (let b : Blk := { phaseBlk 6 with ports := { tBlk.ports with mp := { Link.reset with state := stUp } } }
      b.sys.phase = 6 ∧ b.ports.mp.state = stUp) ∧
    (let b : Blk := { phaseBlk 6 with ports := { tBlk.ports with mp := { Link.reset with state := stFailed } } }; b.ports.mp.state = stFailed) ∧
    (let b : Blk := { phaseBlk 4 with pwr := { (phaseBlk 4).pwr with pllF := { Pll.reset with tries := 3 } } };
      b.sys.phase = 4 ∧ b.pwr.pllF.lock = false ∧ b.pwr.pllF.tries = 3) ∧
    (∀ m ∈ [true, false], let b : Blk := { tBlk with pwr := { tBlk.pwr with pgL := m, pgM := !m } }
      (if m then b.pwr.pgM else b.pwr.pgL) = false ∧ blockOn b = true) := by decide +kernel

/-- Sweeps of two lanes: the widest window of the first is its second one, of the second's equal ones the lowest. -/
def sweeps2 : List (BitVec 64) := [0x0000000FFFF00070, 0x00FF00FF00FF00FF]
theorem test_wit_bondcal : let ws : List (Nat × Nat) := [(20, 16), (0, 8)]
    ws.length = sweeps2.length ∧ (∀ i, i < ws.length → WidestWindow (sweeps2.getD i 0) (ws.getD i (0, 0))) ∧
      4 ≤ ws.foldl (fun x k => Nat.min x (k.2 / 2)) 32 ∧ [((4, 3) : Nat × Nat)].foldl (fun x k => Nat.min x (k.2 / 2)) 32 < 4 := by
  refine ⟨rfl, fun i h => ?_, by decide +kernel⟩
  have hw : ∀ (s : BitVec 64) (a0 n0 : Nat), ((decide (a0 + n0 ≤ 64) && (List.range n0).all fun i => bit s (a0 + i)) &&
      (List.range 65).all fun a => (List.range 65).all fun n => decide (64 < a + n) || !((List.range n).all fun i => bit s (a + i)) ||
        (decide (n ≤ n0) && (decide (n ≠ n0) || decide (a0 ≤ a)))) = true → WidestWindow s (a0, n0) := by
    intro s a0 n0 h
    simp only [Bool.and_eq_true, decide_eq_true_eq, List.all_eq_true, List.mem_range] at h
    refine ⟨h.1.1, fun i hi => h.1.2 i hi, fun a n han hall => ?_⟩
    have := h.2 a (by omega) n (by omega)
    simp only [Bool.or_eq_true, Bool.not_eq_true', Bool.and_eq_true, decide_eq_true_eq] at this
    rcases this with (h1 | h1) | h1
    · omega
    · have : (List.range n).all (fun i => bit s (a + i)) = true := List.all_eq_true.mpr fun i hi => hall i (List.mem_range.mp hi)
      rw [this] at h1; cases h1
    · exact ⟨h1.1, fun e => h1.2.resolve_left (fun h => h e)⟩
  match i, h with
  | 0, _ => exact hw _ _ _ (by decide +kernel)
  | 1, _ => exact hw _ _ _ (by decide +kernel)

/-! An image signed with the private key 1 and the nonce 2: the key is the base point of P-384, and the verdict rests on the fuses alone. -/

def keyX : Nat := 0xaa87ca22be8b05378eb1c71ef320ad746e1d3b628ba79b9859f741e082542a385502f25dbf55296c3a545e3872760ab7
def keyY : Nat := 0x3617de4a96262c6f5d9e98bf9292dc29f8f41dbd289a147ce9da3113b5f0b8c00a60b1ce1d7e819d7a431d7c90ea0e5f
def sigR : Nat := 0x8d999057ba3d2d969260045c55b97f089025959a6f434d651d207d19fb96e9e4fe0e86ebe0e64f85b96a9c75295df61
def sigS0 : Nat := 0x878c2cc534370df4c29313b3dc99354385149d3e6ae1dbcee16a7447f6034cfbbaf7ee335a8c76fef508f9c2ee2cd33f
def sigS1 : Nat := 0x986e3732f1e764c8c5c5d9a4119fd108bce9d3b0a64961dd8a2da909a3c03b83b9d00919a9a000bac241cb833b3a85a1
def keyDigest1 : Nat := 0xa19d4db171b582eb8052b0cfe555e17894aa22d1c8a9770950697dd8f796d2fa4bf0a56ad80006b7ea08e1191f814b65
def be48 (n : Nat) : List Byte := (leOfNat 48 n).reverse
def image (kind s : Nat) : List Byte :=
  leOfNat 4 0x4B5A4657 ++ leOfNat 4 (kind + 2 * 256) ++ leOfNat 8 64 ++ leOfNat 8 0 ++ leOfNat 8 60 ++ be48 keyX ++ be48 keyY ++ be48 sigR ++ be48 s ++
    List.replicate 96 0

theorem signed_of {b : Blk} {bs : List Byte} {d : Nat} (hd : Config.keyDigest b.sys.lcs = d)
    (h1 : (bit (BitVec.ofNat 8 (imgField bs 5 1)) b.sys.lcs.toNat && !lcsHeld b) = true) (h2 : sha384 ((bs.drop 0x20).take 96) = d)
    (h3 : (let be (off : Nat) : Nat := natOfBE ((bs.drop off).take 48)
      ecdsaVerify (sha384 (bs.take 128 ++ imgBody bs)) (be 0x20) (be 0x50) (be 0x80) (be 0xB0)) = true) : imgSigned b bs = true := by
  simp only [imgSigned, Bool.and_eq_true, decide_eq_true_eq]
  exact ⟨⟨by simpa using h1, by rw [hd]; exact h2⟩, h3⟩

/-- The block in a phase with an image whose bytes have come. -/
def imgBlk (n : BitVec 4) (bs : List Byte) (outs : List Outst) : Blk := { phaseBlk n with
  pwr := { tBlk.pwr with sclk := 7 }, sys := { (phaseBlk n).sys with img := some { base := 0x3000, bytes := bs, failed := false } }
  ports := { tBlk.ports with mp := linkUp0, outMp := outs } }
theorem test_wit_maltImage (hd : Config.keyDigest 1 = keyDigest1) : let x := image 0 sigS0
    let b := imgBlk 7 x []
    b.sys.phase = 7 ∧ b.err.fatal = false ∧ b.sys.img = some { base := 0x3000, bytes := x, failed := false } ∧ imgWants cfgR 0 x = false ∧
      (imgLegal cfgR 0 x && imgSigned b x) = true :=
  ⟨by decide +kernel, by decide +kernel, by decide +kernel, by decide +kernel, by
    rw [signed_of (b := imgBlk 7 (image 0 sigS0) []) hd (by decide +kernel) (by decide +kernel) (by decide +kernel)]; decide +kernel⟩
/-- A legal machine image that is signed for no state. -/
def unsignedImage : List Byte := (image 1 sigS1).set 5 0
theorem test_wit_rejectedImage : (∀ n ∈ [(7 : BitVec 4), 8], let b := imgBlk n (List.replicate 256 0) []
      b.sys.phase = n ∧ b.ports.outMp = [] ∧ b.ports.outFp = [] ∧ imgWants cfgR (n.toNat - 7) (List.replicate 256 0) = false ∧
      (imgLegal cfgR (n.toNat - 7) (List.replicate 256 0) && imgSigned b (List.replicate 256 0)) = false) ∧
    (imgLegal cfgR 1 unsignedImage && !imgSigned (phaseBlk 8) unsignedImage) = true ∧
    ∀ x ∈ [image 0 sigS0, image 1 sigS1, unsignedImage], 16 * (imgField x 8 4 / 64) + 32 + 96000 = 96048 := by decide +kernel
theorem test_wit_machineImage (hd : Config.keyDigest 1 = keyDigest1) : let x := image 1 sigS1
    let b := imgBlk 8 x []
    b.sys.phase = 8 ∧ b.err.fatal = false ∧ b.sys.kiln = none ∧ b.sys.entry = none ∧ imgWants cfgR 1 x = false ∧ b.ports.outMp = [] ∧
      b.ports.outFp = [] ∧ (imgLegal cfgR 1 x && imgSigned b x) = true :=
  ⟨by decide +kernel, by decide +kernel, by decide +kernel, by decide +kernel, by decide +kernel, by decide +kernel, by decide +kernel, by
    rw [signed_of (b := imgBlk 8 (image 1 sigS1) []) hd (by decide +kernel) (by decide +kernel) (by decide +kernel)]; decide +kernel⟩
/-- A piece of an image arrives: of its header, and the last of its body. -/
theorem test_wit_imageRead : let o : Outst := { outO .rd .image with be := BitVec.allOnes 64 }
    (∀ x ∈ [((7 : BitVec 4), ([] : List Byte)), (8, []), (7, (image 0 sigS0).take 256), (8, (image 1 sigS1).take 256)],
      let b := imgBlk x.1 x.2 [o]
      blockOn b = true ∧ b.ports.outMp = [o] ∧ b.ports.outFp = [] ∧ (hdrAt 0 0).rtag = o.rtag ∧ o.inTime b.pwr.sclk = true ∧ b.ports.mp.state = stUp ∧
        pdRuns b 18 = true ∧ b.pwr.state = .run ∧ b.mmu.older = none ∧ b.err.fatal = false ∧ b.sys.entry = none ∧ b.sys.img.isSome = true ∧
        o.purpose = .image ∧ o.op = .rd ∧ mergePiece (0xFF : Piece) 0 o.be = 0 ∧ b.sys.beats = []) ∧
    (hdrAt 0 0).status = 0 ∧ imgWants cfgR 0 ([] ++ bytesOf 64 (0 : Piece)) = true ∧ imgWants cfgR 1 (image 1 sigS1) = false := by decide +kernel

/-- The last write of a machine image's body awaited. -/
def bootBlk (code : BitVec 4) : Blk :=
  let b := portsBlk linkUp0
  { b with sys := { b.sys with phase := 8, entry := some 0x40, imgFail := code }, ports := { b.ports with outMp := [outO .wr .boot] } }
theorem test_wit_imageWritten : ∀ code ∈ [0, 9], (let b := bootBlk code
    b.sys.phase = 8 ∧ b.sys.entry = some 0x40 ∧ b.ports.outMp = [outO .wr .boot] ∧ b.ports.outFp = [] ∧ (hdrAt 0 0).rtag = (outO .wr .boot).rtag ∧ (outO .wr .boot).inTime b.pwr.sclk = true ∧ blockOn b = true ∧ b.err.fatal = false ∧
      (hdrAt 0 0).status = 0 ∧ b.ports.mp.state = stUp ∧ pdRuns b 18 = true ∧ b.pwr.state = .run ∧ b.mmu.older = none) := by decide +kernel

/-! Observation, the store, the host map, regions and the machine. -/

def portBlk (slots : List ObsPacket) (fifo : List (Bool × W32)) : Blk :=
  { tBlk with obs := { tBlk.obs with cfg := 0x001003FF, slots := slots, fifo := fifo }, pwr := { tBlk.pwr with sclk := 70000 } }
def packet (ty : BitVec 4) : ObsPacket := { ty := ty, world := false, level := 3, ts := 5, payload := [7, 7] }
theorem test_wit_observation : (let b := portBlk [] []
    blockOn b = true ∧ lcsHeld b = false ∧ lcsFiltered b = false ∧ bit b.obs.cfg 0 = true ∧ pdOn b 20 = true ∧ b.obs.lost = 0 ∧
      bit b.obs.cfg 1 = true ∧ bit b.obs.cfg 4 = true ∧ b.core.run = .running ∧ pdRuns b 20 = true) ∧
    (∀ ty ∈ [(1 : BitVec 4), 9], 1 ≤ (packet ty).ty.toNat ∧ (packet ty).ty.toNat ≤ 9) ∧ (portBlk [packet 1] []).obs.slots = [packet 1] ∧
    (510 - 1 + (1 + (packet 1).payload.length) ≤ 512 ∧ 512 < 511 - 1 + (1 + (packet 1).payload.length)) ∧
    (let b : Blk := { tBlk with sys := { tBlk.sys with lcs := 0 } }; blockOn b = true ∧ b.sys.lcsValid = true ∧ b.sys.lcs = 0) ∧
    (tBlk.sys.lcsValid = false ∨ tBlk.sys.lcs ≠ 0) := by decide +kernel

/-- SYNC alone, PCS alone, and a port whose word goes out before a packet is taken. -/
def obsCfgBlk (cfg : W32) : Blk := { tBlk with obs := { tBlk.obs with cfg := cfg } }
theorem test_wit_packets : (pdRuns (obsCfgBlk 0x00100003) 20 = true ∧ (obsCfgBlk 0x00100003).obs.lost = 0 ∧ (obsCfgBlk 0x00100003).obs.slots = [] ∧
      (obsCfgBlk 0x00100003).obs.fifo = [] ∧ (obsCfgBlk 0x00100003).obs.valid = false ∧ lcsHeld (obsCfgBlk 0x00100003) = false ∧
      lcsFiltered (obsCfgBlk 0x00100003) = false ∧ (obsCfgBlk 0x00100011).core.run = .running) ∧
    (bit (0x00100003 : W32) 0 = true ∧ bit (0x00100003 : W32) 1 = true ∧ bit (0x00100003 : W32) 4 = false) ∧
    (bit (0x00100011 : W32) 0 = true ∧ bit (0x00100011 : W32) 1 = false ∧ bit (0x00100011 : W32) 4 = true) ∧
    (portBlk [packet 1] [(true, 5), (false, 6)]).obs.slots = [packet 1] ∧ [(false, (6 : W32))].length + (1 + (packet 1).payload.length) ≤ 512 := by
  decide +kernel
/-- CR_TRACEW finds the USER slot empty, full with the LOST slot empty, and both full. -/
def traceBlk (slots : List ObsPacket) : Blk := { tBlk with obs := { tBlk.obs with cfg := 0x00100101, slots := slots } }
theorem test_wit_traceLoss : ∀ q ∈ [[], [packet 8], [packet 8, packet 2]], Issues (tSt (traceBlk q)) 1 (traceBlk q) ∧ pdOn (traceBlk q) 20 = true ∧
    bit (traceBlk q).obs.cfg 0 = true ∧ bit (traceBlk q).obs.cfg 8 = true ∧ lcsHeld (traceBlk q) = false ∧ lcsFiltered (traceBlk q) = false ∧
    (traceBlk q).obs.lost = 0 := by
  intro q hq
  simp only [List.mem_cons, List.not_mem_nil, or_false] at hq
  rcases hq with rfl | rfl | rfl
  · exact ⟨issues (by decide +kernel), by decide +kernel⟩
  · exact ⟨issues (by decide +kernel), by decide +kernel⟩
  · exact ⟨issues (by decide +kernel), by decide +kernel⟩
/-- Beats of which three fail and the fourth is right, and four that fail. -/
def goodBeat : Beat := { data := 0, header := 0, crc := bondCrc (List.replicate 72 0) }
def beatBlk (xs : List Beat) : Blk := { tBlk with sys := { tBlk.sys with beats := xs } }
theorem test_wit_beats : (∀ y ∈ badBeats, y.good = false) ∧ goodBeat.good = true ∧ (badBeats.take 3).length ≤ 3 ∧ badBeats.length = 4 ∧
    (beatBlk (badBeats.take 3 ++ goodBeat :: [])).sys.beats = badBeats.take 3 ++ goodBeat :: [] ∧ (beat (beatBlk badBeats)).1 = false ∧
    (beatBlk badBeats).err.pend = false := by decide +kernel
theorem test_wit_ticksLinks : let b := portsBlk linkUp0
    Settled b ∧ blockOn b = true ∧ (∀ p : BitVec 2, portRuns b p = true ∧ (getLink b p).state = stUp ∧ (getLink b p).turn = 0) ∧ b.obs.slots = [] ∧
      bit b.obs.cfg 0 = false ∧ b.core.program = [] ∧ portRuns Blk.reset 0 = false := by
  unfold Settled; decide +kernel
theorem test_wit_ticks : Settled tBlk ∧ blockOn tBlk = true ∧ tBlk.core.program = [] ∧ Settled Blk.reset ∧ blockOn Blk.reset = false ∧
    (let b : Blk := { tBlk with core := { tBlk.core with program := [.fenceA 0], blocked := some .other } };
      Settled b ∧ coreReady b = true ∧ b.core.blocked ≠ some .response) := by
  unfold Settled; decide +kernel

theorem test_wit_ltsFlips : (let b : Blk := { tBlk with lts := { bytes := [(8, 1)], flips := [(1, 0x10)] } }
      Sparse.wf b.lts.bytes = true ∧ Sparse.wf b.lts.flips = true ∧ popCount (b.lts.flips.get 1) = 1) ∧
    (let b : Blk := { tBlk with lts := { bytes := [(8, 1)], flips := [(1, 0x8010)] } }; popCount (b.lts.flips.get 1) = 2) ∧
    tBlk.lts.flips = [] := by decide +kernel

theorem test_wit_hostMap : blockOn tBlk = true ∧ (∀ o ∈ [0x008, 0x1FC, 0x3FC, 0xFFFC], listedOffset o = false) ∧ lcsHeld tBlk = false ∧
    listedOffset 0x1400 = false ∧ listedOffset 0x13FC = true := by decide +kernel

theorem test_wit_regions : inBlockSpace 0x400000000000 = true ∧ inBlockSpace 0x1000 = false ∧ governing Cfg.reset 0x1000 = none ∧
    (12 ≤ rgnSize 0x000C000000000000 ∧ rgnSize 0x000C000000000000 ≤ 47) ∧ rgnSize 0x002F000000000000 = 47 := by decide +kernel

theorem legal_reset : Cfg.Legal Cfg.reset where
  refMhz := by decide
  cap := by decide
  gov := by decide
  rgroups := by decide
  lts := by decide
  fpTmo := by decide
  worlds := by decide
  images := by decide
  feat := ⟨by decide, fun _ _ => rfl⟩
  sealed := by decide
  nrt := fun _ => by simp [Cfg.reset, Sparse.get]
  rgn := fun _ => by simp [Cfg.reset, rgn, Sparse.get]; decide
  canonical := by decide

theorem test_wit_configuration : Cfg.Legal State.reset.cfg ∧ ∃ t, step State.reset = .next t := ⟨legal_reset, _, rfl⟩
/-! ### Ill-formed commands, one for each check of `wellFormed` -/

/-- A header flit with an opcode. -/
def hdr (opc : BitVec 5) : Hdr := { opc := opc, world := false, status := 0, rtag := 0, snode := 0, sblock := 0, addr := 0, be := 0, operand := 0 }
theorem test_wf_requests : (Instr.rdIn (hdr 2)).wf = false ∧ (Instr.wr (hdr 1) 0).wf = false ∧ (Instr.atIn (hdr 1) 0).wf = false ∧
    (Instr.syq (hdr 0x12)).wf = false ∧ (Instr.rdIn (hdr 1)).wf = true := by decide +kernel
theorem test_wf_responses : (Instr.rdr false (hdr 0xA) 0).wf = false ∧ (Instr.wra true (hdr 9)).wf = false ∧ (Instr.atr false (hdr 0xA)).wf = false ∧
    (Instr.syr (hdr 0x11)).wf = false ∧ (Instr.wra true (hdr 0xA)).wf = true := by decide +kernel
theorem test_wf_blocks : (Instr.dataBlock 0 0x8000 0 0 0).wf = false ∧ (Instr.idleBlock 0 0 0 0 0).wf = false ∧ (Instr.train 0 0x10002 0 0 0).wf = false ∧
    (Instr.advert 0 0x10001 0 0 0).wf = false ∧ (Instr.pause 0 0x10005 0 0 0).wf = false ∧ (Instr.resume 0 0x10004 0 0 0).wf = false ∧
    (Instr.down 0 1 0 0 0).wf = false ∧ (Instr.down 0 0x10006 0 0 0).wf = true := by decide +kernel
theorem test_wf_transfer : (Instr.chh true false 0 0 []).wf = false ∧ (Instr.chh true false 0 0 (List.replicate 257 0)).wf = false ∧
    (Instr.chh true false 0 0 (List.replicate 256 0)).wf = true := by decide +kernel
theorem test_wf_latching : (Instr.latchingLoRead 0x234).wf = false ∧ (Instr.latchingLoRead 0xC44).wf = false ∧ (Instr.latchingLoRead 0xCA0).wf = false ∧
    (Instr.latchingLoRead 0xC98).wf = true := by decide +kernel
/-! ### Single steps and functions against the spec's own figures -/

/-- The encodings that the spec works out (05, 06, 09, 20): CALL forward by 0x100, SOP ADD, CRR of CR_TGFLAG, TMMA, VFMA. -/
theorem test_decode_worked : decode 0xA0000040 0 = .instr (.call 0x40) ∧ decode 0xD153A101 0 = .instr (.sopAdd 10 19 20) ∧
    decode 0xE1000105 0 = .instr (.crr 8 0x105 0) ∧ decode 0xF9110228 0x00C0FFFF = .instr (.tmma 0x110228 0x00C0FFFF) ∧
    decode 0xF4611100 0x00000813 = .instr (.vfma 0x0611100 0x8) := by decide +kernel
/-- One word of each other major opcode, put together by hand from the tables of R228 to R232, R110 and R140. -/
theorem test_decode_words : ∀ x ∈ ([
    ((0b000001 * 2 ^ 26 + 9 * 2 ^ 21 + 10 * 2 ^ 16 + 11 * 2 ^ 11 + 0x016, 0), Instr.rem 9 10 11),
    ((0b000010 * 2 ^ 26 + 9 * 2 ^ 21 + 10 * 2 ^ 16 + 11 * 2 ^ 11 + 0x007, 0), .opw 7 9 10 11),
    ((0b000100 * 2 ^ 26 + 9 * 2 ^ 21 + 10 * 2 ^ 16 + 0xFFFE, 0), .addi 9 10 0xFFFE),
    ((0b001010 * 2 ^ 26 + 9 * 2 ^ 21 + 10 * 2 ^ 16 + 0x0085, 0), .shiftImmediateSar 9 10 5 0),
    ((0b001011 * 2 ^ 26 + 9 * 2 ^ 21 + 0x1FFFFF, 0), .lui 9 0x1FFFFF),
    ((0b010011 * 2 ^ 26 + 9 * 2 ^ 21 + 10 * 2 ^ 16 + 0x0010, 0), .ld 9 10 16),
    ((0b011011 * 2 ^ 26 + 0x1F * 2 ^ 21 + 10 * 2 ^ 16 + 11 * 2 ^ 11 + 0x7F0, 0), .sd 11 10 0xFFF0),
    ((0b100011 * 2 ^ 26 + 0 * 2 ^ 21 + 10 * 2 ^ 16 + 11 * 2 ^ 11 + 0x004, 0), .bge 10 11 4),
    ((0b100110 * 2 ^ 26 + 0x3FFFFFF, 0), .j 0x3FFFFFF),
    ((0b100111 * 2 ^ 26 + 2 * 2 ^ 21 + 10 * 2 ^ 16 + 8, 0), .jalr 2 10 8),
    ((0b101100 * 2 ^ 26 + 1 * 2 ^ 21 + 2 * 2 ^ 16 + 3 * 2 ^ 11 + 3 * 2 ^ 6 + 32, 0), .fdiv true 1 2 3),
    ((0b101101 * 2 ^ 26 + 1 * 2 ^ 21 + 2 * 2 ^ 16 + 3 * 2 ^ 11 + 4 * 2 ^ 6 + 5, 0), .fnmadd true 1 2 3 4),
    ((0b110000 * 2 ^ 26 + 1 * 2 ^ 21 + 2 * 2 ^ 16 + 3 * 2 ^ 11 + 0x18, 0), .cas true 1 2 3 0),
    ((0b110100 * 2 ^ 26 + 4 * 2 ^ 16 + 0x004, 0), .chsend 4 0), ((0b110100 * 2 ^ 26 + 0x108, 0), .fenceA 0),
    ((0b111000 * 2 ^ 26 + 0 * 2 ^ 21 + 7 * 2 ^ 16 + 5 * 2 ^ 12 + 0x00A, 0), .tstart 7 0),
    ((0b111000 * 2 ^ 26 + 4 * 2 ^ 12 + 0x0FF, 0), .gate 0xFF 0),
    ((0b111110 * 2 ^ 26 + 0x01 * 2 ^ 21 + 1, 0x00C00000), .tstoreTun 1 0x00C00000),
    ((0b111101 * 2 ^ 26 + 3 * 2 ^ 21, 0x30 + 2 ^ 25), .vredsumComp (3 * 2 ^ 21) (2 ^ 17))] : List ((Nat × Nat) × Instr)),
    decode (BitVec.ofNat 32 x.1.1) (BitVec.ofNat 32 x.1.2) = .instr x.2 := by decide +kernel
/-- Reserved encodings of each unit (R3, R78, R158, R205): majors 0x00 and 0x3F, a shift of kind 3, OPF 18, TOP 0x06, VOP 0x03. -/
theorem test_decode_reserved : decode 0 0 = .core ∧ decode 0xFC000000 0 = .core ∧ decode 0x280000C0 0 = .core ∧ decode 0xB0000480 0 = .core ∧
    decode 0xF8C00000 0 = .tile ∧ decode 0xF4000000 3 = .vector ∧ decode 0xD0000701 0 = .sync ∧ decode 0xD0000308 0 = .core := by decide +kernel
/-- A word of 32 bits and a long form of 64 put their command in front of the queue; a reserved word puts none there. -/
theorem test_decode_table : decodeTableWord 32 0xE1000105 = some (.crr 8 0x105 0) ∧
    decodeTableWord 64 (0x813 * 2 ^ 32 + 0xF4611100) = some (.vfma 0x0611100 0x8) ∧ decodeTableWord 32 0 = none ∧
    (State.withFetchWord (tSt tBlk) 32 0xA0000040).pending = [.call 0x40] ∧ (State.withFetchWord (tSt tBlk) 32 0).pending = [] := by decide +kernel

/-- CRC-32C of nine bytes (07), the bond's CRC-16 of the same (R315), SHA-384 of "abc" (FIPS 180-4). -/
theorem test_crc32c : crc32c [0x31, 0x32, 0x33, 0x34, 0x35, 0x36, 0x37, 0x38, 0x39] = 0xE3069283 := by decide +kernel
theorem test_bondCrc : bondCrc [0x31, 0x32, 0x33, 0x34, 0x35, 0x36, 0x37, 0x38, 0x39] = 0x29B1 := by decide +kernel
theorem test_sha384 : sha384 [0x61, 0x62, 0x63] =
    0xcb00753f45a35e8bb5a03d699ac65007272c32ab0eded1631a8b605a43ff5bed8086072ba1e7cc2358baeca134c825a7 := by decide +kernel

/-- The three packets of the worked example of 19. -/
theorem test_packet_words :
    ({ ty := 3, world := false, level := 0, ts := 0xFFFE, payload := [0x249, 0x10002040, 0] } : ObsPacket).words =
      [(true, 0xFFFE0033), (false, 0x249), (false, 0x10002040), (false, 0)] ∧
    ({ ty := 1, world := false, level := 3, ts := 0, payload := [0x40000, 0] } : ObsPacket).words = [(true, 0x621), (false, 0x40000), (false, 0)] ∧
    ({ ty := 6, world := false, level := 3, ts := 0, payload := [0x50002] } : ObsPacket).words = [(true, 0x616), (false, 0x50002)] := by decide +kernel

/-- The five periods of the worked example of 16, with CAP at 2,000: the next k and its supply voltage. -/
theorem test_governor_periods : ([(64, 3000, 60, 735), (60, 2731, 56, 720), (56, 2477, 52, 700), (52, 2211, 48, 685), (48, 1989, 48, 685)] :
      List (BitVec 7 × BitVec 12 × BitVec 7 × Nat)).all (fun x =>
      let b : Blk := { tBlk with pwr := { tBlk.pwr with k := x.1 }, malt := { tBlk.malt with started := true } }
      match execGovernorPeriod x.2.1 50 900 9 (BitVec.ofNat 16 (((List.range 1200).find? (pllStable x.1.toNat)).getD 0)) 1050
        { stR b with cfg := { cfgR with cap := 2000 } } with
      | .next t => decide (t.blk.pwr.k = x.2.2.1 ∧ t.blk.pwr.mv.toNat = x.2.2.2) && (bit t.blk.pwr.mnotice 0 == decide (x.1 ≠ 48))
      | _ => false) = true := by decide +kernel

/-- The worked reduction of 06, plain and compensated. -/
def sumBlk : Blk := { vecBlk 4 0 with vec := { (vecBlk 4 0).vec with v := [(1, 0x3F800000CB8000003F8000004B800000)] } }
theorem test_vredsum : (match execVredsum (vw1 0 1 2 0) (vw2 8 0 0 0 0 0 0) (tSt sumBlk) with
      | .next t => decide (elem 32 (t.blk.vec.v.get 0) 0 = 0x3F800000) && bit t.blk.vec.vcsr 6
      | _ => false) = true ∧
    (match execVredsumComp (vw1 0 1 2 0) (vw2 8 0 0 0 0 0 1) (tSt sumBlk) with
      | .next t => decide (elem 32 (t.blk.vec.v.get 0) 0 = 0x3F800000 ∧ elem 32 (t.blk.vec.v.get 0) 1 = 0x3F800000) && bit t.blk.vec.vcsr 6
      | _ => false) = true := by decide +kernel

/-- The worked example of 20: CRR of number 0x800 fails code 0x02, and CR_CFAULT reads 0x0008_0002; the offsets of ring 25, and 0x880. -/
theorem test_unlisted_number : (match execCrr 8 0x800 0 (tSt { tBlk with core := { tBlk.core with mb := { tBlk.core.mb with vbase := 0x400000008000 } }, lts := vecLts }) with
      | .next t => match crGet Cfg.reset 0x4D t.blk with
        | .ok v _ => decide (v = 0x80002)
        | .error _ _ => false
      | _ => false) = true := by decide +kernel
theorem test_offsets : listedOffset 0x79C = true ∧ listedOffset 0x864 = true ∧ listedOffset 0x5FC = true ∧ listedOffset 0x880 = false := by decide +kernel

/-- Arithmetic by hand: a wrap, a source that is also the destination, register 0, which is a register like any other (R218). -/
theorem test_add_wraps : (match execAdd 9 9 9 (tSt (withReg tBlk 9 0x8000000000000001)) with
      | .next t => decide (t.blk.core.reg 9 = 2 ∧ t.blk.core.pc = 0x400000000004)
      | _ => false) = true := by decide +kernel
theorem test_add_reg0 : (match execAdd 0 9 9 (tSt (withReg tBlk 9 5)) with
      | .next t => decide (t.blk.core.reg 0 = 10)
      | _ => false) = true := by decide +kernel
/-- A front-of-queue command runs and leaves the rest of the queue. -/
theorem test_step_queue : (match step { tSt tBlk with pending := [.droop, .go] } with
      | .next t => decide (t.pending = [.go] ∧ t.blk.pwr.droops = 1)
      | _ => false) = true := by decide +kernel

/-- R316, R397: a lane moves by at most one step of its 64. -/
theorem test_trim_moves : trimMove 5 (some true) = 6 ∧ trimMove 5 (some false) = 4 ∧ trimMove 63 (some true) = 63 ∧ trimMove 0 none = 0 := by decide

end Sys2Proof.Tests
end

section
namespace Sys2Proof.Proofs
open Sys2Proof.Machine Sys2Proof.Laws

/-! Bit fields: what a field reads after a field was written, and the fields of a word made of two halves. -/

theorem testBit_bits (x : BitVec w) (hi lo i : Nat) : (bits x hi lo).testBit i = (decide (i < hi + 1 - lo) && x.getLsbD (lo + i)) := by
  simp only [bits, Nat.testBit_mod_two_pow, Nat.testBit_shiftRight, BitVec.getLsbD]

theorem getLsbD_setBits (x : BitVec w) (hi lo v i : Nat) :
    (setBits x hi lo v).getLsbD i = if i < w ∧ lo ≤ i ∧ i ≤ hi then v.testBit (i - lo) else x.getLsbD i := by
  by_cases hw : i < w
  · simp only [setBits, BitVec.getLsbD_or, BitVec.getLsbD_and, BitVec.getLsbD_not, BitVec.getLsbD_ofNat, hw, decide_true,
      Bool.true_and, Nat.testBit_shiftLeft, Nat.testBit_two_pow_sub_one, Nat.testBit_mod_two_pow, true_and]
    by_cases hlo : lo ≤ i
    · by_cases hhi : i ≤ hi
      · rw [decide_eq_true (by omega : i - lo < hi + 1 - lo)]
        simp [hlo, hhi]
      · rw [decide_eq_false (by omega : ¬ i - lo < hi + 1 - lo)]
        simp [hhi]
    · simp [hlo]
  · simp [hw, BitVec.getLsbD_of_ge _ _ (Nat.not_lt.mp hw)]

/-- A field that lies within the field written reads the bits written there. -/
theorem bits_setBits_within (x : BitVec w) {hi lo h l v : Nat} (hw : hi < w) (hl : lo ≤ l) (hh : h ≤ hi) :
    bits (setBits x hi lo v) h l = v / 2 ^ (l - lo) % 2 ^ (h + 1 - l) := by
  apply Nat.eq_of_testBit_eq
  intro i
  rw [testBit_bits, getLsbD_setBits, Nat.testBit_mod_two_pow, Nat.testBit_div_two_pow]
  by_cases hi' : i < h + 1 - l
  · rw [if_pos (by omega), show l + i - lo = i + (l - lo) by omega]
  · simp [hi']

/-- The field written reads its new value. -/
theorem bits_setBits_self (x : BitVec w) {hi lo v : Nat} (hw : hi < w) : bits (setBits x hi lo v) hi lo = v % 2 ^ (hi + 1 - lo) := by
  rw [bits_setBits_within x hw (Nat.le_refl _) (Nat.le_refl _), Nat.sub_self, Nat.pow_zero, Nat.div_one]

/-- A field that shares no bit with the field written reads as before. -/
theorem bits_setBits_apart (x : BitVec w) {hi lo h l v : Nat} (ha : h < lo ∨ hi < l) : bits (setBits x hi lo v) h l = bits x h l := by
  apply Nat.eq_of_testBit_eq
  intro i
  rw [testBit_bits, testBit_bits, getLsbD_setBits]
  by_cases hi' : i < h + 1 - l
  · rw [if_neg (by omega)]
  · simp [hi']

theorem bits_lt (x : BitVec w) (hi lo : Nat) : bits x hi lo < 2 ^ (hi + 1 - lo) := Nat.mod_lt _ (Nat.two_pow_pos _)

/-- The low bits of a word as a remainder. -/
theorem toNat_mod_eq_bits (x : BitVec w) (k : Nat) : x.toNat % 2 ^ (k + 1) = bits x k 0 := rfl

/-- A 64-bit word made of a low and a high half. -/
def joined (lo hi : W32) : BitVec 64 := BitVec.ofNat 64 (lo.toNat + 2 ^ 32 * hi.toNat)

theorem toNat_joined (lo hi : W32) : (joined lo hi).toNat = lo.toNat + 2 ^ 32 * hi.toNat := by
  have h1 := lo.isLt
  have h2 := hi.isLt
  simp only [joined, BitVec.toNat_ofNat]
  omega

theorem getLsbD_joined (lo hi : W32) (i : Nat) : (joined lo hi).getLsbD i = if i < 32 then lo.getLsbD i else hi.getLsbD (i - 32) := by
  rw [BitVec.getLsbD, toNat_joined, Nat.add_comm, Nat.testBit_two_pow_mul_add _ lo.isLt]
  rfl

theorem bits_joined_lo (lo hi : W32) {h : Nat} (l : Nat) (hh : h < 32) : bits (joined lo hi) h l = bits lo h l := by
  apply Nat.eq_of_testBit_eq
  intro i
  rw [testBit_bits, testBit_bits, getLsbD_joined]
  by_cases hi' : i < h + 1 - l
  · rw [if_pos (by omega)]
  · simp [hi']

theorem bits_joined_hi (lo hi : W32) (h l : Nat) : bits (joined lo hi) (h + 32) (l + 32) = bits hi h l := by
  apply Nat.eq_of_testBit_eq
  intro i
  rw [testBit_bits, testBit_bits, getLsbD_joined, if_neg (by omega), show l + 32 + i - 32 = l + i by omega,
    show h + 32 + 1 - (l + 32) = h + 1 - l by omega]

theorem joined_halves (d : BitVec 64) : joined (loW d) (hiW d) = d := by
  apply BitVec.eq_of_toNat_eq
  have := d.isLt
  rw [toNat_joined]
  simp only [loW, hiW, BitVec.toNat_ofNat]
  omega

theorem bits_loW (d : BitVec 64) {h : Nat} (l : Nat) (hh : h < 32) : bits (loW d) h l = bits d h l := by
  rw [← bits_joined_lo (loW d) (hiW d) l hh, joined_halves]

theorem bits_hiW (d : BitVec 64) (h l : Nat) : bits (hiW d) h l = bits d (h + 32) (l + 32) := by
  rw [← bits_joined_hi (loW d), joined_halves]

theorem natMin_le (a b : Nat) : Nat.min a b ≤ a := Nat.min_le_left a b

theorem clampNat_bounds {lo hi : Nat} (h : lo ≤ hi) (v : Nat) : lo ≤ clampNat lo hi v ∧ clampNat lo hi v ≤ hi := by
  unfold clampNat
  split
  · exact ⟨Nat.le_refl _, h⟩
  · split <;> omega

theorem toNat_ofNat_of_lt {w n : Nat} (h : n < 2 ^ w) : (BitVec.ofNat w n).toNat = n := by
  rw [BitVec.toNat_ofNat, Nat.mod_eq_of_lt h]

/-- A clamped value in a register wide enough for it stays in its range. -/
theorem toNat_ofNat_clampNat {w lo hi : Nat} (h : lo ≤ hi) (hw : hi < 2 ^ w) (v : Nat) :
    lo ≤ (BitVec.ofNat w (clampNat lo hi v)).toNat ∧ (BitVec.ofNat w (clampNat lo hi v)).toNat ≤ hi := by
  have hb := clampNat_bounds h v
  rwa [toNat_ofNat_of_lt (Nat.lt_of_le_of_lt hb.2 hw)]

end Sys2Proof.Proofs
end

section
namespace Sys2Proof.Proofs
open Sys2Proof.Machine Sys2Proof.Laws

/-! What a command answers, and which host writes leave the configuration. -/

/-- A write of CR_HCPD answers a next state with the queue as it was, whether or not the HCP write is made with it (R434). -/
theorem coreSeqHcp_next (s : State) (i : Instr) (body : M Unit) : ∃ t, coreSeqHcp s i body = .next t ∧ t.pending = s.pending := by
  unfold coreSeqHcp
  dsimp only
  split <;> exact ⟨_, rfl, rfl⟩

theorem coreSeqCr_next (s : State) (cr : BitVec 12) (i : Instr) (body : M Unit) :
    ∃ t, coreSeqCr s cr i body = .next t ∧ t.pending = s.pending := by
  unfold coreSeqCr
  split
  · exact coreSeqHcp_next s i body
  · exact ⟨_, rfl, rfl⟩

/-- A write of any control register but CR_HCPD leaves the configuration. -/
theorem coreSeqCr_keepsCfg (s : State) {cr : BitVec 12} (h : cr ≠ 0x99) (i : Instr) (body : M Unit) :
    ∃ t, coreSeqCr s cr i body = .next t ∧ t.pending = s.pending ∧ t.cfg = s.cfg := by
  unfold coreSeqCr
  rw [if_neg h]
  exact ⟨_, rfl, rfl, rfl⟩

/-- Every arm of `exec` is of one of a few shapes, each of which answers a next state and leaves the queue. -/
theorem exec_next (i : Instr) (s : State) : ∃ t, exec i s = .next t ∧ t.pending = s.pending := by
  cases i
  case crw => exact coreSeqCr_next ..
  case crs => exact coreSeqCr_next ..
  case crc => exact coreSeqCr_next ..
  case hcpdWrite => exact coreSeqHcp_next ..
  all_goals exact ⟨_, rfl, rfl⟩

/-- Which register an answered HCP write goes to, by its word offset (R377, R482). -/
def writeAt (c : Cfg) (b : Blk) (o : Nat) (v : W32) (secure : Bool) : CB :=
  if o < 0x200 then writeId c b o v
  else if o < 0x400 then
    let r := if o = 0x244 then writeLtsCfg c b v secure else writePower c b o v
    (r.1, maltSource r.2 15)
  else if o < 0x600 then writeWorld c b o v secure
  else if o < 0x800 then (c, writeRing c b o v secure)
  else if o < 0x880 then (c, doorbellWrite b ((o - 0x800) / 4) v)
  else if o < 0x9C0 then (c, b)
  else if o = 0xA88 then (c, cgtCommand c b v secure)
  else if o < 0xC00 then writeRest c b o v
  else if o < 0x1000 then
    (c, if !obsRuns b then b
      else if o = 0xC00 then writeObsCfg b v
      else if o = 0xC04 then (if bits v 15 0 ≠ 0 then { b with obs := { b.obs with drops := 0 } } else b)
      else b)
  else if o < 0x1400 then writeNrt c b ((o - 0x1000) / 4) v
  else (c, b)

/-- An HCP write is ignored by a block that is off or held by its life-cycle state (R376, R440), and else goes to its register. -/
theorem hcpWrite_eq (c : Cfg) (b : Blk) (off : BitVec 16) (v : W32) (secure : Bool) :
    hcpWrite c b off v secure = if !blockOn b || lcsHeld b then (c, b) else writeAt c b (off.toNat / 4 * 4) v secure := rfl

/-- A write whose register leaves the configuration leaves it, whether or not the block answers. -/
theorem hcpWrite_cfg {c : Cfg} {b : Blk} {off : BitVec 16} {v : W32} {secure : Bool} {o : Nat} (ho : off.toNat / 4 * 4 = o)
    (h : (writeAt c b o v secure).1 = c) : (hcpWrite c b off v secure).1 = c := by
  rw [hcpWrite_eq, ho]
  split
  · rfl
  · exact h

/-- Ring registers, doorbells and the clamp log hold no configuration (R322, R325, R329). -/
theorem writeAt_rings_cfg (c : Cfg) (b : Blk) {o : Nat} (v : W32) (secure : Bool) (h1 : 0x600 ≤ o) (h2 : o < 0x9C0) :
    (writeAt c b o v secure).1 = c := by
  unfold writeAt
  rw [if_neg (by omega), if_neg (by omega), if_neg (by omega), if_pos h2]
  (repeat' split) <;> rfl

/-- KZ_RST_CMD with any command but WARM leaves the configuration (R451, R454). -/
theorem rstCmd_cfg (c : Cfg) (b : Blk) {op : Nat} (h : op ≠ 2) : (rstCmd c b op).1 = c := by
  unfold rstCmd
  dsimp only
  rw [if_neg h]
  (repeat' split) <;> rfl

theorem writeAt_rstCmd_cfg (c : Cfg) (b : Blk) {v : W32} (secure : Bool) (h : bits v 1 0 ≠ 2) : (writeAt c b 0x104 v secure).1 = c :=
  rstCmd_cfg c (clampSet b 0 (fixR 0x82 v 0xFFFFFFFC)) h

theorem writeModePend_cfg (c : Cfg) (b : Blk) (v : W32) : (writeModePend c b v).1 = c := by
  unfold writeModePend
  split <;> rfl

/-- KZ_LINK_CTL's enables as RETRAIN writes them: as they stand (R398). -/
theorem retrain_enables (en mask : BitVec 4) : BitVec.ofNat 4 (bits (BitVec.ofNat 32 (en.toNat + 256 * mask.toNat)) 3 0) = en := by
  apply BitVec.eq_of_toNat_eq
  have h1 := en.isLt
  have h2 := mask.isLt
  simp only [bits, BitVec.toNat_ofNat, Nat.shiftRight_zero]
  omega

theorem writeLinkCtl_retrain_cfg (c : Cfg) (b : Blk) (mask : BitVec 4) :
    (writeLinkCtl c b (BitVec.ofNat 32 (c.linkEn.toNat + 256 * mask.toNat))).1 = c := by
  show ({ c with linkEn := BitVec.ofNat 4 (bits (BitVec.ofNat 32 (c.linkEn.toNat + 256 * mask.toNat)) 3 0) } : Cfg) = c
  rw [retrain_enables]

/-- A host write whose register holds no configuration leaves the configuration. -/
theorem hostWrite_keepsCfg {s : State} {off : Nat} {v : W32} (h : (hcpWrite s.cfg s.blk (BitVec.ofNat 16 off) v false).1 = s.cfg) :
    ∃ t, hostWrite s off v = .next t ∧ t.pending = s.pending ∧ t.cfg = s.cfg := ⟨_, rfl, rfl, h⟩

/-- The word offset of a ring's register, and of a doorbell, in the offset's own width. -/
theorem ringOffset {o : Nat} (h : o < 0x10000) (h4 : o % 4 = 0) : (BitVec.ofNat 16 o).toNat / 4 * 4 = o := by
  simp only [BitVec.toNat_ofNat]
  omega

theorem ringWrite_keepsCfg (s : State) {o : Nat} (v : W32) (h1 : 0x600 ≤ o) (h2 : o < 0x9C0) (h4 : o % 4 = 0) :
    ∃ t, hostWrite s o v = .next t ∧ t.pending = s.pending ∧ t.cfg = s.cfg :=
  hostWrite_keepsCfg (hcpWrite_cfg (ringOffset (by omega) h4) (writeAt_rings_cfg _ _ v false h1 h2))

/-- A command that `writesCfg` does not name leaves the configuration. -/
theorem exec_keepsCfg (i : Instr) (s : State) (h : writesCfg i = false) :
    ∃ t, exec i s = .next t ∧ t.pending = s.pending ∧ t.cfg = s.cfg := by
  cases i
  case hcpWrite | warm | featSealWrite | ltsCfgWrite | worldLockWrite | linkEnableWrite | hcpdWrite | maltsterInstruction | coldReset
      | powerGoodAonLow | powerGoodLLow | powerGoodMLow | lifeCycleChange => exact Bool.noConfusion h
  case crw => exact coreSeqCr_keepsCfg s (ne_of_beq_false h) ..
  case crs => exact coreSeqCr_keepsCfg s (ne_of_beq_false h) ..
  case crc => exact coreSeqCr_keepsCfg s (ne_of_beq_false h) ..
  case doorbell n _ => exact ringWrite_keepsCfg s _ (by omega) (by have := n.isLt; omega) (by omega)
  case setup n => exact ringWrite_keepsCfg s _ (by omega) (by have := n.isLt; omega) (by omega)
  case start n => exact ringWrite_keepsCfg s _ (by omega) (by have := n.isLt; omega) (by omega)
  case stop n => exact ringWrite_keepsCfg s _ (by omega) (by have := n.isLt; omega) (by omega)
  case go => exact hostWrite_keepsCfg (hcpWrite_cfg rfl (writeAt_rstCmd_cfg _ _ _ (by decide)))
  case core => exact hostWrite_keepsCfg (hcpWrite_cfg rfl (writeAt_rstCmd_cfg _ _ _ (by decide)))
  case cgtLoad => exact hostWrite_keepsCfg (hcpWrite_cfg rfl rfl)
  case cgtSave => exact hostWrite_keepsCfg (hcpWrite_cfg rfl rfl)
  case modePendWrite => exact hostWrite_keepsCfg (hcpWrite_cfg rfl (writeModePend_cfg ..))
  case obsCfgWrite => exact hostWrite_keepsCfg (hcpWrite_cfg rfl rfl)
  case retrain => exact hostWrite_keepsCfg (hcpWrite_cfg rfl (writeLinkCtl_retrain_cfg ..))
  all_goals exact ⟨_, rfl, rfl, rfl⟩

/-- Settles O56, arm by arm: the block's own commands, the host writes of registers without configuration, and the rest. -/
theorem everyCommandAnswers : Obligations.EveryCommandAnswers := by
  intro i s
  cases h : writesCfg i with
  | false =>
    obtain ⟨t, ht, hp, hc⟩ := exec_keepsCfg i s h
    exact ⟨t, ht, hp, fun _ => hc⟩
  | true =>
    obtain ⟨t, ht, hp⟩ := exec_next i s
    exact ⟨t, ht, hp, fun hf => absurd hf (by decide)⟩
end Sys2Proof.Proofs
end

section
namespace Sys2Proof.Proofs
open Sys2Proof.Machine Sys2Proof.Laws

/-! The configuration stays legal: every register write, every reset and every instruction of the Maltster keeps `Cfg.Legal`. -/

/-- A legal region descriptor: its TYPE, its SIZE and its reserved bits (R436). -/
def RgnLegal (d : BitVec 64) : Prop :=
  bits d 3 2 ≤ 2 ∧ bits d 11 10 = 0 ∧ bits d 47 47 = 0 ∧ bits d 63 54 = 0 ∧ 12 ≤ rgnSize d ∧ rgnSize d ≤ 47

/-- A descriptor that nothing has written holds its reset value, which is legal. -/
theorem rgnLegal_nil {c : Cfg} (h : c.rgnX = []) (n : Nat) : RgnLegal (rgn c n) := by
  have hr : rgn c n = 0x000C000000000000 := by
    unfold rgn
    rw [h]
    exact BitVec.zero_xor
  rw [hr]
  unfold RgnLegal
  decide

theorem legal_reset : Cfg.Legal Cfg.reset where
  refMhz := by decide
  cap := by decide
  gov := by decide
  rgroups := by decide
  lts := by decide
  fpTmo := by decide
  worlds := by decide
  images := by decide
  feat := ⟨by decide, fun _ _ => rfl⟩
  sealed := by decide
  nrt := fun _ => Nat.two_pow_pos 27
  rgn := fun n => rgnLegal_nil rfl n
  canonical := by decide

/-- A write that goes by cases keeps the configuration legal when each case does. -/
theorem legal_ite {p : Prop} [Decidable p] {x y : CB} (hx : p → x.1.Legal) (hy : ¬ p → y.1.Legal) : (if p then x else y).1.Legal := by
  by_cases hp : p
  · rw [if_pos hp]; exact hx hp
  · rw [if_neg hp]; exact hy hp

/-- KZ_GOV_CFG: kmin, kmax, the temperature limit and the margin target (R425). -/
theorem legal_gov {c : Cfg} (h : c.Legal) (x y z u : Nat) (hu : u < 32) :
    Cfg.Legal { c with kmin := BitVec.ofNat 7 (clampNat 16 64 x), kmax := BitVec.ofNat 7 (clampNat (clampNat 16 64 x) 64 y)
                       tlim := BitVec.ofNat 7 (clampNat 60 110 z), mtgt := BitVec.ofNat 5 (Nat.max 2 u) } := by
  have hk := clampNat_bounds (by decide : 16 ≤ 64) x
  have hx := clampNat_bounds hk.2 y
  have ht := toNat_ofNat_clampNat (w := 7) (by decide : 60 ≤ 110) (by decide) z
  have hm : Nat.max 2 u < 2 ^ 5 := Nat.max_lt.mpr ⟨by decide, hu⟩
  refine { h with gov := ⟨?_, ?_, ?_, ht.1, ht.2, ?_⟩ }
  · show 16 ≤ (BitVec.ofNat 7 _).toNat
    rw [toNat_ofNat_of_lt (by omega)]
    exact hk.1
  · show (BitVec.ofNat 7 _).toNat ≤ (BitVec.ofNat 7 _).toNat
    rw [toNat_ofNat_of_lt (by omega), toNat_ofNat_of_lt (by omega)]
    exact hx.1
  · show (BitVec.ofNat 7 _).toNat ≤ 64
    rw [toNat_ofNat_of_lt (by omega)]
    exact hx.2
  · show 2 ≤ (BitVec.ofNat 5 _).toNat
    rw [toNat_ofNat_of_lt hm]
    exact Nat.le_max_left ..

/-- The power and clock registers clamp (R54, R409, R425). -/
theorem writePower_legal {c : Cfg} (h : c.Legal) (b : Blk) (o : Nat) (v : W32) : (writePower c b o v).1.Legal := by
  unfold writePower
  dsimp only
  refine legal_ite (fun _ => { h with refMhz := toNat_ofNat_clampNat (by decide) (by decide) _ }) fun _ => ?_
  refine legal_ite (fun _ => { h with }) fun _ => ?_
  refine legal_ite (fun _ => { h with cap := toNat_ofNat_clampNat (by decide) (by decide) _ }) fun _ => ?_
  refine legal_ite (fun _ => legal_gov h _ _ _ _ (bits_lt v 28 24)) fun _ => ?_
  refine legal_ite (fun _ => { h with }) fun _ => ?_
  refine legal_ite (fun _ => { h with rgroups := toNat_ofNat_clampNat (by decide) (by decide) _ }) fun _ => ?_
  exact legal_ite (fun _ => h) fun _ => h

/-- KZ_LTS_CFG keeps a quarter and at most 48 partitions (R312, R433). -/
theorem writeLtsCfg_legal {c : Cfg} (h : c.Legal) (b : Blk) (v : W32) (secure : Bool) : (writeLtsCfg c b v secure).1.Legal := by
  have hq (x : Nat) (hx : x < 16) : BitVec.ofNat 4 (if x = 0 then 1 else x) ≠ 0 := by
    intro h0
    have h0 := congrArg BitVec.toNat h0
    rw [toNat_ofNat_of_lt (by split <;> omega)] at h0
    split at h0 <;> simp_all
  have hs (p : Bool) (x : Nat) : (BitVec.ofNat 6 (if p then c.ltsSec.toNat else Nat.min 48 x)).toNat ≤ 48 := by
    have hm := natMin_le 48 x
    have hl := h.lts.2
    cases p with
    | true => rw [if_pos rfl, toNat_ofNat_of_lt (by omega)]; exact hl
    | false => rw [if_neg (by decide), toNat_ofNat_of_lt (by omega)]; exact hm
  exact { h with lts := ⟨hq _ (bits_lt v 3 0), hs _ _⟩ }

/-- The XOR with the reset value is undone by `rgn`. -/
theorem rgn_put (c : Cfg) (n m : Nat) (x : BitVec 64) :
    rgn { c with rgnX := c.rgnX.set n (x ^^^ 0x000C000000000000) } m = if m = n then x else rgn c m := by
  unfold rgn
  by_cases hm : m = n
  · rw [if_pos hm, hm, get_set_self, BitVec.xor_assoc, BitVec.xor_self, BitVec.xor_zero]
  · rw [if_neg hm]
    dsimp only
    rw [get_set_other _ _ _ _ hm]

theorem legal_putRgn {c : Cfg} (h : c.Legal) (n : Nat) {x : BitVec 64} (hx : RgnLegal x) :
    Cfg.Legal { c with rgnX := c.rgnX.set n (x ^^^ 0x000C000000000000) } := by
  obtain ⟨hfeat, hnrt, hrgn⟩ := h.canonical
  refine { h with rgn := ?_, canonical := ⟨hfeat, hnrt, wf_set hrgn _ _⟩ }
  intro m
  rw [rgn_put]
  split
  · exact hx
  · exact h.rgn m

/-- The rules of R436 on the halves of a descriptor. -/
theorem rgnLegal_joined {lo hi : W32} (h1 : bits lo 3 2 ≤ 2) (h2 : bits lo 11 10 = 0) (h3 : bits hi 15 15 = 0) (h4 : bits hi 31 22 = 0)
    (h5 : 12 ≤ bits hi 21 16) (h6 : bits hi 21 16 ≤ 47) : RgnLegal (joined lo hi) := by
  refine ⟨?_, ?_, ?_, ?_, ?_, ?_⟩
  · rwa [bits_joined_lo _ _ _ (by decide)]
  · rwa [bits_joined_lo _ _ _ (by decide)]
  · exact (bits_joined_hi lo hi 15 15).trans h3
  · exact (bits_joined_hi lo hi 31 22).trans h4
  · exact Nat.le_trans h5 (Nat.le_of_eq (bits_joined_hi lo hi 21 16).symm)
  · exact Nat.le_trans (Nat.le_of_eq (bits_joined_hi lo hi 21 16)) h6

theorem writeRgn_legal {c : Cfg} (h : c.Legal) (b : Blk) (o : Nat) (v : W32) : (writeRgn c b o v).1.Legal := by
  obtain ⟨h1, h2, h3, h4, h5, h6⟩ := h.rgn ((o - 0x500) / 8)
  unfold writeRgn
  dsimp only
  split
  · refine legal_putRgn h _ (rgnLegal_joined ?_ ?_ ?_ ?_ ?_ ?_)
    · rw [bits_setBits_apart _ (by decide), bits_setBits_apart _ (by decide), bits_setBits_self _ (by decide)]
      have := natMin_le 2 (bits v 3 2)
      exact Nat.le_trans (Nat.mod_le _ _) this
    · rw [bits_setBits_apart _ (by decide), bits_setBits_self _ (by decide), Nat.zero_mod]
    · rw [bits_hiW]; exact h3
    · rw [bits_hiW]; exact h4
    · rw [bits_hiW]; exact h5
    · rw [bits_hiW]; exact h6
  · have hs := clampNat_bounds (by decide : 12 ≤ 47) (bits v 21 16)
    refine legal_putRgn h _ (rgnLegal_joined ?_ ?_ ?_ ?_ ?_ ?_)
    · rw [bits_setBits_apart _ (by decide), bits_loW _ _ (by decide)]; exact h1
    · rw [bits_setBits_apart _ (by decide), bits_loW _ _ (by decide)]; exact h2
    · rw [bits_setBits_apart _ (by decide), bits_setBits_apart _ (by decide), bits_setBits_self _ (by decide), Nat.zero_mod]
    · rw [bits_setBits_apart _ (by decide), bits_setBits_self _ (by decide), Nat.zero_mod]
    · rw [bits_setBits_apart _ (by decide), bits_setBits_apart _ (by decide), bits_setBits_apart _ (by decide),
        bits_setBits_self _ (by decide)]
      omega
    · rw [bits_setBits_apart _ (by decide), bits_setBits_apart _ (by decide), bits_setBits_apart _ (by decide),
        bits_setBits_self _ (by decide)]
      omega

/-- KZ_WORLD_CFG holds at most 256 objects and 64 group entries (R433). -/
theorem legal_worlds {c : Cfg} (h : c.Legal) (x y : Nat) :
    Cfg.Legal { c with secobj := BitVec.ofNat 9 (Nat.min 256 x), cgtsec := BitVec.ofNat 7 (Nat.min 64 y) } := by
  have hs := natMin_le 256 x
  have hg := natMin_le 64 y
  refine { h with worlds := ⟨?_, ?_⟩ }
  · show (BitVec.ofNat 9 _).toNat ≤ 256
    rwa [toNat_ofNat_of_lt (by omega)]
  · show (BitVec.ofNat 7 _).toNat ≤ 64
    rwa [toNat_ofNat_of_lt (by omega)]

/-- The world assignment, the lock and the region descriptors (R433, R434, R436). -/
theorem writeWorld_legal {c : Cfg} (h : c.Legal) (b : Blk) (o : Nat) (v : W32) (secure : Bool) : (writeWorld c b o v secure).1.Legal := by
  unfold writeWorld
  dsimp only
  refine legal_ite (fun _ => h) fun _ => ?_
  refine legal_ite (fun _ => legal_ite (fun _ => h) fun _ => { h with }) fun _ => ?_
  refine legal_ite (fun _ => legal_ite (fun _ => h) fun _ => legal_worlds h _ _) fun _ => ?_
  refine legal_ite (fun _ => { h with }) fun _ => ?_
  exact legal_ite (fun _ => writeRgn_legal h b o v) fun _ => h

theorem legal_featAcc {c : Cfg} (h : c.Legal) (hs : c.sealed = false) (k : Nat) (v : W32) :
    Cfg.Legal { c with featAcc := c.featAcc.set k (w32 (v.toNat &&& if k = 0 then 1 else 0)) } := by
  obtain ⟨hfeat, hrest⟩ := h.canonical
  refine { h with feat := ⟨?_, ?_⟩, sealed := ?_, canonical := ⟨wf_set hfeat _ _, hrest⟩ }
  · by_cases hk : k = 0
    · subst hk
      rw [get_set_self]
      exact Nat.le_trans (Nat.mod_le _ _) Nat.and_le_right
    · rw [get_set_other _ _ _ _ (Ne.symm hk)]
      exact h.feat.1
  · intro j hj
    by_cases hk : j = k
    · rw [hk, get_set_self, if_neg (hk ▸ hj), Nat.and_zero]
      rfl
    · rw [get_set_other _ _ _ _ hk]
      exact h.feat.2 j hj
  · intro ht
    exact absurd (hs.symm.trans ht) (by decide)

/-- A sealed feature register has bit 0 set: FEAT_SEAL is taken only then (R464, R465). -/
theorem legal_sealed {c : Cfg} (h : c.Legal) (p : Bool) : Cfg.Legal { c with sealed := c.sealed || (p && bit (c.featAcc.get 0) 0) } := by
  refine { h with sealed := ?_ }
  intro ht
  cases hs : c.sealed with
  | true => exact h.sealed hs
  | false =>
    have hb : bit (c.featAcc.get 0) 0 = true := by
      rw [hs, Bool.false_or, Bool.and_eq_true] at ht
      exact ht.2
    apply BitVec.eq_of_toNat_eq
    have h1 := h.feat.1
    have h0 : (c.featAcc.get 0).toNat ≠ 0 := by
      intro h0
      rw [bit, BitVec.getLsbD, h0] at hb
      exact absurd hb (by decide)
    show (c.featAcc.get 0).toNat = 1
    omega

/-- A word whose low half takes a multiple of 2 ^ k is a multiple of it; one whose high half is written keeps its low bits. -/
theorem setBits_lo_mod (x : Word) (k v : Nat) (hk : k < 32) : (setBits x 31 0 (v / 2 ^ (k + 1) * 2 ^ (k + 1))).toNat % 2 ^ (k + 1) = 0 := by
  rw [toNat_mod_eq_bits, bits_setBits_within x (by decide) (Nat.le_refl 0) (by omega), Nat.pow_zero, Nat.div_one]
  exact Nat.mul_mod_left ..

theorem setBits_hi_mod (x : Word) (k v : Nat) (hk : k < 32) : (setBits x 63 32 v).toNat % 2 ^ (k + 1) = x.toNat % 2 ^ (k + 1) := by
  rw [toNat_mod_eq_bits, toNat_mod_eq_bits, bits_setBits_apart x (by omega)]

/-- What a warm reset or a life-cycle change leaves of the configuration is legal (R451). -/
theorem cfgReset_legal {c : Cfg} (h : c.Legal) (lcs : Bool) : (cfgReset c lcs).Legal := by
  have hw : (cfgReset c lcs).secobj.toNat ≤ 256 ∧ (cfgReset c lcs).cgtsec.toNat ≤ 64 := by
    cases lcs with
    | true => exact ⟨Nat.zero_le _, Nat.zero_le _⟩
    | false => exact h.worlds
  obtain ⟨_, hnrt, _⟩ := h.canonical
  exact { h with
    worlds := hw
    feat := ⟨Nat.zero_le _, fun _ _ => rfl⟩
    sealed := fun hs => Bool.noConfusion hs
    rgn := fun n => rgnLegal_nil rfl n
    canonical := ⟨rfl, hnrt, rfl⟩ }

theorem warmReset_legal {c : Cfg} (h : c.Legal) (b : Blk) (kind last : BitVec 3) : (warmReset c b kind last).1.Legal := by
  unfold warmReset
  exact legal_ite (fun _ => h) fun _ => cfgReset_legal h _

theorem rstCmd_legal {c : Cfg} (h : c.Legal) (b : Blk) (op : Nat) : (rstCmd c b op).1.Legal := by
  by_cases hop : op = 2
  · subst hop
    unfold rstCmd
    dsimp only
    rw [if_neg (by decide), if_pos rfl]
    split
    · exact h
    · exact warmReset_legal h b _ _
  · rw [rstCmd_cfg c b hop]
    exact h

/-- The life-cycle, feature and boot image registers (R453, R464). -/
theorem writeId_legal {c : Cfg} (h : c.Legal) (b : Blk) (o : Nat) (v : W32) : (writeId c b o v).1.Legal := by
  obtain ⟨hm, hc, hg⟩ := h.images
  unfold writeId
  dsimp only
  refine legal_ite (fun _ => legal_ite (fun _ => h) fun hs => legal_featAcc h (Bool.eq_false_iff.mpr hs) _ v) fun _ => ?_
  refine legal_ite (fun _ => legal_sealed h _) fun _ => ?_
  refine legal_ite (fun _ => rstCmd_legal h _ _) fun _ => ?_
  refine legal_ite (fun _ => h) fun _ => ?_
  refine legal_ite (fun _ => { h with images := ⟨setBits_lo_mod c.mimg 5 v.toNat (by decide), hc, hg⟩ }) fun _ => ?_
  refine legal_ite (fun _ => { h with images := ⟨(setBits_hi_mod c.mimg 5 v.toNat (by decide)).trans hm, hc, hg⟩ }) fun _ => ?_
  refine legal_ite (fun _ => { h with images := ⟨hm, setBits_lo_mod c.cimg 5 v.toNat (by decide), hg⟩ }) fun _ => ?_
  exact legal_ite (fun _ => { h with images := ⟨hm, (setBits_hi_mod c.cimg 5 v.toNat (by decide)).trans hc, hg⟩ }) fun _ => h

/-- KZ_FP_TMO is at least 48 (R372). -/
theorem legal_fpTmo {c : Cfg} (h : c.Legal) (v : W32) : Cfg.Legal { c with fpTmo := w32 (Nat.max 48 v.toNat) } := by
  refine { h with fpTmo := ?_ }
  show 48 ≤ (BitVec.ofNat 32 (Nat.max 48 v.toNat)).toNat
  rw [toNat_ofNat_of_lt (Nat.max_lt.mpr ⟨by decide, v.isLt⟩)]
  exact Nat.le_max_left ..

/-- The node, the timeout and the group table's base (R191, R293, R372). -/
theorem writeRest_legal {c : Cfg} (h : c.Legal) (b : Blk) (o : Nat) (v : W32) : (writeRest c b o v).1.Legal := by
  obtain ⟨hm, hc, hg⟩ := h.images
  unfold writeRest
  dsimp only
  refine legal_ite (fun _ => h) fun _ => ?_
  refine legal_ite (fun _ => h) fun _ => ?_
  refine legal_ite (fun _ => (writeModePend_cfg c b v).symm ▸ h) fun _ => ?_
  refine legal_ite (fun _ => legal_ite (fun _ => h) fun _ => { h with }) fun _ => ?_
  refine legal_ite (fun _ => legal_fpTmo h v) fun _ => ?_
  refine legal_ite (fun _ => h) fun _ => ?_
  refine legal_ite (fun _ => { h with }) fun _ => ?_
  refine legal_ite (fun _ => h) fun _ => ?_
  refine legal_ite (fun _ => { h with images := ⟨hm, hc, setBits_lo_mod c.cgtBase 4 v.toNat (by decide)⟩ }) fun _ => ?_
  refine legal_ite (fun _ => { h with images := ⟨hm, hc, (setBits_hi_mod c.cgtBase 4 v.toNat (by decide)).trans hg⟩ }) fun _ => ?_
  exact legal_ite (fun _ => h) fun _ => legal_ite (fun _ => h) fun _ => h

/-- KZ_NRTn holds 27 bits (R294). -/
theorem writeNrt_legal {c : Cfg} (h : c.Legal) (b : Blk) (n : Nat) (v : W32) : (writeNrt c b n v).1.Legal := by
  unfold writeNrt
  split
  · exact h
  obtain ⟨hfeat, hnrt, hrgn⟩ := h.canonical
  refine { h with nrt := ?_, canonical := ⟨hfeat, wf_set hnrt _ _, hrgn⟩ }
  intro m
  by_cases hm : m = n
  · rw [hm, get_set_self, BitVec.toNat_and]
    exact Nat.lt_of_le_of_lt Nat.and_le_right (by decide)
  · rw [get_set_other _ _ _ _ hm]
    exact h.nrt m

theorem writeAt_legal {c : Cfg} (h : c.Legal) (b : Blk) (o : Nat) (v : W32) (secure : Bool) : (writeAt c b o v secure).1.Legal := by
  unfold writeAt
  refine legal_ite (fun _ => writeId_legal h b o v) fun _ => ?_
  refine legal_ite (fun _ => ?_) fun _ => ?_
  · exact legal_ite (fun _ => writeLtsCfg_legal h b v secure) fun _ => writePower_legal h b o v
  refine legal_ite (fun _ => writeWorld_legal h b o v secure) fun _ => ?_
  refine legal_ite (fun _ => h) fun _ => ?_
  refine legal_ite (fun _ => h) fun _ => ?_
  refine legal_ite (fun _ => h) fun _ => ?_
  refine legal_ite (fun _ => h) fun _ => ?_
  refine legal_ite (fun _ => writeRest_legal h b o v) fun _ => ?_
  refine legal_ite (fun _ => h) fun _ => ?_
  exact legal_ite (fun _ => writeNrt_legal h b _ v) fun _ => h

theorem hcpWrite_legal {c : Cfg} (h : c.Legal) (b : Blk) (off : BitVec 16) (v : W32) (secure : Bool) :
    (hcpWrite c b off v secure).1.Legal := by
  rw [hcpWrite_eq]
  exact legal_ite (fun _ => h) fun _ => writeAt_legal h b _ v secure

end Sys2Proof.Proofs
end

section
namespace Sys2Proof.Proofs
open Sys2Proof.Machine Sys2Proof.Laws

theorem lcsChange_legal {c : Cfg} (h : c.Legal) (b : Blk) (lcs : BitVec 3) (valid : Bool) : (lcsChange c b lcs valid).1.Legal := by
  unfold lcsChange
  refine legal_ite (fun _ => h) fun _ => legal_ite (fun _ => h) fun _ => ?_
  refine legal_ite (fun _ => ?_) fun _ => warmReset_legal h _ _ _
  exact legal_ite (fun _ => cfgReset_legal h _) fun _ => legal_ite (fun _ => cfgReset_legal h _) fun _ => cfgReset_legal h _

theorem pgLLow_legal {c : Cfg} (h : c.Legal) (b : Blk) : (pgLLow c b).1.Legal := by
  unfold pgLLow
  exact legal_ite (fun _ => h) fun _ => legal_ite (fun _ => warmReset_legal h _ _ _) fun _ => h

theorem pgMLow_legal {c : Cfg} (h : c.Legal) (b : Blk) : (pgMLow c b).1.Legal := by
  unfold pgMLow
  exact legal_ite (fun _ => h) fun _ => warmReset_legal h _ _ _

/-! The Maltster reaches the configuration by its stores to the Host Control Port alone (R430). -/

theorem maltHcpWrite_legal {c : Cfg} (h : c.Legal) (b : Blk) (off : Nat) (v : W32) : (maltHcpWrite c b off v).1.Legal := by
  unfold maltHcpWrite
  exact legal_ite (fun _ => h) fun _ => hcpWrite_legal h b _ v false

theorem maltStore_legal {c : Cfg} (h : c.Legal) (b : Blk) (a : Word) (n : Nat) (v : Word) : (maltStore c b a n v).1.Legal := by
  unfold maltStore
  dsimp only
  refine legal_ite (fun _ => h) fun _ => legal_ite (fun _ => maltHcpWrite_legal h _ _ _) fun _ => ?_
  have h1 := maltHcpWrite_legal h b (a.toNat - 0x10000) (v.truncate 32)
  exact legal_ite (fun _ => maltHcpWrite_legal h1 _ _ _) fun _ => h1

/-- An instruction of the Maltster that ends without a fault ends in a legal configuration. -/
def EndsLegal (r : MaltR) : Prop := ∀ x, r = .ok x → x.1.Legal

theorem endsLegal_ok {x : CB} (h : x.1.Legal) : EndsLegal (.ok x) := by
  rintro y ⟨⟩
  exact h

theorem endsLegal_error (e : Nat) : EndsLegal (.error e) := by
  rintro y ⟨⟩

theorem endsLegal_ite {p : Prop} [Decidable p] {x y : MaltR} (hx : EndsLegal x) (hy : EndsLegal y) : EndsLegal (if p then x else y) := by
  split
  · exact hx
  · exact hy

theorem maltCr_legal {c : Cfg} (h : c.Legal) (b : Blk) (i sysop n rd rs1 : Nat) (next : Word) :
    EndsLegal (maltCr c b i sysop n rd rs1 next) := by
  unfold maltCr
  dsimp only
  cases maltCrGet b n with
  | none => exact endsLegal_error 4
  | some old =>
    refine endsLegal_ite (endsLegal_ite (endsLegal_error 1) (endsLegal_ok h)) (endsLegal_ite (endsLegal_ite (endsLegal_error 1) ?_) ?_)
    all_goals
      split
      · exact endsLegal_ok h
      · exact endsLegal_error 4

theorem maltTask_legal {c : Cfg} (h : c.Legal) (b : Blk) (i arg rd rs1 : Nat) (next : Word) :
    EndsLegal (maltTask c b i arg rd rs1 next) := by
  have hok (b : Blk) : EndsLegal (.ok (c, b)) := endsLegal_ok h
  have herr := endsLegal_error 1
  unfold maltTask
  refine endsLegal_ite herr <| endsLegal_ite (endsLegal_ite (hok _) (hok _)) ?_
  exact endsLegal_ite (endsLegal_ite (hok _) herr) <| endsLegal_ite (endsLegal_ite (hok _) herr) (endsLegal_ite (hok _) herr)

theorem maltWord_legal {c : Cfg} (h : c.Legal) (b : Blk) (i : Nat) (pc : Word) (w : W32) : EndsLegal (maltWord c b i pc w) := by
  have hok (b : Blk) : EndsLegal (.ok (c, b)) := endsLegal_ok h
  unfold maltWord
  dsimp only
  iterate 3
    refine endsLegal_ite ?_ ?_
    · split
      · exact endsLegal_ok h
      · exact endsLegal_error 1
  refine endsLegal_ite (endsLegal_ok h) <| endsLegal_ite (endsLegal_ok h) <| endsLegal_ite ?_ <| endsLegal_ite ?_ ?_
  · cases maltBad _ _ with
    | some e => exact endsLegal_error e
    | none => exact endsLegal_ite (hok _) (endsLegal_ok h)
  · cases maltBad _ _ with
    | some e => exact endsLegal_error e
    | none => exact endsLegal_ok (legal_ite (fun _ => maltStore_legal h _ _ _ _) fun _ => h)
  · refine endsLegal_ite (hok _) <| endsLegal_ite (hok _) <| endsLegal_ite (endsLegal_ok h) <| endsLegal_ite ?_ (endsLegal_error 1)
    exact endsLegal_ite (maltCr_legal h _ _ _ _ _ _ _) <| endsLegal_ite (maltTask_legal h _ _ _ _ _ _) (endsLegal_error 1)

theorem maltStep_legal {c : Cfg} (h : c.Legal) (b : Blk) : (maltStep c b).1.Legal := by
  unfold maltStep
  split
  · exact h
  · dsimp only
    split
    · rename_i x hx
      refine (?_ : EndsLegal _) x hx
      refine endsLegal_ite (endsLegal_error 2) <| endsLegal_ite (endsLegal_error 3) ?_
      exact endsLegal_ite (maltWord_legal h _ _ _ _) (endsLegal_ok h)
    · exact h

/-! Commands. -/

/-- An outcome whose next state, if it is one, has a legal configuration. -/
def NextLegal (o : Host.Outcome State Fault Refusal) : Prop := ∀ t, o = .next t → t.cfg.Legal

theorem nextLegal_next {t : State} (h : t.cfg.Legal) : NextLegal (.next t) := by
  rintro y ⟨⟩
  exact h

theorem cbNext_legal {s : State} {f : Cfg → Blk → Cfg × Blk} (h : (f s.cfg s.blk).1.Legal) : NextLegal (cbNext s f) := nextLegal_next h

theorem hostWrite_legal {s : State} (h : s.cfg.Legal) (off : Nat) (v : W32) : NextLegal (hostWrite s off v) :=
  cbNext_legal (hcpWrite_legal h _ _ _ _)

theorem coreSeqHcp_legal {s : State} (h : s.cfg.Legal) (i : Instr) (body : M Unit) : NextLegal (coreSeqHcp s i body) := by
  unfold coreSeqHcp
  dsimp only
  split
  · exact nextLegal_next h
  · exact nextLegal_next (hcpWrite_legal h _ _ _ _)

theorem coreSeqCr_legal {s : State} (h : s.cfg.Legal) (cr : BitVec 12) (i : Instr) (body : M Unit) : NextLegal (coreSeqCr s cr i body) := by
  unfold coreSeqCr
  split
  · exact coreSeqHcp_legal h i body
  · exact nextLegal_next h

/-- A command that leaves the configuration leaves it legal. -/
theorem exec_legal_of_keeps {s : State} (h : s.cfg.Legal) {i : Instr} (hi : writesCfg i = false) : NextLegal (exec i s) := by
  obtain ⟨t, ht, _, hc⟩ := exec_keepsCfg i s hi
  rw [ht]
  exact nextLegal_next (hc.symm ▸ h)

theorem exec_legal {s : State} (h : s.cfg.Legal) (i : Instr) : NextLegal (exec i s) := by
  cases hi : writesCfg i with
  | false => exact exec_legal_of_keeps h hi
  | true =>
    cases i
    case hcpWrite => exact hostWrite_legal h _ _
    case warm => exact hostWrite_legal h _ _
    case featSealWrite => exact hostWrite_legal h _ _
    case ltsCfgWrite => exact hostWrite_legal h _ _
    case worldLockWrite => exact hostWrite_legal h _ _
    case linkEnableWrite => exact hostWrite_legal h _ _
    case crw => exact coreSeqCr_legal h _ _ _
    case crs => exact coreSeqCr_legal h _ _ _
    case crc => exact coreSeqCr_legal h _ _ _
    case hcpdWrite => exact coreSeqHcp_legal h _ _
    case maltsterInstruction => exact nextLegal_next (legal_ite (fun _ => maltStep_legal h _) fun _ => h)
    case coldReset => exact nextLegal_next legal_reset
    case powerGoodAonLow => exact nextLegal_next legal_reset
    case powerGoodLLow => exact cbNext_legal (pgLLow_legal h _)
    case powerGoodMLow => exact cbNext_legal (pgMLow_legal h _)
    case lifeCycleChange => exact nextLegal_next (legal_ite (fun _ => lcsChange_legal h _ _ _) fun _ => h)
    all_goals exact Bool.noConfusion hi

/-- A tick changes no configuration word but by the instruction that it tries again. -/
theorem tick_legal {s : State} (h : s.cfg.Legal) : NextLegal (tick s) := by
  have hexec (i : Instr) (b : Blk) : NextLegal (exec i { s with blk := b }) := exec_legal (s := { s with blk := b }) h i
  unfold tick
  dsimp only
  split
  · exact nextLegal_next h
  · exact hexec _ _

/-- Settles O55: every command keeps the configuration legal, and so does a tick. -/
theorem configurationStaysLegal : Obligations.ConfigurationStaysLegal := by
  intro s t h ht
  refine (?_ : NextLegal (step s)) t ht
  unfold step
  split
  · exact tick_legal h
  · rename_i i rest _
    exact exec_legal (s := { s with pending := rest }) h i

end Sys2Proof.Proofs
end

section
namespace Sys2Proof.Proofs
open Sys2Proof.Machine Sys2Proof.Laws

/-- A powered block in life-cycle state 1 whose configuration is locked (R434, R440), and nothing else since the cold reset. -/
def lockedBlock : State :=
  { pending := []
    cfg := { Cfg.reset with lock := true }
    blk := { Blk.reset with
      pwr := { Power.reset with porstN := true, pgAon := true }
      sys := { Sys.reset with lcsValid := true, lcs := 1 } } }

theorem lockedBlock_on : blockOn lockedBlock.blk = true := rfl

theorem unlisted_40C : listedOffset 0x40C = false := by decide

/-- While LOCK is 1 a non-secure write of any offset of 0x400 to 0x5FF but KZ_WORLD_LOCK is entered in the clamp log, listed or not. -/
theorem lockedBlock_write_logs :
    (hcpWrite lockedBlock.cfg lockedBlock.blk 0x40C 0 false).2.rings.clogNext = 1 := by decide

/-- Refutes O58: with LOCK 1 (R434) a write of the unlisted offset 0x40C is not ignored; it makes a record in the clamp log. -/
theorem not_hostRegisterMap : ¬ Obligations.HostRegisterMap := by
  intro h
  obtain ⟨_, _, _, hun⟩ := h lockedBlock 0x40C 0 lockedBlock_on
  obtain ⟨_, _, hw⟩ := hun unlisted_40C
  have hb : (hcpWrite lockedBlock.cfg lockedBlock.blk 0x40C 0 false).2 = lockedBlock.blk := by
    have := Host.Outcome.next.inj hw
    exact congrArg State.blk this
  have hlog := lockedBlock_write_logs
  rw [hb] at hlog
  exact absurd hlog (by decide)
end Sys2Proof.Proofs
end

section
namespace Sys2Proof.Proofs
open Sys2Proof.Machine Sys2Proof.Laws

/-! Instructions that trap: at the fetch of a reserved word, or in their computation. -/

/-- Illegal operand of the core, code 0x01 (R243). -/
def illegalOperand : Trap := { cause := 1, detail := 1, faddr := 0, fault := .core 1 0, wlevel := none, ipa := none, keep := false }

/-- The core tries an instruction that it fetches, and goes on by the end of its computation. -/
theorem offered_fetches {s : State} (h : Fetches s) (i : Instr) (m : M Unit) : offered s i m = after s i (start s) (m (start s)) := by
  obtain ⟨hready, hreplay, hprogram, hentry⟩ := h
  rw [← awaken_replay] at hreplay
  rw [← awaken_program] at hprogram
  simp only [offered, runCore, hready, hreplay, hprogram, hentry, Bool.not_true, Bool.not_false, Bool.and_false, Bool.false_eq_true,
    if_false, List.isEmpty_nil]
  unfold runHead start
  cases m (boundary (awaken (settle s.cfg s.blk))) with
  | ok a b2 => rfl
  | error e b2 => cases e <;> rfl

section
variable {s : State} {b1 : Blk} {e : Trap}

/-- A fetch that traps traps each instruction that makes it. -/
theorem coreSeq_fetchTraps (h : Fetches s) (hf : fetch s.cfg 1 (start s) = .error (.trap e) b1) (i : Instr) (body : M Unit) :
    coreSeq s i body = trapped s i e (start s) b1 := by
  unfold coreSeq seqOp
  rw [offered_fetches h]
  simp only [bind_run, hf]
  rfl

theorem coreJump_fetchTraps (h : Fetches s) (hf : fetch s.cfg 1 (start s) = .error (.trap e) b1) (i : Instr) (body : M Word) :
    coreJump s i body = trapped s i e (start s) b1 := by
  unfold coreJump jumpOp
  rw [offered_fetches h]
  simp only [bind_run, hf]
  rfl

theorem coreSeq2_fetchTraps (h : Fetches s) (hf : fetch s.cfg 2 (start s) = .error (.trap e) b1) (i : Instr) (body : M Unit) :
    coreSeq2 s i body = trapped s i e (start s) b1 := by
  unfold coreSeq2 seqOp
  rw [offered_fetches h]
  simp only [bind_run, hf]
  rfl

/-- A computation that traps traps the instruction that issued. -/
theorem coreSeq_traps {b2 : Blk} (h : Issues s 1 b1) (i : Instr) {body : M Unit} (hb : body b1 = .error (.trap e) b2) :
    coreSeq s i body = trapped s i e (start s) b2 := by
  rw [coreSeq_issue h]
  simp only [bind_run, hb]
  rfl

theorem coreJump_traps {b2 : Blk} (h : Issues s 1 b1) (i : Instr) {body : M Word} (hb : body b1 = .error (.trap e) b2) :
    coreJump s i body = trapped s i e (start s) b2 := by
  rw [coreJump_issue h]
  simp only [bind_run, hb]
  rfl
end

/-- A short word of a reserved encoding is refused where it is fetched (R3). -/
theorem fetch_reservedShort {c : Cfg} {b b1 : Blk} {w : W32} {e : Stop} (hw : fetchWord c b.core.pc b = .ok w b1) (hl : isLong w = false)
    (hr : refuseReserved (decode w 0) b1 = .error e b1) (n : Nat) : fetch c n b = .error e b1 := by
  simp only [fetch, bind_run, get_run, hw, hl, Bool.not_false, if_true, hr]

/-- A long form of a reserved encoding is refused once both its words are fetched. -/
theorem fetch_reservedLong {c : Cfg} {b b1 b2 : Blk} {w w2 : W32} {e : Stop} (hw : fetchWord c b.core.pc b = .ok w b1) (hl : isLong w = true)
    (hw2 : fetchWord c (b.core.pc + 4) b1 = .ok w2 b2) (hr : refuseReserved (decode w w2) b2 = .error e b2) : fetch c 2 b = .error e b2 := by
  simp only [fetch, bind_run, get_run, hw, hl, Bool.not_true, Bool.false_eq_true, ↓reduceIte, hw2, hr]

end Sys2Proof.Proofs
end

section
namespace Sys2Proof.Proofs
open Sys2Proof.Machine Sys2Proof.Laws

/-! The words that the tables do not list (R110, R111, R140–R142, R228–R232). -/

/-- The majors that R229 does not list are reserved. -/
theorem decode_major {w : W32} (w2 : W32)
    (h : bits w 31 26 ∈ [0x00, 0x03, 0x0E, 0x0F, 0x17, 0x2B, 0x2E, 0x2F, 0x31, 0x32, 0x33, 0x35, 0x36, 0x37, 0x39, 0x3A, 0x3B, 0x3C, 0x3F]) :
    decode w w2 = .core := by
  simp only [List.mem_cons, List.not_mem_nil, or_false] at h
  unfold decode majorOf
  rcases h with h | h | h | h | h | h | h | h | h | h | h | h | h | h | h | h | h | h | h <;> rw [h] <;> rfl

theorem decodeOp_reserved {w : W32} (h : 0x24 ≤ bits w 10 0) : decodeOp w = .core := by
  unfold decodeOp
  dsimp only
  split
  case h_26 => rfl
  all_goals omega

theorem decodeShift_reserved {w : W32} (h : bits w 7 6 = 3) : decodeShift w = .core := by
  unfold decodeShift
  rw [h] <;> rfl

theorem decodeFp_reserved {w : W32} (h : 18 ≤ bits w 10 6 ∨ bits w 4 0 ≠ 0) : decodeFp w = .core := by
  unfold decodeFp
  dsimp only
  by_cases hz : bits w 4 0 = 0
  · have h : 18 ≤ bits w 10 6 := h.resolve_right fun hn => hn hz
    rw [if_neg (by omega)]
    split
    case h_19 => rfl
    all_goals omega
  · rw [if_pos hz]

theorem decodeFma_reserved {w : W32} (h : bits w 5 3 ≠ 0) : decodeFma w = .core := by
  unfold decodeFma
  dsimp only
  rw [if_pos h]

theorem decodeAtomic_reserved {w : W32} (h : 9 ≤ bits w 3 0) : decodeAtomic w = .core := by
  unfold decodeAtomic
  dsimp only
  split
  case h_10 => rfl
  all_goals omega

theorem decodeSync_reserved {w : W32} (h : 9 ≤ bits w 7 0) : decodeSync w = .core := by
  unfold decodeSync
  dsimp only
  split
  case h_7 => rfl
  all_goals omega

/-- A sync operation that R205 does not list is refused by the sync unit (R209). -/
theorem decodeSync_reservedSop {w : W32} (hf : bits w 7 0 = 1) (h : 5 ≤ bits w 10 8) : decodeSync w = .sync := by
  unfold decodeSync
  dsimp only
  split
  case h_1 =>
    split
    case h_6 => rfl
    all_goals omega
  case h_7 hne _ _ _ _ _ => exact absurd hf hne
  all_goals omega

theorem decodeSystem_reserved {w : W32} (h : 6 ≤ bits w 15 12) : decodeSystem w = .core := by
  unfold decodeSystem
  split
  case h_7 => rfl
  all_goals omega

theorem decodeTile_reserved {w : W32} (w2 : W32) (h1 : 0x13 ≤ bits w 25 21) (h2 : bits w 25 21 < 0x1F) : decodeTile w w2 = .tile := by
  unfold decodeTile
  dsimp only
  split
  case h_15 => rfl
  all_goals omega

theorem decodeVector_reserved (w : W32) {w2 : W32} (h : 0x33 ≤ bits w2 7 0) : decodeVector w w2 = .vector := by
  unfold decodeVector
  dsimp only
  split
  case h_33 => rfl
  all_goals omega

/-- The unit that decodes a word, by its major opcode (R229). -/
theorem decode_units (w w2 : W32) :
    (bits w 31 26 = 0x01 → decode w w2 = decodeOp w) ∧ (bits w 31 26 = 0x0A → decode w w2 = decodeShift w) ∧
    (bits w 31 26 = 0x2C → decode w w2 = decodeFp w) ∧ (bits w 31 26 = 0x2D → decode w w2 = decodeFma w) ∧
    (bits w 31 26 = 0x30 → decode w w2 = decodeAtomic w) ∧ (bits w 31 26 = 0x34 → decode w w2 = decodeSync w) ∧
    (bits w 31 26 = 0x38 → decode w w2 = decodeSystem w) ∧ (bits w 31 26 = 0x3D → decode w w2 = decodeVector w w2) ∧
    (bits w 31 26 = 0x3E → decode w w2 = decodeTile w w2) := by
  unfold decode majorOf
  refine ⟨?_, ?_, ?_, ?_, ?_, ?_, ?_, ?_, ?_⟩
  all_goals
    intro h
    rw [h] <;> rfl

end Sys2Proof.Proofs
end

section
namespace Sys2Proof.Proofs
open Sys2Proof.Machine Sys2Proof.Laws

/-! What the fetch of a reserved word, an illegal field, a misaligned address and a frozen window raise. -/

theorem coreSeq_illegalOperand {s : State} {b1 : Blk} (h : Issues s 1 b1) (i : Instr) {body : M Unit}
    (hb : body b1 = .error (.trap illegalOperand) b1) : coreSeq s i body = trapped s i illegalOperand (start s) b1 := coreSeq_traps h i hb

/-- A one-operand function with an rs2 field that is not 0 is an illegal operand (R230). -/
theorem opBody_unary_bad {funct : Nat} (hf : unaryFunct funct = true) (rd rs1 : BitVec 5) {rs2 : BitVec 5} (h : rs2 ≠ 0) (b : Blk) :
    opBody funct rd rs1 rs2 b = .error (.trap illegalOperand) b := by
  simp only [opBody, hf, if_true, bind_run, mustBeZero_bad h, illegalOperand]

/-- The FUNCTs that R230 does not list have no operation. -/
theorem aluOp_reserved {f : Nat} (h : f = 0x00E ∨ f = 0x00F ∨ f = 0x013 ∨ (0x018 ≤ f ∧ f < 0x020) ∨ 0x024 ≤ f) (a b : BitVec w) :
    aluOp f a b = none := by
  unfold aluOp
  split
  case h_26 => rfl
  all_goals omega

theorem opwBody_reserved {f : Nat} (h : f = 0x00E ∨ f = 0x00F ∨ f = 0x013 ∨ (0x018 ≤ f ∧ f < 0x020) ∨ 0x024 ≤ f) (rd rs1 rs2 : BitVec 5)
    (b : Blk) : opwBody f rd rs1 rs2 b = .error (.trap illegalOperand) b := by
  have hu : unaryFunct f = false := decide_eq_false (by omega)
  simp only [opwBody, hu, Bool.false_eq_true, if_false, bind_run, readReg_run, aluOp_reserved h]
  rfl

/-- The alignment fault of a load (1) or store (2) at `va` (R217). -/
def misaligned (detail : BitVec 16) (va : Word) : Trap :=
  { cause := 4, detail := detail, faddr := va, fault := .none, wlevel := none, ipa := none, keep := false }

theorem load_misaligned (c : Cfg) {va : Word} {n : Nat} (h : va.toNat % n ≠ 0) (b : Blk) :
    load c va n b = .error (.trap (misaligned 1 va)) b := by
  simp only [load, bind_run, check_run, beq_eq_false_iff_ne.mpr h, Bool.false_eq_true, if_false]
  rfl

theorem store_misaligned (c : Cfg) {va : Word} {n : Nat} (h : va.toNat % n ≠ 0) (v : Nat) (b : Blk) :
    store c va n v b = .error (.trap (misaligned 2 va)) b := by
  simp only [store, bind_run, check_run, beq_eq_false_iff_ne.mpr h, Bool.false_eq_true, if_false]
  rfl

/-- Code 0x03 of R243. -/
def frozenWindow : Trap := { cause := 1, detail := 3, faddr := 0, fault := .core 3 0, wlevel := none, ipa := none, keep := false }

/-- Outside service mode a window instruction fails code 0x03 while FROZEN is 1 (R223). -/
theorem windowAllowed_frozen {b : Blk} (hs : b.core.svcBanks = 0) (hf : b.core.frozen = true) :
    windowAllowed b = .error (.trap frozenWindow) b := by
  have hsvc : b.core.svc = false := by
    unfold Core.svc
    rw [hs]
    rfl
  simp only [windowAllowed, bind_run, getCore_run, hsvc, hf, Bool.false_eq_true, ↓reduceIte]
  rfl

theorem callBody_frozen {b : Blk} (hs : b.core.svcBanks = 0) (hf : b.core.frozen = true) (c : Cfg) (target : Word) :
    callBody c target b = .error (.trap frozenWindow) b := by
  simp only [callBody, bind_run, windowAllowed_frozen hs hf]

end Sys2Proof.Proofs
end

section
namespace Sys2Proof.Proofs
open Sys2Proof.Machine Sys2Proof.Laws

/-! Reserved words under a command of the core, of the tile engine and of the vector unit. -/

/-- The sync unit's refusal of a reserved operation, code 0x10 (R209). -/
def reservedSop : Trap := { cause := 0x12, detail := 0x10, faddr := 0, fault := .chain 0x10 0, wlevel := none, ipa := none, keep := false }

/-- A one-word command whose fetch traps is trapped, whatever it spells: samples of every kind of meaning. -/
theorem shortCommands_fetchTrap {s : State} {b1 : Blk} {e : Trap} (h : Fetches s) (hf : fetch s.cfg 1 (start s) = .error (.trap e) b1)
    (rd rs1 rs2 : BitVec 5) (imm : BitVec 16) :
    ∀ i ∈ [Instr.add rd rs1 rs2, .addi rd rs1 imm, .lw rd rs1 imm, .sw rs2 rs1 imm, .beq rs1 rs2 imm, .jalr rd rs1 imm, .fadd true rd rs1 rs2,
       .sopAdd rd rs1 rs2, .crr rd 0x092 0, .brk 0], exec i s = trapped s i e (start s) b1 := by
  simp only [List.forall_mem_cons, List.not_mem_nil, false_imp_iff, implies_true, and_true]
  exact ⟨coreSeq_fetchTraps h hf _ _, coreSeq_fetchTraps h hf _ _, coreSeq_fetchTraps h hf _ _, coreSeq_fetchTraps h hf _ _,
    coreJump_fetchTraps h hf _ _, coreJump_fetchTraps h hf _ _, coreSeq_fetchTraps h hf _ _, coreSeq_fetchTraps h hf _ _,
    coreSeq_fetchTraps h hf _ _, coreSeq_fetchTraps h hf _ _⟩

/-- So is a two-word command of the tile engine or the vector unit. -/
theorem longCommands_fetchTrap {s : State} {b1 : Blk} {e : Trap} (h : Fetches s) (hf : fetch s.cfg 2 (start s) = .error (.trap e) b1)
    (f : BitVec 21) (g : BitVec 26) (k : BitVec 24) (w2 : W32) :
    ∀ i ∈ [Instr.tload f w2, .tmma f w2, .tgopen f w2, .vadd g k, .vld g k, .vsetl g k], exec i s = trapped s i e (start s) b1 := by
  simp only [List.forall_mem_cons, List.not_mem_nil, false_imp_iff, implies_true, and_true]
  exact ⟨coreSeq2_fetchTraps h hf _ _, coreSeq2_fetchTraps h hf _ _, coreSeq2_fetchTraps h hf _ _, coreSeq2_fetchTraps h hf _ _,
    coreSeq2_fetchTraps h hf _ _, coreSeq2_fetchTraps h hf _ _⟩

theorem illegalFields_trap {s : State} {b1 : Blk} (h : Issues s 1 b1) (rd rs1 rs2 : BitVec 5) (amt : BitVec 6) (mbz : BitVec 8) (f : BitVec 11) :
    let stops (i : Instr) := exec i s = trapped s i illegalOperand (start s) b1
    (rs2 ≠ 0 → stops (.clz rd rs1 rs2) ∧ stops (.ctz rd rs1 rs2) ∧ stops (.popc rd rs1 rs2) ∧ stops (.bswap rd rs1 rs2)) ∧
    (mbz ≠ 0 → stops (.shiftImmediateShl rd rs1 amt mbz) ∧ stops (.shiftImmediateShr rd rs1 amt mbz) ∧
      stops (.shiftImmediateSar rd rs1 amt mbz)) ∧
    ((f = 0x00E ∨ f = 0x00F ∨ f = 0x013 ∨ (0x018 ≤ f.toNat ∧ f.toNat < 0x020) ∨ 0x024 ≤ f.toNat) → stops (.opw f rd rs1 rs2)) := by
  refine ⟨fun hr => ?_, fun hm => ?_, fun hf => ?_⟩
  · have hb (funct : Nat) (hu : unaryFunct funct = true) (i : Instr) := coreSeq_traps h i (opBody_unary_bad hu rd rs1 hr b1)
    exact ⟨hb 0x20 rfl _, hb 0x21 rfl _, hb 0x22 rfl _, hb 0x23 rfl _⟩
  · have hb (body : M Unit) (i : Instr) : coreSeq s i (do mustBeZero mbz; body) = trapped s i illegalOperand (start s) b1 :=
      coreSeq_traps h i (by simp only [bind_run, mustBeZero_bad hm, illegalOperand])
    exact ⟨hb _ _, hb _ _, hb _ _⟩
  · refine coreSeq_traps h _ (opwBody_reserved ?_ rd rs1 rs2 b1)
    rcases hf with rfl | rfl | rfl | hf
    · exact Or.inl rfl
    · exact Or.inr (Or.inl rfl)
    · exact Or.inr (Or.inr (Or.inl rfl))
    · exact Or.inr (Or.inr (Or.inr hf))

theorem misaligned_trap {s : State} {b1 : Blk} (h : Issues s 1 b1) (r rs1 : BitVec 5) (imm : BitVec 16) :
    let va := b1.core.reg rs1 + imm.signExtend 64
    let stops (d : BitVec 16) (i : Instr) := exec i s = trapped s i (misaligned d va) (start s) b1
    (va.toNat % 2 ≠ 0 → stops 1 (.lh r rs1 imm) ∧ stops 1 (.lhu r rs1 imm) ∧ stops 2 (.sh r rs1 imm)) ∧
    (va.toNat % 4 ≠ 0 → stops 1 (.lw r rs1 imm) ∧ stops 1 (.lwu r rs1 imm) ∧ stops 1 (.flw r rs1 imm) ∧ stops 2 (.sw r rs1 imm) ∧
      stops 2 (.fsw r rs1 imm)) ∧
    (va.toNat % 8 ≠ 0 → stops 1 (.ld r rs1 imm) ∧ stops 1 (.fld r rs1 imm) ∧ stops 2 (.sd r rs1 imm) ∧ stops 2 (.fsd r rs1 imm)) := by
  have hload (n : Nat) (hn : (b1.core.reg rs1 + sext16 imm).toNat % n ≠ 0) (signed : Bool) (i : Instr) :
      coreSeq s i (loadBody s.cfg n signed r rs1 imm) = trapped s i (misaligned 1 (b1.core.reg rs1 + sext16 imm)) (start s) b1 :=
    coreSeq_traps h i (by simp only [loadBody, bind_run, readReg_run, load_misaligned s.cfg hn])
  have hloadF (n : Nat) (hn : (b1.core.reg rs1 + sext16 imm).toNat % n ≠ 0) (i : Instr) :
      coreSeq s i (do writeFp r (← load s.cfg ((← readReg rs1) + sext16 imm) n)) =
        trapped s i (misaligned 1 (b1.core.reg rs1 + sext16 imm)) (start s) b1 :=
    coreSeq_traps h i (by simp only [bind_run, readReg_run, load_misaligned s.cfg hn])
  have hstore (n : Nat) (hn : (b1.core.reg rs1 + sext16 imm).toNat % n ≠ 0) (i : Instr) :
      coreSeq s i (storeBody s.cfg n r rs1 imm) = trapped s i (misaligned 2 (b1.core.reg rs1 + sext16 imm)) (start s) b1 :=
    coreSeq_traps h i (by simp only [storeBody, bind_run, readReg_run, store_misaligned s.cfg hn])
  have hstoreF (n : Nat) (hn : (b1.core.reg rs1 + sext16 imm).toNat % n ≠ 0) (i : Instr) :
      coreSeq s i (do
        let a := (← readReg rs1) + sext16 imm
        store s.cfg a n (← readF r).toNat) = trapped s i (misaligned 2 (b1.core.reg rs1 + sext16 imm)) (start s) b1 :=
    coreSeq_traps h i (by simp only [bind_run, readReg_run, readF_run, store_misaligned s.cfg hn])
  exact ⟨fun h2 => ⟨hload 2 h2 true _, hload 2 h2 false _, hstore 2 h2 _⟩,
    fun h4 => ⟨hload 4 h4 true _, hload 4 h4 false _, hloadF 4 h4 _, hstore 4 h4 _, hstoreF 4 h4 _⟩,
    fun h8 => ⟨hload 8 h8 true _, hloadF 8 h8 _, hstore 8 h8 _, hstoreF 8 h8 _⟩⟩

theorem frozenWindow_trap {s : State} {b1 : Blk} (h : Issues s 1 b1) (hs : b1.core.svcBanks = 0) (hf : b1.core.frozen = true)
    (rs1 : BitVec 5) (off : BitVec 26) :
    ∀ i ∈ [Instr.call off, .callr rs1 0, .ret 0], exec i s = trapped s i frozenWindow (start s) b1 := by
  simp only [List.forall_mem_cons, List.not_mem_nil, false_imp_iff, implies_true, and_true]
  refine ⟨coreJump_traps h _ ?_, coreJump_traps h _ ?_, coreJump_traps h _ ?_⟩
  · simp only [bind_run, getCore_run, callBody_frozen hs hf]
  · simp only [bind_run, BitVec.ofNat_eq_ofNat, mustBeZero_zero, readReg_run, callBody_frozen hs hf]
  · simp only [bind_run, BitVec.ofNat_eq_ofNat, mustBeZero_zero, windowAllowed_frozen hs hf]

/-- Settles O3: a reserved word is refused by the fetch itself, before any command's own computation; the other faults are the first
thing that the computation does. -/
theorem coreFaults : Obligations.CoreFaults := by
  refine ⟨?_, fun s b1 rd rs1 rs2 amt mbz f h => illegalFields_trap h rd rs1 rs2 amt mbz f, fun s b1 r rs1 imm h => misaligned_trap h r rs1 imm,
    fun s b1 rs1 off h hs hf => frozenWindow_trap h hs hf rs1 off⟩
  intro s b1 b2 w w2 rd rs1 rs2 imm f g k hF
  obtain ⟨dOp, dShift, dFp, dFma, dAtomic, dSync, dSystem, dVector, dTile⟩ := decode_units w w2
  refine ⟨fun hw hl => ⟨fun hd => ?_, fun hd => ?_⟩, fun hw hl hw2 => ⟨fun hd => ?_, fun hd => ?_⟩, decode_major w2,
    fun hm h => (dOp hm).trans (decodeOp_reserved h), fun hm h => (dShift hm).trans (decodeShift_reserved h),
    fun hm h => (dFp hm).trans (decodeFp_reserved h), fun hm h => (dFma hm).trans (decodeFma_reserved h),
    fun hm h => (dAtomic hm).trans (decodeAtomic_reserved h), fun hm h => (dSync hm).trans (decodeSync_reserved h),
    fun hm hf h => (dSync hm).trans (decodeSync_reservedSop hf h), fun hm h => (dSystem hm).trans (decodeSystem_reserved h),
    fun hm h1 h2 => (dTile hm).trans (decodeTile_reserved w2 h1 h2), fun hm h => (dVector hm).trans (decodeVector_reserved w h)⟩
  · exact shortCommands_fetchTrap hF (fetch_reservedShort hw hl (by rw [hd]; rfl) 1) rd rs1 rs2 imm
  · exact shortCommands_fetchTrap hF (fetch_reservedShort hw hl (by rw [hd]; rfl) 1) rd rs1 rs2 imm
  · have hall := longCommands_fetchTrap hF (fetch_reservedLong hw hl hw2 (by rw [hd]; rfl)) f g k w2
    exact fun i hi => hall i (List.mem_append_left _ hi)
  · have hall := longCommands_fetchTrap hF (fetch_reservedLong hw hl hw2 (by rw [hd]; rfl)) f g k w2
    exact fun i hi => hall i (List.mem_append_right [Instr.tload f w2, .tmma f w2, .tgopen f w2] hi)

end Sys2Proof.Proofs
end

section
namespace Sys2Proof.Proofs
open Sys2Proof.Machine Sys2Proof.Laws

/-! Who may read and write a control register: what the model permits, the table of R483 permits. -/

/-- The table permits a read by one of its rows. -/
theorem permitsRead {b : Blk} {n lo hi : Nat} {rd wr : CrAccess} (hrow : (lo, hi, rd, wr) ∈ crTable) (hn : lo ≤ n ∧ n ≤ hi)
    (hp : rd.permits b = true) : crPermits b false n = true :=
  List.any_eq_true.mpr ⟨_, hrow, by simp only [hn, hp, decide_true, Bool.and_self, Bool.false_eq_true, if_false]⟩

/-- In a read rule that goes by cases, the case that permits. -/
theorem readable_ite {p : Prop} [Decidable p] {x y : Bool} {q : Prop} (hx : p → x = true → q) (hy : y = true → q) :
    (if p then x else y) = true → q := by
  intro h
  split at h
  · exact hx ‹p› h
  · exact hy h

theorem permits_nonSecure (b : Blk) : CrAccess.nonSecure.permits b = atWorld b false := by
  unfold atWorld atM
  cases h : b.core.ps.world <;> simp [CrAccess.permits, h]

theorem permits_secure (b : Blk) : CrAccess.secure.permits b = atWorld b true := by
  unfold atWorld atM
  cases h : b.core.ps.world <;> simp [CrAccess.permits, h]

theorem mem_crTable_counter {n : Nat} (h : n < 12) : (0x150 + n, 0x150 + n, CrAccess.counter n, CrAccess.sup) ∈ crTable := by
  unfold crTable
  exact List.mem_append_left _ (List.mem_append_right _ (List.mem_map.mpr ⟨n, List.mem_range.mpr h, rfl⟩))

theorem crPermits_of_mayRead {b : Blk} {n : Nat} : crMayRead b n = true → crPermits b false n = true := by
  unfold crMayRead
  have row (lo hi : Nat) (rd wr : CrAccess) (hrow : (lo, hi, rd, wr) ∈ crTable) (hp : rd.permits b = true) (hn : lo ≤ n ∧ n ≤ hi) :
      crPermits b false n = true := permitsRead hrow hn hp
  refine readable_ite (fun hn _ => row 0x00 0x00 .any .sup (by decide) rfl (by omega)) ?_
  refine readable_ite (fun hn hp => row 0x10 0x15 .nonSecure .nonSecure (by decide) ((permits_nonSecure b).trans hp) hn) ?_
  refine readable_ite (fun hn hp => row 0x18 0x1D .secure .secure (by decide) ((permits_secure b).trans hp) hn) ?_
  refine readable_ite (fun hn hp => row 0x20 0x25 .machine .machine (by decide) hp hn) ?_
  refine readable_ite (fun hn hp => row 0x30 0x31 .sup .sup (by decide) hp (by omega)) ?_
  refine readable_ite (fun hn hp => row 0x32 0x33 .machine .machine (by decide) hp (by omega)) ?_
  refine readable_ite (fun hn hp => row 0x34 0x35 .sup .machine (by decide) hp (by omega)) ?_
  refine readable_ite (fun hn _ => row 0x40 0x40 .any .sup (by decide) rfl (by omega)) ?_
  refine readable_ite (fun hn hp => row 0x41 0x44 .sup .sup (by decide) hp hn) ?_
  refine readable_ite (fun hn hp => row 0x45 0x46 .machine .machine (by decide) hp (by omega)) ?_
  refine readable_ite (fun hn _ => hn.elim (fun hn => row 0x47 0x47 .any .any (by decide) rfl (by omega))
    fun hn => row 0x48 0x48 .any .sup (by decide) rfl (by omega)) ?_
  refine readable_ite (fun hn hp => row 0x49 0x4C .machine .machine (by decide) hp hn) ?_
  refine readable_ite (fun hn hp => row 0x4D 0x4D .sup .sup (by decide) hp (by omega)) ?_
  refine readable_ite (fun hn hp => row 0x60 0x62 .nonSecure .nonSecure (by decide) ((permits_nonSecure b).trans hp) hn) ?_
  refine readable_ite (fun hn hp => row 0x68 0x6A .secure .secure (by decide) ((permits_secure b).trans hp) hn) ?_
  refine readable_ite (fun hn hp => ?_) ?_
  · rcases (by omega : (0x63 ≤ n ∧ n ≤ 0x64) ∨ (0x6B ≤ n ∧ n ≤ 0x6C) ∨ (0x70 ≤ n ∧ n ≤ 0x71)) with hn | hn | hn
    · exact row 0x63 0x64 .machine .machine (by decide) hp hn
    · exact row 0x6B 0x6C .machine .machine (by decide) hp hn
    · exact row 0x70 0x71 .machine .machine (by decide) hp hn
  refine readable_ite (fun hn hp => row 0x72 0x73 .sup .sup (by decide) hp (by omega)) ?_
  refine readable_ite (fun hn _ => ?_) ?_
  · rcases (by omega : (0x80 ≤ n ∧ n ≤ 0x80) ∨ (0x81 ≤ n ∧ n ≤ 0x82) ∨ (0x84 ≤ n ∧ n ≤ 0x85)) with hn | hn | hn
    · exact row 0x80 0x80 .any .sup (by decide) rfl hn
    · exact row 0x81 0x82 .any .any (by decide) rfl hn
    · exact row 0x84 0x85 .any .any (by decide) rfl hn
  refine readable_ite (fun hn hp => row 0x83 0x83 .sup .sup (by decide) hp (by omega)) ?_
  refine readable_ite (fun hn hp => row 0x86 0x88 .machine .machine (by decide) hp (by omega)) ?_
  refine readable_ite (fun hn hp => hn.elim (fun hn => row 0x90 0x90 .sup .sup (by decide) hp (by omega))
    fun hn => row 0x94 0x94 .sup .sup (by decide) hp (by omega)) ?_
  refine readable_ite (fun hn hp => row 0x91 0x91 .machine .machine (by decide) hp (by omega)) ?_
  refine readable_ite (fun hn _ => row 0x92 0x92 .any .any (by decide) rfl (by omega)) ?_
  refine readable_ite (fun hn hp => row 0x93 0x93 .timer .timer (by decide) hp (by omega)) ?_
  refine readable_ite (fun hn hp => row 0x98 0x99 .machine .machine (by decide) hp (by omega)) ?_
  refine readable_ite (fun hn hp => ?_) ?_
  · rcases hn with hn | hn | hn
    · exact row 0xA0 0xA2 .sup .sup (by decide) hp hn
    · exact row 0xB0 0xBF .sup .sup (by decide) hp hn
    · exact row 0xC0 0xCF .sup .sup (by decide) hp hn
  refine readable_ite (fun hn hp => ?_) ?_
  · rcases hn with hn | hn
    · exact row 0xD0 0xD0 .nonSecure .nonSecure (by decide) ((permits_nonSecure b).trans hp) (by omega)
    · exact row 0xD2 0xD2 .nonSecure .nonSecure (by decide) ((permits_nonSecure b).trans hp) (by omega)
  refine readable_ite (fun hn hp => ?_) ?_
  · rcases hn with hn | hn
    · exact row 0xD1 0xD1 .secure .secure (by decide) ((permits_secure b).trans hp) (by omega)
    · exact row 0xD3 0xD3 .secure .secure (by decide) ((permits_secure b).trans hp) (by omega)
  refine readable_ite (fun hn _ => row 0xE0 0xE7 .any .any (by decide) rfl hn) ?_
  refine readable_ite (fun hn hp => row 0xE8 0xEB .sup .sup (by decide) hp hn) ?_
  refine readable_ite (fun hn _ => ?_) ?_
  · rcases (by omega : (0x100 ≤ n ∧ n ≤ 0x101) ∨ (0x102 ≤ n ∧ n ≤ 0x103) ∨ (0x105 ≤ n ∧ n ≤ 0x105) ∨
      (0x106 ≤ n ∧ n ≤ 0x106) ∨ (0x110 ≤ n ∧ n ≤ 0x11F)) with hn | hn | hn | hn | hn
    · exact row 0x100 0x101 .any .any (by decide) rfl hn
    · exact row 0x102 0x103 .any .sup (by decide) rfl hn
    · exact row 0x105 0x105 .any .any (by decide) rfl hn
    · exact row 0x106 0x106 .any .sup (by decide) rfl hn
    · exact row 0x110 0x11F .any .any (by decide) rfl hn
  refine readable_ite (fun hn hp => hn.elim (fun hn => row 0x104 0x104 .sup .sup (by decide) hp (by omega))
    fun hn => row 0x107 0x107 .sup .sup (by decide) hp (by omega)) ?_
  refine readable_ite (fun hn hp => ?_) ?_
  · rcases (by omega : (0x120 ≤ n ∧ n ≤ 0x121) ∨ (0x122 ≤ n ∧ n ≤ 0x122) ∨ n = 0x123 ∨ (0x124 ≤ n ∧ n ≤ 0x124))
      with hn | hn | hn | hn
    · exact row 0x120 0x121 .any .any (by decide) rfl hn
    · exact row 0x122 0x122 .any .sup (by decide) rfl hn
    · subst hn
      exact row 0x123 0x123 .sup .sup (by decide) hp (by omega)
    · exact row 0x124 0x124 .any .sup (by decide) rfl hn
  refine readable_ite (fun hn _ => row 0x140 0x140 .any .any (by decide) rfl (by omega)) ?_
  refine readable_ite (fun hn hp => row 0x141 0x141 .sup .sup (by decide) hp (by omega)) ?_
  refine readable_ite (fun hn hp => row 0x142 0x142 .machine .machine (by decide) hp (by omega)) ?_
  refine readable_ite (fun hn hp => row _ _ _ _ (mem_crTable_counter (n := n - 0x150) (by omega)) hp (by omega)) ?_
  exact readable_ite (fun hn hp => row 0x164 0x16B .sup .sup (by decide) hp hn) fun h => Bool.noConfusion h

/-- The numbers that every level may read but only S and M may write (R483). -/
def writtenAtS (n : Nat) : Bool := [0x00, 0x40, 0x48, 0x80, 0x102, 0x103, 0x106, 0x122, 0x124].contains n || decide (0x150 ≤ n ∧ n ≤ 0x15B)

theorem crMayWrite_eq (b : Blk) (n : Nat) :
    crMayWrite b n = (crMayRead b n && (if writtenAtS n then atS b else if n = 0x34 ∨ n = 0x35 then atM b else true)) := rfl

/-- A row's rule of writing is that of reading, but for the numbers written at S and M alone and for CR_GBASE_N and CR_GBASE_S. -/
theorem crTable_writeRule : ∀ r ∈ crTable, r.2.2.2 = r.2.2.1 ∨
    (r.2.2.2 = .sup ∧ ∀ n ∈ List.range' r.1 (r.2.1 + 1 - r.1), writtenAtS n = true) ∨
    (r.2.2.2 = .machine ∧ r.1 = 0x34 ∧ r.2.1 = 0x35) := by
  decide

theorem crPermits_of_mayWrite {b : Blk} {n : Nat} (h : crMayWrite b n = true) : crPermits b true n = true := by
  rw [crMayWrite_eq, Bool.and_eq_true] at h
  obtain ⟨hread, hwrite⟩ := h
  obtain ⟨r, hr, hrn⟩ := List.any_eq_true.mp (crPermits_of_mayRead hread)
  simp only [Bool.and_eq_true, decide_eq_true_eq, Bool.false_eq_true, if_false] at hrn
  obtain ⟨⟨hlo, hhi⟩, hp⟩ := hrn
  have hw : r.2.2.2.permits b = true := by
    rcases crTable_writeRule r hr with hsame | ⟨hsup, hall⟩ | ⟨hm, h34, h35⟩
    · rw [hsame]; exact hp
    · rw [hall n (List.mem_range'_1.mpr ⟨hlo, by omega⟩), if_pos rfl] at hwrite
      rw [hsup]; exact hwrite
    · have hn : n = 0x34 ∨ n = 0x35 := by omega
      rw [if_neg (by rcases hn with rfl | rfl <;> decide), if_pos hn] at hwrite
      rw [hm]; exact hwrite
  exact List.any_eq_true.mpr ⟨r, hr, by simp only [hlo, hhi, hw, decide_true, Bool.and_self, if_true]⟩

/-- What the table denies, the model denies (R483). -/
theorem mayRead_false {b : Blk} {n : Nat} (h : crPermits b false n = false) : crMayRead b n = false :=
  Bool.eq_false_iff.mpr fun hr => Bool.eq_false_iff.mp h (crPermits_of_mayRead hr)

theorem mayWrite_false {b : Blk} {n : Nat} (h : crPermits b true n = false) : crMayWrite b n = false :=
  Bool.eq_false_iff.mpr fun hw => Bool.eq_false_iff.mp h (crPermits_of_mayWrite hw)

end Sys2Proof.Proofs
end

section
namespace Sys2Proof.Proofs
open Sys2Proof.Machine Sys2Proof.Laws

/-! Accesses of a control register: denied, of CR_FCSR, and of the registers that act on a unit. -/

/-- Code 0x02 of R243 with the register's number. -/
def deniedCr (cr : BitVec 12) : Trap :=
  { cause := 1, detail := 2, faddr := 0, fault := .core 2 cr, wlevel := none, ipa := none, keep := false }

theorem crGet_denied (c : Cfg) {cr : BitVec 12} {b : Blk} (h : crMayRead b cr.toNat = false) :
    crGet c cr b = .error (.trap (deniedCr cr)) b := by
  simp only [crGet, bind_run, get_run, h, Bool.not_false, if_true]
  rfl

/-- A read of any register but CR_HCPD leaves the block (R482). -/
theorem crGet_ok (c : Cfg) {cr : BitVec 12} {b : Blk} (h : crMayRead b cr.toNat = true) (hne : cr ≠ 0x99) :
    crGet c cr b = .ok (crRead c b cr.toNat) b := by
  simp only [crGet, bind_run, get_run, h, Bool.not_true, Bool.false_eq_true, hne, if_false]
  rfl

theorem crPut_denied (c : Cfg) {cr : BitVec 12} (v : Word) {b : Blk} (h : crMayWrite b cr.toNat = false) :
    crPut c cr v b = .error (.trap (deniedCr cr)) b := by
  simp only [crPut, bind_run, get_run, h, Bool.not_false, if_true]
  rfl

/-- A permission depends on the level, the world, CR_IROUTE and CR_CNTUEN alone. -/
theorem crMayWrite_setReg (b : Blk) (rd : BitVec 5) (x : Word) (n : Nat) :
    crMayWrite { b with core := b.core.setReg rd x } n = crMayWrite b n := rfl

/-- CR_HCPD is written where it is read (R434). -/
theorem mayWrite_hcpd (b : Blk) : crMayWrite b 0x99 = crMayRead b 0x99 := by
  rw [crMayWrite_eq]
  exact Bool.and_true _

section
variable {s : State} {b1 : Blk}

/-- A computation that ends retires the instruction that issued; INSPECT apart, whose retirement does not count. -/
theorem coreSeq_retires {b2 : Blk} (h : Issues s 1 b1) (i : Instr) (hi : retireOf i (start s) = retire (start s).core.ps) {body : M Unit}
    (hb : body b1 = .ok () b2) : coreSeq s i body = retired s 1 b2 := by
  rw [coreSeq_issue h]
  simp only [bind_run, hb, modCore_run, after, hi]
  rfl

/-- A write of a control register that traps is trapped; one of CR_HCPD as long as no write of it is left over. -/
theorem coreSeqCr_traps {b2 : Blk} {e : Trap} (h : Issues s 1 b1) {cr : BitVec 12} (i : Instr) {body : M Unit}
    (hb : body b1 = .error (.trap e) b2)
    (hout : cr = 0x99 → (takeTrap s.cfg i e (start s) (dropResp (ownCounts i (start s) b2))).core.hcpOut = none) :
    coreSeqCr s cr i body = trapped s i e (start s) b2 := by
  have htrap : offered s i (seqOp s.cfg 1 body) = takeTrap s.cfg i e (start s) (dropResp (ownCounts i (start s) b2)) := by
    rw [runCore_seq h]
    simp only [bind_run, hb, after]
  unfold coreSeqCr
  split
  · unfold coreSeqHcp
    simp only [htrap, hout ‹_›]
    rfl
  · exact coreSeq_traps h i hb

/-- What a trapped instruction did to the architectural state is undone, so that it does not matter (R217). -/
theorem takeTrap_restored (c : Cfg) (i : Instr) {e : Trap} (he : e.keep = false) (b0 : Blk) {x y : Blk} (hxy : restoreArch b0 x = restoreArch b0 y) :
    takeTrap c i e b0 x = takeTrap c i e b0 y := by
  unfold takeTrap
  simp only [he, Bool.false_eq_true, if_false, hxy]

/-- A register read that permits and a write that does not: the old value that rd took is undone. -/
theorem crModify_denied (h : Issues s 1 b1) (rd rs1 : BitVec 5) (cr : BitVec 12) (f : Word → Word → Word) (i : Instr)
    (hi : ∀ b0 b, ownCounts i b0 b = b)
    (hp : crMayRead b1 cr.toNat = false ∨ crMayWrite b1 cr.toNat = false)
    (hout : cr = 0x99 → (takeTrap s.cfg i (deniedCr cr) (start s) (dropResp b1)).core.hcpOut = none) :
    coreSeqCr s cr i (crModify s.cfg rd rs1 cr f) = trapped s i (deniedCr cr) (start s) b1 := by
  cases hr : crMayRead b1 cr.toNat with
  | false =>
    refine coreSeqCr_traps h i ?_ (by rw [hi]; exact hout)
    simp only [crModify, bind_run, readReg_run, crGet_denied s.cfg hr]
  | true =>
    have hw : crMayWrite b1 cr.toNat = false := hp.resolve_left (by rw [hr]; decide)
    have hne : cr ≠ 0x99 := by
      rintro rfl
      exact absurd ((mayWrite_hcpd b1).symm.trans hw) (by rw [show crMayRead b1 0x99 = true from hr]; decide)
    have hb : crModify s.cfg rd rs1 cr f b1 =
        .error (.trap (deniedCr cr)) { b1 with core := b1.core.setReg rd (crRead s.cfg b1 cr.toNat) } := by
      simp only [crModify, bind_run, readReg_run, crGet_ok s.cfg hr hne, writeReg_run]
      exact crPut_denied s.cfg _ ((crMayWrite_setReg b1 rd _ _).trans hw)
    rw [coreSeqCr_traps h i hb fun h99 => absurd h99 hne]
    unfold trapped
    rw [hi, hi]
    exact congrArg (fun b => Host.Outcome.next { s with blk := b }) (takeTrap_restored s.cfg i (e := deniedCr cr) rfl (start s) rfl)
end

/-- A CRW of a register that its checks let through makes its write on the block of the fetch. -/
theorem crwBody_run (c : Cfg) (cr : BitVec 12) (rs1 : BitVec 5) (b : Blk) : crwBody c cr rs1 b = crPut c cr (b.core.reg rs1) b := rfl

end Sys2Proof.Proofs
end

section
namespace Sys2Proof.Proofs
open Sys2Proof.Machine Sys2Proof.Laws

/-! Steps on one part of a state each: what becomes of a part whose own step is one of a list (tiles, lanes). -/

section
variable {σ : Type} {same : Nat → σ → σ → Prop} {g : σ → Nat → σ}

/-- Steps on other parts leave part t. -/
theorem foldl_same (hrefl : ∀ t x, same t x x) (htrans : ∀ t x y z, same t x y → same t y z → same t x z)
    (hother : ∀ t u x, t ≠ u → same t x (g x u)) {t : Nat} : ∀ (l : List Nat) (x : σ), t ∉ l → same t x (l.foldl g x)
  | [], x, _ => hrefl t x
  | u :: l, x, ht => by
    rw [List.mem_cons, not_or] at ht
    exact htrans t x (g x u) _ (hother t u x ht.1) (foldl_same hrefl htrans hother l (g x u) ht.2)

/-- Part t is that of its own step, taken where it was still as at first. -/
theorem foldl_own (hrefl : ∀ t x, same t x x) (htrans : ∀ t x y z, same t x y → same t y z → same t x z)
    (hother : ∀ t u x, t ≠ u → same t x (g x u)) {t : Nat} :
    ∀ (l : List Nat) (x : σ), l.Nodup → t ∈ l → ∃ y, same t x y ∧ same t (g y t) (l.foldl g x)
  | u :: l, x, hnd, ht => by
    rw [List.nodup_cons] at hnd
    by_cases htu : t = u
    · subst htu
      exact ⟨x, hrefl t x, foldl_same hrefl htrans hother l (g x t) hnd.1⟩
    · have hl : t ∈ l := (List.mem_cons.mp ht).resolve_left htu
      obtain ⟨y, hxy, hy⟩ := foldl_own hrefl htrans hother l (g x u) hnd.2 hl
      exact ⟨y, htrans t x (g x u) y (hother t u x htu) hxy, hy⟩
end

/-! CR_TINUSE (R74, R75). -/

/-- CR_TINUSE at one tile. -/
def tinuseStep (v : Word) (tf : TileFile) (t : Nat) : TileFile := if bit v t then (if tf.used t then tf else tf.begin_ t 0) else tf.release t

theorem writeTinuse_run (v : Word) (b : Blk) : writeTinuse v b = .ok () { b with tile := (List.range 16).foldl (tinuseStep v) b.tile } := rfl

/-- The storage and the bits of tile t are those of before. -/
structure SameTile (t : Nat) (x y : TileFile) : Prop where
  used : y.used t = x.used t
  dirty : bit y.dirty t = bit x.dirty t
  tags : y.tags.get t = x.tags.get t
  rows : ∀ r, r < 64 → y.rows.get (64 * t + r) = x.rows.get (64 * t + r)
  scales : ∀ r, r < 64 → y.scales.get (64 * t + r) = x.scales.get (64 * t + r)

theorem sameTile_refl (t : Nat) (x : TileFile) : SameTile t x x := ⟨rfl, rfl, rfl, fun _ _ => rfl, fun _ _ => rfl⟩

theorem sameTile_trans (t : Nat) (x y z : TileFile) (h1 : SameTile t x y) (h2 : SameTile t y z) : SameTile t x z where
  used := h2.used.trans h1.used
  dirty := h2.dirty.trans h1.dirty
  tags := h2.tags.trans h1.tags
  rows r hr := (h2.rows r hr).trans (h1.rows r hr)
  scales r hr := (h2.scales r hr).trans (h1.scales r hr)

/-- A tile that is as before reads as before. -/
theorem SameTile.tag {t : Nat} {x y : TileFile} (h : SameTile t x y) : y.tag t = x.tag t := by
  unfold TileFile.tag
  rw [h.used, h.tags]

theorem SameTile.row {t : Nat} {x y : TileFile} (h : SameTile t x y) {r : Nat} (hr : r < 64) : y.row t r = x.row t r := by
  unfold TileFile.row
  rw [h.used, h.rows r hr]

theorem SameTile.scale {t : Nat} {x y : TileFile} (h : SameTile t x y) {r : Nat} (hr : r < 64) : y.scale t r = x.scale t r := by
  unfold TileFile.scale
  rw [h.used, h.scales r hr]

theorem bit_setBit_self (x : BitVec w) {n : Nat} (hn : n < w) (p : Bool) : bit (setBit x n p) n = p := by
  cases p <;> simp only [bit, setBit, Bool.false_eq_true, ↓reduceIte, BitVec.getLsbD_or, BitVec.getLsbD_and, BitVec.getLsbD_not,
    BitVec.getLsbD_ofNat, Nat.testBit_two_pow_self, hn, decide_true, Bool.and_true, Bool.or_true, Bool.not_true, Bool.and_false]

theorem bit_setBit_other (x : BitVec w) {n k : Nat} (h : k ≠ n) (p : Bool) : bit (setBit x n p) k = bit x k := by
  have hpow : (2 ^ n).testBit k = false := by rw [Nat.testBit_two_pow]; exact decide_eq_false (Ne.symm h)
  by_cases hk : k < w
  · cases p <;> simp only [bit, setBit, Bool.false_eq_true, ↓reduceIte, BitVec.getLsbD_or, BitVec.getLsbD_and, BitVec.getLsbD_not,
      BitVec.getLsbD_ofNat, hpow, hk, decide_true, Bool.and_false, Bool.or_false, Bool.not_false, Bool.and_true]
  · simp only [bit, BitVec.getLsbD_of_ge _ _ (Nat.not_lt.mp hk)]

theorem get_clear (m : Sparse w) (lo hi k : Nat) : Sparse.get (m.clear lo hi) k = if lo ≤ k ∧ k < hi then 0 else m.get k := by
  induction m with
  | nil => simp [Sparse.clear, Sparse.get]
  | cons c m ih =>
    obtain ⟨a, v⟩ := c
    unfold Sparse.clear at ih ⊢
    rw [List.filter_cons]
    by_cases hk : a = k
    · subst hk
      by_cases hin : lo ≤ a ∧ a < hi
      · rw [if_neg (by simp only [Bool.or_eq_true, decide_eq_true_eq]; omega), ih, if_pos hin, if_pos hin]
      · rw [if_pos (by simp only [Bool.or_eq_true, decide_eq_true_eq]; omega), if_neg hin, Sparse.get, Sparse.get, if_pos rfl, if_pos rfl]
    · split
      · rw [Sparse.get, Sparse.get, if_neg hk, if_neg hk, ih]
      · rw [Sparse.get, if_neg hk, ih]

/-- Making tile u's storage zero leaves the others. -/
theorem zero_other (x : TileFile) {t u : Nat} (h : t ≠ u) : SameTile t x (x.zero u) where
  used := rfl
  dirty := rfl
  tags := get_set_other x.tags _ _ 0 h
  rows r hr := (get_clear ..).trans (if_neg (by omega))
  scales r hr := (get_clear ..).trans (if_neg (by omega))

theorem begin_other (x : TileFile) {t u : Nat} (h : t ≠ u) (tag : BitVec 6) : SameTile t x (x.begin_ u tag) := by
  have hz : SameTile t x (if x.used u then x else x.zero u) := by
    split
    · exact sameTile_refl t x
    · exact zero_other x h
  exact sameTile_trans t x _ _ hz ⟨bit_setBit_other _ h _, bit_setBit_other _ h _, get_set_other _ _ _ _ h, fun _ _ => rfl, fun _ _ => rfl⟩

theorem release_other (x : TileFile) {t u : Nat} (h : t ≠ u) : SameTile t x (x.release u) :=
  ⟨bit_setBit_other _ h _, bit_setBit_other _ h _, rfl, fun _ _ => rfl, fun _ _ => rfl⟩

theorem tinuseStep_other (v : Word) (t u : Nat) (x : TileFile) (h : t ≠ u) : SameTile t x (tinuseStep v x u) := by
  unfold tinuseStep
  split
  · split
    · exact sameTile_refl t x
    · exact begin_other x h 0
  · exact release_other x h

/-- A tile begun from release reads zero with tag zero, in use and dirty. -/
theorem begin_released {x : TileFile} {t : Nat} (ht : t < 16) (h : x.used t = false) :
    (x.begin_ t 0).used t = true ∧ (x.begin_ t 0).tag t = 0 ∧ bit (x.begin_ t 0).dirty t = true ∧
      ∀ r, r < 64 → (x.begin_ t 0).row t r = 0 ∧ (x.begin_ t 0).scale t r = 0 := by
  have hb : x.begin_ t 0 = { x.zero t with
      inuse := setBit x.inuse t true, dirty := setBit x.dirty t true, tags := (x.zero t).tags.set t 0 } := by
    unfold TileFile.begin_
    rw [h]
    rfl
  have hu : (x.begin_ t 0).used t = true := by rw [hb]; exact bit_setBit_self _ ht true
  refine ⟨hu, ?_, by rw [hb]; exact bit_setBit_self _ ht true, fun r hr => ⟨?_, ?_⟩⟩
  · rw [TileFile.tag, if_pos hu, hb]; exact get_set_self (x.zero t).tags t 0
  · rw [TileFile.row, if_pos hu, hb]; exact (get_clear ..).trans (if_pos (by omega))
  · rw [TileFile.scale, if_pos hu, hb]; exact (get_clear ..).trans (if_pos (by omega))

theorem release_self (x : TileFile) {t : Nat} (ht : t < 16) : (x.release t).used t = false ∧ bit (x.release t).dirty t = false :=
  ⟨bit_setBit_self _ ht false, bit_setBit_self _ ht false⟩

/-- CR_TINUSE tile by tile: a tile in use that stays in use is as before, a tile newly marked is begun, and the others are released. -/
theorem tinuse_tile (v : Word) (x : TileFile) {t : Nat} (ht : t < 16) :
    let y := (List.range 16).foldl (tinuseStep v) x
    (bit v t = true → x.used t = true → SameTile t x y) ∧
    (bit v t = true → x.used t = false → y.used t = true ∧ y.tag t = 0 ∧ bit y.dirty t = true ∧
      ∀ r, r < 64 → y.row t r = 0 ∧ y.scale t r = 0) ∧
    (bit v t = false → y.used t = false ∧ bit y.dirty t = false) := by
  obtain ⟨z, hxz, hz⟩ := foldl_own sameTile_refl sameTile_trans (tinuseStep_other v) (List.range 16) x List.nodup_range (List.mem_range.mpr ht)
  refine ⟨fun hv hu => ?_, fun hv hu => ?_, fun hv => ?_⟩
  · rw [tinuseStep, if_pos hv, if_pos (hxz.used.trans hu)] at hz
    exact sameTile_trans t x z _ hxz hz
  · have hzu : z.used t = false := hxz.used.trans hu
    obtain ⟨h1, h2, h3, h4⟩ := begin_released ht hzu
    rw [tinuseStep, if_pos hv, hzu, if_neg (by decide)] at hz
    exact ⟨hz.used.trans h1, hz.tag.trans h2, hz.dirty.trans h3, fun r hr => ⟨(hz.row hr).trans (h4 r hr).1, (hz.scale hr).trans (h4 r hr).2⟩⟩
  · obtain ⟨h1, h2⟩ := release_self z ht
    rw [tinuseStep, hv, if_neg (by decide)] at hz
    exact ⟨hz.used.trans h1, hz.dirty.trans h2⟩

/-- CR_TINUSE reads what was written. -/
theorem tinuse_inuse (v : Word) (x : TileFile) : ((List.range 16).foldl (tinuseStep v) x).inuse = v.truncate 16 := by
  apply BitVec.eq_of_getLsbD_eq
  intro t ht
  obtain ⟨hsame, hnew, hfree⟩ := tinuse_tile v x ht
  have hu : ((List.range 16).foldl (tinuseStep v) x).used t = bit v t := by
    cases hv : bit v t with
    | false => exact (hfree hv).1
    | true =>
      cases hx : x.used t with
      | false => exact (hnew hv hx).1
      | true => exact (hsame hv hx).used.trans hx
  rw [BitVec.truncate_eq_setWidth, BitVec.getLsbD_setWidth, decide_eq_true ht, Bool.true_and]
  exact hu

/-! CR_SEED (R45, R48). -/

/-- CR_SEED at one lane. -/
def seedStep (v : Word) (e : Epi) (j : Nat) : Epi := setLaneState e j (seedLane (v.truncate 32) j)

theorem writeSeed_run (v : Word) (b : Blk) :
    writeSeed v b = .ok () { b with epi := (List.range 64).foldl (seedStep v) { b.epi with seed := v.truncate 32 } } := rfl

theorem laneState_setLaneState (e : Epi) (j : Nat) (v : W32) : laneState (setLaneState e j v) j = v := by
  unfold laneState setLaneState
  dsimp only
  rw [get_set_self, BitVec.xor_assoc, BitVec.xor_self, BitVec.xor_zero]

theorem laneState_setLaneState_other (e : Epi) {j k : Nat} (h : j ≠ k) (v : W32) : laneState (setLaneState e k v) j = laneState e j := by
  unfold laneState setLaneState
  dsimp only
  rw [get_set_other _ _ _ _ h]

/-- Each lane takes the state that its seed gives. -/
theorem seed_lanes (v : Word) (e : Epi) {j : Nat} (hj : j < 64) :
    laneState ((List.range 64).foldl (seedStep v) e) j = seedLane (v.truncate 32) j := by
  obtain ⟨y, _, hy⟩ := foldl_own (same := fun j x y => laneState y j = laneState x j) (g := seedStep v) (fun _ _ => rfl)
    (fun _ _ _ _ h1 h2 => h2.trans h1) (fun _ _ x h => laneState_setLaneState_other x h _) (List.range 64) e List.nodup_range
    (List.mem_range.mpr hj)
  exact hy.trans (laneState_setLaneState ..)

/-- The seed's lanes leave CR_SEED and CR_CVTSTAT. -/
theorem foldl_seedStep (v : Word) : ∀ (l : List Nat) (e : Epi), (l.foldl (seedStep v) e).seed = e.seed ∧ (l.foldl (seedStep v) e).cvt = e.cvt
  | [], _ => ⟨rfl, rfl⟩
  | j :: l, e => foldl_seedStep v l (seedStep v e j)

end Sys2Proof.Proofs
end

section
namespace Sys2Proof.Proofs
open Sys2Proof.Machine Sys2Proof.Laws

/-! CR_FCSR, and the writes that act on a unit. -/

theorem crGet_fcsr (c : Cfg) (b : Blk) : crGet c 0x47 b = .ok (b.core.fcsr.zeroExtend 64) b := rfl

theorem crPut_fcsr (c : Cfg) (v : Word) (b : Blk) : crPut c 0x47 v b = .ok () { b with core := { b.core with fcsr := v.truncate 7 } } := rfl

/-- CRS and CRC of CR_FCSR, which has no W1C field (R232). -/
theorem crModify_fcsr (c : Cfg) (rd rs1 : BitVec 5) (f : Word → Word → Word) (b : Blk) :
    crModify c rd rs1 0x47 f b = .ok () { b with core :=
      { b.core.setReg rd (b.core.fcsr.zeroExtend 64) with fcsr := (f (b.core.fcsr.zeroExtend 64) (b.core.reg rs1)).truncate 7 } } := by
  have hw1c (x : Word) : x &&& ~~~(crW1c (0x47 : BitVec 12).toNat) = x := by
    show x &&& ~~~(0 : Word) = x
    rw [show ~~~(0 : Word) = BitVec.allOnes 64 from BitVec.not_zero, BitVec.and_allOnes]
  simp only [crModify, bind_run, readReg_run, crGet_fcsr, writeReg_run, hw1c, crPut_fcsr]

section
variable {s : State} {b1 : Blk}

theorem fcsrAccess (h : Issues s 1 b1) (rd rs1 : BitVec 5) :
    let x := b1.core.reg rs1
    let old := b1.core.fcsr
    let k := b1.core.setReg rd (old.zeroExtend 64)
    let fcsr (k : Core) (v : BitVec 7) := retired s 1 { b1 with core := { k with fcsr := v } }
    exec (.crr rd 0x47 0) s = retired s 1 { b1 with core := k } ∧
    exec (.crw rs1 0x47 0) s = fcsr b1.core (x.truncate 7) ∧
    exec (.crs rd rs1 0x47) s = fcsr k (old ||| x.truncate 7) ∧
    exec (.crc rd rs1 0x47) s = fcsr k (old &&& ~~~(x.truncate 7)) := by
  have hor (a : BitVec 7) (x : Word) : (a.zeroExtend 64 ||| x).truncate 7 = a ||| x.truncate 7 := by
    apply BitVec.eq_of_getLsbD_eq
    intro i hi
    simp [hi, (by omega : i < 64)]
  have hand (a : BitVec 7) (x : Word) : (a.zeroExtend 64 &&& ~~~x).truncate 7 = a &&& ~~~(x.truncate 7) := by
    apply BitVec.eq_of_getLsbD_eq
    intro i hi
    simp [hi, (by omega : i < 64)]
  refine ⟨coreSeq_retires h _ rfl ?_, coreSeq_retires h _ rfl ?_, coreSeq_retires h _ rfl ?_, coreSeq_retires h _ rfl ?_⟩
  · simp only [bind_run, BitVec.ofNat_eq_ofNat, mustBeZero_zero]
    rfl
  · simp only [bind_run, BitVec.ofNat_eq_ofNat, mustBeZero_zero]
    rfl
  · rw [crModify_fcsr, hor]
  · rw [crModify_fcsr, hand]

theorem deniedAccess (h : Issues s 1 b1) (rd rs1 : BitVec 5) (cr : BitVec 12) (i : Instr)
    (hi : (crPermits b1 false cr.toNat = false ∧ i ∈ [Instr.crr rd cr 0, .crs rd rs1 cr, .crc rd rs1 cr]) ∨
      (crPermits b1 true cr.toNat = false ∧ i ∈ [Instr.crw rs1 cr 0, .crs rd rs1 cr, .crc rd rs1 cr]))
    (hout : cr = 0x99 → (takeTrap s.cfg i (deniedCr cr) (start s) (dropResp b1)).core.hcpOut = none) :
    exec i s = trapped s i (deniedCr cr) (start s) b1 := by
  have hmod (hp : crMayRead b1 cr.toNat = false ∨ crMayWrite b1 cr.toNat = false) (hi : i = .crs rd rs1 cr ∨ i = .crc rd rs1 cr) :
      exec i s = trapped s i (deniedCr cr) (start s) b1 := by
    rcases hi with rfl | rfl
    · exact crModify_denied h rd rs1 cr _ _ (fun _ _ => rfl) hp hout
    · exact crModify_denied h rd rs1 cr _ _ (fun _ _ => rfl) hp hout
  simp only [List.mem_cons, List.not_mem_nil, or_false] at hi
  rcases hi with ⟨hp, rfl | hi⟩ | ⟨hp, rfl | hi⟩
  · refine coreSeq_traps h _ ?_
    simp only [bind_run, BitVec.ofNat_eq_ofNat, mustBeZero_zero, crGet_denied s.cfg (mayRead_false hp)]
  · exact hmod (Or.inl (mayRead_false hp)) hi
  · refine coreSeqCr_traps h _ ?_ hout
    simp only [bind_run, BitVec.ofNat_eq_ofNat, mustBeZero_zero, crwBody_run, crPut_denied s.cfg _ (mayWrite_false hp)]
  · exact hmod (Or.inr (mayWrite_false hp)) hi

theorem seedWrite_retires (h : Issues s 1 b1) (rs1 : BitVec 5) :
    let x := b1.core.reg rs1
    ∃ b2 : Blk, exec (.seedWrite rs1) s = retired s 1 b2 ∧ b2 = { b1 with epi := b2.epi } ∧ b2.epi.seed = x.truncate 32 ∧
      b2.epi.cvt = b1.epi.cvt ∧ ∀ j, j < 64 → laneState b2.epi j = seedLane (x.truncate 32) j := by
  intro x
  obtain ⟨hseed, hcvt⟩ := foldl_seedStep x (List.range 64) { b1.epi with seed := x.truncate 32 }
  exact ⟨_, coreSeq_retires h _ rfl (writeSeed_run x b1), rfl, hseed, hcvt, fun _ hj => seed_lanes x _ hj⟩

/-- A number that S and M may write, at S or M. -/
theorem atS_of_level {b : Blk} (h : b.core.ps.level ≠ 0) : atS b = true := bne_iff_ne.mpr h

theorem crPut_tinuse (c : Cfg) (v : Word) {b : Blk} (h : atS b = true) : crPut c 0x102 v b = writeTinuse v b := by
  have hw : crMayWrite b (0x102 : BitVec 12).toNat = true := h
  simp only [crPut, bind_run, get_run, hw, Bool.not_true, Bool.false_eq_true, if_false]
  rfl

theorem tinuseWrite_retires (h : Issues s 1 b1) (rs1 : BitVec 5) (hl : b1.core.ps.level ≠ 0) :
    let x := b1.core.reg rs1
    ∃ b2 : Blk, exec (.tinuseWrite rs1) s = retired s 1 b2 ∧ b2 = { b1 with tile := b2.tile } ∧ b2.tile.inuse = x.truncate 16 ∧
      ∀ t, t < 16 →
        let tf := b1.tile
        let tf' := b2.tile
        (bit x t = true → tf.used t = true → tf'.used t = true ∧ tf'.tag t = tf.tag t ∧ bit tf'.dirty t = bit tf.dirty t ∧
          ∀ r, r < 64 → tf'.row t r = tf.row t r ∧ tf'.scale t r = tf.scale t r) ∧
        (bit x t = true → tf.used t = false → tf'.used t = true ∧ tf'.tag t = 0 ∧ bit tf'.dirty t = true ∧
          ∀ r, r < 64 → tf'.row t r = 0 ∧ tf'.scale t r = 0) ∧
        (bit x t = false → tf'.used t = false ∧ bit tf'.dirty t = false) := by
  intro x
  refine ⟨_, coreSeq_retires h _ rfl ((crPut_tinuse s.cfg x (atS_of_level hl)).trans (writeTinuse_run x b1)), rfl, tinuse_inuse x _, ?_⟩
  intro t ht
  obtain ⟨hsame, hnew, hfree⟩ := tinuse_tile x b1.tile ht
  refine ⟨fun hv hu => ?_, hnew, hfree⟩
  have hs := hsame hv hu
  exact ⟨hs.used.trans hu, hs.tag, hs.dirty, fun r hr => ⟨hs.row hr, hs.scale hr⟩⟩

theorem crPut_sleep (c : Cfg) (v : Word) {b : Blk} (h : atS b = true) : crPut c 0x90 v b = writeSleep v b := by
  have hw : crMayWrite b (0x90 : BitVec 12).toNat = true := (Bool.and_true _).trans h
  simp only [crPut, bind_run, get_run, hw, Bool.not_true, Bool.false_eq_true, if_false]
  rfl

/-- CR_SLEEP with DEEP 0 (R412). -/
theorem writeSleep_light {v : Word} (hv : bit v 0 = false) (b : Blk) :
    writeSleep v b = .ok () (if anyPendingEnabled b then b else
      { b with core := { b.core with run := .sleeping }, pwr := { b.pwr with deep := false } }) := by
  simp only [writeSleep, bind_run, get_run, check_run, hv, Bool.false_and, Bool.not_false, if_true]
  cases anyPendingEnabled b <;> rfl

theorem sleepWrite_retires (h : Issues s 1 b1) (rs1 : BitVec 5) (hl : b1.core.ps.level ≠ 0) (hx : (b1.core.reg rs1).toNat % 2 = 0) :
    exec (.sleepWrite rs1) s = retired s 1 (if anyPendingEnabled b1 then b1 else
      { b1 with core := { b1.core with run := .sleeping }, pwr := { b1.pwr with deep := false } }) := by
  have hbit : bit (b1.core.reg rs1) 0 = false := by
    rw [bit, BitVec.getLsbD, Nat.testBit_zero, hx]
    rfl
  exact coreSeq_retires h _ rfl ((crPut_sleep s.cfg _ (atS_of_level hl)).trans (writeSleep_light hbit b1))

theorem crPut_svc (c : Cfg) (v : Word) {b : Blk} (h : b.core.ps.level = 2) : crPut c 0x49 v b = writeSvc v b := by
  have hM : atM b = true := beq_iff_eq.mpr h
  have hw : crMayWrite b (0x49 : BitVec 12).toNat = true := (Bool.and_true _).trans hM
  simp only [crPut, bind_run, get_run, hw, Bool.not_true, Bool.false_eq_true, if_false]
  rfl

/-- Entering service mode with every task in HALT (R233). -/
theorem writeSvc_enters {v : Word} {b : Blk} (hs : b.core.svcBanks = 0) (ht : ∀ t, t < 64 → b.core.taskStat.get t = 0) (h0 : v ≠ 0)
    (h4 : v.toNat ≤ 4) : writeSvc v b = .ok () { b with core := { b.core with
      svcBanks := v.truncate 3, svcTask := 0, taskStat := [(0, 2)], regs := [], cwp := 0, res := 0, wcnt := ⟨0, 0, 0⟩ } } := by
  have hn : bits v 2 0 = v.toNat := Nat.mod_eq_of_lt (by omega)
  have hpos : v.toNat ≠ 0 := fun h => h0 (BitVec.eq_of_toNat_eq h)
  have hhalt (me : Nat) : (List.range 64).any (fun t => t != me && b.core.taskStat.get t != taskHalt) = false := by
    rw [List.any_eq_false]
    intro t hm
    rw [ht t (List.mem_range.mp hm)]
    simp [taskHalt]
  have hne : ¬ v.toNat = b.core.svcBanks.toNat := by rw [hs]; exact hpos
  simp only [writeSvc, bind_run, getCore_run, check_run, hn, h4, decide_true, if_true, hne, if_false, hhalt, Bool.false_eq_true, hpos,
    modCore_run]
  rfl

theorem svcWrite_enters (h : Issues s 1 b1) (rs1 : BitVec 5) (hl : b1.core.ps.level = 2) (hs : b1.core.svcBanks = 0)
    (ht : ∀ t, t < 64 → b1.core.taskStat.get t = 0) (h0 : b1.core.reg rs1 ≠ 0) (h4 : (b1.core.reg rs1).toNat ≤ 4) :
    exec (.svcWrite rs1) s = retired s 1 { b1 with core := { b1.core with
      svcBanks := (b1.core.reg rs1).truncate 3, svcTask := 0, taskStat := [(0, 2)], regs := [], cwp := 0, res := 0, wcnt := ⟨0, 0, 0⟩ } } :=
  coreSeq_retires h _ rfl ((crPut_svc s.cfg _ hl).trans (writeSvc_enters hs ht h0 h4))

theorem svcWrite_outOfRange (h : Issues s 1 b1) (rs1 : BitVec 5) (hl : b1.core.ps.level = 2) (h5 : 5 ≤ (b1.core.reg rs1).toNat)
    (h8 : (b1.core.reg rs1).toNat < 8) : exec (.svcWrite rs1) s = trapped s (.svcWrite rs1)
      { cause := 2, detail := 0x49, faddr := 0, fault := .core 0x10 0x49, wlevel := none, ipa := none, keep := false } (start s) b1 := by
  have hn : ¬ bits (b1.core.reg rs1) 2 0 ≤ 4 := by
    rw [show bits (b1.core.reg rs1) 2 0 = (b1.core.reg rs1).toNat from Nat.mod_eq_of_lt h8]
    omega
  refine coreSeq_traps h _ ((crPut_svc s.cfg _ hl).trans ?_)
  simp only [writeSvc, bind_run, getCore_run, check_run, hn, decide_false, Bool.false_eq_true, if_false]
  rfl

/-- The packet that a write of CR_TRACEW offers (R468, R472). -/
def userPacket (b : Blk) (x : Word) : ObsPacket :=
  { ty := 8, world := b.core.ps.world, level := b.core.ps.level, ts := BitVec.ofNat 16 b.pwr.sclk
    payload := [x.truncate 32, (x >>> 32).truncate 32] }

theorem words2_eq (x : Word) : words2 x.toNat = [x.truncate 32, (x >>> 32).truncate 32] := by
  have h : BitVec.ofNat 32 (x.toNat / 2 ^ 32) = (x >>> 32).truncate 32 := by
    apply BitVec.eq_of_toNat_eq
    simp only [BitVec.toNat_ofNat, BitVec.truncate_eq_setWidth, BitVec.toNat_setWidth, BitVec.toNat_ushiftRight, Nat.shiftRight_eq_div_pow]
  rw [words2, h]
  rfl

theorem tracewWrite_emits (h : Issues s 1 b1) (rs1 : BitVec 5) :
    exec (.tracewWrite rs1) s = retired s 1 (emit b1 (userPacket b1 (b1.core.reg rs1))) := by
  refine coreSeq_retires h _ rfl ?_
  unfold userPacket
  rw [← words2_eq]
  rfl

/-- With no packet lost, the LOST slot is not filled. -/
theorem fillLost_none {b : Blk} (h : b.obs.lost = 0) : fillLost b = b := by
  unfold fillLost
  rw [h]
  rfl

/-- An enabled packet of an empty slot fills it (R470). -/
theorem emit_fills {b : Blk} {p : ObsPacket} (hpd : pdOn b 20 = true) (hen : bit b.obs.cfg 0 = true) (hty : bit b.obs.cfg p.ty.toNat = true)
    (hheld : lcsHeld b = false) (hf : lcsFiltered b = false) (hlost : b.obs.lost = 0) (hslot : ∀ q ∈ b.obs.slots, q.ty ≠ p.ty) :
    emit b p = { b with obs := { b.obs with slots := b.obs.slots ++ [p] } } := by
  have hany : b.obs.slots.any (fun q => q.ty == p.ty) = false := List.any_eq_false.mpr fun q hq => by simpa using hslot q hq
  unfold emit
  simp only [hpd, hen, hty, hheld, hf, hany, Bool.and_self, Bool.not_true, Bool.false_and, Bool.or_self, Bool.false_eq_true, if_false]
  exact fillLost_none hlost

/-- With PD20 off nothing is observed (R473). -/
theorem emit_off {b : Blk} (p : ObsPacket) (h : pdOn b 20 = false) : emit b p = b := by
  unfold emit
  simp only [h, Bool.and_false, Bool.not_false, if_true]

end

/-- Settles O13: the table's permissions are the model's, and each write is made on the block of the fetch. -/
theorem controlRegisters : Obligations.ControlRegisters := by
  refine ⟨fun s b1 rd rs1 cr h => ?_, fun s b1 rs1 h => ?_⟩
  · obtain ⟨hr, hw, hs, hc⟩ := fcsrAccess h rd rs1
    exact ⟨hr, hw, hs, hc, fun i hi hout => deniedAccess h rd rs1 cr i hi hout⟩
  · refine ⟨seedWrite_retires h rs1, tinuseWrite_retires h rs1, sleepWrite_retires h rs1, svcWrite_enters h rs1,
      svcWrite_outOfRange h rs1, ?_, ?_⟩
    · intro hpd hen hty hheld hf hlost hslot
      rw [tracewWrite_emits h, emit_fills (p := userPacket b1 (b1.core.reg rs1)) hpd hen hty hheld hf hlost hslot]
      rfl
    · intro hpd
      rw [tracewWrite_emits h, emit_off _ hpd]

end Sys2Proof.Proofs
end

section
namespace Sys2Proof.Proofs
open Sys2Proof.Machine Sys2Proof.Laws

/-! A tile instruction that issues (R346, R410, R475), and the checks that it passes. -/

/-- A computation goes on by the answer of its first part. -/
theorem bind_ok {x : M α} {f : α → M β} {a : α} {b b1 : Blk} (h : x b = .ok a b1) : (x >>= f) b = f a b1 := by
  rw [bind_run, h]

theorem check_pass {p : Bool} (h : p = true) (e : M Unit) (b : Blk) : check p e b = .ok () b := by
  rw [check_run, h, if_pos rfl]

theorem needPds_pass {ds : List Nat} {b : Blk} (h : ds.all (pdRuns b) = true) : needPds ds b = .ok () b := by
  simp only [needPds, bind_run, get_run, h, if_true, pure_run]

/-- With no beat to come, nothing that crosses the bond interface fails (R315). -/
theorem tunCross_quiet {b : Blk} (hbeats : b.sys.beats = []) (hfatal : b.err.fatal = false) (rows : Nat) : tunCross rows b = .ok () b := by
  have hcross : ∀ k p, crossing b.core.ps.world (fun _ => 0) k p b = ([], b)
    | 0, _ => rfl
    | k + 1, p => by simp only [crossing, hbeats, List.isEmpty_nil, if_true]
  have hmust : mustCross b.core.ps.world (4 * rows) b = b := by
    simp only [mustCross, tryCross, hcross, List.isEmpty_nil, if_true]
  simp only [tunCross, liftBlk, failIfFatal, bind_run, get_run, set_run, hmust, hfatal, Bool.false_eq_true, if_false, pure_run]

theorem tileEpoch_eq (b : Blk) : tileEpoch b = { b with rings := (tileEpoch b).rings } := by
  unfold tileEpoch
  split <;> rfl

theorem tileAccept_run (b : Blk) : tileAccept b = .ok () (tileEpoch b) := rfl

/-- What follows a tile instruction's own computation: its count, and the PC past its two words. -/
def tileEnd : M Unit := do
  modify fun b => countCore b 6
  modCore fun k => { k with pc := k.pc + BitVec.ofNat 64 (4 * 2) }

section
variable {s : State} {pds : List Nat} {b2 b3 : Blk}

/-- The block of a tile instruction that issues receives no broken beat and is in no fatal state. -/
theorem tileIssues_quiet (h : TileIssues s pds b2) : b2.sys.beats = [] ∧ b2.err.fatal = false := by
  obtain ⟨b1, ⟨_, _, _, _, _, hbeats, hfatal⟩, _, rfl⟩ := h
  rw [tileEpoch_eq]
  exact ⟨hbeats, hfatal⟩

/-- A tile instruction that issues goes on by the end of its own computation, in the block of its epoch. -/
theorem tileExec_issues (h : TileIssues s pds b2) (i : Instr) (body : M Unit) :
    tileExec s i pds body = .next { s with blk := after s i (start s) ((body >>= fun _ => tileEnd) b2) } := by
  obtain ⟨b1, hissues, hpds, rfl⟩ := h
  unfold tileExec
  rw [coreSeq2_issue hissues]
  simp only [bind_run, needPds_pass hpds, tileAccept_run]
  cases body (tileEpoch b1) <;> rfl

/-- A tile instruction whose computation ends retires; INSPECT apart, whose retirement does not count. -/
theorem tileExec_retires (h : TileIssues s pds b2) (i : Instr) (hi : retireOf i (start s) = retire (start s).core.ps) {body : M Unit}
    (hb : body b2 = .ok () b3) : tileExec s i pds body = tileRetires s b3 := by
  rw [tileExec_issues h, bind_ok hb]
  simp only [tileEnd, bind_run, modify_run, modCore_run, after, hi]
  rfl

theorem tileExec_traps (h : TileIssues s pds b2) (i : Instr) {e : Trap} {body : M Unit} (hb : body b2 = .error (.trap e) b3) :
    tileExec s i pds body = trapped s i e (start s) b3 := by
  rw [tileExec_issues h]
  simp only [bind_run, hb]
  rfl

/-- Counted events leave no trace where the counters go back (R480). -/
theorem uncount_countCore (b0 b : Blk) (ev : Nat) (d : Word) :
    uncount b0 { countCore b ev with core := { (countCore b ev).core with pc := (countCore b ev).core.pc + d } } =
      uncount b0 { b with core := { b.core with pc := b.core.pc + d } } := by
  unfold countCore countEvents
  split <;> rfl

/-- INSPECT retires with the counters of the block in which it was tried. -/
theorem tileExec_inspectRetires (h : TileIssues s [] b2) (w1 : BitVec 21) (w2 : W32) {body : M Unit} (hb : body b2 = .ok () b3) :
    tileExec s (.inspect w1 w2) [] body = inspectRetires s b3 := by
  rw [tileExec_issues h, bind_ok hb]
  exact congrArg (fun b => Host.Outcome.next { s with blk := boundary (reschedule (endInstr b)) }) (uncount_countCore (start s) b3 6 8)
end

end Sys2Proof.Proofs
end

section
namespace Sys2Proof.Proofs
open Sys2Proof.Machine Sys2Proof.Laws

/-! Fields of a wide word. -/

/-- A field of a number cut to W bits is the number's own field, where it lies below W. -/
theorem field_mod_two_pow (x : Nat) {W lo w : Nat} (h : lo + w ≤ W) : ((x % 2 ^ W) >>> lo) % 2 ^ w = (x >>> lo) % 2 ^ w := by
  apply Nat.eq_of_testBit_eq
  intro i
  simp only [Nat.testBit_mod_two_pow, Nat.testBit_shiftRight]
  by_cases hi : i < w
  · rw [decide_eq_true (by omega : lo + i < W), Bool.true_and]
  · rw [decide_eq_false hi, Bool.false_and, Bool.false_and]

theorem lane_ofNat {k W n : Nat} (x : Nat) (h : k * n + k ≤ W) : (lane k (BitVec.ofNat W x) n).toNat = (x >>> (k * n)) % 2 ^ k := by
  rw [lane, BitVec.toNat_ofNat, BitVec.toNat_ofNat, field_mod_two_pow x h]

theorem elemCode_ofNat {F : Fmt} {W k : Nat} (x : Nat) (h : F.width * k + F.width ≤ W) :
    elemCode F (BitVec.ofNat W x) k = (x >>> (F.width * k)) % 2 ^ F.width := by
  rw [elemCode, BitVec.toNat_ofNat, field_mod_two_pow x h]

theorem field_low {a : Nat} (k x : Nat) (h : a < 2 ^ k) : (a + 2 ^ k * x) % 2 ^ k = a := by
  rw [Nat.add_mul_mod_self_left, Nat.mod_eq_of_lt h]

theorem field_high {a : Nat} (k x n : Nat) (h : a < 2 ^ k) : (a + 2 ^ k * x) >>> (k * (n + 1)) = x >>> (k * n) := by
  rw [Nat.mul_succ, Nat.add_comm (k * n), Nat.shiftRight_add, Nat.shiftRight_eq_div_pow _ k, Nat.add_mul_div_left _ _ (Nat.two_pow_pos k),
    Nat.div_eq_of_lt h, Nat.zero_add]

/-- A lane of a word made from lanes is the one put there. -/
theorem lane_ofLanes {k W : Nat} : ∀ (vs : List (BitVec k)) {i : Nat}, k * i + k ≤ W → lane k (ofLanes W vs) i = vs.getD i 0
  | [], i, _ => by simp [lane, ofLanes]
  | v :: vs, i, h => by
    apply BitVec.eq_of_toNat_eq
    rw [ofLanes, lane_ofNat _ h, Nat.shiftLeft_eq, Nat.mul_comm _ (2 ^ k)]
    cases i with
    | zero => exact field_low k _ v.isLt
    | succ i =>
      have ih := congrArg BitVec.toNat (lane_ofLanes (W := W) vs (i := i) (by rw [Nat.mul_succ] at h; omega))
      rw [field_high k _ i v.isLt]
      exact ih

theorem getD_map_range (f : Nat → α) {n i : Nat} (h : i < n) (d : α) : ((List.range n).map f).getD i d = f i := by
  rw [List.getD_eq_getElem?_getD, List.getElem?_map, List.getElem?_range h]
  rfl

/-- A field of a number spelled by codes is the code, cut to its width. -/
theorem packCodes_field (w : Nat) : ∀ (vs : List Nat) (j : Nat), (packCodes w vs >>> (w * j)) % 2 ^ w = vs.getD j 0 % 2 ^ w
  | [], j => by simp [packCodes]
  | v :: vs, 0 => by simp [packCodes]
  | v :: vs, j + 1 => by
    rw [packCodes, field_high w _ j (Nat.mod_lt _ (Nat.two_pow_pos w))]
    exact packCodes_field w vs j

end Sys2Proof.Proofs
end

section
namespace Sys2Proof.Proofs
open Sys2Proof.Machine Sys2Proof.Laws

/-! INSPECT (R479, R480). -/

/-- What INSPECT reads of a block: eight rows of a tile, two rows of the Tun, a tile's scale areas, or the tags. -/
def inspectValue (w1 : BitVec 21) (w2 : W32) (b : Blk) : VReg :=
  let r := (b.core.reg (fRA w1)).toNat
  if bits w2 1 0 = 0 then ofLanes 4096 ((List.range 8).map fun i => b.tile.row (fTD w1) (r + i))
  else if bits w2 1 0 = 1 then ofLanes 4096 [b.tun.rows.get r, b.tun.rows.get (r + 1)]
  else if bits w2 1 0 = 2 then ofLanes 4096 ((List.range 64).map fun i => b.tile.scale (fTD w1) i)
  else ofLanes 4096 ((List.range 16).map fun t => (b.tile.tag t).zeroExtend 8)

/-- The fields that each of INSPECT's sources leaves zero, and the rows that it may name. -/
def inspectLegal (w1 : BitVec 21) (w2 : W32) (b : Blk) : Bool :=
  let r := (b.core.reg (fRA w1)).toNat
  if bits w2 1 0 = 0 then decide (r % 8 = 0) && decide (r ≤ 56)
  else if bits w2 1 0 = 1 then decide (r % 2 = 0) && decide (r ≤ 2046) && decide (fTD w1 = 0)
  else if bits w2 1 0 = 2 then decide (bits w1 20 16 = 0)
  else decide (bits w1 20 16 = 0) && decide (fTD w1 = 0)

section
variable {s : State} {b2 : Blk} {w1 : BitVec 21} {w2 : W32}

theorem inspect_reads (h : TileIssues s [] b2) (hm : b2.obs.inspect = true) (hl : b2.core.ps.level = 2) (h5 : pdRuns b2 5 = true)
    (hz : bits w1 6 0 = 0) (honly : onlyBits w2 3 = true) (hlegal : inspectLegal w1 w2 b2 = true)
    (hpds : (if bits w2 1 0 = 1 then halves (b2.core.reg (fRA w1)).toNat 2 else [14]).all (pdRuns b2) = true) :
    exec (.inspect w1 w2) s = inspectRetires s { b2 with vec := b2.vec.put (fRB w1).toNat (inspectValue w1 w2 b2) } := by
  obtain ⟨hbeats, hfatal⟩ := tileIssues_quiet h
  refine tileExec_inspectRetires h w1 w2 ?_
  refine (bind_ok (get_run b2)).trans ?_
  simp only [hm, hl, beq_self_eq_true, Bool.and_self, Bool.not_true, Bool.false_eq_true, if_false]
  refine (bind_ok (needPds_pass (by simp only [List.all_cons, List.all_nil, h5, Bool.and_self]))).trans ?_
  refine (bind_ok (readReg_run _ b2)).trans ?_
  refine (bind_ok (check_pass ?_ _ b2)).trans ?_
  · simp only [hz, honly, decide_true, Bool.true_and]
    exact hlegal
  refine (bind_ok (needPds_pass hpds)).trans ?_
  exact (bind_ok (tunCross_quiet hbeats hfatal _)).trans rfl

/-- Outside inspection mode, or below M, INSPECT is a privileged instruction (R479). -/
theorem inspect_denied (h : TileIssues s [] b2) (hn : ¬ (b2.obs.inspect = true ∧ b2.core.ps.level = 2)) :
    exec (.inspect w1 w2) s = trapped s (.inspect w1 w2)
      { cause := 3, detail := 0, faddr := 0, fault := .none, wlevel := none, ipa := none, keep := false } (start s) b2 := by
  have hcond : (!(b2.obs.inspect && b2.core.ps.level == 2)) = true := by
    rw [Bool.not_eq_true', ← Bool.not_eq_true, Bool.and_eq_true, beq_iff_eq]
    exact hn
  refine tileExec_traps h _ ?_
  refine (bind_ok (get_run b2)).trans ?_
  simp only [hcond, if_true]
  rfl
end

end Sys2Proof.Proofs
end

section
namespace Sys2Proof.Proofs
open Sys2Proof.Machine Sys2Proof.Laws

/-! Lane states (R42, R43): TEPI's advance of the lanes that it uses. -/

/-- Lane j advances. -/
def advanceStep (e : Epi) (j : Nat) : Epi := setLaneState e j (advanceLane (laneState e j))

/-- Lanes 0 to n - 1 advance once. -/
def advanceLanes (n : Nat) (e : Epi) : Epi := (List.range n).foldl advanceStep e

theorem laneState_advanceLanes (n : Nat) (e : Epi) (j : Nat) :
    laneState (advanceLanes n e) j = if j < n then advanceLane (laneState e j) else laneState e j := by
  have hrefl (t : Nat) (x : Epi) : laneState x t = laneState x t := rfl
  have htrans (t : Nat) (x y z : Epi) (h1 : laneState y t = laneState x t) (h2 : laneState z t = laneState y t) :
      laneState z t = laneState x t := h2.trans h1
  have hother (t u : Nat) (x : Epi) (h : t ≠ u) : laneState (advanceStep x u) t = laneState x t := laneState_setLaneState_other x h _
  by_cases hj : j < n
  · obtain ⟨y, hy, hown⟩ := foldl_own (same := fun j x y => laneState y j = laneState x j) hrefl htrans hother (List.range n) e
      List.nodup_range (List.mem_range.mpr hj)
    rw [if_pos hj, ← hy]
    exact hown.trans (laneState_setLaneState ..)
  · rw [if_neg hj]
    exact foldl_same (same := fun j x y => laneState y j = laneState x j) hrefl htrans hother (List.range n) e
      fun hm => hj (List.mem_range.mp hm)

/-- The lanes' advance leaves CR_SEED and CR_CVTSTAT. -/
theorem advanceLanes_frame (n : Nat) (e : Epi) : (advanceLanes n e).seed = e.seed ∧ (advanceLanes n e).cvt = e.cvt :=
  foldl_keeps (f := advanceStep) (P := fun y : Epi => y.seed = e.seed ∧ y.cvt = e.cvt) (fun _ _ h => h) (List.range n) e ⟨rfl, rfl⟩

/-! Tiles: the begin of a write, and the write of a row. -/

/-- A tile begun is in use with its tag, and its rows read as before. -/
theorem begin_self (x : TileFile) {t : Nat} (ht : t < 16) (tag : BitVec 6) :
    (x.begin_ t tag).used t = true ∧ (x.begin_ t tag).tag t = tag ∧
      ∀ r, r < 64 → (x.begin_ t tag).row t r = x.row t r ∧ (x.begin_ t tag).scale t r = x.scale t r := by
  have hu : (x.begin_ t tag).used t = true := bit_setBit_self _ ht true
  refine ⟨hu, ?_, fun r hr => ?_⟩
  · rw [TileFile.tag, if_pos hu]
    exact get_set_self ..
  · rw [TileFile.row, TileFile.scale, if_pos hu, if_pos hu, TileFile.row, TileFile.scale]
    cases hx : x.used t with
    | true => simp only [TileFile.begin_, hx, if_true, and_self]
    | false =>
      simp only [TileFile.begin_, hx, Bool.false_eq_true, if_false, TileFile.zero, get_clear]
      exact ⟨if_pos (by omega), if_pos (by omega)⟩

/-- A result row of TEPI: its columns' codes, its blocks' scale bytes, and its flags (R131). -/
abbrev TepiResult := List Nat × List Nat × CvtFlags

/-- The bits of a result row as tile t takes them, the first code lowest: 512 of them a tile, from tile TD on (R130). -/
def resultRow (w1 : BitVec 21) (w2 : W32) (r : TepiResult) (t : Nat) : Piece :=
  BitVec.ofNat 512 (packCodes (fmtOf (shapeOf w2).fmt).width r.1 >>> (512 * (t - fTD w1)))

/-- Its scale bytes. -/
def resultScale (r : TepiResult) : Word := BitVec.ofNat 64 (packCodes 8 r.2.1)

/-- TEPI's write of result row i to one of its tiles. -/
def putResult (w1 : BitVec 21) (w2 : W32) (i : Nat) (r : TepiResult) (tf : TileFile) (t : Nat) : TileFile :=
  (tf.putRow t i (resultRow w1 w2 r t)).putScale t i (resultScale r)

section
variable (w1 : BitVec 21) (w2 : W32) (r : TepiResult)

theorem putResult_other {i : Nat} (hi : i < 64) (t u : Nat) (x : TileFile) (h : t ≠ u) : SameTile t x (putResult w1 w2 i r x u) where
  used := rfl
  dirty := rfl
  tags := rfl
  rows _ _ := get_set_other _ _ _ _ (by omega)
  scales _ _ := get_set_other _ _ _ _ (by omega)

theorem putResult_self (i : Nat) {t : Nat} {x : TileFile} (hu : x.used t = true) :
    (putResult w1 w2 i r x t).row t i = resultRow w1 w2 r t ∧ (putResult w1 w2 i r x t).scale t i = resultScale r :=
  ⟨(if_pos hu).trans (get_set_self ..), (if_pos hu).trans (get_set_self ..)⟩

theorem putResult_otherRow (t : Nat) (x : TileFile) {i k : Nat} (hk : k ≠ i) :
    (putResult w1 w2 i r x t).row t k = x.row t k ∧ (putResult w1 w2 i r x t).scale t k = x.scale t k := by
  have hrow : (putResult w1 w2 i r x t).rows.get (64 * t + k) = x.rows.get (64 * t + k) := get_set_other _ _ _ _ (by omega)
  have hscale : (putResult w1 w2 i r x t).scales.get (64 * t + k) = x.scales.get (64 * t + k) := get_set_other _ _ _ _ (by omega)
  have hu : (putResult w1 w2 i r x t).used t = x.used t := rfl
  exact ⟨by rw [TileFile.row, hu, hrow]; rfl, by rw [TileFile.scale, hu, hscale]; rfl⟩
end

/-- The tiles of TEPI's output rows (R130). -/
def tepiTileList (w1 : BitVec 21) (w2 : W32) : List Nat := (List.range (tepiTiles (shapeOf w2).fmt (shapeOf w2).n)).map (fTD w1 + ·)

theorem tepiTileList_nodup (w1 : BitVec 21) (w2 : W32) : (tepiTileList w1 w2).Nodup :=
  List.Pairwise.map (fTD w1 + ·) (fun _ _ hne heq => hne (Nat.add_left_cancel heq)) List.nodup_range

theorem tepiTiles_cases (fmt n : Nat) : tepiTiles fmt n = 1 ∨ tepiTiles fmt n = 2 ∨ tepiTiles fmt n = 4 := by
  unfold tepiTiles
  repeat' split
  all_goals decide

/-- An aligned first tile keeps the row's tiles within the file (R130). -/
theorem tepiTileList_lt {w1 : BitVec 21} {w2 : W32} (h : fTD w1 % tepiTiles (shapeOf w2).fmt (shapeOf w2).n = 0) {t : Nat}
    (ht : t ∈ tepiTileList w1 w2) : t < 16 := by
  obtain ⟨q, hq, rfl⟩ := List.mem_map.mp ht
  rw [List.mem_range] at hq
  have htd : fTD w1 < 16 := Nat.mod_lt _ (by decide)
  rcases tepiTiles_cases (shapeOf w2).fmt (shapeOf w2).n with hn | hn | hn
  all_goals
    rw [hn] at h hq
    omega

end Sys2Proof.Proofs
end

section
namespace Sys2Proof.Proofs
open Sys2Proof.Machine Sys2Proof.Laws

/-! TEPI row by row (R129–R132). -/

/-- The rounding mode that TEPI's RMODE names (R130). -/
def tepiRounding (w2 : W32) : RMode := if bits w2 28 27 = 0 then .rne else if bits w2 28 27 = 1 then .rtz else .sr

/-- The saturation mode that its SMODE names. -/
def tepiSaturation (w2 : W32) : SMode := if bit w2 29 then .ieee else .sat

/-- RMODE 3 is refused, so that stochastic rounding is RMODE 2. -/
theorem tepiRounding_sr {w2 : W32} (h : bits w2 28 27 ≠ 3) : tepiRounding w2 = .sr ↔ bits w2 28 27 = 2 := by
  have hlt : bits w2 28 27 < 4 := Nat.mod_lt _ (by decide)
  unfold tepiRounding
  split
  · simp only [*]; decide
  · split
    · simp only [*]; decide
    · exact ⟨fun _ => by omega, fun _ => rfl⟩

/-- The value that TEPI converts for row i and column j, after the scale, bias and activation (R129, R131, R132). -/
def tepiValue (w1 : BitVec 21) (w2 : W32) (b : Blk) (i j : Nat) : Ex :=
  let d := b.vec.v.get (fRB w1).toNat
  let y := decodeFlushed .b32
    (entry (b.tun.rows.get (gBase (b.tun.grp (shapeOf w2).grp) + (b.core.reg (fRA w1)).toNat + i)) j).toNat
  activate (bits w1 6 4) (if bit w1 3 then
    rnd32 (Ex.fused y (decodeFlushed .b32 (lane 32 d j).toNat) (decodeFlushed .b32 (lane 32 d (64 + j)).toNat)) else y)

/-- The random value that lane j gives, its state e being advanced already (R43). -/
def tepiDraw (w2 : W32) (e : Epi) (j : Nat) : Nat :=
  if tepiRounding w2 = .sr then laneRandom (laneState e j) (fmtOf (shapeOf w2).fmt) else 0

/-- The lanes for one row of TEPI: under stochastic rounding those of its columns advance (R131). -/
def tepiLanes (w2 : W32) (e : Epi) : Epi := if tepiRounding w2 = .sr then advanceLanes (shapeOf w2).n e else e

/-- The codes, scale bytes and flags of output row i, for the columns' random values (R131). -/
def tepiOut (w1 : BitVec 21) (w2 : W32) (b : Blk) (i : Nat) (rnd : Nat → Nat) : TepiResult :=
  tepiRow (fmtOf (shapeOf w2).fmt) (tepiRounding w2) (tepiSaturation w2) (shapeOf w2).bsc (blockSize (shapeOf w2).bsz)
    ((List.range (shapeOf w2).n).map (tepiValue w1 w2 b i)) ((List.range (shapeOf w2).n).map rnd)

/-- Result row i in each of TEPI's tiles. -/
def tepiPut (w1 : BitVec 21) (w2 : W32) (i : Nat) (r : TepiResult) (tf : TileFile) : TileFile :=
  (tepiTileList w1 w2).foldl (putResult w1 w2 i r) tf

/-- Flags accumulate in CR_CVTSTAT (R49). -/
def accumulateCvt (e : Epi) (f : CvtFlags) : Epi := { e with cvt := e.cvt ||| BitVec.ofNat 5 f.toNat }

/-- Output row i of TEPI: the lanes advance, the row is converted and written, its flags accumulate. -/
theorem tepiOne_run (w1 : BitVec 21) (w2 : W32) (b : Blk) (tf : TileFile) (e : Epi) (i : Nat) :
    tepiOne w1 w2 (b.core.reg (fRA w1)).toNat i (b.vec.v.get (fRB w1).toNat) { b with tile := tf, epi := e } =
      let r := tepiOut w1 w2 b i (tepiDraw w2 (tepiLanes w2 e))
      .ok () { b with tile := tepiPut w1 w2 i r tf, epi := accumulateCvt (tepiLanes w2 e) r.2.2 } := by
  have hput (r : TepiResult) : tepiPut w1 w2 i r tf =
      (List.range (tepiTiles (shapeOf w2).fmt (shapeOf w2).n)).foldl (fun tf q =>
        (tf.putRow (fTD w1 + q) i (BitVec.ofNat 512 (packCodes (fmtOf (shapeOf w2).fmt).width r.1 >>> (512 * q)))).putScale (fTD w1 + q) i
          (BitVec.ofNat 64 (packCodes 8 r.2.1))) tf := by
    simp only [tepiPut, tepiTileList, List.foldl_map, putResult, resultRow, resultScale, Nat.add_sub_cancel_left]
  simp only [hput]
  unfold tepiOne tepiOut tepiDraw tepiLanes tepiRounding
  generalize (if bits w2 28 27 = 0 then RMode.rne else if bits w2 28 27 = 1 then RMode.rtz else RMode.sr) = rm
  cases rm <;> rfl

/-- Lane j's random value for row i: that of its state advanced i + 1 times (R43, R131). -/
def tepiRandom (w2 : W32) (b : Blk) (i j : Nat) : Nat :=
  if tepiRounding w2 = .sr then laneRandom (laneAfter (i + 1) (laneState b.epi j)) (fmtOf (shapeOf w2).fmt) else 0

/-- What output row i is: its columns' codes, scale bytes and flags. -/
def tepiRowOf (w1 : BitVec 21) (w2 : W32) (b : Blk) (i : Nat) : TepiResult := tepiOut w1 w2 b i (tepiRandom w2 b i)

/-- TEPI after its first k rows, in tiles tf and epilogue unit e: the rows below k of its tiles hold their codes and scale bytes, the others and
the other tiles read as before, and lane j of a column has advanced k times under stochastic rounding. -/
structure TepiDone (w1 : BitVec 21) (w2 : W32) (b : Blk) (k : Nat) (tf : TileFile) (e : Epi) : Prop where
  others : ∀ t, t ∉ tepiTileList w1 w2 → SameTile t b.tile tf
  begun : ∀ t ∈ tepiTileList w1 w2, tf.used t = true ∧ tf.tag t = mkTag (shapeOf w2).fmt (shapeOf w2).bsc (shapeOf w2).bsz
  kept : ∀ t ∈ tepiTileList w1 w2, ∀ r, k ≤ r → r < 64 → tf.row t r = b.tile.row t r ∧ tf.scale t r = b.tile.scale t r
  written : ∀ t ∈ tepiTileList w1 w2, ∀ i, i < k →
    tf.row t i = resultRow w1 w2 (tepiRowOf w1 w2 b i) t ∧ tf.scale t i = resultScale (tepiRowOf w1 w2 b i)
  lanes : ∀ j, laneState e j = if tepiRounding w2 = .sr ∧ j < (shapeOf w2).n then laneAfter k (laneState b.epi j) else laneState b.epi j
  seed : e.seed = b.epi.seed
  cvt : e.cvt &&& b.epi.cvt = b.epi.cvt

section
variable {w1 : BitVec 21} {w2 : W32} {b : Blk}

/-- TEPI begins its tiles. -/
def tepiBegin (w1 : BitVec 21) (w2 : W32) (tf : TileFile) : TileFile :=
  (tepiTileList w1 w2).foldl (fun tf t => tf.begin_ t (mkTag (shapeOf w2).fmt (shapeOf w2).bsc (shapeOf w2).bsz)) tf

theorem tepiDone_begin (h : fTD w1 % tepiTiles (shapeOf w2).fmt (shapeOf w2).n = 0) : TepiDone w1 w2 b 0 (tepiBegin w1 w2 b.tile) b.epi := by
  have hother (t u : Nat) (x : TileFile) (htu : t ≠ u) := begin_other x htu (mkTag (shapeOf w2).fmt (shapeOf w2).bsc (shapeOf w2).bsz)
  have hown {t : Nat} (ht : t ∈ tepiTileList w1 w2) : ∃ y, SameTile t b.tile y ∧
      SameTile t (y.begin_ t (mkTag (shapeOf w2).fmt (shapeOf w2).bsc (shapeOf w2).bsz)) (tepiBegin w1 w2 b.tile) :=
    foldl_own sameTile_refl sameTile_trans hother _ b.tile (tepiTileList_nodup w1 w2) ht
  refine ⟨fun t ht => foldl_same sameTile_refl sameTile_trans hother _ b.tile ht, fun t ht => ?_, fun t ht r _ hr => ?_,
    fun _ _ i hi => absurd hi (Nat.not_lt_zero i), fun j => (ite_self _).symm, rfl, BitVec.and_self⟩
  · obtain ⟨y, _, hy⟩ := hown ht
    obtain ⟨hused, htag, _⟩ := begin_self y (tepiTileList_lt h ht) (mkTag (shapeOf w2).fmt (shapeOf w2).bsc (shapeOf w2).bsz)
    exact ⟨hy.used.trans hused, hy.tag.trans htag⟩
  · obtain ⟨y, hxy, hy⟩ := hown ht
    obtain ⟨_, _, hrows⟩ := begin_self y (tepiTileList_lt h ht) (mkTag (shapeOf w2).fmt (shapeOf w2).bsc (shapeOf w2).bsz)
    obtain ⟨hrow, hscale⟩ := hrows r hr
    exact ⟨(hy.row hr).trans (hrow.trans (hxy.row hr)), (hy.scale hr).trans (hscale.trans (hxy.scale hr))⟩

/-- Before row k the lanes have advanced k times, so that for row k they give the random values of k + 1 advances. -/
theorem TepiDone.draw {k : Nat} {tf : TileFile} {e : Epi} (h : TepiDone w1 w2 b k tf e) {j : Nat} (hj : j < (shapeOf w2).n) :
    tepiDraw w2 (tepiLanes w2 e) j = tepiRandom w2 b k j := by
  unfold tepiDraw tepiRandom tepiLanes
  by_cases hsr : tepiRounding w2 = .sr
  · simp only [if_pos hsr, laneState_advanceLanes, if_pos hj, h.lanes, if_pos (And.intro hsr hj)]
    rfl
  · simp only [if_neg hsr]

theorem TepiDone.out {k : Nat} {tf : TileFile} {e : Epi} (h : TepiDone w1 w2 b k tf e) :
    tepiOut w1 w2 b k (tepiDraw w2 (tepiLanes w2 e)) = tepiRowOf w1 w2 b k := by
  unfold tepiRowOf tepiOut
  rw [List.map_congr_left fun j hj => h.draw (List.mem_range.mp hj)]

theorem tepiLanes_frame (w2 : W32) (e : Epi) : (tepiLanes w2 e).seed = e.seed ∧ (tepiLanes w2 e).cvt = e.cvt := by
  unfold tepiLanes
  split
  · exact advanceLanes_frame _ e
  · exact ⟨rfl, rfl⟩

/-- Flags that accumulate leave those that are set. -/
theorem or_and_kept {x y z : BitVec w} (h : x &&& z = z) : (x ||| y) &&& z = z := by
  rw [← h]
  apply BitVec.eq_of_getLsbD_eq
  intro i _
  simp only [BitVec.getLsbD_and, BitVec.getLsbD_or]
  cases x.getLsbD i <;> simp

theorem TepiDone.step {k : Nat} {tf : TileFile} {e : Epi} (h : TepiDone w1 w2 b k tf e) (hk : k < 64) :
    TepiDone w1 w2 b (k + 1) (tepiPut w1 w2 k (tepiRowOf w1 w2 b k) tf) (accumulateCvt (tepiLanes w2 e) (tepiRowOf w1 w2 b k).2.2) := by
  obtain ⟨hseed, hcvt⟩ := tepiLanes_frame w2 e
  have hother := putResult_other w1 w2 (tepiRowOf w1 w2 b k) hk
  have hown {t : Nat} (ht : t ∈ tepiTileList w1 w2) := foldl_own sameTile_refl sameTile_trans hother _ tf (tepiTileList_nodup w1 w2) ht
  refine ⟨fun t ht => ?_, fun t ht => ?_, fun t ht r hkr hr => ?_, fun t ht i hi => ?_, fun j => ?_, ?_, ?_⟩
  · exact sameTile_trans _ _ _ _ (h.others t ht) (foldl_same sameTile_refl sameTile_trans hother _ tf ht)
  · obtain ⟨y, hxy, hy⟩ := hown ht
    obtain ⟨hused, htag⟩ := h.begun t ht
    exact ⟨hy.used.trans (hxy.used.trans hused), hy.tag.trans (hxy.tag.trans htag)⟩
  · obtain ⟨y, hxy, hy⟩ := hown ht
    obtain ⟨hrow, hscale⟩ := h.kept t ht r (by omega) hr
    obtain ⟨hrow', hscale'⟩ := putResult_otherRow w1 w2 (tepiRowOf w1 w2 b k) t y (by omega : r ≠ k)
    exact ⟨(hy.row hr).trans (hrow'.trans ((hxy.row hr).trans hrow)), (hy.scale hr).trans (hscale'.trans ((hxy.scale hr).trans hscale))⟩
  · obtain ⟨y, hxy, hy⟩ := hown ht
    have hi64 : i < 64 := by omega
    by_cases hik : i = k
    · subst hik
      obtain ⟨hrow, hscale⟩ := putResult_self w1 w2 (tepiRowOf w1 w2 b i) i (hxy.used.trans (h.begun t ht).1)
      exact ⟨(hy.row hk).trans hrow, (hy.scale hk).trans hscale⟩
    · obtain ⟨hrow, hscale⟩ := h.written t ht i (by omega)
      obtain ⟨hrow', hscale'⟩ := putResult_otherRow w1 w2 (tepiRowOf w1 w2 b k) t y hik
      exact ⟨(hy.row hi64).trans (hrow'.trans ((hxy.row hi64).trans hrow)),
        (hy.scale hi64).trans (hscale'.trans ((hxy.scale hi64).trans hscale))⟩
  · show laneState (tepiLanes w2 e) j = _
    unfold tepiLanes
    by_cases hsr : tepiRounding w2 = .sr
    · by_cases hj : j < (shapeOf w2).n
      · simp only [if_pos hsr, laneState_advanceLanes, if_pos hj, h.lanes, if_pos (And.intro hsr hj)]
        rfl
      · simp only [if_pos hsr, laneState_advanceLanes, h.lanes, hj, and_false, if_false]
    · simp only [h.lanes, hsr, false_and, if_false]
  · exact hseed.trans h.seed
  · exact or_and_kept (by rw [hcvt]; exact h.cvt)

theorem forM_range_succ (k : Nat) (f : Nat → M Unit) : (List.range (k + 1)).forM f = (List.range k).forM f >>= fun _ => f k := by
  rw [List.range_succ]
  exact (List.forM_append ..).trans (by simp)

theorem tepiRows_run : ∀ (k : Nat) {tf0 : TileFile}, TepiDone w1 w2 b 0 tf0 b.epi → k ≤ 64 →
    ∃ tf e, (List.range k).forM (fun i => tepiOne w1 w2 (b.core.reg (fRA w1)).toNat i (b.vec.v.get (fRB w1).toNat)) { b with tile := tf0 } =
      .ok () { b with tile := tf, epi := e } ∧ TepiDone w1 w2 b k tf e
  | 0, tf0, h, _ => ⟨tf0, b.epi, rfl, h⟩
  | k + 1, tf0, h, hk => by
    obtain ⟨tf, e, hrun, hdone⟩ := tepiRows_run k h (by omega)
    refine ⟨_, _, ?_, hdone.step (by omega)⟩
    rw [forM_range_succ, bind_ok hrun, ← hdone.out]
    exact tepiOne_run w1 w2 b tf e k
end

end Sys2Proof.Proofs
end

section
namespace Sys2Proof.Proofs
open Sys2Proof.Machine Sys2Proof.Laws

/-! A row of TEPI as a list: a code a column, and a scale byte a block (R31, R131). -/

/-- The blocks of a row whose columns are numbered. -/
theorem chunks_map_range (B : Nat) : ∀ (k : Nat) (f : Nat → α), chunks B k ((List.range (B * k)).map f) =
    (List.range k).map fun q => (List.range B).map fun t => f (B * q + t)
  | 0, _ => rfl
  | k + 1, f => by
    have hsplit : (List.range (B * (k + 1))).map f = (List.range B).map f ++ (List.range (B * k)).map fun t => f (B + t) := by
      rw [Nat.mul_succ, Nat.add_comm, List.range_add, List.map_append, List.map_map]
      rfl
    have hlen : ((List.range B).map f).length = B := by rw [List.length_map, List.length_range]
    rw [chunks, hsplit, List.take_left' hlen, List.drop_left' hlen, chunks_map_range B k, List.range_succ_eq_map, List.map_cons, List.map_map]
    have hfirst : (List.range B).map f = (List.range B).map fun t => f (B * 0 + t) :=
      List.map_congr_left fun t _ => by rw [Nat.mul_zero, Nat.zero_add]
    rw [hfirst]
    refine congrArg (List.cons _) (List.map_congr_left fun q _ => List.map_congr_left fun t _ => ?_)
    rw [Nat.mul_succ, Nat.add_comm (B * q) B, Nat.add_assoc]

/-- Blocks side by side are the row. -/
theorem flatMap_blocks {B : Nat} (hB : 0 < B) (g : Nat → Nat → α) : ∀ k, ((List.range k).flatMap fun q => (List.range B).map (g q)) =
    (List.range (B * k)).map fun j => g (j / B) (j % B)
  | 0 => rfl
  | k + 1 => by
    rw [List.range_succ, List.flatMap_append, flatMap_blocks hB g k, Nat.mul_succ, List.range_add, List.map_append, List.map_map,
      List.flatMap_singleton]
    refine congrArg _ (List.map_congr_left fun t ht => ?_)
    rw [Function.comp_apply, Nat.mul_add_div hB, Nat.mul_add_mod, Nat.div_eq_of_lt (List.mem_range.mp ht), Nat.mod_eq_of_lt (List.mem_range.mp ht),
      Nat.add_zero]

section
variable (F : Fmt) (rm : RMode) (sm : SMode) (x : Nat → Ex) (rnd : Nat → Nat)

theorem tepiRow_plain (B n : Nat) : (tepiRow F rm sm false B ((List.range n).map x) ((List.range n).map rnd)).1 =
    (List.range n).map fun j => rndFtz (x j) F rm sm (rnd j) := by
  simp only [tepiRow, Bool.false_eq_true, if_false, List.zip_map', List.map_map]
  rfl

/-- The scale byte of block q of a row (R31). -/
def rowExponent (B q : Nat) : Nat := blockExponent ((List.range B).map fun k => x (B * q + k)) F sm

/-- Block by block: the codes of each after those before it, and its scale byte. -/
theorem foldl_blocks {β : Type} (code : β → List Nat) (scale : β → Nat) (flags : β → CvtFlags) : ∀ (bs : List β) (a : TepiResult),
    (bs.foldl (fun (a : TepiResult) b => (a.1 ++ code b, a.2.1 ++ [scale b], a.2.2.or (flags b))) a).1 = a.1 ++ bs.flatMap code ∧
    (bs.foldl (fun (a : TepiResult) b => (a.1 ++ code b, a.2.1 ++ [scale b], a.2.2.or (flags b))) a).2.1 = a.2.1 ++ bs.map scale
  | [], a => by simp
  | b :: bs, a => by
    obtain ⟨hcode, hscale⟩ := foldl_blocks code scale flags bs (a.1 ++ code b, a.2.1 ++ [scale b], a.2.2.or (flags b))
    rw [List.foldl_cons, hcode, hscale]
    simp

theorem tepiRow_blocks {B n : Nat} (hB : 0 < B) (hn : n % B = 0) :
    let r := tepiRow F rm sm true B ((List.range n).map x) ((List.range n).map rnd)
    r.1 = ((List.range n).map fun j => blockCode (rowExponent F sm x B (j / B)) F rm sm (rnd j) (x j)) ∧
      r.2.1 = (List.range (n / B)).map (rowExponent F sm x B) := by
  have hBn : B * (n / B) = n := Nat.mul_div_cancel' (Nat.dvd_of_mod_eq_zero hn)
  have hchunks : chunks B (n / B) ((List.range n).map fun j => (x j, rnd j)) =
      (List.range (n / B)).map fun q => (List.range B).map fun t => (x (B * q + t), rnd (B * q + t)) := by
    rw [← chunks_map_range B (n / B) fun j => (x j, rnd j), hBn]
  obtain ⟨hcode, hscale⟩ := foldl_blocks
    (fun blk : List (Ex × Nat) => blk.map fun p => blockCode (blockExponent (blk.map fun p => p.1) F sm) F rm sm p.2 p.1)
    (fun blk => blockExponent (blk.map fun p => p.1) F sm)
    (fun blk => blockFlags (blockExponent (blk.map fun p => p.1) F sm) F rm sm (blk.map fun p => p.1) (blk.map fun p => p.2))
    (chunks B (n / B) ((List.range n).map fun j => (x j, rnd j))) ([], [], {})
  simp only [tepiRow, if_true, List.zip_map', List.length_map, List.length_range]
  refine ⟨hcode.trans ?_, hscale.trans ?_⟩
  · rw [hchunks, List.nil_append, List.flatMap_map]
    simp only [List.map_map]
    refine (flatMap_blocks hB (fun q t => blockCode (rowExponent F sm x B q) F rm sm (rnd (B * q + t)) (x (B * q + t))) (n / B)).trans ?_
    rw [hBn]
    refine List.map_congr_left fun j _ => ?_
    rw [Nat.div_add_mod]
  · rw [hchunks, List.nil_append, List.map_map]
    refine List.map_congr_left fun q _ => ?_
    simp only [Function.comp_apply, List.map_map]
    rfl
end

end Sys2Proof.Proofs
end

section
namespace Sys2Proof.Proofs
open Sys2Proof.Machine Sys2Proof.Laws

/-! Where a column's code stands in TEPI's tiles (R130), and TEPI as a whole. -/

/-- The columns of a row that a tile holds. -/
def columnsPerTile (fmt : Nat) : Nat := if fmt = 0 then 32 else if fmt = 8 then 16 else 64

/-- Column j stands at entry j % columnsPerTile of tile j / columnsPerTile of the row, which is one of the row's tiles. -/
theorem column_place {fmt n j : Nat} (hf : fmt ∈ moveFmts) (hj : j < n) (hn : n ≤ 64) :
    j / columnsPerTile fmt < tepiTiles fmt n ∧
      (fmtOf fmt).width * (j % columnsPerTile fmt) + (fmtOf fmt).width ≤ 512 ∧
      512 * (j / columnsPerTile fmt) + (fmtOf fmt).width * (j % columnsPerTile fmt) = (fmtOf fmt).width * j := by
  simp only [moveFmts, List.mem_cons, List.not_mem_nil, or_false] at hf
  rcases hf with rfl | rfl | rfl | rfl | rfl
  · show j / 32 < (if 32 < n then 2 else 1) ∧ 16 * (j % 32) + 16 ≤ 512 ∧ 512 * (j / 32) + 16 * (j % 32) = 16 * j
    split <;> omega
  · show j / 64 < 1 ∧ 8 * (j % 64) + 8 ≤ 512 ∧ 512 * (j / 64) + 8 * (j % 64) = 8 * j
    omega
  · show j / 64 < 1 ∧ 8 * (j % 64) + 8 ≤ 512 ∧ 512 * (j / 64) + 8 * (j % 64) = 8 * j
    omega
  · show j / 64 < 1 ∧ 4 * (j % 64) + 4 ≤ 512 ∧ 512 * (j / 64) + 4 * (j % 64) = 4 * j
    omega
  · show j / 16 < (if 32 < n then 4 else if 16 < n then 2 else 1) ∧ 32 * (j % 16) + 32 ≤ 512 ∧ 512 * (j / 16) + 32 * (j % 16) = 32 * j
    split
    · omega
    · split <;> omega

theorem shape_columns (w2 : W32) : (shapeOf w2).n ≤ 64 := Nat.mod_lt _ (by decide)
theorem shape_rows (w2 : W32) : (shapeOf w2).m ≤ 64 := Nat.mod_lt _ (by decide)

theorem blockSize_pos (bsz : Bool) : 0 < blockSize bsz := by cases bsz <;> decide

/-- A column's code, read where it stands. -/
theorem resultRow_code {w1 : BitVec 21} {w2 : W32} (r : TepiResult) (hf : (shapeOf w2).fmt ∈ moveFmts) {j : Nat} (hj : j < (shapeOf w2).n) :
    let F := fmtOf (shapeOf w2).fmt
    let c := columnsPerTile (shapeOf w2).fmt
    elemCode F (resultRow w1 w2 r (fTD w1 + j / c)) (j % c) = r.1.getD j 0 % 2 ^ F.width := by
  obtain ⟨_, hfits, hplace⟩ := column_place hf hj (shape_columns w2)
  dsimp only
  rw [resultRow, Nat.add_sub_cancel_left, elemCode_ofNat _ hfits, ← Nat.shiftRight_add, hplace, packCodes_field]

/-- A block's scale byte, read where it stands. -/
theorem resultScale_byte (r : TepiResult) {q : Nat} (hq : q < 8) : (lane 8 (resultScale r) q).toNat = r.2.1.getD q 0 % 256 := by
  rw [resultScale, lane_ofNat _ (by omega)]
  exact packCodes_field 8 r.2.1 q

section
variable {w1 : BitVec 21} {w2 : W32} {b : Blk}

/-- What the checks of TEPI ask of its words (R112, R130). -/
structure TepiLegal (w1 : BitVec 21) (w2 : W32) : Prop where
  zero : bits w1 2 0 = 0
  act : bits w1 6 4 ≤ 5
  noScale : bit w1 3 = false → bits w1 15 11 = 0
  only : onlyBits w2 (mROWS + mCOLS + mFMT + mBSC + mBSZ + mGRP + 0x38000000) = true
  mode : bits w2 28 27 ≠ 3
  noB32 : bits w2 28 27 = 2 → (shapeOf w2).fmt ≠ 8
  aligned : fTD w1 % tepiTiles (shapeOf w2).fmt (shapeOf w2).n = 0
  blocks : (shapeOf w2).bsc = true → (shapeOf w2).fmt ≠ 0 ∧ (shapeOf w2).fmt ≠ 8 ∧ (shapeOf w2).n % blockSize (shapeOf w2).bsz = 0
  format : (shapeOf w2).fmt ∈ moveFmts

theorem tepiBody_run (hw : TepiLegal w1 w2) (hbeats : b.sys.beats = []) (hfatal : b.err.fatal = false)
    (hgroup : readableGroup (b.tun.grp (shapeOf w2).grp) = true)
    (hrows : (b.core.reg (fRA w1)).toNat + (shapeOf w2).m ≤ gCap (b.tun.grp (shapeOf w2).grp))
    (hpds : (halves (gBase (b.tun.grp (shapeOf w2).grp)) (gRows (b.tun.grp (shapeOf w2).grp))).all (pdRuns b) = true) :
    ∃ tf e, tepiBody w1 w2 b = .ok () { b with tile := tf, epi := e } ∧ TepiDone w1 w2 b (shapeOf w2).m tf e := by
  obtain ⟨tf, e, hrun, hdone⟩ := tepiRows_run (shapeOf w2).m (tepiDone_begin (b := b) hw.aligned) (shape_rows w2)
  refine ⟨tf, e, ?_, hdone⟩
  have hscale : (bit w1 3 || decide (bits w1 15 11 = 0)) = true := by
    cases h : bit w1 3 with
    | false => exact decide_eq_true (hw.noScale h)
    | true => rfl
  have hsr : (decide (bits w2 28 27 = 2) && decide ((shapeOf w2).fmt = 8)) = false := by
    rw [Bool.and_eq_false_imp]
    exact fun h => decide_eq_false (hw.noB32 (of_decide_eq_true h))
  have hbsc {p : Prop} [Decidable p] (h : (shapeOf w2).bsc = true → ¬ p) : ((shapeOf w2).bsc && decide p) = false := by
    rw [Bool.and_eq_false_imp]
    exact fun hb => decide_eq_false (h hb)
  unfold tepiBody
  refine (bind_ok (check_pass ?_ _ b)).trans ?_
  · simp only [hw.zero, hw.act, hscale, hw.only, hw.mode, hsr, hw.aligned, hbsc fun h => (hw.blocks h).2.1, decide_true, Bool.and_self,
      Bool.not_false, ne_eq, not_false_eq_true]
  refine (bind_ok (check_pass (List.contains_iff_mem.mpr hw.format) _ b)).trans ?_
  refine (bind_ok (check_pass (by rw [hbsc fun h => (hw.blocks h).1]; rfl) _ b)).trans ?_
  refine (bind_ok (check_pass (by rw [hbsc fun h => not_not_intro (hw.blocks h).2.2]; rfl) _ b)).trans ?_
  refine (bind_ok (get_run b)).trans ?_
  refine (bind_ok (check_pass hgroup _ b)).trans ?_
  refine (bind_ok (readReg_run _ b)).trans ?_
  refine (bind_ok (check_pass (decide_eq_true hrows) _ b)).trans ?_
  refine (bind_ok (needPds_pass hpds)).trans ?_
  refine (bind_ok (tunCross_quiet hbeats hfatal _)).trans ?_
  refine (bind_ok (show readV (fRB w1) b = .ok (b.vec.v.get (fRB w1).toNat) b from rfl)).trans ?_
  refine (bind_ok (modTile_run _ b)).trans ?_
  rw [← hrun, tepiBegin, tepiTileList, List.foldl_map]

/-- The code of column j in row i is that of its value, in its block's scale where there are blocks (R31, R131). -/
theorem tepiRowOf_code (hw : TepiLegal w1 w2) (i : Nat) {j : Nat} (hj : j < (shapeOf w2).n) :
    (tepiRowOf w1 w2 b i).1.getD j 0 =
      let F := fmtOf (shapeOf w2).fmt
      let B := blockSize (shapeOf w2).bsz
      if (shapeOf w2).bsc then
        blockCode (rowExponent F (tepiSaturation w2) (tepiValue w1 w2 b i) B (j / B)) F (tepiRounding w2) (tepiSaturation w2) (tepiRandom w2 b i j)
          (tepiValue w1 w2 b i j)
      else rndFtz (tepiValue w1 w2 b i j) F (tepiRounding w2) (tepiSaturation w2) (tepiRandom w2 b i j) := by
  unfold tepiRowOf tepiOut
  cases hb : (shapeOf w2).bsc with
  | false => rw [tepiRow_plain, getD_map_range _ hj]; rfl
  | true =>
    obtain ⟨hcodes, _⟩ := tepiRow_blocks (fmtOf (shapeOf w2).fmt) (tepiRounding w2) (tepiSaturation w2) (tepiValue w1 w2 b i) (tepiRandom w2 b i)
      (blockSize_pos (shapeOf w2).bsz) (hw.blocks hb).2.2
    rw [hcodes, getD_map_range _ hj]
    rfl

theorem tepiRowOf_scale (hw : TepiLegal w1 w2) (hb : (shapeOf w2).bsc = true) (i : Nat) {q : Nat}
    (hq : q < (shapeOf w2).n / blockSize (shapeOf w2).bsz) :
    (tepiRowOf w1 w2 b i).2.1.getD q 0 =
      rowExponent (fmtOf (shapeOf w2).fmt) (tepiSaturation w2) (tepiValue w1 w2 b i) (blockSize (shapeOf w2).bsz) q := by
  obtain ⟨_, hscales⟩ := tepiRow_blocks (fmtOf (shapeOf w2).fmt) (tepiRounding w2) (tepiSaturation w2) (tepiValue w1 w2 b i) (tepiRandom w2 b i)
    (blockSize_pos (shapeOf w2).bsz) (hw.blocks hb).2.2
  unfold tepiRowOf tepiOut
  rw [hb, hscales, getD_map_range _ hq]

/-- A row of at most 64 columns has at most four blocks. -/
theorem blocks_lt_eight {q : Nat} (hq : q < (shapeOf w2).n / blockSize (shapeOf w2).bsz) : q < 8 := by
  have hn := shape_columns w2
  have hB : blockSize (shapeOf w2).bsz = 16 ∨ blockSize (shapeOf w2).bsz = 32 := by
    cases (shapeOf w2).bsz
    · exact Or.inl rfl
    · exact Or.inr rfl
  rcases hB with hB | hB
  all_goals
    rw [hB] at hq
    omega
end

/-- Settles O26: TEPI row by row, each row's codes and scale bytes packed in its tiles; INSPECT source by source. -/
theorem epilogueAndInspection : Obligations.EpilogueAndInspection := by
  refine ⟨?_, ?_⟩
  · intro s w1 w2 b2 h sh F td v roff d sr rm sm B tiles perTile x state rnd be hzero hact hnoScale honly hmode hnoB32 haligned hblocks hformat
      hgroup hrows hpds
    have hw : TepiLegal w1 w2 := ⟨hzero, hact, hnoScale, honly, hmode, hnoB32, haligned, hblocks, hformat⟩
    obtain ⟨hbeats, hfatal⟩ := tileIssues_quiet h
    obtain ⟨tf, e, hrun, hdone⟩ := tepiBody_run hw hbeats hfatal hgroup hrows hpds
    have hrnd (i j : Nat) : tepiRandom w2 b2 i j = rnd i j := ite_congr (propext (tepiRounding_sr hmode)) (fun _ => rfl) fun _ => rfl
    refine ⟨tf, e, tileExec_retires h _ rfl hrun, ?_, ?_, ?_, ?_, ?_, hdone.seed, hdone.cvt⟩
    · intro u _ hu
      have hsame := hdone.others u hu
      exact ⟨hsame.used, hsame.tag, fun r hr => ⟨hsame.row hr, hsame.scale hr⟩⟩
    · intro t ht
      obtain ⟨hused, htag⟩ := hdone.begun t ht
      exact ⟨hused, htag, hdone.kept t ht⟩
    · intro i j hi hj
      have hmem : td + j / perTile ∈ tepiTileList w1 w2 :=
        List.mem_map.mpr ⟨_, List.mem_range.mpr (column_place hformat hj (shape_columns w2)).1, rfl⟩
      rw [(hdone.written _ hmem i hi).1, ← hrnd]
      exact (resultRow_code _ hformat hj).trans (congrArg (· % 2 ^ F.width) (tepiRowOf_code hw i hj))
    · intro hb i q hi hq
      have hmem : td ∈ tepiTileList w1 w2 := by
        refine List.mem_map.mpr ⟨0, List.mem_range.mpr ?_, rfl⟩
        rcases tepiTiles_cases (shapeOf w2).fmt (shapeOf w2).n with hn | hn | hn <;> omega
      rw [(hdone.written _ hmem i hi).2, resultScale_byte _ (blocks_lt_eight hq), tepiRowOf_scale hw hb i hq]
      rfl
    · intro j _
      exact (hdone.lanes j).trans (ite_congr (propext (and_congr (tepiRounding_sr hmode) Iff.rfl)) (fun _ => rfl) fun _ => rfl)
  · intro s w1 w2 b2 h r td reads
    refine ⟨fun hm hl h5 hz => ⟨?_, ?_, ?_, ?_⟩, inspect_denied h⟩
    · rintro hpd rfl hr8 hr
      refine ⟨_, inspect_reads h hm hl h5 hz rfl (Bool.and_eq_true_iff.mpr ⟨decide_eq_true hr8, decide_eq_true hr⟩) ?_, fun i hi => ?_⟩
      · exact Bool.and_eq_true_iff.mpr ⟨hpd, rfl⟩
      · exact (lane_ofLanes _ (by omega)).trans (getD_map_range _ hi _)
    · rintro rfl hr2 hr htd hpds
      refine ⟨_, inspect_reads h hm hl h5 hz rfl ?_ hpds, ?_, ?_⟩
      · exact Bool.and_eq_true_iff.mpr ⟨Bool.and_eq_true_iff.mpr ⟨decide_eq_true hr2, decide_eq_true hr⟩, decide_eq_true htd⟩
      · exact lane_ofLanes _ (by omega)
      · exact lane_ofLanes _ (by omega)
    · rintro hpd rfl hz2
      refine ⟨_, inspect_reads h hm hl h5 hz rfl (decide_eq_true hz2) ?_, fun i hi => ?_⟩
      · exact Bool.and_eq_true_iff.mpr ⟨hpd, rfl⟩
      · exact (lane_ofLanes _ (by omega)).trans (getD_map_range _ hi _)
    · rintro hpd rfl hz2 htd
      refine ⟨_, inspect_reads h hm hl h5 hz rfl (Bool.and_eq_true_iff.mpr ⟨decide_eq_true hz2, decide_eq_true htd⟩) ?_, fun t ht => ?_⟩
      · exact Bool.and_eq_true_iff.mpr ⟨hpd, rfl⟩
      · exact (lane_ofLanes _ (by omega)).trans (getD_map_range _ ht _)

end Sys2Proof.Proofs
end

section
namespace Sys2Proof.Proofs
open Sys2Proof.Machine Sys2Proof.Laws

/-! One tile of the file beside the others: what begins, zeroes or releases it, and what puts a register's lanes in its rows. -/

theorem fTD_lt (w1 : BitVec 21) : fTD w1 < 16 := Nat.mod_lt _ (by decide)

/-- Where every tile apart from those of a list is as before, the others read as before. -/
theorem tilesElse_of_sameTile {x y : TileFile} {ts : List Nat} (h : ∀ u, u ∉ ts → SameTile u x y) : TilesElse x y ts := fun u _ hu =>
  ⟨(h u hu).used, (h u hu).tag, fun _ hr => ⟨(h u hu).row hr, (h u hu).scale hr⟩⟩

theorem begin_dirty (x : TileFile) {t : Nat} (ht : t < 16) (tag : BitVec 6) : bit (x.begin_ t tag).dirty t = true := bit_setBit_self _ ht true

/-- A tile made zero reads zero, in use or not. -/
theorem zero_self (x : TileFile) (t : Nat) {r : Nat} (hr : r < 64) : (x.zero t).row t r = 0 ∧ (x.zero t).scale t r = 0 := by
  have hrow : (x.zero t).rows.get (64 * t + r) = 0 := (get_clear ..).trans (if_pos (by omega))
  have hscale : (x.zero t).scales.get (64 * t + r) = 0 := (get_clear ..).trans (if_pos (by omega))
  rw [TileFile.row, TileFile.scale, hrow, hscale]
  exact ⟨ite_self _, ite_self _⟩

/-- Lane i of a vector register goes to row first + i of tile t, whose scale area becomes zero (R122). -/
def putLane (t first : Nat) (d : VReg) (x : TileFile) (i : Nat) : TileFile :=
  (x.putRow t (first + i) (lane 512 d i)).putScale t (first + i) 0

/-- Lanes 0 to m - 1 one after the other. -/
def putLanes (t first : Nat) (d : VReg) (m : Nat) (x : TileFile) : TileFile := (List.range m).foldl (putLane t first d) x

section
variable {t first : Nat} {d : VReg} {x : TileFile}

theorem putLanes_succ (m : Nat) : putLanes t first d (m + 1) x = putLane t first d (putLanes t first d m x) m := by
  rw [putLanes, List.range_succ, List.foldl_append]
  rfl

theorem putLane_other {u i : Nat} (h : u ≠ t) (hi : first + i < 64) : SameTile u x (putLane t first d x i) where
  used := rfl
  dirty := rfl
  tags := rfl
  rows _ _ := get_set_other _ _ _ _ (by omega)
  scales _ _ := get_set_other x.scales _ _ 0 (by omega)

/-- Rows that lie in tile t leave the other tiles. -/
theorem putLanes_other {u : Nat} (h : u ≠ t) : ∀ m, first + m ≤ 64 → SameTile u x (putLanes t first d m x)
  | 0, _ => sameTile_refl u x
  | m + 1, hm => by
    rw [putLanes_succ]
    exact sameTile_trans u _ _ _ (putLanes_other h m (by omega)) (putLane_other h (by omega))

/-- Lanes put in rows leave the in-use and dirty bits and the tags. -/
theorem putLanes_frame (t first : Nat) (d : VReg) (m : Nat) (x : TileFile) : (putLanes t first d m x).inuse = x.inuse ∧
    (putLanes t first d m x).dirty = x.dirty ∧ (putLanes t first d m x).tags = x.tags :=
  foldl_keeps (f := putLane t first d) (P := fun y : TileFile => y.inuse = x.inuse ∧ y.dirty = x.dirty ∧ y.tags = x.tags) (fun _ _ h => h) _ x
    ⟨rfl, rfl, rfl⟩

theorem putLanes_used (m u : Nat) : (putLanes t first d m x).used u = x.used u := by
  obtain ⟨hinuse, _, _⟩ := putLanes_frame t first d m x
  exact congrArg (bit · u) hinuse

theorem putLanes_dirty (m u : Nat) : bit (putLanes t first d m x).dirty u = bit x.dirty u := by
  obtain ⟨_, hdirty, _⟩ := putLanes_frame t first d m x
  rw [hdirty]

theorem putLanes_tag (m u : Nat) : (putLanes t first d m x).tag u = x.tag u := by
  obtain ⟨_, _, htags⟩ := putLanes_frame t first d m x
  rw [TileFile.tag, TileFile.tag, putLanes_used, htags]

theorem putLane_rowSelf (hu : x.used t = true) (i : Nat) :
    (putLane t first d x i).row t (first + i) = lane 512 d i ∧ (putLane t first d x i).scale t (first + i) = 0 :=
  ⟨(if_pos hu).trans (get_set_self ..), (if_pos hu).trans (get_set_self x.scales _ 0)⟩

theorem putLane_rowOther {r i : Nat} (h : r ≠ first + i) :
    (putLane t first d x i).row t r = x.row t r ∧ (putLane t first d x i).scale t r = x.scale t r :=
  have hk : 64 * t + r ≠ 64 * t + (first + i) := by omega
  ⟨congrArg (if x.used t then · else 0) (get_set_other x.rows _ _ _ hk), congrArg (if x.used t then · else 0) (get_set_other x.scales _ _ 0 hk)⟩

/-- Of a tile in use, rows first to first + m - 1 read the lanes with no scale, the others what they were. -/
theorem putLanes_row (hu : x.used t = true) (r : Nat) : ∀ m,
    (putLanes t first d m x).row t r = (if first ≤ r ∧ r < first + m then lane 512 d (r - first) else x.row t r) ∧
    (putLanes t first d m x).scale t r = (if first ≤ r ∧ r < first + m then 0 else x.scale t r)
  | 0 => ⟨(if_neg (by omega)).symm, (if_neg (by omega)).symm⟩
  | m + 1 => by
    rw [putLanes_succ]
    by_cases hr : r = first + m
    · subst hr
      have hin : first ≤ first + m ∧ first + m < first + (m + 1) := by omega
      rw [if_pos hin, if_pos hin, Nat.add_sub_cancel_left]
      exact putLane_rowSelf ((putLanes_used m t).trans hu) m
    · obtain ⟨hrow, hscale⟩ := putLanes_row hu r m
      obtain ⟨hrow', hscale'⟩ := putLane_rowOther (t := t) (d := d) (x := putLanes t first d m x) hr
      have hiff : (first ≤ r ∧ r < first + (m + 1)) ↔ (first ≤ r ∧ r < first + m) := by omega
      simp only [hiff]
      exact ⟨hrow'.trans hrow, hscale'.trans hscale⟩
end

end Sys2Proof.Proofs
end

section
namespace Sys2Proof.Proofs
open Sys2Proof.Machine Sys2Proof.Laws

/-! TMOVV, TMOVT, TZERO and TRELEASE (R122, R123): the fields that pass their checks, and the block in which each retires. -/

/-- The fields of TMOVV and TMOVT that pass checks 0x01 and 0x02 (R110, R112). -/
structure MovLegal (w1 : BitVec 21) (w2 : W32) : Prop where
  high : bits w1 20 16 = 0
  low : bits w1 6 3 = 0
  only : onlyBits w2 (mROWS + mFMT) = true
  rows : (shapeOf w2).m ≤ 8
  format : (shapeOf w2).fmt ∈ moveFmts

section
variable {s : State} {b2 : Blk} {w1 : BitVec 21} {w2 : W32}

theorem MovLegal.shape_run (hw : MovLegal w1 w2) (b : Blk) : movShape w1 w2 b = .ok (shapeOf w2) b := by
  unfold movShape
  refine (bind_ok (check_pass ?_ _ b)).trans ?_
  · simp only [hw.high, hw.low, hw.only, hw.rows, decide_true, Bool.and_self]
  exact bind_ok (check_pass (List.contains_iff_mem.mpr hw.format) _ b)

/-- The rows that RSEL and ROWS name lie in one tile. -/
theorem MovLegal.rows_le (hw : MovLegal w1 w2) : 8 * bits w1 2 0 + (shapeOf w2).m ≤ 64 := by
  have hsel : bits w1 2 0 < 8 := Nat.mod_lt _ (by decide)
  have hrows := hw.rows
  omega

theorem moveShape_run {mask : Nat} {first : Bool} (hfirst : first = true) (honly : onlyBits w2 mask = true) (hf : (shapeOf w2).fmt ∈ moveFmts)
    (hbsc : (shapeOf w2).bsc = true → (shapeOf w2).fmt ≠ 0 ∧ (shapeOf w2).fmt ≠ 8) (b : Blk) : moveShape w2 mask first b = .ok (shapeOf w2) b := by
  have hscaled {p : Prop} [Decidable p] (h : (shapeOf w2).bsc = true → ¬ p) : (!((shapeOf w2).bsc && decide p)) = true := by
    rw [Bool.not_eq_true', Bool.and_eq_false_imp]
    exact fun hb => decide_eq_false (h hb)
  unfold moveShape
  refine (bind_ok (check_pass ?_ _ b)).trans ?_
  · rw [hfirst, honly, hscaled fun h => (hbsc h).2]
    rfl
  refine (bind_ok (check_pass (List.contains_iff_mem.mpr hf) _ b)).trans ?_
  exact bind_ok (check_pass (hscaled fun h => (hbsc h).1) _ b)

theorem need05_pass {fmt t : Nat} {bsc bsz : Bool} {b : Blk} (h : b.tile.tagOk t fmt bsc bsz = true) : need05 fmt bsc bsz [t] b = .ok () b := by
  have ht : (do check ((← get).tile.tagOk t fmt bsc bsz) (tileFault 5 t 0) : M Unit) b = .ok () b :=
    (bind_ok (get_run b)).trans (check_pass h _ b)
  exact (bind_ok ht).trans (pure_run ..)

/-- What TMOVV makes of the tiles: its tile begun, and the register's lanes put in rows 8 · RSEL on. -/
def movedTile (w1 : BitVec 21) (w2 : W32) (b : Blk) : TileFile :=
  putLanes (fTD w1) (8 * bits w1 2 0) (b.vec.v.get (fRB w1).toNat) (shapeOf w2).m (b.tile.begin_ (fTD w1) (mkTag (shapeOf w2).fmt false false))

theorem tmovv_retires (h : TileIssues s [5, 14] b2) (hw : MovLegal w1 w2) :
    exec (.tmovv w1 w2) s = tileRetires s { b2 with tile := movedTile w1 w2 b2 } := by
  refine tileExec_retires h (.tmovv w1 w2) rfl ?_
  refine (bind_ok (hw.shape_run b2)).trans ?_
  exact (bind_ok (show readV (fRB w1) b2 = .ok (b2.vec.v.get (fRB w1).toNat) b2 from rfl)).trans (modTile_run _ b2)

/-- What TMOVT reads: tile rows 8 · RSEL on as the low lanes. -/
def movedLanes (w1 : BitVec 21) (w2 : W32) (b : Blk) : VReg :=
  ofLanes 4096 ((List.range (shapeOf w2).m).map fun r => b.tile.row (fTD w1) (8 * bits w1 2 0 + r))

theorem tmovt_retires (h : TileIssues s [5, 14] b2) (hw : MovLegal w1 w2)
    (htag : b2.tile.tagOk (fTD w1) (shapeOf w2).fmt false false = true) :
    exec (.tmovt w1 w2) s = tileRetires s { b2 with vec := b2.vec.put (fRB w1).toNat (movedLanes w1 w2 b2) } := by
  refine tileExec_retires h (.tmovt w1 w2) rfl ?_
  refine (bind_ok (hw.shape_run b2)).trans ?_
  refine (bind_ok (need05_pass htag)).trans ?_
  exact (bind_ok (get_run b2)).trans rfl

/-- The lanes that TMOVT reads no row for are zero. -/
theorem movedLanes_lane (b : Blk) {r : Nat} (hr : r < 8) :
    lane 512 (movedLanes w1 w2 b) r = if r < (shapeOf w2).m then b.tile.row (fTD w1) (8 * bits w1 2 0 + r) else 0 := by
  refine (lane_ofLanes _ (by omega)).trans ?_
  split
  · next h => exact getD_map_range _ h _
  · next h =>
    rw [List.getD_eq_getElem?_getD, List.getElem?_eq_none (by rw [List.length_map, List.length_range]; omega)]
    rfl

theorem tzero_retires (h : TileIssues s [14] b2) (hz : layoutZ w1 = true) (honly : onlyBits w2 (mFMT + mBSC + mBSZ) = true)
    (hf : (shapeOf w2).fmt ∈ moveFmts) (hbsc : (shapeOf w2).bsc = true → (shapeOf w2).fmt ≠ 0 ∧ (shapeOf w2).fmt ≠ 8) :
    exec (.tzero w1 w2) s = tileRetires s { b2 with
      tile := (b2.tile.zero (fTD w1)).begin_ (fTD w1) (mkTag (shapeOf w2).fmt (shapeOf w2).bsc (shapeOf w2).bsz) } :=
  tileExec_retires h (.tzero w1 w2) rfl ((bind_ok (moveShape_run hz honly hf hbsc b2)).trans (modTile_run _ b2))

theorem trelease_retires (h : TileIssues s [14] b2) (hz : layoutZ w1 = true) :
    exec (.trelease w1 0) s = tileRetires s { b2 with tile := b2.tile.release (fTD w1) } :=
  tileExec_retires h (.trelease w1 0) rfl ((bind_ok (check_pass (by rw [hz]; decide) _ b2)).trans (modTile_run _ b2))
end

/-- Settles O22: each instruction's block by its own retirement, and its tile beside the others by the lemmas on one tile. -/
theorem tileMoves : Obligations.TileMoves := by
  intro s w1 w2 b2 sh t first v vform
  have ht : t < 16 := fTD_lt w1
  refine ⟨fun h hform => ?_, fun h hz => ⟨fun honly hf hbsc => ?_, ?_⟩⟩
  · obtain ⟨hhigh, hlow, honly, hrows, hformat⟩ := hform
    have hw : MovLegal w1 w2 := ⟨hhigh, hlow, honly, hrows, hformat⟩
    obtain ⟨hused, htagged, hread⟩ := begin_self b2.tile ht (mkTag sh.fmt false false)
    refine ⟨⟨_, tmovv_retires h hw, ?_, ?_, ?_, ?_, fun r hr => ?_⟩, fun htag => ⟨_, tmovt_retires h hw htag, fun r hr => movedLanes_lane b2 hr⟩⟩
    · refine tilesElse_of_sameTile fun u hu => ?_
      have hut : u ≠ t := fun e => hu (List.mem_singleton.mpr e)
      exact sameTile_trans u _ _ _ (begin_other b2.tile hut _) (putLanes_other hut _ hw.rows_le)
    · exact (putLanes_used _ t).trans hused
    · exact (putLanes_dirty _ t).trans (begin_dirty b2.tile ht _)
    · exact (putLanes_tag _ t).trans htagged
    · obtain ⟨hrow, hscale⟩ := hread r hr
      rw [← hrow, ← hscale]
      exact putLanes_row hused r sh.m
  · obtain ⟨hused, htagged, hread⟩ := begin_self (b2.tile.zero t) ht (mkTag sh.fmt sh.bsc sh.bsz)
    refine ⟨_, tzero_retires h hz honly hf hbsc, ?_, hused, begin_dirty _ ht _, htagged, fun r hr => ?_⟩
    · refine tilesElse_of_sameTile fun u hu => ?_
      have hut : u ≠ t := fun e => hu (List.mem_singleton.mpr e)
      exact sameTile_trans u _ _ _ (zero_other b2.tile hut) (begin_other _ hut _)
    · obtain ⟨hrow, hscale⟩ := hread r hr
      obtain ⟨hzrow, hzscale⟩ := zero_self b2.tile t hr
      exact ⟨hrow.trans hzrow, hscale.trans hzscale⟩
  · rintro rfl
    obtain ⟨hused, hdirty⟩ := release_self b2.tile ht
    refine ⟨_, trelease_retires h hz, ?_, hused, hdirty⟩
    exact tilesElse_of_sameTile fun u hu => release_other b2.tile fun e => hu (List.mem_singleton.mpr e)

end Sys2Proof.Proofs
end

section
namespace Sys2Proof.Proofs
open Sys2Proof.Machine Sys2Proof.Laws

/-! A computation over the entries of a list. -/

section
variable {f : α → M β} {b b' : Blk}

theorem mapM_cons_ok {a : α} {l : List α} {ys : List β} (h : (a :: l).mapM f b = .ok ys b') :
    ∃ y b1 zs, f a b = .ok y b1 ∧ l.mapM f b1 = .ok zs b' ∧ ys = y :: zs := by
  rw [List.mapM_cons, bind_run] at h
  cases hy : f a b with
  | error e b1 => rw [hy] at h; cases h
  | ok y b1 =>
    rw [hy] at h
    dsimp only at h
    rw [bind_run] at h
    cases hzs : l.mapM f b1 with
    | error e b2 => rw [hzs] at h; cases h
    | ok zs b2 =>
      rw [hzs] at h
      cases h
      exact ⟨y, b1, zs, rfl, hzs, rfl⟩

/-- Where each entry's computation ends, those beside it may carry the entry's tag along. -/
theorem mapM_tagged (g : α → γ) : ∀ {l : List α} {ys : List β} {b : Blk}, l.mapM f b = .ok ys b' →
    ∃ zs, l.mapM (fun a => (do let y ← f a; return (g a, y) : M (γ × β))) b = .ok zs b' ∧ zs.map Prod.snd = ys ∧ ys.length = l.length
  | [], ys, b, h => by
    cases h
    exact ⟨[], rfl, rfl, rfl⟩
  | a :: l, ys, b, h => by
    obtain ⟨y, b1, rest, hy, hrest, rfl⟩ := mapM_cons_ok h
    obtain ⟨zs, hzs, hmap, hlen⟩ := mapM_tagged g hrest
    have hhead : (do let y ← f a; return (g a, y) : M (γ × β)) b = .ok (g a, y) b1 := bind_ok hy
    refine ⟨(g a, y) :: zs, ?_, congrArg (y :: ·) hmap, congrArg (· + 1) hlen⟩
    rw [List.mapM_cons, bind_ok hhead, bind_ok hzs]
    rfl

/-- Computations that leave the block give their values. -/
theorem mapM_pass {g : α → β} : ∀ {l : List α}, (∀ a ∈ l, f a b = .ok (g a) b) → l.mapM f b = .ok (l.map g) b
  | [], _ => rfl
  | a :: l, h => by
    rw [List.mapM_cons, bind_ok (h a List.mem_cons_self), bind_ok (mapM_pass fun x hx => h x (List.mem_cons_of_mem a hx))]
    rfl

theorem forM_pass {f : α → M Unit} {b : Blk} : ∀ {l : List α}, (∀ a ∈ l, f a b = .ok () b) → l.forM f b = .ok () b
  | [], _ => rfl
  | a :: _, h => (bind_ok (h a List.mem_cons_self)).trans (forM_pass fun x hx => h x (List.mem_cons_of_mem a hx))
end

/-- The entries' own lists one after the other. -/
theorem forM_flatMap (g : α → List β) (f : β → M Unit) : ∀ l : List α, (l.flatMap g).forM f = l.forM fun a => (g a).forM f
  | [] => rfl
  | a :: l => by
    refine (List.forM_append (l₁ := g a) (l₂ := l.flatMap g) (f := f)).trans ?_
    exact congrArg (fun rest => (g a).forM f >>= fun _ => rest) (forM_flatMap g f l)

end Sys2Proof.Proofs
end

section
namespace Sys2Proof.Proofs
open Sys2Proof.Machine Sys2Proof.Laws

/-! Bytes: a number's bytes, and the cells of a store after consecutive ones are written. -/

@[simp] theorem length_leOfNat : ∀ n x : Nat, (leOfNat n x).length = n
  | 0, _ => rfl
  | n + 1, x => congrArg (· + 1) (length_leOfNat n (x / 256))

theorem leOfNat_natOfLE : ∀ bs : List Byte, leOfNat bs.length (natOfLE bs) = bs
  | [] => rfl
  | x :: bs => by
    have hx := x.isLt
    have hlow : BitVec.ofNat 8 (x.toNat + 256 * natOfLE bs) = x := by
      apply BitVec.eq_of_toNat_eq
      rw [BitVec.toNat_ofNat]
      omega
    have hhigh : (x.toNat + 256 * natOfLE bs) / 256 = natOfLE bs := by omega
    rw [natOfLE, List.length_cons, leOfNat, hlow, hhigh, leOfNat_natOfLE bs]

theorem natOfLE_lt : ∀ bs : List Byte, natOfLE bs < 256 ^ bs.length
  | [] => Nat.one_pos
  | x :: bs => by
    have hx := x.isLt
    have ih := natOfLE_lt bs
    rw [natOfLE, List.length_cons, Nat.pow_succ]
    omega

/-- The bytes of a word that eight bytes spell. -/
theorem bytes_of_word {bs : List Byte} (h : bs.length = 8) : leOfNat 8 (BitVec.ofNat 64 (natOfLE bs)).toNat = bs := by
  have hlt := natOfLE_lt bs
  rw [h] at hlt
  rw [BitVec.toNat_ofNat, Nat.mod_eq_of_lt (show natOfLE bs < 2 ^ 64 from hlt), ← h, leOfNat_natOfLE]

section
variable {w : Nat} (m : Sparse w)

@[simp] theorem length_range : ∀ k n : Nat, (Sparse.range m k n).length = n
  | _, 0 => rfl
  | k, n + 1 => congrArg (· + 1) (length_range (k + 1) n)

theorem range_add : ∀ k a c : Nat, Sparse.range m k (a + c) = Sparse.range m k a ++ Sparse.range m (k + a) c
  | k, 0, c => by rw [Nat.zero_add]; rfl
  | k, a + 1, c => by
    rw [Nat.add_right_comm, Sparse.range, range_add (k + 1) a c, Sparse.range, List.cons_append, Nat.add_right_comm k 1 a, Nat.add_assoc k a 1]

theorem take_range (k : Nat) {i n : Nat} (h : i ≤ n) : (Sparse.range m k n).take i = Sparse.range m k i := by
  obtain ⟨rest, rfl⟩ := Nat.exists_eq_add_of_le h
  rw [range_add, List.take_left' (length_range m k i)]

theorem drop_range (k : Nat) {i n : Nat} (h : i ≤ n) : (Sparse.range m k n).drop i = Sparse.range m (k + i) (n - i) := by
  obtain ⟨rest, rfl⟩ := Nat.exists_eq_add_of_le h
  rw [range_add, List.drop_left' (length_range m k i), Nat.add_sub_cancel_left]

theorem getD_range : ∀ (k : Nat) {n i : Nat}, i < n → (Sparse.range m k n).getD i 0 = m.get (k + i)
  | _, _ + 1, 0, _ => rfl
  | k, n + 1, i + 1, h => by
    rw [Sparse.range, List.getD_cons_succ, getD_range (k + 1) (Nat.lt_of_succ_lt_succ h), Nat.add_assoc, Nat.add_comm 1]
end

/-- Cells g with the list vs put in from key k on. -/
def overlay (g : Nat → BitVec w) (k : Nat) (vs : List (BitVec w)) (j : Nat) : BitVec w :=
  if k ≤ j ∧ j < k + vs.length then vs.getD (j - k) 0 else g j

section
variable (g : Nat → BitVec w)

theorem overlay_nil (k : Nat) : overlay g k [] = g := funext fun _ => if_neg (by rw [List.length_nil]; omega)

theorem overlay_append (k : Nat) (xs ys : List (BitVec w)) : overlay (overlay g k xs) (k + xs.length) ys = overlay g k (xs ++ ys) := by
  funext j
  unfold overlay
  rw [List.length_append]
  by_cases hlow : j < k + xs.length
  · rw [if_neg (by omega)]
    by_cases hk : k ≤ j
    · rw [if_pos ⟨hk, hlow⟩, if_pos ⟨hk, by omega⟩, List.getD_eq_getElem?_getD, List.getD_eq_getElem?_getD,
        List.getElem?_append_left (by omega)]
    · rw [if_neg (by omega), if_neg (by omega)]
  · by_cases hhigh : j < k + xs.length + ys.length
    · rw [if_pos ⟨by omega, hhigh⟩, if_pos ⟨by omega, by omega⟩, List.getD_eq_getElem?_getD, List.getD_eq_getElem?_getD,
        List.getElem?_append_right (by omega), Nat.sub_add_eq]
    · rw [if_neg (by omega), if_neg (by omega), if_neg (by omega)]

/-- Cells written with what they hold. -/
theorem overlay_range {m : Sparse w} {k n : Nat} (h : ∀ j, k ≤ j → g j = m.get j) : overlay g k (Sparse.range m k n) = g := by
  funext j
  unfold overlay
  rw [length_range]
  split
  · next hj =>
    rw [getD_range m k (by omega), Nat.add_sub_cancel' hj.1, h j hj.1]
  · rfl
end

theorem get_setAll (m : Sparse w) : ∀ (k : Nat) (vs : List (BitVec w)), (Sparse.setAll m k vs).get = overlay m.get k vs
  | k, [] => (overlay_nil m.get k).symm
  | k, v :: vs => by
    have hcell : (m.set k v).get = overlay m.get k [v] := by
      funext j
      unfold overlay
      by_cases hj : j = k
      · subst hj
        rw [get_set_self, if_pos ⟨Nat.le_refl j, Nat.lt_succ_self j⟩, Nat.sub_self]
        rfl
      · rw [get_set_other m k j v hj, if_neg (by rw [List.length_singleton]; omega)]
    rw [Sparse.setAll, get_setAll (m.set k v) (k + 1) vs, hcell]
    exact overlay_append m.get k [v] vs

end Sys2Proof.Proofs
end

section
namespace Sys2Proof.Proofs
open Sys2Proof.Machine Sys2Proof.Laws

/-! Reads and writes of an LTS with no flipped bit, over a bond interface with no beat to come (R309, R314, R315). -/

/-- Nothing stands against an access to the LTS but its quarters' power and a wipe. -/
structure LtsQuiet (b : Blk) : Prop where
  flips : b.lts.flips = []
  beats : b.sys.beats = []
  fatal : b.err.fatal = false

/-- The block with the LTS's bytes as given and no flipped bit. -/
def withBytes (b : Blk) (m : Sparse 8) : Blk := { b with lts := { bytes := m, flips := [] } }

theorem withBytes_self {b : Blk} (h : b.lts.flips = []) : withBytes b b.lts.bytes = b := by
  rw [withBytes, ← h]

theorem crossing_quiet {b : Blk} (h : b.sys.beats = []) (world : Bool) (addr : Nat → Word) : ∀ k p, crossing world addr k p b = ([], b)
  | 0, _ => rfl
  | _ + 1, _ => by simp only [crossing, h, List.isEmpty_nil, if_true]

theorem ltsWord_bytes (b : Blk) (w : Nat) : leOfNat 8 (ltsWord b w).toNat = Sparse.range b.lts.bytes (8 * w) 8 :=
  bytes_of_word (length_range ..)

section
variable {b : Blk} (h : b.lts.flips = [])
include h

theorem ltsReadWord_quiet (w : Nat) : ltsReadWord b w = (some (ltsWord b w), b) := ltsReadWord_clean (by rw [h]; rfl)

theorem ltsReadWords_quiet (world : Bool) : ∀ n w, ltsReadWords world [] n w b = (((List.range' w n).map (ltsWord b), none), b)
  | 0, _ => rfl
  | n + 1, w => by
    have hword : ltsTakeWord [] b w = (some (ltsWord b w), b) := ltsReadWord_quiet h w
    simp only [ltsReadWords, hword, ltsReadWords_quiet world n (w + 1), List.range'_succ, List.map_cons]
omit h

theorem words_bytes (b : Blk) : ∀ n w, ((List.range' w n).map (ltsWord b)).flatMap (fun v => leOfNat 8 v.toNat) =
    Sparse.range b.lts.bytes (8 * w) (8 * n)
  | 0, _ => rfl
  | n + 1, w => by
    rw [List.range'_succ, List.map_cons, List.flatMap_cons, ltsWord_bytes, words_bytes b n (w + 1), Nat.mul_succ 8 n, Nat.add_comm (8 * n) 8,
      range_add, Nat.mul_succ 8 w]

include h
theorem ltsBankRead_quiet (world : Bool) (o n : Nat) : ltsBankRead world [] o n b = ((Sparse.range b.lts.bytes o n, none), b) := by
  unfold ltsBankRead
  split
  · next hn => rw [hn]; rfl
  · next hn =>
    have hall : o % 8 + n ≤ 8 * ((o + n - 1) / 8 + 1 - o / 8) := by omega
    simp only [ltsReadWords_quiet h, words_bytes]
    rw [drop_range _ _ (by omega), take_range _ _ (by omega), Nat.div_add_mod]

/-- Some bytes of a word, written: the rest of the word is as before. -/
theorem ltsWriteWord_quiet (world : Bool) (w k : Nat) {bs : List Byte} (hk : k + bs.length ≤ 8) :
    ∃ m, ltsWriteWord world w k bs b = (false, withBytes b m) ∧ m.get = overlay (Sparse.get b.lts.bytes) (8 * w + k) bs := by
  have hput (v : Word) : ltsPutWord b w v = withBytes b (Sparse.setAll b.lts.bytes (8 * w) (leOfNat 8 v.toNat)) := by
    rw [ltsPutWord, h]
    rfl
  unfold ltsWriteWord
  split
  · next hwhole =>
    obtain ⟨rfl, hlen⟩ : k = 0 ∧ bs.length = 8 := by simpa using hwhole
    exact ⟨_, by rw [hput], by rw [bytes_of_word hlen, get_setAll, Nat.add_zero]⟩
  · rw [ltsReadWord_quiet h]
    refine ⟨_, congrArg (Prod.mk false) (hput _), ?_⟩
    rw [ltsWord_bytes, take_range _ _ (by omega), drop_range _ _ hk,
      bytes_of_word (by simp only [List.length_append, length_range]; omega), get_setAll, ← overlay_append, ← overlay_append,
      overlay_range _ (fun _ _ => rfl), length_range, List.length_append, length_range]
    exact overlay_range _ fun j hj => if_neg (by omega)
end

theorem ltsWriteGo_quiet (world : Bool) : ∀ (n o : Nat) {bs : List Byte} {b : Blk}, b.lts.flips = [] → bs.length ≤ n →
    ∃ m, ltsWriteGo world n o bs b = (false, withBytes b m) ∧ m.get = overlay (Sparse.get b.lts.bytes) o bs
  | 0, o, bs, b, h, hn => by
    obtain rfl := List.eq_nil_of_length_eq_zero (Nat.le_zero.mp hn)
    exact ⟨b.lts.bytes, by rw [withBytes_self h]; rfl, (overlay_nil ..).symm⟩
  | n + 1, o, bs, b, h, hn => by
    unfold ltsWriteGo
    split
    · next hempty =>
      rw [List.isEmpty_iff] at hempty
      exact ⟨b.lts.bytes, by rw [withBytes_self h], by rw [hempty, overlay_nil]⟩
    · next hne =>
      have hpos : 0 < bs.length := List.length_pos_iff.mpr fun e => hne (List.isEmpty_iff.mpr e)
      have hlen : (bs.take (8 - o % 8)).length = min (8 - o % 8) bs.length := List.length_take
      obtain ⟨m1, hrun1, hget1⟩ := ltsWriteWord_quiet h world (o / 8) (o % 8) (bs := bs.take (8 - o % 8)) (by omega)
      obtain ⟨m2, hrun2, hget2⟩ := ltsWriteGo_quiet world n (o + (8 - o % 8)) (bs := bs.drop (8 - o % 8)) (b := withBytes b m1) rfl
        (by rw [List.length_drop]; omega)
      refine ⟨m2, by simp only [hrun1, hrun2]; rfl, hget2.trans ?_⟩
      show overlay m1.get _ _ = _
      rw [hget1, Nat.div_add_mod]
      by_cases hlast : bs.length ≤ 8 - o % 8
      · rw [List.drop_eq_nil_of_le hlast, overlay_nil, List.take_of_length_le hlast]
      · have hfull : o + (8 - o % 8) = o + (bs.take (8 - o % 8)).length := by omega
        rw [hfull, overlay_append, List.take_append_drop]

section
variable {b : Blk} (h : LtsQuiet b)
include h

theorem ltsRead_quiet (world : Bool) (o n : Nat) : ltsRead world o n b = ((Sparse.range b.lts.bytes o n, none), b) := by
  unfold ltsRead ltsCross
  rw [crossing_quiet h.beats]
  exact ltsBankRead_quiet h.flips world o n

theorem ltsWrite_quiet (world : Bool) (o : Nat) (bs : List Byte) : ∃ b1, ltsWrite world o bs b = (false, b1) ∧ Written b b1 [(o, bs)] := by
  obtain ⟨m, hrun, hget⟩ := ltsWriteGo_quiet world bs.length o h.flips (Nat.le_refl _)
  refine ⟨withBytes b m, ?_, rfl, rfl, fun p hp i hi => ?_, fun j hj => ?_⟩
  · simp only [ltsWrite, ltsSend, ltsCross, crossing_quiet h.beats, List.isEmpty_nil, if_true]
    exact hrun
  · obtain rfl := List.mem_singleton.mp hp
    dsimp only at hi
    refine (congrFun hget _).trans ((if_pos (by omega)).trans ?_)
    rw [Nat.add_sub_cancel_left]
  · exact (congrFun hget j).trans (if_neg (hj _ (List.mem_singleton.mpr rfl)))
end

theorem quiet_of_written {b b1 : Blk} {ps : List (Nat × List Byte)} (hw : Written b b1 ps) (h : LtsQuiet b) : LtsQuiet b1 := by
  obtain ⟨hb1, hflips, _⟩ := hw
  rw [hb1]
  exact ⟨hflips, h.beats, h.fatal⟩

/-- No two of the byte strings at their offsets overlap. -/
def ApartBytes (ps : List (Nat × List Byte)) : Prop := Apart (ps.map fun p => (p.1, p.2.length))

/-- One string stored, and then others apart from it. -/
theorem written_cons {b b1 b2 : Blk} {p : Nat × List Byte} {ps : List (Nat × List Byte)} (h1 : Written b b1 [p]) (h2 : Written b1 b2 ps)
    (hapart : ApartBytes (p :: ps)) : Written b b2 (p :: ps) := by
  obtain ⟨hb1, _, hin1, hout1⟩ := h1
  obtain ⟨hb2, hflips, hin2, hout2⟩ := h2
  obtain ⟨hhead, _⟩ := List.pairwise_cons.mp hapart
  refine ⟨by rw [hb2, hb1], hflips, fun q hq i hi => ?_, fun j hj => ?_⟩
  · rcases List.mem_cons.mp hq with rfl | hq
    · refine (hout2 _ fun q' hq' => ?_).trans (hin1 q (List.mem_singleton.mpr rfl) i hi)
      have hfar := hhead _ (List.mem_map_of_mem hq')
      dsimp only at hfar
      omega
    · exact hin2 q hq i hi
  · refine (hout2 j fun q hq => hj q (List.mem_cons_of_mem p hq)).trans (hout1 j fun q hq => ?_)
    exact hj q (List.mem_singleton.mp hq ▸ List.mem_cons_self)

theorem readLtsFor_run {b : Blk} (h : LtsQuiet b) (va : Word) (o n : Nat) : readLtsFor va o n b = .ok (Sparse.range b.lts.bytes o n) b := by
  simp only [readLtsFor, liftBlk, failIfFatal, bind_run, get_run, set_run, ltsRead_quiet h, h.fatal, Bool.false_eq_true, if_false, pure_run]

theorem writeLtsFor_run {b : Blk} (h : LtsQuiet b) (o : Nat) (bs : List Byte) :
    ∃ b1, writeLtsFor o bs b = .ok () b1 ∧ Written b b1 [(o, bs)] := by
  obtain ⟨b1, hrun, hw⟩ := ltsWrite_quiet h b.core.ps.world o bs
  refine ⟨b1, ?_, hw⟩
  simp only [writeLtsFor, liftBlk, failIfFatal, bind_run, get_run, set_run, hrun, (quiet_of_written hw h).fatal, Bool.false_eq_true, if_false,
    pure_run]

/-- Strings stored one after the other, apart from each other. -/
theorem writes_run : ∀ {ps : List (Nat × List Byte)} {b : Blk}, LtsQuiet b → ApartBytes ps →
    ∃ b1, ps.forM (fun p => writeLtsFor p.1 p.2) b = .ok () b1 ∧ Written b b1 ps
  | [], b, h, _ => ⟨b, rfl, rfl, h.flips, fun _ hp => absurd hp List.not_mem_nil, fun _ _ => rfl⟩
  | p :: ps, b, h, hapart => by
    obtain ⟨b1, hrun1, hw1⟩ := writeLtsFor_run h p.1 p.2
    obtain ⟨b2, hrun2, hw2⟩ := writes_run (ps := ps) (quiet_of_written hw1 h) (List.pairwise_cons.mp hapart).2
    exact ⟨b2, (bind_ok hrun1).trans hrun2, written_cons hw1 hw2 hapart⟩

section
variable {b : Blk} {ps : List (Nat × Nat)}

theorem ltsQuiet_of_open (h : LtsOpen b ps) : LtsQuiet b := by
  obtain ⟨hflips, hbeats, hfatal, _⟩ := h
  exact ⟨hflips, hbeats, hfatal⟩

/-- An access to a range that is open does not wait (R313, R410). -/
theorem ltsReady_pass (h : LtsOpen b ps) {p : Nat × Nat} (hp : p ∈ ps) : ltsReady p.1 p.2 b = .ok () b := by
  obtain ⟨_, _, _, hopen⟩ := h
  obtain ⟨hfirst, hlast, hwipe, _⟩ := hopen p hp
  unfold ltsReady
  refine (bind_ok (needPds_pass ?_)).trans ?_
  · simp only [List.all_cons, List.all_nil, hfirst, hlast, Bool.and_self]
  refine (bind_ok (get_run b)).trans ?_
  rw [hwipe]
  rfl
end

end Sys2Proof.Proofs
end

section
namespace Sys2Proof.Proofs
open Sys2Proof.Machine Sys2Proof.Laws

/-! Rows put in one tile with their scale areas. -/

/-- Row i of tile t, and its scale area. -/
def putRowAt (t : Nat) (row : Nat → Piece) (scale : Nat → Word) (x : TileFile) (i : Nat) : TileFile :=
  (x.putRow t i (row i)).putScale t i (scale i)

/-- Rows 0 to m - 1 of tile t one after the other. -/
def putRows (t : Nat) (row : Nat → Piece) (scale : Nat → Word) (m : Nat) (x : TileFile) : TileFile :=
  (List.range m).foldl (putRowAt t row scale) x

/-- Row r of tile t reads in y as in x, and the tile is in use where it was. -/
structure SameRow (t r : Nat) (x y : TileFile) : Prop where
  used : y.used t = x.used t
  row : y.row t r = x.row t r
  scale : y.scale t r = x.scale t r

section
variable {t : Nat} (row : Nat → Piece) (scale : Nat → Word)

theorem sameRow_refl (t r : Nat) (x : TileFile) : SameRow t r x x := ⟨rfl, rfl, rfl⟩

theorem sameRow_trans (t r : Nat) (x y z : TileFile) (h1 : SameRow t r x y) (h2 : SameRow t r y z) : SameRow t r x z :=
  ⟨h2.used.trans h1.used, h2.row.trans h1.row, h2.scale.trans h1.scale⟩

theorem putRowAt_otherRow (r i : Nat) (x : TileFile) (h : r ≠ i) : SameRow t r x (putRowAt t row scale x i) :=
  have hk : 64 * t + r ≠ 64 * t + i := by omega
  ⟨rfl, congrArg (if x.used t then · else 0) (get_set_other x.rows _ _ _ hk),
    congrArg (if x.used t then · else 0) (get_set_other x.scales _ _ _ hk)⟩

theorem putRowAt_self {x : TileFile} (hu : x.used t = true) (i : Nat) :
    (putRowAt t row scale x i).row t i = row i ∧ (putRowAt t row scale x i).scale t i = scale i :=
  ⟨(if_pos hu).trans (get_set_self ..), (if_pos hu).trans (get_set_self x.scales _ _)⟩

theorem putRowAt_otherTile {u i : Nat} (x : TileFile) (h : u ≠ t) (hi : i < 64) : SameTile u x (putRowAt t row scale x i) where
  used := rfl
  dirty := rfl
  tags := rfl
  rows _ _ := get_set_other _ _ _ _ (by omega)
  scales _ _ := get_set_other x.scales _ _ _ (by omega)

theorem putRows_succ (m : Nat) (x : TileFile) : putRows t row scale (m + 1) x = putRowAt t row scale (putRows t row scale m x) m := by
  rw [putRows, List.range_succ, List.foldl_append]
  rfl

/-- Rows that lie in tile t leave the other tiles. -/
theorem putRows_otherTile {u : Nat} (h : u ≠ t) (x : TileFile) : ∀ {m : Nat}, m ≤ 64 → SameTile u x (putRows t row scale m x)
  | 0, _ => sameTile_refl u x
  | m + 1, hm => by
    rw [putRows_succ]
    exact sameTile_trans u _ _ _ (putRows_otherTile h x (Nat.le_of_succ_le hm)) (putRowAt_otherTile row scale _ h hm)

theorem putRows_head (m : Nat) (x : TileFile) :
    (putRows t row scale m x).used t = x.used t ∧ (putRows t row scale m x).tag t = x.tag t := by
  have hkept : (putRows t row scale m x).inuse = x.inuse ∧ (putRows t row scale m x).tags = x.tags :=
    foldl_keeps (f := putRowAt t row scale) (P := fun y : TileFile => y.inuse = x.inuse ∧ y.tags = x.tags) (fun _ _ h => h) _ x ⟨rfl, rfl⟩
  obtain ⟨hinuse, htags⟩ := hkept
  have hused : (putRows t row scale m x).used t = x.used t := congrArg (bit · t) hinuse
  exact ⟨hused, by rw [TileFile.tag, TileFile.tag, hused, htags]⟩

/-- Of a tile in use, rows 0 to m - 1 read what was put there, the others what they were. -/
theorem putRows_row {x : TileFile} (hu : x.used t = true) (m r : Nat) :
    (putRows t row scale m x).row t r = (if r < m then row r else x.row t r) ∧
    (putRows t row scale m x).scale t r = (if r < m then scale r else x.scale t r) := by
  by_cases hr : r < m
  · obtain ⟨y, hxy, hy⟩ := foldl_own (sameRow_refl t) (sameRow_trans t) (putRowAt_otherRow row scale) (List.range m) x List.nodup_range
      (List.mem_range.mpr hr)
    obtain ⟨hrow, hscale⟩ := putRowAt_self row scale (hxy.used.trans hu) r
    rw [if_pos hr, if_pos hr]
    exact ⟨hy.row.trans hrow, hy.scale.trans hscale⟩
  · have hsame := foldl_same (sameRow_refl t) (sameRow_trans t) (putRowAt_otherRow row scale) (List.range m) x fun h => hr (List.mem_range.mp h)
    rw [if_neg hr, if_neg hr]
    exact ⟨hsame.row, hsame.scale⟩

theorem putRows_congr {t : Nat} {row row' : Nat → Piece} {scale : Nat → Word} {x : TileFile} :
    ∀ {m : Nat}, (∀ i, i < m → row i = row' i) → putRows t row scale m x = putRows t row' scale m x
  | 0, _ => rfl
  | m + 1, h => by
    rw [putRows_succ, putRows_succ, putRows_congr fun i hi => h i (Nat.lt_succ_of_lt hi), putRowAt, putRowAt, h m (Nat.lt_succ_self m)]

/-- The rows of a list in its order. -/
theorem foldl_zipIdx_rows (rows : List Piece) (x : TileFile) :
    rows.zipIdx.foldl (fun tf p => (tf.putRow t p.2 p.1).putScale t p.2 (scale p.2)) x = putRows t (fun i => rows.getD i 0) scale rows.length x := by
  have hzip : rows.zipIdx = (List.range rows.length).map fun i => (rows.getD i 0, i) :=
    List.ext_getElem (by simp) fun i hi _ => by
      have hlt : i < rows.length := by simpa using hi
      simp [hlt]
  rw [hzip, List.foldl_map]
  rfl
end

end Sys2Proof.Proofs
end

section
namespace Sys2Proof.Proofs
open Sys2Proof.Machine Sys2Proof.Laws

/-! TLOAD and TSTORE (R116–R121). -/

/-- What the checks before any translation ask of a tile-row move (R112, R118). -/
structure RowMoveLegal (w1 : BitVec 21) (w2 : W32) (b : Blk) : Prop where
  zero : bits w1 1 0 = 0
  only : onlyBits w2 (mROWS + mFMT + mBSC + mBSZ) = true
  format : (shapeOf w2).fmt ∈ moveFmts
  scaled : (shapeOf w2).bsc = true → (shapeOf w2).fmt ≠ 0 ∧ (shapeOf w2).fmt ≠ 8 ∧ (b.core.reg (fRC w1)).toNat % 8 = 0
  unscaled : (shapeOf w2).bsc = false → bits w1 6 2 = 0
  first : (b.core.reg (fRA w1)).toNat % 64 = 0
  stride : (b.core.reg (fRB w1)).toNat % 64 = 0

/-- Every row and every scale piece of a tile-row move is located, in the LTS, and open: b3 is the block after the rows, b4 that after the scale
pieces. -/
structure RowsReached (c : Cfg) (acc : Acc) (w1 : BitVec 21) (w2 : W32) (b2 b3 b4 : Blk) (os : List Nat) (scs : List (Word × Nat × Nat)) :
    Prop where
  rows : ((List.range (shapeOf w2).m).mapM fun r =>
    locateLts c acc (rowAddr (b2.core.reg (fRA w1)) (b2.core.reg (fRB w1)) r) 64 (rowAddr (b2.core.reg (fRA w1)) (b2.core.reg (fRB w1)) r)) b2 =
      .ok os b3
  scales : (if (shapeOf w2).bsc then locateScales c acc (b2.core.reg (fRC w1)) (shapeOf w2).m else pure []) b3 = .ok scs b4
  free : LtsOpen b4 (os.map (fun o => (o, 64)) ++ scs.map fun p => p.2)

/-- A computation goes on by the answer of its first part, chosen between two. -/
theorem ite_bind_ok {p : Prop} [Decidable p] {x y : M α} {f : α → M β} {a : α} {b b1 : Blk} (h : (if p then x else y) b = .ok a b1) :
    (if p then x >>= f else y >>= f) b = f a b1 := by
  by_cases hp : p
  · rw [if_pos hp] at h ⊢
    exact bind_ok h
  · rw [if_neg hp] at h ⊢
    exact bind_ok h

theorem moveAligned_pass {ra rb : Word} {rc : Option Word} (ha : ra.toNat % 64 = 0) (hb : rb.toNat % 64 = 0)
    (hc : ∀ a, rc = some a → a.toNat % 8 = 0) (b : Blk) : moveAligned ra rb rc b = .ok () b := by
  unfold moveAligned
  refine (bind_ok (check_pass (beq_iff_eq.mpr ha) _ b)).trans ?_
  refine (bind_ok (check_pass (beq_iff_eq.mpr hb) _ b)).trans ?_
  cases rc with
  | none => rfl
  | some a => exact check_pass (beq_iff_eq.mpr (hc a rfl)) _ b

section
variable {c : Cfg} {acc : Acc} {w1 : BitVec 21} {w2 : W32} {b2 b3 b4 : Blk} {os : List Nat} {scs : List (Word × Nat × Nat)}

theorem RowMoveLegal.shape_run (hw : RowMoveLegal w1 w2 b2) (b : Blk) :
    moveShape w2 mMove (decide (bits w1 1 0 = 0) && (bit w2 20 || decide (bits w1 6 2 = 0))) b = .ok (shapeOf w2) b := by
  have hformats (h : (shapeOf w2).bsc = true) : (shapeOf w2).fmt ≠ 0 ∧ (shapeOf w2).fmt ≠ 8 := by
    obtain ⟨hw16, hb32, _⟩ := hw.scaled h
    exact ⟨hw16, hb32⟩
  refine moveShape_run ?_ hw.only hw.format hformats b
  rw [decide_eq_true hw.zero, Bool.true_and]
  cases hbsc : bit w2 20 with
  | true => rfl
  | false => exact decide_eq_true (hw.unscaled hbsc)

theorem RowMoveLegal.aligned_run (hw : RowMoveLegal w1 w2 b2) (b : Blk) :
    moveAligned (b2.core.reg (fRA w1)) (b2.core.reg (fRB w1)) (if (shapeOf w2).bsc then some (b2.core.reg (fRC w1)) else none) b = .ok () b := by
  refine moveAligned_pass hw.first hw.stride (fun a ha => ?_) b
  cases hbsc : (shapeOf w2).bsc with
  | false => rw [hbsc] at ha; cases ha
  | true =>
    rw [hbsc] at ha
    cases ha
    obtain ⟨_, _, haligned⟩ := hw.scaled hbsc
    exact haligned

theorem RowsReached.rowReady (hr : RowsReached c acc w1 w2 b2 b3 b4 os scs) {o : Nat} (ho : o ∈ os) : ltsReady o 64 b4 = .ok () b4 :=
  ltsReady_pass hr.free (p := (o, 64)) (List.mem_append_left _ (List.mem_map.mpr ⟨o, ho, rfl⟩))

theorem RowsReached.scaleReady (hr : RowsReached c acc w1 w2 b2 b3 b4 os scs) {p : Word × Nat × Nat} (hp : p ∈ scs) :
    ltsReady p.2.1 p.2.2 b4 = .ok () b4 :=
  ltsReady_pass hr.free (List.mem_append_right _ (List.mem_map.mpr ⟨p, hp, rfl⟩))

/-! TLOAD. -/

/-- The row that TLOAD reads at an LTS offset. -/
def loadedRow (b : Blk) (o : Nat) : Piece := BitVec.ofNat 512 (natOfLE (Sparse.range b.lts.bytes o 64))

/-- The scale area of row r, from the scale pieces in their order. -/
def loadedScale (b : Blk) (scs : List (Word × Nat × Nat)) (r : Nat) : Word :=
  BitVec.ofNat 64 (natOfLE (((scs.flatMap fun p => Sparse.range b.lts.bytes p.2.1 p.2.2).drop (8 * r)).take 8))

/-- What TLOAD makes of the tiles: its tile begun, and the rows and scale areas read put there. -/
def loadedTile (w1 : BitVec 21) (w2 : W32) (b : Blk) (os : List Nat) (scs : List (Word × Nat × Nat)) : TileFile :=
  putRows (fTD w1) (fun r => loadedRow b (os.getD r 0)) (loadedScale b scs) (shapeOf w2).m
    (b.tile.begin_ (fTD w1) (mkTag (shapeOf w2).fmt (shapeOf w2).bsc (shapeOf w2).bsz))

theorem tloadBody_run (hw : RowMoveLegal w1 w2 b2) (hr : RowsReached c .load w1 w2 b2 b3 b4 os scs) :
    tloadBody c w1 w2 b2 = .ok () { b4 with tile := loadedTile w1 w2 b4 os scs } := by
  have hquiet := ltsQuiet_of_open hr.free
  obtain ⟨offs, hoffs, hos, hlen⟩ := mapM_tagged (rowAddr (b2.core.reg (fRA w1)) (b2.core.reg (fRB w1))) hr.rows
  have hrowAt (p : Word × Nat) : (do return BitVec.ofNat 512 (natOfLE (← readLtsFor p.1 p.2 64)) : M Piece) b4 = .ok (loadedRow b4 p.2) b4 :=
    bind_ok (readLtsFor_run hquiet p.1 p.2 64)
  have hrows : offs.map (fun p => loadedRow b4 p.2) = os.map (loadedRow b4) := by
    rw [← hos, List.map_map]
    rfl
  unfold tloadBody
  refine (bind_ok (hw.shape_run b2)).trans ?_
  refine (bind_ok (readReg_run _ b2)).trans ?_
  refine (bind_ok (readReg_run _ b2)).trans ?_
  refine (bind_ok (readReg_run _ b2)).trans ?_
  refine (bind_ok (hw.aligned_run b2)).trans ?_
  refine (bind_ok hoffs).trans ?_
  refine (ite_bind_ok hr.scales).trans ?_
  refine (bind_ok (forM_pass fun p hp => hr.rowReady (hos ▸ List.mem_map_of_mem hp))).trans ?_
  refine (bind_ok (forM_pass fun p hp => hr.scaleReady hp)).trans ?_
  refine (bind_ok (mapM_pass fun p _ => hrowAt p)).trans ?_
  refine (bind_ok (mapM_pass fun p _ => readLtsFor_run hquiet p.1 p.2.1 p.2.2)).trans ?_
  refine (modTile_run _ b4).trans ?_
  rw [hrows, ← List.flatMap_def]
  refine congrArg (fun x => EStateM.Result.ok () { b4 with tile := x }) ((foldl_zipIdx_rows (loadedScale b4 scs) _ _).trans ?_)
  rw [List.length_map, hlen, List.length_range]
  refine putRows_congr fun i hi => ?_
  have hi' : i < os.length := by rwa [hlen, List.length_range]
  simp [hi']

/-! TSTORE of tile rows. -/

/-- The scale bytes of a tile's first m rows, in their order. -/
def scaleBytes (tf : TileFile) (t m : Nat) : List Byte := (List.range m).flatMap fun r => bytesOf 8 (tf.scale t r)

/-- What TSTORE writes, each string with its offset: the rows, and of the scale bytes those of each scale piece. -/
def tileWrites (w1 : BitVec 21) (w2 : W32) (rc : Word) (tf : TileFile) (os : List Nat) (scs : List (Word × Nat × Nat)) : List (Nat × List Byte) :=
  os.zipIdx.map (fun x => (x.1, bytesOf 64 (tf.row (fTD w1) x.2))) ++
    scs.map fun p => (p.2.1, ((scaleBytes tf (fTD w1) (shapeOf w2).m).drop (p.1 - rc).toNat).take p.2.2)

/-- The same strings, each with the range (offset, length) that was located for it. -/
def tileRooms (w1 : BitVec 21) (w2 : W32) (rc : Word) (tf : TileFile) (os : List Nat) (scs : List (Word × Nat × Nat)) :
    List ((Nat × Nat) × List Byte) :=
  os.zipIdx.map (fun x => ((x.1, 64), bytesOf 64 (tf.row (fTD w1) x.2))) ++
    scs.map fun p => (p.2, ((scaleBytes tf (fTD w1) (shapeOf w2).m).drop (p.1 - rc).toNat).take p.2.2)

/-- Strings that fit ranges apart from each other are apart. -/
theorem apartBytes_of_fit {l : List ((Nat × Nat) × List Byte)} (hfit : ∀ x ∈ l, x.2.length ≤ x.1.2) (h : Apart (l.map Prod.fst)) :
    ApartBytes (l.map fun x => (x.1.1, x.2)) := by
  rw [ApartBytes, Apart, List.map_map, List.pairwise_map]
  rw [Apart, List.pairwise_map] at h
  refine h.imp_of_mem fun {x y} hx hy hxy => ?_
  have hxfit := hfit x hx
  have hyfit := hfit y hy
  dsimp only [Function.comp_apply]
  omega

theorem tileWrites_apart {rc : Word} {tf : TileFile} (h : Apart (os.map (fun o => (o, 64)) ++ scs.map fun p => p.2)) :
    ApartBytes (tileWrites w1 w2 rc tf os scs) := by
  have hstrings : (tileRooms w1 w2 rc tf os scs).map (fun x => (x.1.1, x.2)) = tileWrites w1 w2 rc tf os scs := by
    rw [tileRooms, List.map_append, List.map_map, List.map_map]
    rfl
  have hrooms : (tileRooms w1 w2 rc tf os scs).map Prod.fst = os.map (fun o => (o, 64)) ++ scs.map fun p => p.2 := by
    conv => rhs; rw [← List.zipIdx_map_fst 0 os, List.map_map]
    rw [tileRooms, List.map_append, List.map_map, List.map_map]
    rfl
  rw [← hstrings]
  refine apartBytes_of_fit (fun x hx => ?_) (hrooms ▸ h)
  rcases List.mem_append.mp hx with hx | hx
  · obtain ⟨y, _, rfl⟩ := List.mem_map.mp hx
    exact Nat.le_of_eq (length_leOfNat ..)
  · obtain ⟨p, _, rfl⟩ := List.mem_map.mp hx
    exact List.length_take_le ..

theorem tstoreTile_run (hw : RowMoveLegal w1 w2 b2) (htag : b2.tile.tagOk (fTD w1) (shapeOf w2).fmt (shapeOf w2).bsc (shapeOf w2).bsz = true)
    (hr : RowsReached c .store w1 w2 b2 b3 b4 os scs) (hapart : Apart (os.map (fun o => (o, 64)) ++ scs.map fun p => p.2)) :
    ∃ b5, tstoreTile c w1 w2 b2 = .ok () b5 ∧ Written b4 b5 (tileWrites w1 w2 (b2.core.reg (fRC w1)) b4.tile os scs) := by
  obtain ⟨b5, hrun, hwritten⟩ := writes_run (ltsQuiet_of_open hr.free) (tileWrites_apart (w1 := w1) (w2 := w2) hapart)
  refine ⟨b5, ?_, hwritten⟩
  unfold tstoreTile
  refine (bind_ok (hw.shape_run b2)).trans ?_
  refine (bind_ok (need05_pass htag)).trans ?_
  refine (bind_ok (readReg_run _ b2)).trans ?_
  refine (bind_ok (readReg_run _ b2)).trans ?_
  refine (bind_ok (readReg_run _ b2)).trans ?_
  refine (bind_ok (hw.aligned_run b2)).trans ?_
  refine (bind_ok hr.rows).trans ?_
  refine (ite_bind_ok hr.scales).trans ?_
  refine (bind_ok (forM_pass fun o ho => hr.rowReady ho)).trans ?_
  refine (bind_ok (forM_pass fun p hp => hr.scaleReady hp)).trans ?_
  refine (bind_ok (get_run b4)).trans ?_
  refine Eq.trans ?_ hrun
  rw [tileWrites]
  refine congrFun (Eq.symm ((List.forM_append ..).trans ?_)) b4
  exact congr (congrArg bind (List.forM_map ..)) (funext fun _ => List.forM_map ..)

end

end Sys2Proof.Proofs
end

section
namespace Sys2Proof.Proofs
open Sys2Proof.Machine Sys2Proof.Laws

/-! TSTORE of Tun rows (R121), and the three as instructions that retire. -/

/-- The group that TSTORE names. -/
def storedGroup (w2 : W32) (b : Blk) : Word := b.tun.grp (shapeOf w2).grp

/-- The first Tun row that TSTORE reads: of the group's rows or of its companion rows, from RC on (R121). -/
def firstStored (w1 : BitVec 21) (w2 : W32) (b : Blk) : Nat :=
  gBase (storedGroup w2 b) + (if bit w1 1 then gCap (storedGroup w2 b) else 0) + (b.core.reg (fRC w1)).toNat

/-- What the checks before any translation ask of TSTORE from a group (R112, R118, R121). -/
structure TunStoreLegal (w1 : BitVec 21) (w2 : W32) (b : Blk) : Prop where
  only : onlyBits w2 (mROWS + mFMT + mGRP) = true
  format : (shapeOf w2).fmt = 8
  readable : readableGroup (storedGroup w2 b) = true
  companion : bit w1 1 = true → gClass (storedGroup w2 b) ≠ 0
  rows : (b.core.reg (fRC w1)).toNat + (shapeOf w2).m ≤ gCap (storedGroup w2 b)
  first : (b.core.reg (fRA w1)).toNat % 64 = 0
  stride : (b.core.reg (fRB w1)).toNat % 64 = 0

/-- What TSTORE writes of one Tun row: lane i at the i-th of the row's offsets. -/
def tunRowWrites (row : TunRow) (os : List Nat) : List (Nat × List Byte) := os.zipIdx.map fun y => (y.1, bytesOf 64 (lane 512 row y.2))

/-- What TSTORE writes from the Tun, for the rows from row `first` on. -/
def tunWrites (first : Nat) (t : Tun) (oss : List (List Nat)) : List (Nat × List Byte) :=
  oss.zipIdx.flatMap fun x => tunRowWrites (t.rows.get (first + x.2)) x.1

theorem tunRowWrites_ranges (row : TunRow) (os : List Nat) : (tunRowWrites row os).map (fun p => (p.1, p.2.length)) = os.map fun o => (o, 64) := by
  conv => rhs; rw [← List.zipIdx_map_fst 0 os, List.map_map]
  rw [tunRowWrites, List.map_map]
  exact List.map_congr_left fun y _ => congrArg (Prod.mk y.1) (length_leOfNat ..)

theorem tunWrites_ranges (first : Nat) (t : Tun) (oss : List (List Nat)) :
    (tunWrites first t oss).map (fun p => (p.1, p.2.length)) = oss.flatten.map fun o => (o, 64) := by
  conv => rhs; rw [← List.zipIdx_map_fst 0 oss, ← List.flatMap_def, List.map_flatMap]
  rw [tunWrites, List.map_flatMap]
  exact congrArg (List.flatMap · oss.zipIdx) (funext fun x => tunRowWrites_ranges _ x.1)

theorem tunWrites_forM (first : Nat) (t : Tun) (oss : List (List Nat)) : (tunWrites first t oss).forM (fun p => writeLtsFor p.1 p.2) =
    oss.zipIdx.forM fun x => x.1.zipIdx.forM fun y => writeLtsFor y.1 (bytesOf 64 (lane 512 (t.rows.get (first + x.2)) y.2)) := by
  rw [tunWrites, forM_flatMap]
  exact congrArg oss.zipIdx.forM (funext fun x => List.forM_map ..)

section
variable {c : Cfg} {w1 : BitVec 21} {w2 : W32} {b2 b3 : Blk} {oss : List (List Nat)}

theorem tstoreTun_run (hw : TunStoreLegal w1 w2 b2)
    (hrows : ((List.range (shapeOf w2).m).mapM fun r =>
      locateRow c .store (rowAddr (b2.core.reg (fRA w1)) (b2.core.reg (fRB w1)) r) 4) b2 = .ok oss b3)
    (hpds : (halves (gBase (storedGroup w2 b2)) (gRows (storedGroup w2 b2))).all (pdRuns b3) = true)
    (hfree : LtsOpen b3 (oss.flatten.map fun o => (o, 64))) (hapart : Apart (oss.flatten.map fun o => (o, 64))) :
    ∃ b5, tstoreTun c w1 w2 b2 = .ok () b5 ∧ Written b3 b5 (tunWrites (firstStored w1 w2 b2) b3.tun oss) := by
  have hquiet := ltsQuiet_of_open hfree
  obtain ⟨b5, hrun, hwritten⟩ := writes_run hquiet
    (show ApartBytes (tunWrites (firstStored w1 w2 b2) b3.tun oss) by rw [ApartBytes, tunWrites_ranges]; exact hapart)
  refine ⟨b5, ?_, hwritten⟩
  have hgroup : (readableGroup (storedGroup w2 b2) && !(bit w1 1 && decide (gClass (storedGroup w2 b2) = 0))) = true := by
    rw [hw.readable, Bool.true_and, Bool.not_eq_true', Bool.and_eq_false_imp]
    exact fun h => decide_eq_false (hw.companion h)
  have hready (o : Nat) (ho : o ∈ oss.flatten) : ltsReady o 64 b3 = .ok () b3 :=
    ltsReady_pass hfree (p := (o, 64)) (List.mem_map.mpr ⟨o, ho, rfl⟩)
  unfold tstoreTun
  refine (bind_ok (check_pass hw.only _ b2)).trans ?_
  refine (bind_ok (check_pass (by rw [hw.format]; rfl) _ b2)).trans ?_
  refine (bind_ok (get_run b2)).trans ?_
  refine (bind_ok (check_pass hgroup _ b2)).trans ?_
  refine (bind_ok (readReg_run _ b2)).trans ?_
  refine (bind_ok (check_pass (decide_eq_true hw.rows) _ b2)).trans ?_
  refine (bind_ok (readReg_run _ b2)).trans ?_
  refine (bind_ok (readReg_run _ b2)).trans ?_
  refine (bind_ok (moveAligned_pass (rc := none) hw.first hw.stride (fun _ h => by cases h) b2)).trans ?_
  refine (bind_ok hrows).trans ?_
  refine (bind_ok (needPds_pass hpds)).trans ?_
  refine (bind_ok (forM_pass fun os hos => forM_pass fun o ho => hready o (List.mem_flatten.mpr ⟨os, hos, ho⟩))).trans ?_
  refine (bind_ok (tunCross_quiet hquiet.beats hquiet.fatal _)).trans ?_
  refine (bind_ok (get_run b3)).trans ?_
  exact (congrFun (tunWrites_forM (firstStored w1 w2 b2) b3.tun oss) b3).symm.trans hrun
end

/-- A tile begun, and rows put in it: the other tiles read as before, and its own rows those that were put there. -/
theorem loadedTile_reads (w1 : BitVec 21) (w2 : W32) (b : Blk) (os : List Nat) (scs : List (Word × Nat × Nat)) :
    let tf := loadedTile w1 w2 b os scs
    TilesElse b.tile tf [fTD w1] ∧ tf.used (fTD w1) = true ∧
      tf.tag (fTD w1) = mkTag (shapeOf w2).fmt (shapeOf w2).bsc (shapeOf w2).bsz ∧
      ∀ r, r < 64 → tf.row (fTD w1) r = (if r < (shapeOf w2).m then loadedRow b (os.getD r 0) else b.tile.row (fTD w1) r) ∧
        tf.scale (fTD w1) r = (if r < (shapeOf w2).m then loadedScale b scs r else b.tile.scale (fTD w1) r) := by
  obtain ⟨hused, htag, hkept⟩ := begin_self b.tile (fTD_lt w1) (mkTag (shapeOf w2).fmt (shapeOf w2).bsc (shapeOf w2).bsz)
  obtain ⟨husedAfter, htagAfter⟩ := putRows_head (t := fTD w1) (fun r => loadedRow b (os.getD r 0)) (loadedScale b scs) (shapeOf w2).m
    (b.tile.begin_ (fTD w1) (mkTag (shapeOf w2).fmt (shapeOf w2).bsc (shapeOf w2).bsz))
  refine ⟨tilesElse_of_sameTile fun u hu => ?_, husedAfter.trans hused, htagAfter.trans htag, fun r hr => ?_⟩
  · have hut : u ≠ fTD w1 := fun e => hu (List.mem_singleton.mpr e)
    exact sameTile_trans u _ _ _ (begin_other b.tile hut _) (putRows_otherTile _ _ hut _ (shape_rows w2))
  · obtain ⟨hrow, hscale⟩ := hkept r hr
    rw [← hrow, ← hscale]
    exact putRows_row _ _ hused (shapeOf w2).m r

theorem tstoreBody_tun {w1 : BitVec 21} (h : bit w1 0 = true) (c : Cfg) (w2 : W32) : tstoreBody c w1 w2 = tstoreTun c w1 w2 := if_pos h

theorem tstoreBody_tile {w1 : BitVec 21} (h : bits w1 1 0 = 0) (c : Cfg) (w2 : W32) : tstoreBody c w1 w2 = tstoreTile c w1 w2 := by
  have hlow : bit w1 0 = false := by
    rw [bits, Nat.shiftRight_zero] at h
    rw [bit, BitVec.getLsbD, Nat.testBit_zero]
    exact decide_eq_false (by omega)
  exact if_neg (by rw [hlow]; exact Bool.false_ne_true)

/-- Settles O23: each instruction's own computation in the block in which it works, and what its writes leave of the tiles or the LTS. -/
theorem tileLoadsAndStores : Obligations.TileLoadsAndStores := by
  intro s w1 w2 b2 b3 b4 os scs h sh t ra rb rc legal reaches bytes
  have hlegal (hl : legal) : RowMoveLegal w1 w2 b2 := by
    obtain ⟨hzero, honly, hformat, hscaled, hunscaled, hfirst, hstride⟩ := hl
    exact ⟨hzero, honly, hformat, hscaled, hunscaled, hfirst, hstride⟩
  have hreached {acc : Acc} (hr : reaches acc) : RowsReached s.cfg acc w1 w2 b2 b3 b4 os scs := by
    obtain ⟨hrows, hscales, hopen⟩ := hr
    exact ⟨hrows, hscales, hopen⟩
  refine ⟨fun hl hr => ?_, fun hl htag hr hapart => ?_, ?_⟩
  · exact ⟨_, tileExec_retires h (.tload w1 w2) rfl (tloadBody_run (hlegal hl) (hreached hr)), loadedTile_reads w1 w2 b4 os scs⟩
  · obtain ⟨b5, hrun, hwritten⟩ := tstoreTile_run (hlegal hl) htag (hreached hr) hapart
    rw [← tstoreBody_tile (hlegal hl).zero] at hrun
    exact ⟨b5, tileExec_retires h (.tstore w1 w2) rfl hrun, hwritten⟩
  · intro oss v first htun honly hfmt hreadable hcomp hrows hra hrb hlocated hpds hopen hapart
    obtain ⟨b5, hrun, hwritten⟩ := tstoreTun_run ⟨honly, hfmt, hreadable, hcomp, hrows, hra, hrb⟩ hlocated hpds hopen hapart
    rw [← tstoreBody_tun htun] at hrun
    have hgroup := tileExec_retires h (.tstoreTun w1 w2) rfl hrun
    exact ⟨b5, hgroup, (tileExec_retires h (.tstore w1 w2) rfl hrun).trans hgroup.symm, hwritten⟩

end Sys2Proof.Proofs
end

section
namespace Sys2Proof.Proofs
open Sys2Proof.Machine Sys2Proof.Laws

/-! Sparge's streams in their store, and the end of a stream (R173, R184, R187). -/

theorem find_alPut (n : Nat) (x : α) : ∀ xs : List (Nat × α), ((alPut xs n x).find? fun e => e.1 == n) = some (n, x)
  | [] => by simp [alPut]
  | (m, y) :: xs => by
    by_cases hlt : n < m
    · simp [alPut, hlt]
    · by_cases heq : n = m
      · simp [alPut, heq]
      · simp [alPut, hlt, heq, Ne.symm heq, find_alPut n x xs]

theorem filter_alPut (n : Nat) (x : α) : ∀ xs : List (Nat × α), (alPut xs n x).filter (fun e => e.1 != n) = xs.filter fun e => e.1 != n
  | [] => by simp [alPut]
  | (m, y) :: xs => by
    by_cases hlt : n < m
    · simp [alPut, hlt]
    · by_cases heq : n = m
      · simp [alPut, heq]
      · simp [alPut, hlt, heq, List.filter_cons, filter_alPut n x xs]

@[simp] theorem streamOf_setStream (b : Blk) (n : Nat) (x : Stream) : streamOf (setStream b n x) n = some x := by
  simp only [streamOf, setStream, find_alPut, Option.map_some]

theorem dropStream_setStream (b : Blk) (n : Nat) (x : Stream) : dropStream (setStream b n x) n = dropStream b n := by
  simp only [dropStream, setStream, filter_alPut]

theorem dropStream_sparge (b : Blk) (n : Nat) :
    (dropStream b n).sparge = { b.sparge with streams := b.sparge.streams.filter fun e => e.1 != n } := rfl

theorem streamOf_dropStream (b : Blk) (n : Nat) : streamOf (dropStream b n) n = none := by
  rw [streamOf, dropStream_sparge, Option.map_eq_none_iff, List.find?_eq_none]
  intro e he
  simpa using (List.mem_filter.mp he).2

theorem getRing_dropStream (b : Blk) (n m : Nat) : getRing (dropStream b n) m = getRing b m := by
  unfold dropStream spargeIdle
  split <;> rfl

theorem spargeEpoch_same {b : Blk} (h : (epochReady b).getD b.rings.epSparge = b.rings.epSparge) : spargeEpoch b = b := by
  unfold spargeEpoch
  rw [h]

/-- Without its last stream Sparge is idle and applies the pending epoch (R187). -/
theorem dropStream_last {b : Blk} {n : Nat} (h : (b.sparge.streams.filter fun e => e.1 != n) = []) :
    dropStream b n = spargeEpoch { b with sparge := { b.sparge with streams := [] } } := by
  unfold dropStream spargeIdle
  rw [h]
  rfl

/-- A stream with no signal to come ends at once: its reads are dropped, its store entry goes, its descriptor is done (R184, R188). -/
theorem streamEnd_eq {b : Blk} {n : Nat} {y : Stream} (hy : streamOf b n = some y) (hsignals : y.signals = 0) (hfatal : b.err.fatal = false)
    (st : BitVec 8) : streamEnd b n st = finishDesc (dropStream (discardReads b n) n) (streamRing n) (if st = 0 then 0 else 1)
      (BitVec.ofNat 32 (y.flags.toNat + 256 * st.toNat + 65536 * y.epoch.toNat)) 0 y.epoch := by
  have hkept : streamOf (discardReads b n) n = some y := hy
  have hend : (decide (y.signals ≠ 0) || (discardReads b n).err.fatal) = false := by
    rw [show (discardReads b n).err.fatal = false from hfatal, hsignals]
    rfl
  unfold streamEnd
  simp only [hkept, streamFinish, streamOf_setStream, dropStream_setStream]
  exact if_neg (by rw [Bool.not_eq_true]; exact hend)

/-- Block b1 is b after stream n, in state y, has ended with status st. -/
structure StreamEnded (b b1 : Blk) (n : Nat) (y : Stream) (st : BitVec 8) : Prop where
  frame : b1 = { b with sparge := b1.sparge, rings := b1.rings, ports := b1.ports }
  counts : b1.sparge.sprod = b.sparge.sprod
  last : b1.sparge.last = b.sparge.last
  gone : streamOf b1 n = none
  done : (getRing b1 (streamRing n)).st = .done
  status : (getRing b1 (streamRing n)).status = if st = 0 then 0 else 1
  result : (getRing b1 (streamRing n)).result = BitVec.ofNat 32 (y.flags.toNat + 256 * st.toNat + 65536 * y.epoch.toNat)
  others : ∀ m, m ≠ streamRing n → getRing b1 m = getRing b m

theorem streamEnd_ended {b : Blk} {n : Nat} {y : Stream} (hy : streamOf b n = some y) (hsignals : y.signals = 0) (hfatal : b.err.fatal = false)
    (st : BitVec 8) : StreamEnded b (streamEnd b n st) n y st := by
  rw [streamEnd_eq hy hsignals hfatal]
  have hring := fun r => getRing_setRing (dropStream (discardReads b n) n) (streamRing n) r
  exact {
    frame := rfl
    counts := rfl
    last := rfl
    gone := streamOf_dropStream (discardReads b n) n
    done := by rw [finishDesc, modRing, hring]
    status := by rw [finishDesc, modRing, hring]
    result := by rw [finishDesc, modRing, hring]
    others := fun m hm => (getRing_setRing_other _ _ m _ hm).trans (getRing_dropStream _ n m) }

end Sys2Proof.Proofs
end

section
namespace Sys2Proof.Proofs
open Sys2Proof.Machine Sys2Proof.Laws

/-! STREAM_BEGIN (R165–R168, R184, R187). -/

/-- The stream of the descriptor at stream ring n, under the epoch that Sparge applies as it begins (R187). -/
def headStream (b : Blk) (n : Nat) : Stream := (getRing b (streamRing n)).stream (spargeEpoch b).rings.epSparge

/-- The block in which the stream of stream ring n has begun. -/
def begunStream (b : Blk) (n : Nat) : Blk :=
  setStream (setRing (spargeEpoch b) (streamRing n) { getRing b (streamRing n) with st := .begun }) n (headStream b n)

theorem streamOf_begun (b : Blk) (n : Nat) : streamOf (begunStream b n) n = some (headStream b n) := streamOf_setStream ..

/-- Stream ring n is below 4, Sparge and the front end run, and the ring's descriptor is checked and may begin, but for its epoch. -/
structure StreamReady (b : Blk) (n : Nat) : Prop where
  ring : n < 4
  front : frontRuns b = true
  domain : pdRuns b 17 = true
  checked : (getRing b (streamRing n)).st = .ready
  run : (getRing b (streamRing n)).run = true
  halting : (getRing b (streamRing n)).halting = false

/-- The front end does not run in fatal state (R308). -/
theorem StreamReady.fatal {b : Blk} {n : Nat} (h : StreamReady b n) : b.err.fatal = false := by
  have hfront := h.front
  simp only [frontRuns, Bool.and_eq_true, Bool.not_eq_true'] at hfront
  obtain ⟨⟨_, hfatal⟩, _⟩ := hfront
  exact hfatal

/-- The descriptor names no epoch, or one that Sparge has reached (R187). -/
def epochMet (b : Blk) (n : Nat) : Prop :=
  (getRing b (streamRing n)).fld 0x30 16 16 = 0 ∨
    reached (spargeEpoch b).rings.epSparge (BitVec.ofNat 16 ((getRing b (streamRing n)).fld 0x30 15 0)) = true

/-- The stream's areas lie in its world's partition (R184, R313). -/
structure AreasFit (c : Cfg) (b : Blk) (world : Bool) (x : Stream) : Prop where
  span : (partition c b world).1 + 16384 ≤ (partition c b world).2
  buffer : areaOk c b world x.bufoff x.buf = true
  scales : x.narrow = true → areaOk c b world x.scoff (x.buf / 8) = true

/-- A check of the data, and where there are scale bytes of them, that passes. -/
theorem withScales {data narrow scales : Bool} (hdata : data = true) (hscales : narrow = true → scales = true) :
    (!data || (narrow && !scales)) = false := by
  cases narrow with
  | false => rw [hdata]; rfl
  | true => rw [hdata, hscales rfl]; rfl

theorem streamBegin_notReady (c : Cfg) {b : Blk} {n : Nat} (h : (getRing b (streamRing n)).st ≠ .ready) : streamBegin c b n = b := by
  unfold streamBegin
  exact if_pos (by simp [h])

/-- A ring whose descriptor may not begin leaves the block; else Sparge applies the pending epoch, and with the descriptor's epoch not
reached nothing more is done (R187). -/
theorem streamBegin_awaits (c : Cfg) {b : Blk} {n : Nat} (hn : n < 4) (hfront : frontRuns b = true) (hdomain : pdRuns b 17 = true)
    (hnamed : (getRing b (streamRing n)).fld 0x30 16 16 = 1)
    (hunmet : reached (spargeEpoch b).rings.epSparge (BitVec.ofNat 16 ((getRing b (streamRing n)).fld 0x30 15 0)) = false) :
    streamBegin c b n = if (getRing b (streamRing n)).st = .ready ∧ (getRing b (streamRing n)).run = true ∧
      (getRing b (streamRing n)).halting = false then spargeEpoch b else b := by
  unfold streamBegin
  by_cases hready : (getRing b (streamRing n)).st = .ready ∧ (getRing b (streamRing n)).run = true ∧ (getRing b (streamRing n)).halting = false
  · rw [if_pos hready]
    obtain ⟨hst, hrun, hhalting⟩ := hready
    refine (if_neg ?_).trans (if_pos ?_)
    · simp [hn, hfront, hdomain, hst, hrun, hhalting]
    · simp [hnamed, hunmet]
  · rw [if_neg hready]
    refine if_pos ?_
    simp only [Classical.not_and_iff_not_or_not, Bool.not_eq_true, Bool.not_eq_false] at hready
    rcases hready with hst | hrun | hhalting
    · simp [hst]
    · simp [hrun]
    · simp [hhalting]

/-- A descriptor that may begin, with areas that fit, ends at once when none of its source is left, and is fetched otherwise. -/
theorem streamBegin_begins {c : Cfg} {b : Blk} {n : Nat} (h : StreamReady b n) (hepoch : epochMet b n)
    (hfit : AreasFit c b (getRing b (streamRing n)).ctx.world (headStream b n)) :
    streamBegin c b n = if (headStream b n).len ≤ (headStream b n).donesrc then streamEnd (begunStream b n) n 0
      else streamFetch c fetchFuel (sprodAlign (begunStream b n) n (headStream b n)) n := by
  have hstart : (decide (4 ≤ n) || !frontRuns b || !pdRuns b 17 || decide ((getRing b (streamRing n)).st ≠ .ready) ||
      !(getRing b (streamRing n)).run || (getRing b (streamRing n)).halting) = false := by
    simp [h.ring, h.front, h.domain, h.checked, h.run, h.halting]
  have hnow : ¬ (decide ((getRing b (streamRing n)).fld 0x30 16 16 = 1) &&
      !reached (spargeEpoch b).rings.epSparge (BitVec.ofNat 16 ((getRing b (streamRing n)).fld 0x30 15 0))) = true := by
    rcases hepoch with hepoch | hepoch <;> simp [hepoch]
  have hspan : decide ((partition c b (getRing b (streamRing n)).ctx.world).2 - (partition c b (getRing b (streamRing n)).ctx.world).1 < 16384) =
      false := by
    have := hfit.span
    exact decide_eq_false (by omega)
  have hareas := withScales hfit.buffer hfit.scales
  rw [Bool.or_eq_false_iff] at hareas
  obtain ⟨hbuffer, hscales⟩ := hareas
  unfold streamBegin
  rw [if_neg (by rw [hstart]; decide)]
  refine (if_neg hnow).trans ?_
  exact if_neg (Bool.eq_false_iff.mp (Bool.or_eq_false_iff.mpr ⟨Bool.or_eq_false_iff.mpr ⟨hspan, hbuffer⟩, hscales⟩))

/-- Requests of stream ring n that its end would drop. -/
def streamRequest (n : Nat) (p : Purpose) : Prop := (∃ off, p = .sparge n off) ∨ p = .adUpdate (16 + n)

theorem discardReads_none {b : Blk} {n : Nat} (h : ∀ o ∈ b.ports.outMp ++ b.ports.outFp, ¬ streamRequest n o.purpose) :
    discardReads b n = b := by
  have hkeep {f : Outst → Outst} {os : List Outst} (hf : ∀ o ∈ os, f o = o) : os.map f = os := (List.map_congr_left hf).trans (List.map_id os)
  unfold discardReads
  dsimp only
  rw [hkeep (os := b.ports.outMp), hkeep (os := b.ports.outFp)]
  all_goals
    intro o ho
    split
    · next m k hp => exact if_neg fun hm => h o (by simp [ho]) (Or.inl ⟨k, by rw [hp, hm]⟩)
    · next q hp => exact if_neg fun hq => h o (by simp [ho]) (Or.inr (by rw [hp, hq]))
    · rfl

/-- A stream with no source left, where no other is in progress and none of its requests is outstanding: its descriptor is done at once. -/
theorem streamBegin_ends {c : Cfg} {b : Blk} {n : Nat} (h : StreamReady b n) (hepoch : epochMet b n)
    (hfit : AreasFit c b (getRing b (streamRing n)).ctx.world (headStream b n)) (hempty : (headStream b n).len ≤ (headStream b n).donesrc)
    (hnone : ∀ o ∈ b.ports.outMp ++ b.ports.outFp, ¬ streamRequest n o.purpose) (halone : b.sparge.streams = []) :
    streamBegin c b n = setRing { spargeEpoch b with sparge := { b.sparge with streams := [] } } (streamRing n) { getRing b (streamRing n) with
      st := .done, status := 0, result := BitVec.ofNat 32 (65536 * (headStream b n).epoch.toNat), detail := 0
      epoch := (headStream b n).epoch } := by
  have hdropped : dropStream (begunStream b n) n =
      setRing { spargeEpoch b with sparge := { b.sparge with streams := [] } } (streamRing n) { getRing b (streamRing n) with st := .begun } := by
    rw [begunStream, dropStream_setStream, dropStream_last (by rw [setRing_sparge, spargeEpoch, halone, List.filter_nil])]
    refine spargeEpoch_same ?_
    show (epochReady b).getD ((epochReady b).getD b.rings.epSparge) = (epochReady b).getD b.rings.epSparge
    cases epochReady b <;> rfl
  have hresult : (headStream b n).flags.toNat + 256 * (0 : BitVec 8).toNat + 65536 * (headStream b n).epoch.toNat =
      65536 * (headStream b n).epoch.toNat := Nat.zero_add _
  rw [streamBegin_begins h hepoch hfit, if_pos hempty, streamEnd_eq (streamOf_begun b n) rfl h.fatal 0,
    discardReads_none (b := begunStream b n) hnone, hdropped, finishDesc, modRing, getRing_setRing, setRing_setRing, hresult, if_pos rfl]

/-- Stream y has staged nothing and waits for nothing. -/
structure FreshStream (y : Stream) : Prop where
  staged : y.staged = []
  reading : y.reading = false
  parked : y.parked = false
  ended : y.ended = none
  writeback : y.writeback = false
  update : y.ad = none

theorem headStream_fresh (b : Blk) (n : Nat) : FreshStream (headStream b n) := ⟨rfl, rfl, rfl, rfl, rfl, rfl⟩

/-- Stream y of context ctx starts at its source's first byte, without translation and aligned to a line; after redirection it is `a`, which
lies on this chip outside block space, in a region that may be read and is not cached. -/
structure FirstPiece (c : Cfg) (ctx : RingCtx) (y : Stream) (a : Word) : Prop where
  begins : y.donesrc = 0
  nonempty : 0 < y.len
  needs : y.input = .need
  untranslated : ctx.ten = false
  aligned : y.src.toNat % 64 = 0
  assigned : unassigned y.src = false
  node : nodeOf a = c.node
  space : inBlockSpace a = false
  region : ∃ t, t ≠ .cacheable ∧ regionCheck c a ctx.world false needR false = .ok t

/-- The read of the first source bytes of stream n, at `a` (R183). -/
def firstRead (world : Bool) (n : Nat) (y : Stream) (a : Word) : Request :=
  { op := .rd, addr := BitVec.ofNat 64 (a.toNat / 64 * 64), be := byteMask (a.toNat % 64) (Nat.min y.len 64), operand := 0, data := 0
    world := world, purpose := .sparge n 0 }

theorem streamFetch_asks {c : Cfg} {b : Blk} {n f : Nat} {y : Stream} {a : Word} (hf : 0 < f) (hy : streamOf b n = some y) (hfresh : FreshStream y)
    (ha : redirect c b y.epoch y.src = a) (hpiece : FirstPiece c (getRing b (streamRing n)).ctx y a) (hfatal : b.err.fatal = false)
    (hport : pdRuns b 18 = true) :
    streamFetch c f b n =
      issueReq c false (firstRead (getRing b (streamRing n)).ctx.world n y a) (setStream b n { y with reading := true }) := by
  obtain ⟨k, rfl⟩ : ∃ k, f = k + 1 := Nat.exists_eq_add_one.mpr hf
  obtain ⟨hstaged, hreading, hparked, hended, hback, had⟩ := hfresh
  obtain ⟨hdone, hlen, hneed, hten, haligned, hassigned, hnode, hspace, t, htype, hregion⟩ := hpiece
  have htranslate : agentTranslate b (getRing b (streamRing n)).ctx .load y.src = (.ok y.src, b) := by
    simp only [agentTranslate, hten, hassigned, Bool.not_false, if_true, Bool.false_eq_true, if_false]
  simp only [streamFetch, hy, hfatal, hreading, hparked, hended, hback, had, hdone, hstaged, Nat.not_le.mpr hlen, hneed, List.length_nil,
    Nat.add_zero, Nat.sub_zero, haligned, BitVec.ofNat_eq_ofNat, BitVec.add_zero, htranslate, ha, hnode, hspace, hregion, htype, hport,
    Option.isSome_none, decide_false, ne_eq, not_true_eq_false, Bool.or_false, Bool.false_eq_true, if_false, bne_self_eq_false, Bool.not_true]
  rfl

/-- The redirection of an address depends on the redirect tables alone (R293). -/
theorem redirect_mmu (c : Cfg) {b b1 : Blk} (h : b1.mmu = b.mmu) (e : BitVec 16) (a : Word) : redirect c b1 e a = redirect c b e a := by
  unfold redirect tableFor
  rw [h]

theorem pdRuns_pwr {b b1 : Blk} (h : b1.pwr = b.pwr) (d : Nat) : pdRuns b1 d = pdRuns b d := by
  unfold pdRuns pdOn
  rw [h]

theorem setStream_sprodAlign (b : Blk) (n : Nat) (x y z : Stream) :
    setStream (sprodAlign (setStream b n x) n y) n z = setStream (sprodAlign b n y) n z := by
  simp only [setStream, sprodAlign, alPut_alPut]

/-- The stream that begins with source to read. -/
theorem streamBegin_asks {c : Cfg} {b : Blk} {n : Nat} {a : Word} (h : StreamReady b n) (hepoch : epochMet b n)
    (hfit : AreasFit c b (getRing b (streamRing n)).ctx.world (headStream b n))
    (ha : redirect c (spargeEpoch b) (headStream b n).epoch (headStream b n).src = a)
    (hpiece : FirstPiece c (getRing b (streamRing n)).ctx (headStream b n) a) (hport : pdRuns b 18 = true) :
    streamBegin c b n = issueReq c false (firstRead (getRing b (streamRing n)).ctx.world n (headStream b n) a)
      (setStream (sprodAlign (setRing (spargeEpoch b) (streamRing n) { getRing b (streamRing n) with st := .begun }) n (headStream b n)) n
        { headStream b n with reading := true }) := by
  have hstream : streamOf (sprodAlign (begunStream b n) n (headStream b n)) n = some (headStream b n) := streamOf_begun b n
  have hring : getRing (sprodAlign (begunStream b n) n (headStream b n)) (streamRing n) = { getRing b (streamRing n) with st := .begun } :=
    getRing_setRing ..
  have hleft : ¬ (headStream b n).len ≤ (headStream b n).donesrc := by
    rw [hpiece.begins]
    exact Nat.not_le.mpr hpiece.nonempty
  have hmmu : (sprodAlign (begunStream b n) n (headStream b n)).mmu = (spargeEpoch b).mmu := by simp [begunStream]
  have hpwr : (sprodAlign (begunStream b n) n (headStream b n)).pwr = b.pwr := by simp [begunStream]
  have hfatal : (sprodAlign (begunStream b n) n (headStream b n)).err.fatal = false := by simp [begunStream, h.fatal]
  have hfirst : FirstPiece c (getRing (sprodAlign (begunStream b n) n (headStream b n)) (streamRing n)).ctx (headStream b n) a := by
    rw [hring]
    exact hpiece
  have hfuel : 0 < fetchFuel := by decide
  rw [streamBegin_begins h hepoch hfit, if_neg hleft, streamFetch_asks hfuel hstream (headStream_fresh b n)
    ((redirect_mmu c hmmu _ _).trans ha) hfirst hfatal ((pdRuns_pwr hpwr 18).trans hport), hring, begunStream, setStream_sprodAlign]

end Sys2Proof.Proofs
end

section
namespace Sys2Proof.Proofs
open Sys2Proof.Machine Sys2Proof.Laws

/-! SPARGE_CHUNK (R168–R175, R184). -/

/-- A block in which Sparge decodes: not in fatal state, its domain clocked, in Run. -/
structure SpargeRuns (b : Blk) : Prop where
  fatal : b.err.fatal = false
  domain : pdRuns b 17 = true
  run : b.pwr.state = .run

theorem SpargeRuns.goes {b : Blk} (h : SpargeRuns b) : ¬ (b.err.fatal || !pdRuns b 17 || decide (b.pwr.state ≠ .run)) = true := by
  simp [h.fatal, h.domain, h.run]

/-- The decoder has served stream n (R175). -/
def servedBy (b : Blk) (n : Nat) : Blk := { b with sparge := { b.sparge with last := BitVec.ofNat 2 n } }

theorem spargeChunk_none (c : Cfg) {b : Blk} (h : chunkPick b = none) : spargeChunk c b = b := by
  unfold spargeChunk
  rw [h]
  exact ite_self b

theorem chunkReady_of_pick {b : Blk} {n : Nat} (h : chunkPick b = some n) : chunkReady b n = true := List.find?_some h

/-- Without credit for a chunk the decoder does not serve a ring (R170). -/
theorem chunkPick_credit {b : Blk} {n : Nat} {y : Stream} (hy : streamOf b n = some y) (h : chunkPick b = some n) :
    decide (nextCount b n + y.chunk ≤ (b.sparge.scons.get n).toNat + y.buf) = true := by
  have hready := chunkReady_of_pick h
  unfold chunkReady at hready
  rw [hy] at hready
  simp only [Bool.and_eq_true] at hready
  exact hready.2

/-- Input that cannot be decoded ends the stream (R184). -/
theorem spargeChunk_error (c : Cfg) {b : Blk} {n e : Nat} {y : Stream} (h : SpargeRuns b) (hpick : chunkPick b = some n)
    (hy : streamOf b n = some y) (hin : y.input = .err e) : spargeChunk c b = streamEnd (servedBy b n) n (BitVec.ofNat 8 e) := by
  unfold spargeChunk
  rw [if_neg h.goes]
  simp only [hpick, hy, hin]
  rfl

/-- The byte strings of a chunk at their LTS offsets, with the chunk's first byte at `o` of the buffer: its data, and its scale bytes where
the output has them (R168, R169). -/
def chunkPieces (y : Stream) (o : Nat) (out : List Byte × List Byte × CvtFlags) : List (Nat × List Byte) :=
  (y.bufoff + o, out.1) :: (if y.narrow then [(y.scoff + o / 8, out.2.1)] else [])

/-- The chunk deposited. -/
def depositChunk (world : Bool) (y : Stream) (o : Nat) (out : List Byte × List Byte × CvtFlags) (b : Blk) : Blk :=
  let b := (ltsWrite world (y.bufoff + o) out.1 b).2
  if y.narrow then (ltsWrite world (y.scoff + o / 8) out.2.1 b).2 else b

theorem depositChunk_written {b : Blk} (h : LtsQuiet b) (world : Bool) {y : Stream} {o : Nat} {out : List Byte × List Byte × CvtFlags}
    (hapart : ApartBytes (chunkPieces y o out)) : Written b (depositChunk world y o out b) (chunkPieces y o out) := by
  obtain ⟨b1, hrun1, hw1⟩ := ltsWrite_quiet h world (y.bufoff + o) out.1
  unfold depositChunk
  unfold chunkPieces at hapart ⊢
  simp only [hrun1]
  cases hnarrow : y.narrow with
  | false => simpa using hw1
  | true =>
    obtain ⟨b2, hrun2, hw2⟩ := ltsWrite_quiet (quiet_of_written hw1 h) world (y.scoff + o / 8) out.2.1
    rw [hnarrow, if_pos rfl] at hapart
    simp only [hrun2, if_true]
    exact written_cons hw1 hw2 hapart

/-- What a write does to the LTS it does whatever the rest of the block. -/
theorem written_lts {b b' b1 : Blk} {ps : List (Nat × List Byte)} (h : Written b b1 ps) (hlts : b.lts = b'.lts) :
    Written b' { b' with lts := b1.lts } ps := by
  obtain ⟨_, hflips, hin, hout⟩ := h
  exact ⟨rfl, hflips, hin, fun j hj => (hout j hj).trans (by rw [hlts])⟩

/-- The chunk at `o` of the buffer fits its areas, its quarters can be written now, and its byte strings do not overlap. -/
structure ChunkFits (c : Cfg) (b : Blk) (world : Bool) (y : Stream) (o : Nat) (dec : List Byte) : Prop where
  data : areaOk c b world (y.bufoff + o) y.chunk = true
  scales : y.narrow = true → areaOk c b world (y.scoff + o / 8) (y.chunk / 8) = true
  dataReady : ltsRangeReady b (y.bufoff + o) y.chunk = true
  scalesReady : y.narrow = true → ltsRangeReady b (y.scoff + o / 8) (y.chunk / 8) = true
  apart : ApartBytes (chunkPieces y o (y.output dec))

/-- Where in the buffer the next chunk of stream y begins (R168). -/
def chunkStart (b : Blk) (n : Nat) (y : Stream) : Nat := nextCount b n % y.buf

/-- Block b with the next chunk of stream n served, decoded and deposited. -/
def depositedChunk (b : Blk) (n : Nat) (y : Stream) (dec : List Byte) : Blk :=
  depositChunk (getRing b (streamRing n)).ctx.world y (chunkStart b n y) (y.output dec) (servedBy b n)

/-- Stream y after a chunk is counted. -/
def countedStream (y : Stream) (dec : List Byte) (used : Nat) : Stream :=
  { y with
    donech := y.donech + 1, donesrc := y.donesrc + used, staged := y.staged.drop used
    signals := if y.syncen then y.signals + 1 else y.signals
    flags := if y.conv then y.flags ||| streamFlags (y.output dec).2.2 else y.flags }

/-- The signal of a chunk of stream n, if it makes one, waits for the sync engine (R173). -/
def signalChunk (b : Blk) (n : Nat) (y : Stream) (world : Bool) : Blk :=
  if y.syncen then
    { b with sync := { b.sync with queue := b.sync.queue ++ [{ src := .stream n, op := 1, obj := y.syncobj, x := 1, world := world }] } }
  else b

/-- Block b after a deposit that left it as `d`, with the chunk counted. -/
def countedChunk (b d : Blk) (n : Nat) (y : Stream) (dec : List Byte) (used : Nat) : Blk :=
  let ctx := (getRing b (streamRing n)).ctx
  let d := { d with sparge := { d.sparge with sprod := d.sparge.sprod.set n (BitVec.ofNat 64 (nextCount b n + y.chunk)) } }
  spargeEpoch (setStream (signalChunk (countEvents d 0x0A ctx.lv ctx.world 1) n y ctx.world) n (countedStream y dec used))

theorem streamOf_counted (b d : Blk) (n : Nat) (y : Stream) (dec : List Byte) (used : Nat) :
    streamOf (countedChunk b d n y dec used) n = some (countedStream y dec used) := streamOf_setStream ..

/-- A chunk that fits is deposited and counted; with it the stream ends, or is fetched further (R168–R175). -/
theorem spargeChunk_counts {c : Cfg} {b : Blk} {n used : Nat} {y : Stream} {dec : List Byte} (h : SpargeRuns b) (hpick : chunkPick b = some n)
    (hy : streamOf b n = some y) (hin : y.input = .ok dec used)
    (hfits : ChunkFits c b (getRing b (streamRing n)).ctx.world y (chunkStart b n y) dec)
    (hfatal : (depositedChunk b n y dec).err.fatal = false) :
    spargeChunk c b = if y.len ≤ y.donesrc + used then streamEnd (countedChunk b (depositedChunk b n y dec) n y dec used) n 0
      else streamFetch c fetchFuel (countedChunk b (depositedChunk b n y dec) n y dec used) n := by
  have hareas := withScales hfits.data hfits.scales
  have hready := withScales hfits.dataReady hfits.scalesReady
  have hgoes : ¬ (depositedChunk b n y dec).err.fatal = true := by
    rw [hfatal]
    decide
  unfold spargeChunk
  rw [if_neg h.goes]
  simp only [hpick, hy, hin]
  exact (if_neg (Bool.eq_false_iff.mp hareas)).trans ((if_neg (Bool.eq_false_iff.mp hready)).trans (if_neg hgoes))

/-- Counting a chunk without a signal leaves what the deposit left but for Sparge, the rings' epoch and the counters. -/
theorem countedChunk_frame (b d : Blk) (n : Nat) {y : Stream} (dec : List Byte) (used : Nat) (hsilent : y.syncen = false) :
    let b1 := countedChunk b d n y dec used
    b1 = { d with sparge := b1.sparge, rings := b1.rings, obs := b1.obs } ∧ (∀ m, getRing b1 m = getRing d m) ∧
    b1.sparge.sprod = d.sparge.sprod.set n (BitVec.ofNat 64 (nextCount b n + y.chunk)) ∧ b1.sparge.last = d.sparge.last := by
  intro b1
  have hb1 : b1 = countedChunk b d n y dec used := rfl
  unfold countedChunk signalChunk at hb1
  dsimp only at hb1
  rw [if_neg (by rw [hsilent]; decide), countEvents_eq] at hb1
  rw [hb1]
  exact ⟨rfl, fun _ => rfl, rfl, rfl⟩

/-- The last chunk of a stream without signals: what it writes, and what its end leaves. -/
theorem spargeChunk_ends {c : Cfg} {b : Blk} {n used : Nat} {y : Stream} {dec : List Byte} (h : SpargeRuns b) (hpick : chunkPick b = some n)
    (hy : streamOf b n = some y) (hin : y.input = .ok dec used)
    (hfits : ChunkFits c b (getRing b (streamRing n)).ctx.world y (chunkStart b n y) dec)
    (hflips : b.lts.flips = []) (hbeats : b.sys.beats = []) (hsilent : y.syncen = false) (hsignals : y.signals = 0)
    (hlast : y.len ≤ y.donesrc + used) :
    ∃ b2, Written b b2 (chunkPieces y (chunkStart b n y) (y.output dec)) ∧
      StreamEnded (countedChunk b { servedBy b n with lts := b2.lts } n y dec used) (spargeChunk c b) n (countedStream y dec used) 0 := by
  have hquiet : LtsQuiet (servedBy b n) := ⟨hflips, hbeats, h.fatal⟩
  have hw : Written (servedBy b n) (depositedChunk b n y dec) (chunkPieces y (chunkStart b n y) (y.output dec)) :=
    depositChunk_written hquiet _ hfits.apart
  have hfatal := (quiet_of_written hw hquiet).fatal
  have hdeposit : depositedChunk b n y dec = { servedBy b n with lts := (depositedChunk b n y dec).lts } := hw.1
  have hkept : (countedStream y dec used).signals = 0 := by
    rw [countedStream, hsilent]
    exact hsignals
  refine ⟨_, written_lts hw rfl, ?_⟩
  rw [spargeChunk_counts h hpick hy hin hfits hfatal, if_pos hlast, ← hdeposit]
  refine streamEnd_ended (streamOf_counted ..) hkept ?_ 0
  rw [(countedChunk_frame b _ n dec used hsilent).1]
  exact hfatal

/-! The two commands of Sparge as commands of the block. -/

theorem gives_streamBegin {s : State} {n : BitVec 2} {b : Blk} (h : streamBegin s.cfg s.blk n.toNat = b) : Gives s (.streamBegin n) b := by
  rw [← h]
  rfl

theorem gives_spargeChunk {s : State} {b : Blk} (h : spargeChunk s.cfg s.blk = b) : Gives s .spargeChunk b := by
  rw [← h]
  rfl

/-- Settles O38: the begin with and without source left, the last chunk, the chunk in error, and the rows that are not due. -/
theorem streams : Obligations.Streams := by
  intro s n c b ring r b0 x p a
  refine ⟨?_, ?_, ?_, ?_, ?_, ?_, ?_⟩
  · intro hfront h17 h18 hready hrun hhalting hepoch hten hspan hbuffer hscales
    have hdue : StreamReady b n.toNat := ⟨n.isLt, hfront, h17, hready, hrun, hhalting⟩
    have hfit : AreasFit c b r.ctx.world (headStream b n.toNat) := ⟨hspan, hbuffer, hscales⟩
    refine ⟨?_, ?_⟩
    · intro hempty hnone halone
      refine gives_streamBegin (streamBegin_ends hdue hepoch hfit hempty (fun o ho hreq => ?_) halone)
      rcases hreq with ⟨k, hk⟩ | hk
      · exact (hnone o ho k).1 hk
      · exact (hnone o ho 0).2 hk
    · intro hdone hlen haligned hassigned hnode hspace hneed hregion
      have hpos : 0 < (headStream b n.toNat).len := Nat.lt_of_lt_of_le (by decide) hlen
      refine gives_streamBegin (streamBegin_asks hdue hepoch hfit rfl
        ⟨hdone, hpos, hneed, hten, haligned, hassigned, hnode, hspace, ?_⟩ h18)
      rcases hregion with hregion | hregion
      · exact ⟨_, by decide, hregion⟩
      · exact ⟨_, by decide, hregion⟩
  · intro hnamed hunmet hfront h17
    exact gives_streamBegin (streamBegin_awaits c n.isLt hfront h17 hnamed hunmet)
  · exact fun hready => gives_streamBegin (streamBegin_notReady c hready)
  · intro y dec used start o out ps hfatal h17 hrun hpick hy hin hlast hsilent hsignals hflips hbeats hdata hscales hdataReady hscalesReady
      hapart
    obtain ⟨b2, hw, hended⟩ := spargeChunk_ends ⟨hfatal, h17, hrun⟩ hpick hy hin ⟨hdata, hscales, hdataReady, hscalesReady, hapart⟩
      hflips hbeats hsilent hsignals hlast
    obtain ⟨hframe, hrings, hcounts, hserved⟩ := countedChunk_frame b { servedBy b n.toNat with lts := b2.lts } n.toNat dec used hsilent
    refine ⟨_, b2, hw, gives_spargeChunk rfl, ?_, hended.counts.trans hcounts, (hended.last.trans hserved).trans (BitVec.ofNat_toNat 2 n),
      hended.gone, hended.done, hended.status, fun m hm => (hended.others m hm).trans (hrings m)⟩
    rw [hended.frame, hframe]
    rfl
  · intro y e hfatal h17 hrun hpick hy hin hsignals
    have hended : StreamEnded (servedBy b n.toNat) _ n.toNat y (BitVec.ofNat 8 e) := streamEnd_ended (b := servedBy b n.toNat) hy hsignals hfatal _
    refine ⟨_, gives_spargeChunk (spargeChunk_error c ⟨hfatal, h17, hrun⟩ hpick hy hin), hended.frame, hended.counts,
      hended.last.trans (BitVec.ofNat_toNat 2 n), hended.gone, hended.done, ?_, hended.result, hended.others⟩
    have hzero : BitVec.ofNat 8 e = 0 ↔ e % 256 = 0 := by rw [← BitVec.toNat_inj, BitVec.toNat_ofNat]; rfl
    exact hended.status.trans (ite_congr (propext hzero) (fun _ => rfl) (fun _ => rfl))
  · exact fun hnone => gives_spargeChunk (spargeChunk_none c hnone)
  · intro y m hy hcredit hpick
    rw [chunkPick_credit hy hpick] at hcredit
    exact Bool.noConfusion hcredit

end Sys2Proof.Proofs
end

section
namespace Sys2Proof.Proofs
open Sys2Proof.Machine Sys2Proof.Laws

/-! CR_SCONS, CR_STAIL and CR_DTAIL (R164, R171, R349). -/

/-- The illegal control-register value exception (R243, R247). -/
def crValueTrap (cr : BitVec 12) : Trap :=
  { cause := 2, detail := cr.zeroExtend 16, faddr := 0, fault := .core 0x10 cr, wlevel := none, ipa := none, keep := false }

theorem crValueFault_run (cr : BitVec 12) (b : Blk) : (crValueFault cr : M α) b = .error (.trap (crValueTrap cr)) b := rfl

/-- The number of CR_SCONSn, as DETAIL and as CR_CFAULT.CRNUM (R247, R483). -/
theorem sconsNumber (n : BitVec 2) : (BitVec.ofNat 12 (0xE4 + n.toNat)).zeroExtend 16 = 0xE4 + n.zeroExtend 16 ∧
    BitVec.ofNat 12 (0xE4 + n.toNat) = 0xE4 + n.zeroExtend 12 := by
  rcases port_cases n with rfl | rfl | rfl | rfl <;> exact ⟨rfl, rfl⟩

/-- A write that is permitted of a number from 0x060 to 0x0FF, no read-only one, is its unit's (R483). -/
theorem crPut_unit {c : Cfg} {cr : BitVec 12} {v : Word} {b : Blk} {m : M Unit} (hw : crMayWrite b cr.toNat = true)
    (hro : crRo cr.toNat = false) (hlow : 0x60 ≤ cr.toNat) (hhigh : cr.toNat < 0x100) (hm : crWriteMid c cr v = m) : crPut c cr v b = m b := by
  rw [← hm]
  simp only [crPut, bind_run, get_run, hw, hro, Bool.not_true, Bool.false_eq_true, if_false, Nat.not_lt.mpr hlow, hhigh, if_true]

theorem crPut_scons (c : Cfg) (n : BitVec 2) (v : Word) (b : Blk) : crPut c (BitVec.ofNat 12 (0xE4 + n.toNat)) v b = writeScons n.toNat v b := by
  have hn := n.isLt
  generalize n.toNat = k at hn ⊢
  match k, hn with
  | 0, _ | 1, _ | 2, _ | 3, _ => exact crPut_unit rfl rfl (by decide) (by decide) rfl

theorem crPut_stail (c : Cfg) (n : BitVec 2) (v : Word) {b : Blk} (h : atS b = true) :
    crPut c (BitVec.ofNat 12 (0xE8 + n.toNat)) v b = writeStail n.toNat v b := by
  have hn := n.isLt
  generalize n.toNat = k at hn ⊢
  match k, hn with
  | 0, _ | 1, _ | 2, _ | 3, _ => exact crPut_unit ((Bool.and_true _).trans h) rfl (by decide) (by decide) rfl

theorem crPut_dtail (c : Cfg) (n : BitVec 4) (v : Word) {b : Blk} (h : atS b = true) :
    crPut c (BitVec.ofNat 12 (0xC0 + n.toNat)) v b = writeDtail n.toNat v b := by
  have hn := n.isLt
  generalize n.toNat = k at hn ⊢
  match k, hn with
  | 0, _ | 1, _ | 2, _ | 3, _ | 4, _ | 5, _ | 6, _ | 7, _ | 8, _ | 9, _ | 10, _ | 11, _ | 12, _ | 13, _ | 14, _ | 15, _ =>
    exact crPut_unit ((Bool.and_true _).trans h) rfl (by decide) (by decide) rfl
  | k + 16, hk => exact absurd hk (by omega)

/-- The ring's index, in a block whose Maltster sees its doorbell (R325, R429). -/
def indexed (b : Blk) (j : Nat) (i : BitVec 16) : Blk := maltSource (modRing b j fun r => { r with index := i }) 0

/-- A doorbell value within the ring's size is its index; in Run nothing wakes (R325). -/
theorem doorbellWrite_index {b : Blk} {j : Nat} {x : Word} (hfatal : b.err.fatal = false) (hrun : b.pwr.state = .run)
    (hset : (getRing b j).setUp = true) (hx : x.toNat < (getRing b j).size) (h16 : x.toNat < 65536) :
    doorbellWrite b j (BitVec.ofNat 32 (bits x 15 0)) = indexed b j (x.truncate 16) := by
  have hlow : bits x 15 0 = x.toNat := Nat.mod_eq_of_lt h16
  have hv : (BitVec.ofNat 32 x.toNat).toNat = x.toNat := toNat_ofNat_of_lt (by omega)
  have hi : bits (BitVec.ofNat 32 x.toNat) 15 0 = x.toNat := by
    rw [← toNat_mod_eq_bits, hv]
    exact Nat.mod_eq_of_lt h16
  have hhigh : bits (BitVec.ofNat 32 x.toNat) 31 16 = 0 := by
    rw [bits, hv, Nat.shiftRight_eq_div_pow, Nat.div_eq_of_lt (by omega), Nat.zero_mod]
  have hindex : BitVec.ofNat 16 (Nat.min x.toNat ((getRing b j).size - 1)) = x.truncate 16 :=
    congrArg (BitVec.ofNat 16) (Nat.min_eq_left (by omega))
  have hin : ¬ (getRing b j).size - 1 < x.toNat := by omega
  rw [hlow]
  unfold doorbellWrite
  simp only [hfatal, Bool.false_eq_true, if_false, hi, hhigh, hset, if_true, ne_eq, not_true_eq_false, hindex, hin]
  split
  · obtain ⟨st, src, hm⟩ := maltSource_eq (modRing b j fun r => { r with index := x.truncate 16 }) 0
    rw [indexed, hm]
    exact if_pos hrun
  · rfl

section
variable {s : State} {b1 : Blk}

theorem sconsWrite_inRange (h : Issues s 1 b1) (n : BitVec 2) (rs1 : BitVec 5)
    (hx : (b1.sparge.scons.get n.toNat).toNat ≤ (b1.core.reg rs1).toNat ∧ (b1.core.reg rs1).toNat ≤ (b1.sparge.sprod.get n.toNat).toNat) :
    exec (.sconsWrite n rs1) s =
      retired s 1 { b1 with sparge := { b1.sparge with scons := b1.sparge.scons.set n.toNat (b1.core.reg rs1) } } := by
  refine coreSeq_retires h _ rfl ((crPut_scons s.cfg n _ b1).trans ?_)
  simp only [writeScons, bind_run, get_run, check_run, hx, and_self, decide_true, if_true, modify_run]

theorem sconsWrite_outOfRange (h : Issues s 1 b1) (n : BitVec 2) (rs1 : BitVec 5)
    (hx : ¬ ((b1.sparge.scons.get n.toNat).toNat ≤ (b1.core.reg rs1).toNat ∧ (b1.core.reg rs1).toNat ≤ (b1.sparge.sprod.get n.toNat).toNat)) :
    exec (.sconsWrite n rs1) s = trapped s (.sconsWrite n rs1) (crValueTrap (BitVec.ofNat 12 (0xE4 + n.toNat))) (start s) b1 := by
  refine coreSeq_traps h _ ((crPut_scons s.cfg n _ b1).trans ?_)
  simp only [writeScons, bind_run, get_run, check_run, hx, decide_false, Bool.false_eq_true, if_false, crValueFault_run]

theorem stailWrite_inRange (h : Issues s 1 b1) (n : BitVec 2) (rs1 : BitVec 5) (hl : b1.core.ps.level ≠ 0) (hfatal : b1.err.fatal = false)
    (hrun : b1.pwr.state = .run) (hset : (getRing b1 (24 + n.toNat)).setUp = true)
    (hx : (b1.core.reg rs1).toNat < (getRing b1 (24 + n.toNat)).size) (h16 : (b1.core.reg rs1).toNat < 65536) :
    exec (.stailWrite n rs1) s = retired s 1 (indexed b1 (24 + n.toNat) ((b1.core.reg rs1).truncate 16)) := by
  refine coreSeq_retires h _ rfl ((crPut_stail s.cfg n _ (atS_of_level hl)).trans ?_)
  rw [writeStail, modify_run, doorbellWrite_index hfatal hrun hset hx h16]

theorem dtailWrite_inRange (h : Issues s 1 b1) (n : BitVec 4) (rs1 : BitVec 5) (hl : b1.core.ps.level ≠ 0) (hfatal : b1.err.fatal = false)
    (hrun : b1.pwr.state = .run) (hset : (getRing b1 (8 + n.toNat)).setUp = true)
    (hworld : (getRing b1 (8 + n.toNat)).ctx.world = b1.core.ps.world)
    (hx : (b1.core.reg rs1).toNat < (getRing b1 (8 + n.toNat)).size) (h16 : (b1.core.reg rs1).toNat < 65536) :
    exec (.dtailWrite n rs1) s = retired s 1 (indexed b1 (8 + n.toNat) ((b1.core.reg rs1).truncate 16)) := by
  have hown : (atM b1 || ringWorld b1 (8 + n.toNat) == b1.core.ps.world) = true := by
    rw [ringWorld, hset, hworld, Bool.true_and, beq_self_eq_true, Bool.or_true]
  refine coreSeq_retires h _ rfl ((crPut_dtail s.cfg n _ (atS_of_level hl)).trans ?_)
  simp only [writeDtail, bind_run, get_run, check_run, hown, if_true, modify_run, doorbellWrite_index hfatal hrun hset hx h16]

end

/-! CR_HCPD (R434). -/

theorem crPut_hcpd (c : Cfg) (v : Word) {b : Blk} (h : b.core.ps.level = 2) :
    crPut c 0x99 v b = .ok () { b with core := { b.core with hcpOut := some (b.core.hcpa, v.truncate 32) } } :=
  crPut_unit (m := modCore fun k => { k with hcpOut := some (k.hcpa, v.truncate 32) }) ((mayWrite_hcpd b).trans (beq_iff_eq.mpr h)) rfl
    (by decide) (by decide) rfl

/-- A read of KZ_IDLE by machine firmware latches nothing (R434, R482). -/
theorem crGet_hcpd_idle (c : Cfg) {b : Blk} (h : b.core.ps.level = 2) (hon : blockOn b = true) (hheld : lcsHeld b = false)
    (ha : b.core.hcpa = 0x228) : crGet c 0x99 b = .ok (c.idle.zeroExtend 64) b := by
  have hr : crMayRead b (0x99 : BitVec 12).toNat = true := beq_iff_eq.mpr h
  have hlatch : hcpLatch b 0x228 = b := by
    unfold hcpLatch
    rw [hon, hheld]
    rfl
  have hread : hcpRead c b 0x228 = c.idle := by
    unfold hcpRead
    rw [hon, hheld]
    rfl
  simp only [crGet, bind_run, get_run, hr, Bool.not_true, Bool.false_eq_true, if_false, if_true, modify_run, ha, hlatch]
  show EStateM.Result.ok ((hcpRead c b b.core.hcpa).zeroExtend 64) b = _
  rw [ha, hread]

/-- A block in which the HCP write `o` is left to be made. -/
def withHcpOut (o : Option (BitVec 16 × W32)) (b : Blk) : Blk := { b with core := { b.core with hcpOut := o } }

theorem withHcpOut_none {b : Blk} (h : b.core.hcpOut = none) : withHcpOut none b = b := by
  rw [withHcpOut, ← h]

/-- A block whose PC is past a one-word instruction. -/
def pastWord (b : Blk) : Blk := { b with core := { b.core with pc := b.core.pc + 4 } }

theorem countFixed_hcpOut (o : Option (BitVec 16 × W32)) (b : Blk) (ps : Pstate) (n k : Nat) :
    countFixed (withHcpOut o b) ps n k = withHcpOut o (countFixed b ps n k) := by
  have hpd : pdOn (withHcpOut o b) 20 = pdOn b 20 := rfl
  have hlcs : lcsFiltered (withHcpOut o b) = lcsFiltered b := rfl
  unfold countFixed
  rw [hpd, hlcs]
  split <;> rfl

theorem reschedule_hcpOut (o : Option (BitVec 16 × W32)) (b : Blk) : reschedule (withHcpOut o b) = withHcpOut o (reschedule b) := by
  have hsvc : (withHcpOut o b).core.svc = b.core.svc := rfl
  have hbanks : (withHcpOut o b).core.banks = b.core.banks := rfl
  have hstat : (withHcpOut o b).core.taskStat = b.core.taskStat := rfl
  have htask : (withHcpOut o b).core.svcTask = b.core.svcTask := rfl
  unfold reschedule
  simp only [hsvc, hbanks, hstat, htask]
  split
  · rfl
  · split
    · rfl
    · split <;> rfl

theorem boundary_hcpOut (o : Option (BitVec 16 × W32)) (b : Blk) : boundary (withHcpOut o b) = withHcpOut o (boundary b) := by
  have hepoch : epochReady (withHcpOut o b) = epochReady b := rfl
  unfold boundary
  rw [hepoch]
  split <;> rfl

/-- A retirement neither reads nor changes the HCP write that is to be made. -/
theorem retire_hcpOut (o : Option (BitVec 16 × W32)) (ps : Pstate) (b : Blk) : retire ps (withHcpOut o b) = withHcpOut o (retire ps b) := by
  have hend : endInstr (withHcpOut o b) = withHcpOut o (endInstr b) := rfl
  rw [retire, hend, countFixed_hcpOut, reschedule_hcpOut, boundary_hcpOut, retire]

theorem reschedule_frame (b : Blk) : reschedule b = { b with core := (reschedule b).core } := by
  unfold reschedule
  dsimp only
  split
  · rfl
  · split
    · rfl
    · split <;> rfl

/-- A retirement changes the core, the applied epoch and the counters alone. -/
theorem retire_frame (ps : Pstate) (b : Blk) :
    retire ps b = { b with core := (retire ps b).core, rings := (retire ps b).rings, obs := (retire ps b).obs } := by
  unfold retire
  obtain ⟨hboundary, _⟩ := boundary_eq (reschedule (countFixed (endInstr b) ps 1 1))
  rw [hboundary, reschedule_frame, countFixed_eq]
  rfl

/-- The HCP write that an instruction leaves is made with its retirement (R434). -/
theorem coreSeqHcp_writes {s : State} {i : Instr} {body : M Unit} {o : BitVec 16} {v : W32} {b : Blk}
    (h : offered s i (seqOp s.cfg 1 body) = withHcpOut (some (o, v)) b) :
    coreSeqHcp s i body = .next { s with
      cfg := (hcpWrite s.cfg (withHcpOut none b) o v true).1, blk := (hcpWrite s.cfg (withHcpOut none b) o v true).2 } := by
  unfold coreSeqHcp
  rw [h]
  rfl

section
variable {s : State} {b1 : Blk}

theorem hcpdRead_idle (h : Issues s 1 b1) (rd : BitVec 5) (hl : b1.core.ps.level = 2) (hon : blockOn b1 = true) (hheld : lcsHeld b1 = false)
    (ha : b1.core.hcpa = 0x228) :
    exec (.hcpdRead rd) s = retired s 1 { b1 with core := b1.core.setReg rd (s.cfg.idle.zeroExtend 64) } := by
  refine coreSeq_retires h _ rfl ?_
  rw [bind_run, crGet_hcpd_idle s.cfg hl hon hheld ha]
  rfl

theorem hcpWrite_idle (c : Cfg) {b : Blk} (v : W32) (hon : blockOn b = true) (hheld : lcsHeld b = false) :
    hcpWrite c b 0x228 v true = ({ c with idle := v }, maltSource b 15) := by
  rw [hcpWrite_eq, hon, hheld]
  rfl

/-- A write of CR_HCPD retires with the HCP write of CR_HCPA left to be made. -/
theorem hcpdWrite_offered (h : Issues s 1 b1) (rs1 : BitVec 5) (hl : b1.core.ps.level = 2) :
    offered s (.hcpdWrite rs1) (seqOp s.cfg 1 (crwBody s.cfg 0x99 rs1)) =
      withHcpOut (some (b1.core.hcpa, (b1.core.reg rs1).truncate 32)) (retire (start s).core.ps (pastWord b1)) := by
  rw [runCore_seq h, ← retire_hcpOut]
  simp only [bind_run, crwBody_run, crPut_hcpd s.cfg _ hl, modCore_run, after]
  rfl

theorem hcpdWrite_idle (h : Issues s 1 b1) (rs1 : BitVec 5) (hl : b1.core.ps.level = 2) (hon : blockOn b1 = true) (hheld : lcsHeld b1 = false)
    (ha : b1.core.hcpa = 0x228) (hout : b1.core.hcpOut = none) :
    exec (.hcpdWrite rs1) s = .next { s with
      cfg := { s.cfg with idle := (b1.core.reg rs1).truncate 32 }, blk := maltSource (retire (start s).core.ps (pastWord b1)) 15 } := by
  have hmade : withHcpOut none (retire (start s).core.ps (pastWord b1)) = retire (start s).core.ps (pastWord b1) := by
    rw [← retire_hcpOut, withHcpOut_none (b := pastWord b1) hout]
  refine (coreSeqHcp_writes (hcpdWrite_offered h rs1 hl)).trans ?_
  rw [hmade, ha, hcpWrite_idle s.cfg _ (by rw [retire_frame]; exact hon) (by rw [retire_frame]; exact hheld)]

end

/-- Settles O14: a count in and out of its range, a tail within its ring, and KZ_IDLE read and written through CR_HCPD. -/
theorem countsTailsAndHostPort : Obligations.CountsTailsAndHostPort := by
  intro s b1 rd rs1 n ch h x rings
  obtain ⟨hdetail, hnumber⟩ := sconsNumber n
  refine ⟨fun hlo hhi => sconsWrite_inRange h n rs1 ⟨hlo, hhi⟩, fun hx => ?_, fun hl hfatal hrun => ⟨?_, ?_⟩,
    fun hl hon hheld ha => ⟨?_, ?_⟩⟩
  · rw [← hdetail, ← hnumber]
    exact sconsWrite_outOfRange h n rs1 hx
  · exact stailWrite_inRange h n rs1 hl hfatal hrun
  · exact dtailWrite_inRange h ch rs1 hl hfatal hrun
  · exact hcpdRead_idle h rd hl hon hheld ha
  · exact hcpdWrite_idle h rs1 hl hon hheld ha

end Sys2Proof.Proofs
end

section
namespace Sys2Proof.Proofs
open Sys2Proof.Machine Sys2Proof.Laws

/-- Settles O1: a step's own first case. -/
theorem stepRunsFront : Obligations.StepRunsFront := fun _ _ => rfl

/-! Which region descriptor governs an access (R436, R437). -/

/-- BASE holds the descriptor's address bits from 12 to 46 (R436). -/
theorem testBit_rgnBase (d : BitVec 64) {k : Nat} (h1 : 12 ≤ k) (h2 : k ≤ 46) : (rgnBase d).testBit k = d.getLsbD k := by
  have hbase : rgnBase d = d.toNat / 2 ^ 12 % 2 ^ 35 * 2 ^ 12 := by
    simp only [rgnBase, bits, Nat.shiftRight_eq_div_pow]
    omega
  rw [hbase, Nat.testBit_mul_two_pow, Nat.testBit_mod_two_pow, Nat.testBit_div_two_pow, decide_eq_true h1, decide_eq_true (by omega : k - 12 < 35),
    Nat.sub_add_cancel h1]
  rfl

theorem testBit_localOf (a : Word) {k : Nat} (h : k ≤ 46) : (localOf a).testBit k = a.getLsbD k := by
  rw [localOf, testBit_bits, decide_eq_true (by omega : k < 46 + 1 - 0), Nat.zero_add, Bool.true_and]

theorem localOf_lt (a : Word) : localOf a < 2 ^ 47 := bits_lt a 46 0

theorem rgnBase_lt (d : BitVec 64) : rgnBase d < 2 ^ 47 := by
  have h1 := bits_lt d 31 12
  have h2 := bits_lt d 46 32
  unfold rgnBase
  omega

/-- A number's quotient by a power of two is its bits from there up. -/
theorem div_two_pow_eq_iff {x y n : Nat} (s : Nat) (hx : x < 2 ^ n) (hy : y < 2 ^ n) :
    x / 2 ^ s = y / 2 ^ s ↔ ∀ k, s ≤ k → k < n → x.testBit k = y.testBit k := by
  refine ⟨fun h k hk _ => ?_, fun h => Nat.eq_of_testBit_eq fun i => ?_⟩
  · have := congrArg (Nat.testBit · (k - s)) h
    simpa only [Nat.testBit_div_two_pow, Nat.sub_add_cancel hk] using this
  · rw [Nat.testBit_div_two_pow, Nat.testBit_div_two_pow]
    by_cases hi : i + s < n
    · exact h _ (Nat.le_add_left s i) hi
    · rw [Nat.testBit_eq_false_of_lt (hx.trans_le (Nat.pow_le_pow_right (by decide) (Nat.not_lt.mp hi))),
        Nat.testBit_eq_false_of_lt (hy.trans_le (Nat.pow_le_pow_right (by decide) (Nat.not_lt.mp hi)))]

theorem rgnMatches_iff (c : Cfg) (d : BitVec 64) (a : Word) (h : 12 ≤ rgnSize d) : rgnMatches c d a = true ↔
    d.getLsbD 0 = true ∧ (d.getLsbD 1 = true ∨ nodeOf a = c.node) ∧ ∀ k, rgnSize d ≤ k → k ≤ 46 → a.getLsbD k = d.getLsbD k := by
  have hbits : localOf a / 2 ^ rgnSize d = rgnBase d / 2 ^ rgnSize d ↔ ∀ k, rgnSize d ≤ k → k ≤ 46 → a.getLsbD k = d.getLsbD k := by
    rw [div_two_pow_eq_iff _ (localOf_lt a) (rgnBase_lt d)]
    refine forall₂_congr fun k hk => ?_
    constructor
    · intro heq hk'
      rw [← testBit_localOf a hk', ← testBit_rgnBase d (h.trans hk) hk']
      exact heq (by omega)
    · intro heq hk'
      rw [testBit_localOf a (by omega), testBit_rgnBase d (by omega) (by omega)]
      exact heq (by omega)
  simp only [rgnMatches, bit, Bool.and_eq_true, Bool.or_eq_true, beq_iff_eq, decide_eq_true_eq, hbits, and_assoc]

theorem governing_some_iff (c : Cfg) (a : Word) (n : Nat) : governing c a = some n ↔
    n < 32 ∧ rgnMatches c (rgn c n) a = true ∧ ∀ m, m < n → rgnMatches c (rgn c m) a = false := by
  simp only [governing, List.find?_range_eq_some, List.mem_range, Bool.not_eq_true']
  tauto

theorem governing_none_iff (c : Cfg) (a : Word) : governing c a = none ↔ ∀ n, n < 32 → rgnMatches c (rgn c n) a = false := by
  simp only [governing, List.find?_range_eq_none, Bool.not_eq_true']

/-- Settles O60: block space has no descriptor; elsewhere the lowest match counts, and without one only M has access. -/
theorem regionsGovern : Obligations.RegionsGovern := by
  refine ⟨fun c b a n world atM normal need x h => ?_, fun c d a h _ => rgnMatches_iff c d a h,
    fun c a => ⟨governing_some_iff c a, governing_none_iff c a⟩, fun c b a n world normal need hspace hnone => ⟨?_, ?_⟩⟩
  · simp only [resolve, h, if_true]
    rfl
  · simp only [resolve, hspace, regionCheck, hnone, if_true, Bool.false_eq_true, if_false]
  · simp only [resolve, hspace, regionCheck, hnone, Bool.false_eq_true, if_false]

end Sys2Proof.Proofs
end

section
namespace Sys2Proof.Proofs
open Sys2Proof.Machine Sys2Proof.Laws

/-! The LTS reads back what was written, and corrects a flipped bit (R309, R314). -/

section
variable {b : Blk} (hflips : b.lts.flips = []) (hbeats : b.sys.beats = [])
include hflips hbeats

theorem ltsRead_clean (world : Bool) (o n : Nat) : ltsRead world o n b = ((Sparse.range b.lts.bytes o n, none), b) := by
  unfold ltsRead ltsCross
  rw [crossing_quiet hbeats]
  exact ltsBankRead_quiet hflips world o n

theorem ltsWrite_clean (world : Bool) (o : Nat) (bs : List Byte) : ∃ m, ltsWrite world o bs b = (false, withBytes b m) ∧
    m.get = overlay (Sparse.get b.lts.bytes) o bs := by
  obtain ⟨m, hrun, hget⟩ := ltsWriteGo_quiet world bs.length o hflips (Nat.le_refl _)
  refine ⟨m, ?_, hget⟩
  simp only [ltsWrite, ltsSend, ltsCross, crossing_quiet hbeats, List.isEmpty_nil, if_true]
  exact hrun
end

theorem written_overlay {b : Blk} {m : Sparse 8} {o : Nat} {bs : List Byte} (hget : m.get = overlay (Sparse.get b.lts.bytes) o bs) :
    Written b (withBytes b m) [(o, bs)] := by
  refine ⟨rfl, rfl, fun p hp i hi => ?_, fun j hj => ?_⟩
  · obtain rfl := List.mem_singleton.mp hp
    dsimp only at hi
    refine (congrFun hget _).trans ((if_pos (by omega)).trans ?_)
    rw [Nat.add_sub_cancel_left]
  · exact (congrFun hget j).trans (if_neg (hj _ (List.mem_singleton.mpr rfl)))

/-- The cells put in from a key are read from it. -/
theorem range_overlay {m : Sparse w} {g : Nat → BitVec w} {k : Nat} {vs : List (BitVec w)} (h : m.get = overlay g k vs) :
    Sparse.range m k vs.length = vs := by
  refine List.ext_getElem (length_range ..) fun i h1 h2 => ?_
  have hi := getD_range m k h2
  rw [congrFun h (k + i), overlay, if_pos (by omega), Nat.add_sub_cancel_left] at hi
  rwa [List.getD_eq_getElem _ _ h1, List.getD_eq_getElem _ _ h2] at hi

theorem ltsWrite_readsBack {b : Blk} (hflips : b.lts.flips = []) (hbeats : b.sys.beats = []) (world : Bool) (o : Nat) (bs : List Byte) :
    ∃ b1, ltsWrite world o bs b = (false, b1) ∧ Written b b1 [(o, bs)] ∧ ltsRead world o bs.length b1 = ((bs, none), b1) := by
  obtain ⟨m, hrun, hget⟩ := ltsWrite_clean hflips hbeats world o bs
  refine ⟨_, hrun, written_overlay hget, ?_⟩
  rw [ltsRead_clean (b := withBytes b m) rfl hbeats]
  exact congrArg (fun r => ((r, none), withBytes b m)) (range_overlay hget)

theorem popCount_zero (w : Nat) : popCount (0 : BitVec w) = 0 := by
  unfold popCount
  refine foldl_keeps (P := (· = 0)) (fun r i h => ?_) _ _ rfl
  rw [BitVec.ofNat_eq_ofNat, BitVec.getLsbD_zero, if_neg (by decide)]
  exact h

/-- A word written with what it holds: the same bytes, and no flipped bit in the word. -/
theorem ltsPutWord_same (b : Blk) (w : Nat) : Sparse.get (ltsPutWord b w (ltsWord b w)).lts.bytes = Sparse.get b.lts.bytes := by
  show Sparse.get (Sparse.setAll b.lts.bytes (8 * w) (leOfNat 8 (ltsWord b w).toNat)) = _
  rw [ltsWord_bytes, get_setAll, overlay_range _ fun _ _ => rfl]

theorem ltsReadWord_corrects {b : Blk} {w : Nat} (h : popCount (b.lts.flips.get w) = 1) :
    ltsReadWord b w = (some (ltsWord b w), countErr (ltsPutWord b w (ltsWord b w))) := by
  have hne : b.lts.flips.get w ≠ 0 := fun e => by rw [e, popCount_zero] at h; exact absurd h (by decide)
  simp only [ltsReadWord, hne, if_false, h, if_true]

theorem ltsReadWord_uncorrectable {b : Blk} {w : Nat} (h : popCount (b.lts.flips.get w) = 2) : ltsReadWord b w = (none, b) := by
  have hne : b.lts.flips.get w ≠ 0 := fun e => by rw [e, popCount_zero] at h; exact absurd h (by decide)
  have h21 : ¬ (2 = 1) := by decide
  simp only [ltsReadWord, hne, if_false, h, if_true, h21]

/-! A beat whose check fails is received again (R315, R317). -/

/-- A count that stays at the greatest value of its width. -/
theorem toNat_saturating {w m : Nat} (hw : m + 1 = 2 ^ w) (h0 : 0 < w) {top : BitVec w} (hm : top.toNat = m) (r : BitVec w) :
    (if r = top then r else r + 1).toNat = min m (r.toNat + 1) := by
  have hr := r.isLt
  by_cases h : r = top
  · rw [if_pos h, h, hm, min_eq_left (Nat.le_succ m)]
  · have hne : r.toNat ≠ m := fun e => h (BitVec.eq_of_toNat_eq (e.trans hm.symm))
    show (if r = top then r else r + 1#w).toNat = _
    rw [if_neg h, BitVec.toNat_add, BitVec.toNat_one h0, Nat.mod_eq_of_lt (by omega), min_eq_right (by omega)]

/-- Block b1 is b after its receiving tier took beats: `rest` are to come, RETRIES counted k of them and FAILS j. -/
structure Received (b b1 : Blk) (rest : List Beat) (k j : Nat) : Prop where
  frame : b1 = { b with sys := { b.sys with beats := rest, bondRetries := b1.sys.bondRetries, bondFails := b1.sys.bondFails }, obs := b1.obs }
  retries : b1.sys.bondRetries.toNat = min 0xFFFFFF (b.sys.bondRetries.toNat + k)
  fails : b1.sys.bondFails.toNat = min 0xFF (b.sys.bondFails.toNat + j)

theorem Received.beats {b b1 : Blk} {rest : List Beat} {k j : Nat} (h : Received b b1 rest k j) : b1.sys.beats = rest := by
  rw [h.frame]

theorem Received.trans {b b1 b2 : Blk} {r1 r2 : List Beat} {k1 k2 j1 j2 : Nat} (h1 : Received b b1 r1 k1 j1) (h2 : Received b1 b2 r2 k2 j2) :
    Received b b2 r2 (k1 + k2) (j1 + j2) where
  frame := by
    rw [h2.frame, h1.frame]
  retries := by
    rw [h2.retries, h1.retries]
    omega
  fails := by
    rw [h2.fails, h1.fails]
    omega

theorem retries_le (b : Blk) : b.sys.bondRetries.toNat = min 0xFFFFFF (b.sys.bondRetries.toNat + 0) :=
  (min_eq_right (Nat.le_of_lt_succ b.sys.bondRetries.isLt)).symm

theorem fails_le (b : Blk) : b.sys.bondFails.toNat = min 0xFF (b.sys.bondFails.toNat + 0) :=
  (min_eq_right (Nat.le_of_lt_succ b.sys.bondFails.isLt)).symm

section
variable {b : Blk} {x : Beat} {rest : List Beat}

theorem receiveBeat_first (h : b.sys.beats = x :: rest) :
    ∃ b1, receiveBeat b = (x.good, b1) ∧ Received b b1 rest 0 0 := by
  refine ⟨{ b with sys := { b.sys with beats := rest } }, ?_, rfl, retries_le b, fails_le b⟩
  unfold receiveBeat
  rw [h]

/-- A failed reception that is not the last: the beat is asked for again. -/
theorem reread_received (b : Blk) : Received b (reread b) b.sys.beats 1 0 := by
  unfold reread
  rw [countEvents_eq]
  exact ⟨rfl, toNat_saturating (m := 0xFFFFFF) (by decide) (by decide) rfl b.sys.bondRetries, fails_le b⟩

/-- A reception that fails: the beat is asked for again, but for the last time (R315). -/
theorem beatGo_failed {b1 : Blk} {n : Nat} {good : Bool} (h : receiveBeat b = (good, b1)) (hgood : good = false) :
    beatGo (n + 1) b = if n = 0 then beatGo n b1 else beatGo n (reread b1) := by
  rw [beatGo, h, hgood]
  rfl

/-- A beat that failed each time counts in FAILS. -/
theorem failed_received (b : Blk) : Received b (beatGo 0 b).2 b.sys.beats 0 1 :=
  ⟨rfl, retries_le b, toNat_saturating (m := 0xFF) (by decide) (by decide) rfl b.sys.bondFails⟩

/-- A beat that passes its check after at most n that fail. -/
theorem beatGo_passes (hx : x.good = true) {bad : List Beat} (hbad : ∀ y ∈ bad, y.good = false) :
    ∀ {n : Nat} {b : Blk}, bad.length ≤ n → b.sys.beats = bad ++ x :: rest →
      ∃ b1, beatGo (n + 1) b = (true, b1) ∧ Received b b1 rest bad.length 0 := by
  induction bad with
  | nil =>
    intro n b _ h
    obtain ⟨b1, hrun, hr⟩ := receiveBeat_first h
    exact ⟨b1, by simp only [beatGo, hrun, hx, if_true], hr⟩
  | cons y bad ih =>
    intro n b hn h
    obtain ⟨n, rfl⟩ := Nat.exists_eq_add_of_lt (Nat.lt_of_lt_of_le (Nat.succ_pos bad.length) hn)
    obtain ⟨b1, hrun, hr⟩ := receiveBeat_first h
    have hagain := reread_received b1
    rw [hr.beats] at hagain
    obtain ⟨b2, hrun2, hr2⟩ := ih (fun z hz => hbad z (List.mem_cons_of_mem y hz)) (n := 0 + n) (Nat.le_of_succ_le_succ hn) hagain.beats
    have hcount := (hr.trans hagain).trans hr2
    rw [Nat.zero_add, Nat.add_comm 1] at hcount
    exact ⟨b2, (beatGo_failed hrun (hbad y List.mem_cons_self)).trans hrun2, hcount⟩

/-- A beat that fails each of its n + 1 receptions. -/
theorem beatGo_fails {n : Nat} : ∀ {bad : List Beat} {b : Blk}, (∀ y ∈ bad, y.good = false) → bad.length = n + 1 →
    b.sys.beats = bad ++ rest → ∃ b1, beatGo (n + 1) b = (false, b1) ∧ Received b b1 rest n 1 := by
  induction n with
  | zero =>
    intro bad b hbad hn h
    obtain ⟨y, rfl⟩ := List.length_eq_one_iff.mp hn
    obtain ⟨b1, hrun, hr⟩ := receiveBeat_first h
    have hfail := failed_received b1
    rw [hr.beats] at hfail
    exact ⟨_, beatGo_failed hrun (hbad y List.mem_cons_self), hr.trans hfail⟩
  | succ n ih =>
    intro bad b hbad hn h
    obtain ⟨y, bad, rfl⟩ := List.exists_cons_of_length_eq_add_one hn
    obtain ⟨b1, hrun, hr⟩ := receiveBeat_first h
    have hagain := reread_received b1
    rw [hr.beats] at hagain
    obtain ⟨b2, hrun2, hr2⟩ := ih (fun z hz => hbad z (List.mem_cons_of_mem y hz)) (Nat.succ.inj hn) hagain.beats
    have hcount := (hr.trans hagain).trans hr2
    rw [Nat.zero_add, Nat.add_comm 1] at hcount
    exact ⟨b2, (beatGo_failed hrun (hbad y List.mem_cons_self)).trans hrun2, hcount⟩
end

/-- The tier's receptions change the bond registers and the counters alone. -/
theorem beatGo_frame : ∀ (n : Nat) (b : Blk), (beatGo n b).2 = { b with sys := (beatGo n b).2.sys, obs := (beatGo n b).2.obs }
  | 0, _ => rfl
  | n + 1, b => by
    have hreceive (c : Blk) : (receiveBeat c).2 = { c with sys := (receiveBeat c).2.sys, obs := c.obs } := by
      unfold receiveBeat
      split <;> rfl
    have hreread (c : Blk) : reread c = { c with sys := (reread c).sys, obs := (reread c).obs } := by
      unfold reread
      rw [countEvents_eq]
    rw [beatGo]
    split
    · rw [hreceive]
    · split
      · rw [beatGo_frame n, hreceive]
      · rw [beatGo_frame n, hreread, hreceive]

/-- An access to one piece whose beat fails: the failure is logged (R318). -/
theorem ltsCross_fails {b b1 : Blk} (h : beat b = (false, b1)) (world : Bool) {o n : Nat} (hn : 0 < n) (hpiece : o % 64 + n ≤ 64) :
    ltsCross world o n b = ([o / 64], logErr b1 5 7 world (BitVec.ofNat 64 (64 * (o / 64)))) := by
  have hone : piecesOf o n = 1 := by
    unfold piecesOf
    rw [if_neg (by omega)]
    omega
  have hsome : b.sys.beats.isEmpty = false := by
    by_contra hempty
    have hnil : b.sys.beats = [] := List.isEmpty_iff.mp (by simpa using hempty)
    have hpass : beat b = (true, b) := by
      simp only [beat, beatGo, receiveBeat, hnil, if_true]
    exact absurd (congrArg Prod.fst (hpass.symm.trans h)) Bool.noConfusion
  rw [ltsCross, hone]
  simp only [crossing, hsome, h, Bool.false_eq_true, if_false]

end Sys2Proof.Proofs
end

section
namespace Sys2Proof.Proofs
open Sys2Proof.Machine Sys2Proof.Laws

/-- The ring front end at a fatal error changes the rings and what is observed alone (R308, R338). -/
theorem fatalFront_frame (b : Blk) : fatalFront b = { b with rings := (fatalFront b).rings, obs := (fatalFront b).obs } := by
  unfold fatalFront
  refine foldl_keeps (P := fun d : Blk => d = { b with rings := d.rings, obs := d.obs }) ?_ _ _ ?_
  · intro d e hd
    have hput (d : Blk) (q : List Event) : setEq d e q = { d with rings := (setEq d e q).rings } := by
      unfold setEq
      (repeat' split) <;> rfl
    rw [hd]
    split
    · rw [hput]
    · rw [hput]
      rfl
  · split
    · unfold emitJob
      rw [emit_eq]
      rfl
    · rfl

/-- Entering fatal state raises the flags; what the error log recorded stands (R308). -/
theorem goFatal_err (b : Blk) : (goFatal b).err = { b.err with fatal := true, aonFatal := (goFatal b).err.aonFatal } := by
  unfold goFatal
  split
  · next h => rw [← h]
  · rw [fatalFront_frame, maltSource_err]

theorem logErr_first {b : Blk} (h : b.err.pend = false) (unit kind : Nat) (world : Bool) (addr : Word) : (logErr b unit kind world addr).err =
    { b.err with pend := true, unit := BitVec.ofNat 3 unit, kind := BitVec.ofNat 4 kind, world := world, addr := addr } := by
  unfold logErr
  rw [h]
  rfl

/-- An error that comes while one is pending is an overrun (R318). -/
theorem logErr_pending {b : Blk} (h : b.err.pend = true) (unit kind : Nat) (world : Bool) (addr : Word) :
    logErr b unit kind world addr = { b with err := { b.err with overrun := true } } := by
  unfold logErr
  rw [h]
  rfl

section
variable {b b1 : Blk} (hbeat : beat b = (false, b1)) (hpend : b.err.pend = false)
include hbeat

theorem beat_frame : b1 = { b with sys := b1.sys, obs := b1.obs } := by
  have h := beatGo_frame 4 b
  have h1 : (beatGo 4 b).2 = b1 := congrArg Prod.snd hbeat
  rwa [h1] at h

include hpend

/-- The error log after a beat that failed four times with nothing pending. -/
theorem logErr_beat (world : Bool) (addr : Word) :
    (logErr b1 5 7 world addr).err = { b.err with pend := true, unit := 5, kind := 7, world := world, addr := addr } := by
  have h := beat_frame hbeat
  rw [logErr_first (by rw [h]; exact hpend), h]
  rfl

theorem ltsWrite_failedBeat (world : Bool) {o : Nat} {bs : List Byte} (hn : 0 < bs.length) (hpiece : o % 64 + bs.length ≤ 64) :
    ∃ b2 : Blk, ltsWrite world o bs b = (true, b2) ∧ b2.lts = b.lts ∧ b2.err.fatal = true ∧ b2.err.kind = 7 ∧ b2.err.unit = 5 := by
  refine ⟨goFatal (logErr b1 5 7 world (BitVec.ofNat 64 (64 * (o / 64)))), ?_, ?_, ?_⟩
  · rw [ltsWrite, ltsSend, ltsCross_fails hbeat world hn hpiece]
    rfl
  · rw [goFatal_lts, logErr_lts, beat_frame hbeat]
  · rw [goFatal_err, logErr_beat hbeat hpend]
    exact ⟨rfl, rfl, rfl⟩
end

/-- Words of a piece whose beat failed: the first one is reported, and the log counts the others as an overrun (R314, R315). -/
theorem ltsReadWords_bad (world : Bool) {p n : Nat} : ∀ {w : Nat} {b : Blk}, 0 < n → (∀ v, w ≤ v → v < w + n → v / 8 = p) → b.err.pend = true →
    ∃ ds b1, ltsReadWords world [p] n w b = ((ds, some (8 * w)), b1) ∧ b1.lts = b.lts ∧ b1.err = { b.err with overrun := true } := by
  induction n with
  | zero => exact fun h => absurd h (Nat.lt_irrefl 0)
  | succ n ih =>
    intro w b _ hp hpend
    have hbad : ltsTakeWord [p] b w = (none, b) := by
      rw [ltsTakeWord, hp w (Nat.le_refl w) (by omega), if_pos (by simp)]
    have herr := congrArg Blk.err (logErr_pending hpend 4 5 world (BitVec.ofNat 64 (8 * w)))
    have hlts := logErr_lts b 4 5 world (BitVec.ofNat 64 (8 * w))
    rw [ltsReadWords, hbad]
    dsimp only
    generalize logErr b 4 5 world (BitVec.ofNat 64 (8 * w)) = b1 at herr hlts
    rcases Nat.eq_zero_or_pos n with rfl | hn
    · exact ⟨_, b1, rfl, hlts, herr⟩
    · obtain ⟨ds, b2, hrest, hlts2, herr2⟩ := ih (w := w + 1) (b := b1) hn (fun v h1 h2 => hp v (by omega) (by omega)) (by rw [herr]; exact hpend)
      refine ⟨_, b2, by rw [hrest], hlts2.trans hlts, ?_⟩
      rw [herr2, herr]

theorem ltsRead_failedBeat {b b1 : Blk} (hbeat : beat b = (false, b1)) (hpend : b.err.pend = false) (world : Bool) {o n : Nat} (hn : 0 < n)
    (hpiece : o % 64 + n ≤ 64) : ∃ (ds : List Byte) (k : Nat) (b2 : Blk), ltsRead world o n b = ((ds, some k), b2) ∧ b2.lts = b.lts ∧
      b2.err.kind = 7 ∧ b2.err.unit = 5 ∧ b2.err.fatal = b.err.fatal := by
  have herr := logErr_beat hbeat hpend world (BitVec.ofNat 64 (64 * (o / 64)))
  have hlts := logErr_lts b1 5 7 world (BitVec.ofNat 64 (64 * (o / 64)))
  rw [ltsRead, ltsCross_fails hbeat world hn hpiece, ltsBankRead, if_neg (by omega)]
  dsimp only
  generalize logErr b1 5 7 world (BitVec.ofNat 64 (64 * (o / 64))) = b2 at herr hlts
  obtain ⟨ds, b3, hwords, hlts3, herr3⟩ := ltsReadWords_bad world (p := o / 64) (n := (o + n - 1) / 8 + 1 - o / 8) (w := o / 8)
    (b := b2) (by omega) (fun v h1 h2 => by omega) (by rw [herr])
  refine ⟨_, _, b3, by rw [hwords], ?_, ?_⟩
  · rw [hlts3, hlts, beat_frame hbeat]
  · rw [herr3, herr]
    exact ⟨rfl, rfl, rfl⟩

/-- Settles O57: a clean store, one word's check, a beat's receptions, and an access whose beat fails. -/
theorem ltsReadsBack : Obligations.LtsReadsBack := by
  intro b world o n w bs
  refine ⟨fun hflips hbeats => ⟨ltsWrite_readsBack hflips hbeats world o bs, ltsRead_clean hflips hbeats world o n⟩,
    fun hbytes hflips => ltsWf_write ⟨hbytes, hflips⟩ world o bs, fun h => ?_, ltsReadWord_uncorrectable, fun bad rest x hbad => ⟨?_, ?_⟩,
    fun b1 hbeat hpend => ⟨ltsWrite_failedBeat hbeat hpend world, ltsRead_failedBeat hbeat hpend world⟩⟩
  · refine ⟨_, ltsReadWord_corrects h, rfl, congrFun (ltsPutWord_same b w), fun j => ?_, rfl⟩
    split
    · next hj => rw [hj]; exact flips_putWord b w _
    · next hj => exact get_set_other (w := 72) b.lts.flips w j 0 hj
  · intro hx hlen hbeats
    obtain ⟨b1, hrun, hr⟩ := beatGo_passes hx hbad hlen hbeats
    have hfails : b1.sys.bondFails = b.sys.bondFails := BitVec.eq_of_toNat_eq (hr.fails.trans (fails_le b).symm)
    exact ⟨b1, hrun, by rw [hr.frame, hfails], hr.retries⟩
  · intro hlen hbeats
    obtain ⟨b1, hrun, hr⟩ := beatGo_fails hbad hlen hbeats
    exact ⟨b1, hrun, hr.frame, hr.retries, hr.fails⟩

end Sys2Proof.Proofs
end

section
namespace Sys2Proof.Proofs
open Sys2Proof.Machine Sys2Proof.Laws

/-! Fences (R372). -/

section
variable {s : State} {b1 : Blk}

/-- An instruction that is not INSPECT and whose computation waits stays at the head of the program. -/
theorem coreSeq_waits {b2 : Blk} {w : WaitOn} (h : Issues s 1 b1) (i : Instr) (hi : ∀ b0 b, ownCounts i b0 b = b) {body : M Unit}
    (hb : body b1 = .error (.wait w) b2) : coreSeq s i body = .next { s with blk := waitHead i w (start s) b2 } := by
  rw [coreSeq_issue h]
  simp only [bind_run, hb, after, hi]

/-- A fence's computation: it waits while `busy` holds. -/
theorem fence_run {busy : Blk → Bool} (b : Blk) : (do
      mustBeZero (0 : BitVec 15)
      if busy (← get) then waitFor .other : M Unit) b = if busy b then .error (.wait .other) b else .ok () b := by
  simp only [bind_run, BitVec.ofNat_eq_ofNat, mustBeZero_zero, get_run, ite_run, waitFor_run, pure_run]

end

/-- Settles O11: each fence reads one condition of the block of the fetch. -/
theorem fences : Obligations.Fences := by
  refine ⟨fun s b1 h => ⟨fun hb => ?_, fun hb => ?_, fun hb => ?_, fun hb => ?_⟩, fun s b1 h hb => ?_⟩
  · exact coreSeq_retires h _ rfl ((fence_run b1).trans (by rw [hb]; rfl))
  · exact coreSeq_waits h _ (fun _ _ => rfl) ((fence_run b1).trans (by rw [hb]; rfl))
  · exact coreSeq_retires h _ rfl ((fence_run b1).trans (by rw [hb]; rfl))
  · exact coreSeq_waits h _ (fun _ _ => rfl) ((fence_run b1).trans (by rw [hb]; rfl))
  · exact coreSeq_retires h _ rfl ((fence_run b1).trans (by rw [hb]; rfl))

/-! Packets offered to their slots (R469, R470), and CR_TRACEW (R472). -/

/-- A packet of this type is made: the unit is on and enables it. -/
def packetOn (b : Blk) (p : ObsPacket) : Prop := pdOn b 20 = true ∧ bit b.obs.cfg 0 = true ∧ bit b.obs.cfg p.ty.toNat = true

/-- The life-cycle state shows the packet (R469). -/
def packetShown (b : Blk) (p : ObsPacket) : Prop := lcsHeld b = false ∧ (lcsFiltered b = true → namesSecure p = false)

/-- A packet more is lost (R470). -/
def lostOne (o : Obs) : Obs :=
  { o with lost := if o.lost = 0xFFFFFFFF then o.lost else o.lost + 1, drops := if o.drops = 0xFFFF then o.drops else o.drops + 1 }

section
variable {b : Blk} {p : ObsPacket}

theorem emit_notOn (h : ¬ packetOn b p) : emit b p = b := by
  unfold emit
  refine if_pos (Bool.not_eq_true' _ |>.mpr (Bool.eq_false_iff.mpr fun hon => h ?_))
  simp only [Bool.and_eq_true] at hon
  obtain ⟨⟨hen, hty⟩, hpd⟩ := hon
  exact ⟨hpd, hen, hty⟩

theorem emit_notShown (h : ¬ packetShown b p) : emit b p = b := by
  have hhidden : (lcsHeld b || (lcsFiltered b && namesSecure p)) = true := by
    simp only [packetShown, ← Bool.not_eq_true] at h
    simp only [Bool.or_eq_true, Bool.and_eq_true]
    tauto
  unfold emit
  rw [hhidden]
  exact ite_self b

/-- A packet that is made and shown fills its slot, or is lost where the slot is full; then a LOST packet may be made. -/
theorem emit_shown (hon : packetOn b p) (hshown : packetShown b p) : emit b p =
    if b.obs.slots.any (fun q => q.ty == p.ty) then fillLost { b with obs := lostOne b.obs }
    else fillLost { b with obs := { b.obs with slots := b.obs.slots ++ [p] } } := by
  obtain ⟨hpd, hen, hty⟩ := hon
  obtain ⟨hheld, hfilter⟩ := hshown
  have hsecure : (lcsFiltered b && namesSecure p) = false := by
    cases hf : lcsFiltered b with
    | false => rfl
    | true => exact hfilter hf
  unfold emit
  simp only [hpd, hen, hty, hheld, hsecure, Bool.and_self, Bool.not_true, Bool.or_self, Bool.false_eq_true, if_false]
  rfl

/-- A LOST packet leaves the slots of the other types. -/
theorem fillLost_slots (b : Blk) {ty : BitVec 4} (hty : ty ≠ 2) :
    (fillLost b).obs.slots.filter (fun q => q.ty == ty) = b.obs.slots.filter fun q => q.ty == ty := by
  have hne : ((2 : BitVec 4) == ty) = false := beq_false_of_ne (Ne.symm hty)
  unfold fillLost
  split
  · dsimp only
    rw [List.filter_append, List.filter_cons, hne]
    exact List.append_nil _
  · rfl

end

section
variable {s : State} {b1 : Blk}

theorem namesSecure_user (b : Blk) (x : Word) : namesSecure (userPacket b x) = false ↔ b.core.ps.world = false ∧ b.core.ps.level ≠ 2 := by
  have hty : ((userPacket b x).ty == 3) = false := rfl
  simp only [namesSecure, hty, Bool.false_and, Bool.or_false, Bool.or_eq_false_iff, beq_eq_false_iff_ne]
  rfl

/-- CR_TRACEW by CRW is CR_TRACEW by its own row (log 76). -/
theorem tracew_emits (h : Issues s 1 b1) (rs1 : BitVec 5) {i : Instr} (hi : i ∈ [Instr.crw rs1 0x140 0, .tracewWrite rs1]) :
    exec i s = retired s 1 (emit b1 (userPacket b1 (b1.core.reg rs1))) := by
  simp only [List.mem_cons, List.not_mem_nil, or_false] at hi
  rcases hi with rfl | rfl
  · refine coreSeq_retires h _ rfl ?_
    unfold userPacket
    rw [← words2_eq]
    rfl
  · exact tracewWrite_emits h rs1

theorem emit_same_obs (b : Blk) (p : ObsPacket) : ∃ q : Obs, emit b p = { b with obs := q } := ⟨_, emit_eq b p⟩

end

/-- A slot of a type is empty where the list of its packets is. -/
theorem slot_any (o : Obs) (ty : BitVec 4) : o.slots.any (fun q => q.ty == ty) = !(o.slots.filter fun q => q.ty == ty).isEmpty := by
  induction o.slots with
  | nil => rfl
  | cons q qs ih =>
    rw [List.any_cons, List.filter_cons, ih]
    cases hq : q.ty == ty <;> rfl

section
variable {s : State} {b1 : Blk}

/-- A write that is permitted of a number from 0x100 on, no read-only one, is its unit's (R483). -/
theorem crPut_upper {c : Cfg} {cr : BitVec 12} {v : Word} {b : Blk} {m : M Unit} (hw : crMayWrite b cr.toNat = true)
    (hro : crRo cr.toNat = false) (hlow : 0x100 ≤ cr.toNat) (hm : crWriteUnits cr v = m) : crPut c cr v b = m b := by
  rw [← hm]
  simp only [crPut, bind_run, get_run, hw, hro, Bool.not_true, Bool.false_eq_true, if_false, Nat.not_lt.mpr hlow,
    Nat.not_lt.mpr (Nat.le_trans (by decide : 0x60 ≤ 0x100) hlow)]

/-- CR_INSPECT is read and written at M (R479). -/
theorem inspect_mayRead {b : Blk} (hl : b.core.ps.level = 2) : crMayRead b (0x142 : BitVec 12).toNat = true := beq_iff_eq.mpr hl
theorem inspect_mayWrite {b : Blk} (hl : b.core.ps.level = 2) : crMayWrite b (0x142 : BitVec 12).toNat = true :=
  (Bool.and_true _).trans (inspect_mayRead hl)
theorem inspect_mayNotRead {b : Blk} (hl : b.core.ps.level ≠ 2) : crMayRead b (0x142 : BitVec 12).toNat = false := beq_false_of_ne hl
theorem inspect_mayNotWrite {b : Blk} (hl : b.core.ps.level ≠ 2) : crMayWrite b (0x142 : BitVec 12).toNat = false :=
  (Bool.and_true _).trans (inspect_mayNotRead hl)

/-- CRR and CRW of a register by its read and its write. -/
theorem crr_run (c : Cfg) (rd : BitVec 5) (cr : BitVec 12) (b : Blk) : (do
      mustBeZero (0 : BitVec 5)
      let v ← crGet c cr
      writeReg rd v : M Unit) b = (do let v ← crGet c cr; writeReg rd v : M Unit) b := by
  simp only [bind_run, BitVec.ofNat_eq_ofNat, mustBeZero_zero]

theorem crw_run (c : Cfg) (rs1 : BitVec 5) (cr : BitVec 12) (b : Blk) : (do
      mustBeZero (0 : BitVec 5)
      crwBody c cr rs1 : M Unit) b = crPut c cr (b.core.reg rs1) b := by
  simp only [bind_run, BitVec.ofNat_eq_ofNat, mustBeZero_zero, crwBody_run]

theorem inspectRead (h : Issues s 1 b1) (rd : BitVec 5) (hl : b1.core.ps.level = 2) :
    exec (.crr rd 0x142 0) s = retired s 1 { b1 with core := b1.core.setReg rd (if b1.obs.inspect then 1 else 0) } := by
  have hv : crRead s.cfg b1 (0x142 : BitVec 12).toNat = if b1.obs.inspect then 1 else 0 := by
    show BitVec.ofNat 64 b1.obs.inspect.toNat = _
    cases b1.obs.inspect <;> rfl
  refine coreSeq_retires h _ rfl ((crr_run s.cfg rd _ b1).trans ((bind_ok (crGet_ok s.cfg (inspect_mayRead hl) (by decide))).trans ?_))
  rw [hv]
  rfl

theorem inspectWrite (h : Issues s 1 b1) (rs1 : BitVec 5) (hl : b1.core.ps.level = 2) (hpd : pdOn b1 20 = true) :
    exec (.crw rs1 0x142 0) s = retired s 1 { b1 with obs := { b1.obs with inspect := bit (b1.core.reg rs1) 0 } } := by
  refine coreSeq_retires h _ rfl ((crw_run s.cfg rs1 _ b1).trans ((crPut_upper (inspect_mayWrite hl) rfl (by decide)
    (m := modObs fun o => { o with inspect := bit (b1.core.reg rs1) 0 }) rfl).trans ?_))
  rw [modObs, modify_run, hpd]
  rfl

theorem inspectDenied (h : Issues s 1 b1) (rd rs1 : BitVec 5) (hl : b1.core.ps.level ≠ 2) {i : Instr}
    (hi : i ∈ [Instr.crr rd 0x142 0, .crw rs1 0x142 0]) : exec i s = trapped s i (deniedCr 0x142) (start s) b1 := by
  simp only [List.mem_cons, List.not_mem_nil, or_false] at hi
  rcases hi with rfl | rfl
  · refine coreSeq_traps h _ ((crr_run s.cfg rd _ b1).trans ?_)
    rw [bind_run, crGet_denied s.cfg (inspect_mayNotRead hl)]
  · exact coreSeq_traps h _ ((crw_run s.cfg rs1 _ b1).trans (crPut_denied s.cfg _ (inspect_mayNotWrite hl)))

end

/-- Settles O59: CR_TRACEW offers a USER packet at every level; CR_INSPECT is machine firmware's. -/
theorem traceWritesAndInspection : Obligations.TraceWritesAndInspection := by
  intro s b1 rd rs1 h x o p user on shown
  have hshown : shown ↔ packetShown b1 p := by
    simp only [shown, packetShown]
    rw [show namesSecure p = false ↔ _ from namesSecure_user b1 x]
  refine ⟨?_, fun i hi => ⟨fun hon hs huser => ?_, fun hon hs huser => ?_, fun hoff => ?_⟩, inspectRead h rd, inspectWrite h rs1,
    fun hl i hi => ⟨_, inspectDenied h rd rs1 hl hi⟩⟩
  · exact coreSeq_retires h _ rfl rfl
  · rw [tracew_emits h rs1 hi]
    obtain ⟨q, hq⟩ := emit_same_obs b1 p
    refine ⟨q, congrArg (retired s 1) hq, ?_⟩
    have hfree : o.slots.any (fun q => q.ty == p.ty) = false := by
      rw [slot_any]
      exact congrArg (fun l : List ObsPacket => !l.isEmpty) huser
    have hslots := congrArg (fun b : Blk => user b.obs) hq
    rw [emit_shown (b := b1) (p := p) hon (hshown.mp hs), hfree, if_neg (by decide)] at hslots
    refine hslots.symm.trans ((fillLost_slots _ (by decide)).trans ?_)
    dsimp only
    rw [List.filter_append]
    exact (congrArg (· ++ [p]) huser)
  · rw [tracew_emits h rs1 hi]
    obtain ⟨q, hq⟩ := emit_same_obs b1 p
    refine ⟨q, congrArg (retired s 1) hq, ?_⟩
    have hfull : o.slots.any (fun q => q.ty == p.ty) = true := by
      rw [slot_any, Bool.not_eq_true', ← Bool.not_eq_true, List.isEmpty_iff]
      exact huser
    have hslots := congrArg (fun b : Blk => user b.obs) hq
    rw [emit_shown (b := b1) (p := p) hon (hshown.mp hs), hfull, if_pos rfl] at hslots
    exact hslots.symm.trans (fillLost_slots _ (by decide))
  · rw [tracew_emits h rs1 hi]
    exact congrArg (retired s 1) (emit_notOn hoff)

end Sys2Proof.Proofs
end

section
namespace Sys2Proof.Proofs
open Sys2Proof.Machine Sys2Proof.Laws

/-! Host writes that reach their register (R376, R377). -/

/-- A host write to a block that answers goes to its register. -/
theorem hostWrite_answers {s : State} {o : Nat} (v : W32) (h : hostAnswers s.blk) (ho : o < 0x10000) (h4 : o % 4 = 0) :
    hostWrite s o v = .next { s with cfg := (writeAt s.cfg s.blk o v false).1, blk := (writeAt s.cfg s.blk o v false).2 } := by
  obtain ⟨hon, hheld⟩ := h
  have hw : hcpWrite s.cfg s.blk (BitVec.ofNat 16 o) v false = writeAt s.cfg s.blk o v false := by
    rw [hcpWrite_eq, ringOffset ho h4, hon, hheld]
    rfl
  exact congrArg (fun r : CB => Host.Outcome.next { s with cfg := r.1, blk := r.2 }) hw

/-- What the register leaves the block as, where it leaves the configuration. -/
theorem hostWrite_blk {s : State} {o : Nat} {v : W32} {b1 : Blk} (h : hostAnswers s.blk) (ho : o < 0x10000) (h4 : o % 4 = 0)
    (hw : writeAt s.cfg s.blk o v false = (s.cfg, b1)) : hostWrite s o v = .next { s with blk := b1 } := by
  rw [hostWrite_answers v h ho h4, hw]

theorem hostWrite_cfg {s : State} {o : Nat} {v : W32} {c1 : Cfg} {b1 : Blk} (h : hostAnswers s.blk) (ho : o < 0x10000) (h4 : o % 4 = 0)
    (hw : writeAt s.cfg s.blk o v false = (c1, b1)) : hostWrite s o v = .next { s with cfg := c1, blk := b1 } := by
  rw [hostWrite_answers v h ho h4, hw]

/-! What the operations on the links leave alone. -/

/-- What a block is but for the ports and the observation unit. -/
def sameButLinks (b b' : Blk) : Prop := b' = { b with ports := b'.ports, obs := b'.obs }

theorem sameButLinks_refl (b : Blk) : sameButLinks b b := rfl
theorem sameButLinks_trans {a b c : Blk} (h1 : sameButLinks a b) (h2 : sameButLinks b c) : sameButLinks a c := by
  unfold sameButLinks at *
  rw [h2, h1]
theorem links_of_obs {b b' : Blk} (h : sameButObs b b') : sameButLinks b b' := by
  unfold sameButObs at h
  unfold sameButLinks
  rw [h]

theorem setLink_links (b : Blk) (p : BitVec 2) (l : Link) : sameButLinks b (setLink b p l) := by
  rcases port_cases p with h | h | h | h <;> subst h <;> rfl
theorem emitLink_obs (b : Blk) (p : BitVec 2) (st : BitVec 3) : sameButObs b (emitLink b p st) := emit_same _ _
theorem linkTo_links (b : Blk) (p : BitVec 2) (l : Link) : sameButLinks b (linkTo b p l) := by
  unfold linkTo
  split
  · exact setLink_links b p l
  · exact sameButLinks_trans (setLink_links b p l) (links_of_obs (emitLink_obs ..))
theorem stampAll_links (b : Blk) (p : BitVec 2) : sameButLinks b (stampAll b p) := by
  rcases port_cases p with h | h | h | h <;> subst h <;> rfl
theorem linkDown_links (b : Blk) (p : BitVec 2) : sameButLinks b (linkDown b p) :=
  sameButLinks_trans (linkTo_links b p _) (stampAll_links _ p)

/-- A pass over the four ports leaves alone what its step does. -/
theorem ports4_links {f : Blk → BitVec 2 → Blk} (h : ∀ b p, sameButLinks b (f b p)) (b : Blk) : sameButLinks b (ports4.foldl f b) :=
  foldl_keeps (P := sameButLinks b) (fun _ p hb => sameButLinks_trans hb (h _ p)) _ _ rfl

theorem linksDown_links (b : Blk) : sameButLinks b (linksDown b) := ports4_links linkDown_links b
theorem pump_links (b : Blk) : sameButLinks b (pump b) := by
  have h (b : Blk) (fp : Bool) : sameButLinks b (pumpOne b fp) := by
    cases fp <;> exact sameButLinks_trans (setLink_links b _ _) rfl
  exact sameButLinks_trans (h b false) (h _ true)
theorem resumeLinks_links (b : Blk) : sameButLinks b (resumeLinks b) := by
  refine sameButLinks_trans (ports4_links (fun b p => ?_) b) (pump_links _)
  dsimp only
  split
  · exact linkTo_links b p _
  · rfl

/-! What becomes of each link. -/

theorem getLink_ports {b b' : Blk} (h : b'.ports = b.ports) (p : BitVec 2) : getLink b' p = getLink b p := by
  unfold getLink
  rw [h]

theorem getLink_linkTo (b : Blk) (p q : BitVec 2) (l : Link) : getLink (linkTo b p l) q = if q = p then l else getLink b q := by
  have hset : getLink (setLink b p l) q = if q = p then l else getLink b q := by
    split
    · next h => rw [h, getLink_setLink]
    · next h => exact getLink_setLink_other b p q l h
  unfold linkTo
  split
  · exact hset
  · exact (getLink_ports (congrArg Blk.ports (emitLink_obs ..)) q).trans hset

theorem getLink_stampAll (b : Blk) (p q : BitVec 2) : getLink (stampAll b p) q = getLink b q := by
  rcases port_cases p with h | h | h | h <;> subst h <;> rfl

/-- A link that goes down, after the DOWN block of one in UP or PAUSED (R395). -/
def downFrom (p : BitVec 2) (l : Link) : Link := (if l.state = stUp || l.state = stPaused then l.driveCtl p 6 else l).down

theorem getLink_linkDown (b : Blk) (p q : BitVec 2) : getLink (linkDown b p) q = if q = p then downFrom p (getLink b p) else getLink b q :=
  (getLink_stampAll _ p q).trans (getLink_linkTo b p q _)

/-- A pass over the four ports whose step replaces the port's own link replaces each link once. -/
theorem getLink_ports4 {f : Blk → BitVec 2 → Blk} {g : BitVec 2 → Link → Link}
    (h : ∀ b p q, getLink (f b p) q = if q = p then g p (getLink b p) else getLink b q) (b : Blk) (q : BitVec 2) :
    getLink (ports4.foldl f b) q = g q (getLink b q) := by
  simp only [ports4, List.foldl_cons, List.foldl_nil, h]
  rcases port_cases q with hq | hq | hq | hq <;> subst hq <;> rfl

theorem getLink_linksDown (b : Blk) (q : BitVec 2) : getLink (linksDown b) q = downFrom q (getLink b q) := getLink_ports4 getLink_linkDown b q

end Sys2Proof.Proofs
end

section
namespace Sys2Proof.Proofs
open Sys2Proof.Machine Sys2Proof.Laws

/-! GO and WARM (R449, R451, R454). -/

theorem powerChanged_obs (b0 b : Blk) : sameButObs b (powerChanged b0 b) := by
  unfold powerChanged
  split
  · rfl
  · exact emit_same _ _

section
variable {c : Cfg} {b : Blk}

/-- KZ_RST_CMD's word is its command. -/
theorem writeAt_rst (c : Cfg) (b : Blk) : writeAt c b 0x104 1 false = rstCmd c b 1 ∧ writeAt c b 0x104 2 false = rstCmd c b 2 ∧
    writeAt c b 0x104 3 false = rstCmd c b 3 := ⟨rfl, rfl, rfl⟩

theorem rstCmd_go (h : b.sys.phase = 1 ∨ b.sys.phase = 10) :
    rstCmd c b 1 = (c, { b with sys := { b.sys with phase := 2, failcode := 0, full := true } }) :=
  if_pos (by simpa only [Bool.or_eq_true, decide_eq_true_eq] using h)

theorem rstCmd_goRefused (h1 : b.sys.phase ≠ 1) (h10 : b.sys.phase ≠ 10) :
    rstCmd c b 1 = (c, { b with sys := { b.sys with refused := true } }) :=
  if_neg (by simpa only [Bool.or_eq_true, decide_eq_true_eq, not_or] using And.intro h1 h10)

theorem rstCmd_warmRefused (h : b.sys.phase = 0 ∨ b.sys.phase = 1) :
    rstCmd c b 2 = (c, { b with sys := { b.sys with refused := true } }) :=
  if_pos (by simpa only [Bool.or_eq_true, decide_eq_true_eq] using h)

theorem rstCmd_warm (h : b.sys.phase = 9) :
    rstCmd c b 2 = ({ c with lock := false, rgnX := [], featAcc := [], sealed := false }, warmBlk b rkWarm 2) := by
  have hidle : resetInProgress b = false := by
    unfold resetInProgress
    rw [h]
    rfl
  have hrun : ¬ (decide (b.sys.phase = 0) || decide (b.sys.phase = 1)) = true := by
    rw [h]
    decide
  refine (if_neg hrun).trans ?_
  unfold warmReset
  rw [hidle]
  rfl

theorem rstCmd_coreRefused (h : b.sys.phase ≠ 9 ∨ b.err.fatal = true) :
    rstCmd c b 3 = (c, { b with sys := { b.sys with refused := true } }) := by
  refine if_neg ?_
  simp only [Bool.and_eq_true, decide_eq_true_eq, Bool.not_eq_true', not_and, Bool.not_eq_false]
  exact fun h9 => h.resolve_left (not_not_intro h9)

theorem rstCmd_core (h9 : b.sys.phase = 9) (hf : b.err.fatal = false) : rstCmd c b 3 = (c, coreOnly c b) :=
  if_pos (by simp only [h9, hf]; rfl)

/-- A warm reset with no wipe under way: what it resets and keeps, but for the packet of a change of the power state. -/
theorem warmBlk_resets (hkiln : b.sys.kiln = none) (hheld : lcsHeld b = false) : ∃ x, sameButObs x (warmBlk b rkWarm 2) ∧
    x.core = Core.reset ∧ x.mmu = Mmu.reset ∧ x.caches = Caches.reset ∧ x.lts = Lts.reset ∧ x.tile = TileFile.reset ∧
    x.tun = Tun.reset ∧ x.vec = Vec.reset ∧ x.epi = Epi.reset ∧ x.sync = Sync.reset ∧ x.dma = Dma.reset ∧ x.sparge = Sparge.reset ∧
    x.malt.ram = [] ∧ x.malt.started = false ∧ x.rings.rings = [] ∧ x.rings.running = none ∧ x.rings.clog = b.rings.clog ∧
    x.chain.cgt = [] ∧ x.err.fatal = false ∧ x.ports.outMp = [] ∧ x.ports.outFp = [] ∧ (∀ p, getLink x p = getLink (linksDown b) p) ∧
    x.pwr.tcmp = 0 ∧ x.pwr.wakepc = 0 ∧ x.pwr.mnotice = 0 ∧ x.sys.phase = 3 ∧ x.sys.last = 2 ∧ x.sys.resetKind = 2 ∧
    x.sys.kilnTrig = 2 ∧ x.pwr.pd = b.pwr.pd := by
  have hcov : covUnion b (covOf rkWarm) = 2 := by
    unfold covUnion
    rw [hkiln]
    rfl
  have hlinks := linksDown_links b
  have hheld' : lcsHeld (linksDown b) = false := by
    rw [hlinks]
    exact hheld
  refine ⟨_, powerChanged_obs _ _, ?_⟩
  rw [hcov, hheld', if_neg Bool.false_ne_true]
  generalize linksDown b = d at hlinks
  refine ⟨rfl, rfl, rfl, rfl, rfl, rfl, rfl, rfl, rfl, rfl, rfl, rfl, rfl, rfl, rfl, ?_, rfl, rfl, rfl, rfl, fun p => ?_, rfl, rfl, rfl, rfl, rfl, rfl, rfl, ?_⟩
  · rw [hlinks]; rfl
  · rcases port_cases p with h | h | h | h <;> subst h <;> rfl
  · rw [hlinks]; rfl

end

end Sys2Proof.Proofs
end

section
namespace Sys2Proof.Proofs
open Sys2Proof.Machine Sys2Proof.Laws

/-! Writes to the LTS and requests at a port: what they leave alone. -/

/-- What a block is but for the LTS and the error log. -/
def sameButStore (b b' : Blk) : Prop := b' = { b with lts := b'.lts, err := b'.err }

theorem sameButStore_trans {a b c : Blk} (h1 : sameButStore a b) (h2 : sameButStore b c) : sameButStore a c := by
  unfold sameButStore at *
  rw [h2, h1]

theorem logErr_store (b : Blk) (unit kind : Nat) (world : Bool) (addr : Word) : sameButStore b (logErr b unit kind world addr) := by
  unfold logErr
  split <;> rfl

theorem ltsReadWord_store (b : Blk) (w : Nat) : sameButStore b (ltsReadWord b w).2 := by
  unfold ltsReadWord
  dsimp only
  (repeat' split) <;> rfl

theorem ltsWriteWord_store (world : Bool) (w k : Nat) (bs : List Byte) (b : Blk) : sameButStore b (ltsWriteWord world w k bs b).2 := by
  have hread := ltsReadWord_store b w
  unfold ltsWriteWord
  split
  · rfl
  · split
    · next hr => rw [hr] at hread; exact sameButStore_trans hread rfl
    · next hr => rw [hr] at hread; exact sameButStore_trans hread (logErr_store ..)

theorem ltsWriteGo_store (world : Bool) (n : Nat) : ∀ (o : Nat) (bs : List Byte) (b : Blk), sameButStore b (ltsWriteGo world n o bs b).2 := by
  induction n with
  | zero => intro o bs b; rfl
  | succ n ih =>
    intro o bs b
    unfold ltsWriteGo
    split
    · rfl
    · exact sameButStore_trans (ltsWriteWord_store ..) (ih ..)

/-- A write whose beats all arrive changes the LTS and the error log alone. -/
theorem ltsWrite_store (world : Bool) (o : Nat) (bs : List Byte) {b : Blk} (h : b.sys.beats = []) : sameButStore b (ltsWrite world o bs b).2 := by
  unfold ltsWrite ltsSend ltsCross
  rw [crossing_quiet h]
  exact ltsWriteGo_store world _ o bs b

theorem sendPacket_links (b : Blk) (fp : Bool) (pk : Packet) : sameButLinks b (sendPacket b fp pk) := by
  have h (b : Blk) : sameButLinks b (pumpOne b fp) := by
    cases fp <;> exact sameButLinks_trans (setLink_links b _ _) rfl
  exact sameButLinks_trans (setLink_links b _ _) (h _)

/-- A request changes the ports, what is observed of them, and the Far Port's epoch alone. -/
theorem issueReq_frame (c : Cfg) (fp : Bool) (r : Request) (b : Blk) :
    issueReq c fp r b = { b with ports := (issueReq c fp r b).ports, obs := (issueReq c fp r b).obs
                                 rings := { b.rings with epFar := (issueReq c fp r b).rings.epFar } } := by
  have hsend (b1 : Blk) (dead : Bool) (pk : Packet) : sameButLinks b1 (if dead then b1 else sendPacket b1 fp pk) := by
    split
    · rfl
    · exact sendPacket_links b1 fp pk
  unfold issueReq
  cases fp
  · rw [hsend]
  · rw [hsend]
    cases epochReady b <;> rfl

/-! A ring's unit stops (R324, R358, R185): what that leaves alone. -/

/-- The front end and its units have moved on: the running job, the sync objects and every other unit are as they were. -/
def UnitsMoved (b b' : Blk) : Prop :=
  b' = { b with mmu := b'.mmu, err := b'.err, lts := b'.lts, ports := b'.ports, obs := b'.obs, sync := b'.sync, rings := b'.rings
                dma := b'.dma, sparge := b'.sparge } ∧
    b'.sync.objs = b.sync.objs ∧ b'.rings.running = b.rings.running ∧ b'.rings.preempted = b.rings.preempted ∧ b'.rings.offer = b.rings.offer

theorem UnitsMoved.trans {a b c : Blk} (h1 : UnitsMoved a b) (h2 : UnitsMoved b c) : UnitsMoved a c := by
  obtain ⟨he1, ho1, hr1, hp1, hf1⟩ := h1
  obtain ⟨he2, ho2, hr2, hp2, hf2⟩ := h2
  refine ⟨?_, ho2.trans ho1, hr2.trans hr1, hp2.trans hp1, hf2.trans hf1⟩
  rw [he2, he1]

theorem UnitsMoved.refl (b : Blk) : UnitsMoved b b := ⟨rfl, rfl, rfl, rfl, rfl⟩

theorem UnitsMoved.beats {a b : Blk} (h : UnitsMoved a b) (hb : a.sys.beats = []) : b.sys.beats = [] := by
  rw [h.1]
  exact hb

theorem units_of_store {b b' : Blk} (h : sameButStore b b') : UnitsMoved b b' := by
  unfold sameButStore at h
  rw [h]
  exact ⟨rfl, rfl, rfl, rfl, rfl⟩

theorem issueReq_units (c : Cfg) (fp : Bool) (r : Request) (b : Blk) : UnitsMoved b (issueReq c fp r b) := by
  rw [issueReq_frame]
  exact ⟨rfl, rfl, rfl, rfl, rfl⟩

theorem setRing_units (b : Blk) (n : Nat) (r : Ring) : UnitsMoved b (setRing b n r) := ⟨rfl, rfl, rfl, rfl, rfl⟩

theorem markErr_units (b : Blk) (n : Nat) (ok : Bool) : UnitsMoved b (markErr b n ok) := by
  cases ok
  · exact setRing_units ..
  · exact UnitsMoved.refl b

theorem dropStream_units (b : Blk) (n : Nat) : UnitsMoved b (dropStream b n) := by
  have h (b : Blk) : UnitsMoved b (spargeIdle b) := by
    unfold spargeIdle
    split <;> exact ⟨rfl, rfl, rfl, rfl, rfl⟩
  exact UnitsMoved.trans ⟨rfl, rfl, rfl, rfl, rfl⟩ (h _)

theorem progressDone_units (b : Blk) (n : Nat) : UnitsMoved b (progressDone b n) := by
  unfold progressDone
  split
  · split
    · dsimp only
      split <;> exact ⟨rfl, rfl, rfl, rfl, rfl⟩
    · exact setRing_units ..
  · exact (dropStream_units b _).trans (setRing_units ..)

/-- A write-back of progress. -/
theorem frontWrite_units (c : Cfg) (world : Bool) (a : Word) (bs : List Byte) (n : Nat) {b : Blk} (h : b.sys.beats = []) :
    UnitsMoved b (frontWrite c b world a bs (.progress n)) := by
  have hdone (b : Blk) (ok : Bool) : UnitsMoved b (frontWriteDone b (.progress n) ok) := (markErr_units b n ok).trans (progressDone_units ..)
  unfold frontWrite
  split
  · exact hdone ..
  · exact (units_of_store (ltsWrite_store world _ bs h)).trans (hdone ..)
  · exact issueReq_units ..

theorem dmaProgress_units (c : Cfg) (ch : Nat) {b : Blk} (h : b.sys.beats = []) : UnitsMoved b (dmaProgress c b ch) := by
  unfold dmaProgress
  split
  · exact UnitsMoved.refl b
  · split
    · exact UnitsMoved.refl b
    · split
      · exact UnitsMoved.trans (b := setDmaCh b ch _) ⟨rfl, rfl, rfl, rfl, rfl⟩ (frontWrite_units c _ _ _ _ h)
      · split
        · exact ⟨rfl, rfl, rfl, rfl, rfl⟩
        · exact UnitsMoved.refl b

theorem dmaStopCh_units (c : Cfg) (ch : Nat) {b : Blk} (h : b.sys.beats = []) : UnitsMoved b (dmaStopCh c b ch) := by
  unfold dmaStopCh
  dsimp only
  split
  · exact UnitsMoved.refl b
  · split
    · exact UnitsMoved.refl b
    · refine UnitsMoved.trans ?_ (dmaProgress_units c ch ?_)
      · exact ⟨rfl, rfl, rfl, rfl, rfl⟩
      · exact h

theorem streamStop_units (c : Cfg) (n : Nat) {b : Blk} (h : b.sys.beats = []) : UnitsMoved b (streamStop c b n) := by
  unfold streamStop
  split
  · exact UnitsMoved.refl b
  · split
    · exact UnitsMoved.refl b
    · refine UnitsMoved.trans ?_ (frontWrite_units c _ _ _ _ ?_)
      · exact ⟨rfl, rfl, rfl, rfl, rfl⟩
      · exact h

/-- A stop of a ring that is no job ring leaves the jobs alone. -/
theorem stopUnit_units (c : Cfg) {n : Nat} (hn : 8 ≤ n) {b : Blk} (h : b.sys.beats = []) : UnitsMoved b (stopUnit c b n) := by
  have hkind : ringKind n ≠ 1 := by
    unfold ringKind
    rw [if_neg (by omega)]
    (repeat' split) <;> decide
  refine UnitsMoved.trans (b := modRing b n fun r => { r with run := false }) (setRing_units ..) ?_
  unfold stopUnit
  dsimp only
  split
  · exact UnitsMoved.refl _
  · split
    · exact setRing_units ..
    · split
      · split
        · exact setRing_units ..
        · exact dmaStopCh_units c _ h
      · split
        · split
          · exact setRing_units ..
          · exact streamStop_units c _ h
        · exact UnitsMoved.refl _

end Sys2Proof.Proofs
end

section
namespace Sys2Proof.Proofs
open Sys2Proof.Machine Sys2Proof.Laws

/-! CORE (R452). -/

/-- A core-only reset under way: the core is held, no job is left, the caches are clean, and what the reset keeps is as in b0. -/
def CoreHeld (b0 b : Blk) : Prop :=
  b.core = Core.reset ∧ b.pwr.state = .run ∧ (b.rings.running = none ∧ b.rings.preempted = [] ∧ b.rings.offer = none) ∧
    (b.caches.l1d = [] ∧ b.caches.l2 = [] ∧ b.sys.beats = []) ∧
    (b.sync.objs = b0.sync.objs ∧ b.chain.cgt = b0.chain.cgt ∧ b.malt.ram = b0.malt.ram)

theorem CoreHeld.units {b0 b b' : Blk} (h : CoreHeld b0 b) (hu : UnitsMoved b b') : CoreHeld b0 b' := by
  obtain ⟨hcore, hstate, ⟨hrun, hpre, hoff⟩, hquiet, hobjs, hkept⟩ := h
  obtain ⟨heq, hobjs', hrun', hpre', hoff'⟩ := hu
  refine ⟨?_, ?_, ⟨hrun'.trans hrun, hpre'.trans hpre, hoff'.trans hoff⟩, ?_, hobjs'.trans hobjs, ?_⟩
  · rw [heq]; exact hcore
  · rw [heq]; exact hstate
  · rw [heq]; exact hquiet
  · rw [heq]; exact hkept

theorem CoreHeld.links {b0 b b' : Blk} (h : CoreHeld b0 b) (hl : sameButLinks b b') : CoreHeld b0 b' := by
  unfold sameButLinks at hl
  rw [hl]
  exact h

theorem CoreHeld.sync {b0 b : Blk} (h : CoreHeld b0 b) {x : Sync} (hx : x.objs = b.sync.objs) : CoreHeld b0 { b with sync := x } := by
  obtain ⟨hcore, hstate, hjobs, hquiet, hobjs, hkept⟩ := h
  exact ⟨hcore, hstate, hjobs, hquiet, hx.trans hobjs, hkept⟩

theorem CoreHeld.chain {b0 b : Blk} (h : CoreHeld b0 b) {x : Chain} (hx : x.cgt = b.chain.cgt) : CoreHeld b0 { b with chain := x } := by
  obtain ⟨hcore, hstate, hjobs, hquiet, hobjs, hcgt, hram⟩ := h
  exact ⟨hcore, hstate, hjobs, hquiet, hobjs, hx.trans hcgt, hram⟩

theorem CoreHeld.side {b0 b : Blk} (h : CoreHeld b0 b) (x : List BufLine) : CoreHeld b0 { b with caches := { b.caches with side := x } } := h

/-- The power and clock domains change nothing but their own state and the observation unit's. -/
theorem setPds_frame (b : Blk) (pd : W32) : ∃ cd, setPds b pd = { b with pwr := { b.pwr with pd := pd ||| 3, cd := cd }, obs := (setPds b pd).obs } := by
  unfold setPds
  dsimp only
  split
  · split <;> exact ⟨_, rfl⟩
  · split <;> exact ⟨_, rfl⟩

/-- Clean caches send nothing (R304). -/
theorem cleanAll_empty (c : Cfg) {b : Blk} (h1 : b.caches.l1d = []) (h2 : b.caches.l2 = []) :
    cleanAll c b = { b with caches := { b.caches with side := [] } } := by
  unfold cleanAll
  simp only [h1, h2, List.foldl_nil]

/-- The jobs of a core-only reset end (R342): none runs, is preempted or offered. -/
theorem jobsAbandon_ends (b : Blk) : ∃ r : Rings, jobsAbandon b = { b with rings := r } ∧ r.running = none ∧ r.preempted = [] ∧ r.offer = none := by
  have hnone : b.rings.noneRuns.running = none := by
    unfold Rings.noneRuns
    split
    · next h => exact h
    · rfl
  unfold jobsAbandon
  refine foldl_keeps (P := fun x : Blk => ∃ r : Rings, x = { b with rings := r } ∧ r.running = none ∧ r.preempted = [] ∧ r.offer = none) ?_ _ _ ⟨_, rfl, hnone, rfl, rfl⟩
  rintro x j ⟨r, rfl, hrun, hpre, hoff⟩
  exact ⟨_, rfl, hrun, hpre, hoff⟩

/-- A block that is b but for its power state, its ports and what is observed of it, in Run. -/
def RunsLike (b b' : Blk) : Prop := b' = { b with pwr := b'.pwr, obs := b'.obs, ports := b'.ports } ∧ b'.pwr.state = .run

theorem RunsLike.links {b b1 b2 : Blk} (h : RunsLike b b1) (hl : sameButLinks b1 b2) : RunsLike b b2 := by
  obtain ⟨heq, hrun⟩ := h
  unfold sameButLinks at hl
  unfold RunsLike
  rw [hl]
  refine ⟨?_, hrun⟩
  rw [heq]

theorem RunsLike.pds {b b1 : Blk} (h : RunsLike b b1) (pd : W32) : RunsLike b (setPds b1 pd) := by
  obtain ⟨heq, hrun⟩ := h
  obtain ⟨cd, hpds⟩ := setPds_frame b1 pd
  unfold RunsLike
  rw [hpds]
  refine ⟨?_, hrun⟩
  rw [heq]

/-- The block that a core-only reset hands to the Kiln. -/
theorem coreOnly_held (c : Cfg) {b : Blk} (hl1 : b.caches.l1d = []) (hl2 : b.caches.l2 = []) (hbeats : b.sys.beats = []) :
    ∃ (b1 : Blk) (y : Sys), coreOnly c b = { b1 with sys := y } ∧ CoreHeld b b1 ∧ b1.chain.txW = [] ∧ b1.chain.txE = [] ∧ b1.chain.rxW = [] ∧
      b1.chain.rxE = [] ∧ y.phase = 8 ∧ y.last = 3 ∧ y.resetKind = 3 ∧ y.kilnTrig = 3 := by
  unfold coreOnly
  extract_lets b0 start p0 b1 b2 b3 k0 b4 b5 s0 b6 drop b7 ch b8 b9 y0
  have h2 : RunsLike b b2 := RunsLike.links (RunsLike.pds (b1 := b1) ⟨rfl, rfl⟩ _) (links_of_obs (powerChanged_obs ..))
  have h3 : RunsLike b b3 := by
    show RunsLike b (if b0.pwr.state = .run then b2 else resumeLinks b2)
    split
    · exact h2
    · exact h2.links (resumeLinks_links b2)
  have h4 : CoreHeld b b4 := by
    obtain ⟨heq, hrun⟩ := h3
    obtain ⟨rg, hjobs, hnone, hpre, hoff⟩ := jobsAbandon_ends { b3 with core := { Core.reset with run := .held } }
    have hb4 : b4 = _ := hjobs
    rw [hb4, heq]
    exact ⟨rfl, hrun, ⟨hnone, hpre, hoff⟩, ⟨hl1, hl2, hbeats⟩, rfl, rfl, rfl⟩
  have h5 : CoreHeld b b5 := by
    refine h4.units (foldl_keeps (P := UnitsMoved b4) (fun x n hx => ?_) _ _ (UnitsMoved.refl b4))
    split
    · next hn => exact (hx.trans (stopUnit_units c hn.1 (hx.beats h4.2.2.2.1.2.2))).trans (setRing_units ..)
    · exact hx
  clear_value b5
  have hdrop (p : BitVec 2) (ts : List Transfer) (x : Blk) : sameButLinks x (drop p ts x) :=
    foldl_keeps (P := sameButLinks x) (fun _ _ hx => sameButLinks_trans hx (setLink_links ..)) ts x rfl
  have h6 : CoreHeld b b6 := h5.sync rfl
  have h7 : CoreHeld b b7 := (h6.links (hdrop 3 _ _)).links (hdrop 2 _ _)
  have h8 : CoreHeld b b8 := h7.chain rfl
  have h9 : b9 = { b8 with caches := { b8.caches with side := [] } } := cleanAll_empty c h8.2.2.2.1.1 h8.2.2.2.1.2.1
  refine ⟨b9, _, rfl, ?_, ?_⟩
  · rw [h9]
    exact h8.side []
  · rw [h9]
    exact ⟨rfl, rfl, rfl, rfl, rfl, rfl, rfl, rfl⟩

/-- Settles O34: KZ_RST_CMD's three commands, each refused outside its phases. -/
theorem resetCommands : Obligations.ResetCommands := by
  intro s h c b refused
  have hblk {v : W32} {op : Nat} {b1 : Blk} (hv : writeAt c b 0x104 v false = rstCmd c b op) (hop : rstCmd c b op = (c, b1)) :
      hostWrite s 0x104 v = .next { s with blk := b1 } := hostWrite_blk h (by decide) (by decide) (hv.trans hop)
  obtain ⟨hgo, hwarm, hcore⟩ := writeAt_rst c b
  refine ⟨fun hp => hblk hgo (rstCmd_go hp), fun h1 h10 => hblk hgo (rstCmd_goRefused h1 h10), fun hp => hblk hwarm (rstCmd_warmRefused hp),
    fun h9 hkiln => ?_, fun hp => hblk hcore (rstCmd_coreRefused hp), fun h9 hf hl1 hl2 hbeats => ?_⟩
  · obtain ⟨x, hx, hrest⟩ := warmBlk_resets (b := b) hkiln h.2
    refine ⟨warmBlk b rkWarm 2, hostWrite_cfg h (by decide) (by decide) (hwarm.trans (rstCmd_warm h9)), ?_⟩
    obtain ⟨hcore, hmmu, hcaches, hlts, htile, htun, hvec, hepi, hsync, hdma, hsparge, hram, hstarted, hrings, hrunning, hclog, hcgt, hfatal, hmp,
      hfp, hlink, htcmp, hwakepc, hmnotice, hphase, hlast, hkind, htrig, hpd⟩ := hrest
    have hdown (p : BitVec 2) : (getLink (linksDown b) p).state = 0 := by
      rw [getLink_linksDown]
      rfl
    have hstate (p : BitVec 2) : (getLink x p).state = 0 := (congrArg Link.state (hlink p)).trans (hdown p)
    unfold sameButObs at hx
    rw [hx]
    exact ⟨hcore, hmmu, hcaches, hlts, htile, htun, hvec, hepi, hsync, hdma, hsparge, hram, hstarted, hrings, hrunning, hclog, hcgt, hfatal, hmp,
      hfp, hstate, htcmp, hwakepc, hmnotice, hphase, hlast, hkind, htrig, hpd⟩
  · obtain ⟨b1, y, heq, ⟨hc, hstate, ⟨hrun, hpre, hoff⟩, _, hobjs, hcgt, hram⟩, hw, he, hrw, hre, hphase, hlast, hkind, htrig⟩ :=
      coreOnly_held c hl1 hl2 hbeats
    exact ⟨_, hblk hcore ((rstCmd_core h9 hf).trans (congrArg (Prod.mk c) heq)), hc, hstate, hrun, hpre, hoff, hw, he, hrw, hre, hphase, hlast,
      hkind, htrig, hobjs, hcgt, hram⟩

end Sys2Proof.Proofs
end

section
namespace Sys2Proof.Proofs
open Sys2Proof.Machine Sys2Proof.Laws

/-! Rings: their reads and the host's commands (R322–R325). -/

theorem modRing_eq (b : Blk) (n : Nat) (f : Ring → Ring) : modRing b n f = setRing b n (f (getRing b n)) := rfl

theorem modRing_setRing (b : Blk) (n : Nat) (r : Ring) (f : Ring → Ring) : modRing (setRing b n r) n f = setRing b n (f r) := by
  rw [modRing_eq, getRing_setRing, setRing_setRing]

theorem wake_run {b : Blk} (h : b.pwr.state = .run) : wake b = b := if_pos h

/-- The kinds of the rings (R320). -/
theorem ringKind_job {n : Nat} (h : n < 8) : ringKind n = 1 := if_pos h
theorem ringKind_dma {n : Nat} (h8 : 8 ≤ n) (h24 : n < 24) : ringKind n = 2 := by
  unfold ringKind
  rw [if_neg (by omega), if_pos h24]
theorem ringKind_stream {n : Nat} (h24 : 24 ≤ n) (h28 : n < 28) : ringKind n = 3 := by
  unfold ringKind
  rw [if_neg (by omega), if_neg (by omega), if_pos h28]
theorem ringKind_event {n : Nat} (h28 : 28 ≤ n) : ringKind n = 4 := by
  unfold ringKind
  rw [if_neg (by omega), if_neg (by omega), if_neg (by omega)]
theorem ringKind_eq_event {n : Nat} : ringKind n = 4 ↔ 28 ≤ n := by
  unfold ringKind
  split_ifs <;> omega

/-! The pieces of an image or a descriptor (R323, R332). -/

/-- The read of one piece. -/
def pieceRead (image : Bool) (n : Nat) (world : Bool) (a : Word) : Request :=
  { op := .rd, addr := a, be := BitVec.allOnes 64, operand := 0, data := 0, world := world, purpose := if image then .ctxImage n else .descriptor n }

/-- A ring that awaits k pieces. -/
def awaiting (b : Blk) (n k : Nat) : Blk :=
  modRing b n fun r => { r with buf := List.replicate (64 * k) 0, awaited := BitVec.ofNat 4 k, bad := false }

/-- Piece i of an image or descriptor at `a` is asked for where its address leads (R323, R332). -/
def pieceStep (c : Cfg) (image : Bool) (n : Nat) (world : Bool) (a : Word) (b : Blk) (i : Nat) : Blk :=
  let p := a + BitVec.ofNat 64 (64 * i)
  match resolve c b p 64 world false needR false with
  | .error _ => frontPiece c b image n i none
  | .ok (.lts o) =>
    let q := ltsRead world o 64 b
    frontPiece c q.2 image n i (if q.1.2.isSome then none else some (pieceOfBytes 0 q.1.1))
  | .ok _ => issueReq c false (pieceRead image n world p) b

theorem frontRead_eq (c : Cfg) (b : Blk) (image : Bool) (n : Nat) (world : Bool) (a : Word) (k : Nat) :
    frontRead c b image n world a k = (List.range k).foldl (pieceStep c image n world a) (awaiting b n k) := rfl

section
variable {c : Cfg} {b : Blk} {image : Bool} {n : Nat} {world : Bool} {a : Word}

theorem pieceStep_port {i : Nat} {p : Word} (ha : a + BitVec.ofNat 64 (64 * i) = p) (h : OnPort c b p 64 world needR) :
    pieceStep c image n world a b i = issueReq c false (pieceRead image n world p) b := by
  obtain ⟨q, hr, hq⟩ := h
  unfold pieceStep
  rw [ha]
  dsimp only
  rw [hr]
  cases q with
  | lts o => exact absurd rfl (hq o)
  | cached => rfl
  | port => rfl

theorem piece_zero (a : Word) : a + BitVec.ofNat 64 (64 * 0) = a := BitVec.add_zero a

/-- One piece in chip memory is asked for. -/
theorem frontRead_one (h : OnPort c (awaiting b n 1) a 64 world needR) :
    frontRead c b image n world a 1 = issueReq c false (pieceRead image n world a) (awaiting b n 1) :=
  pieceStep_port (piece_zero a) h

/-- Two pieces in chip memory are asked for in turn. -/
theorem frontRead_two (h0 : OnPort c (awaiting b n 2) a 64 world needR)
    (h1 : OnPort c (issueReq c false (pieceRead image n world a) (awaiting b n 2)) (a + 64) 64 world needR) :
    frontRead c b image n world a 2 =
      issueReq c false (pieceRead image n world (a + 64)) (issueReq c false (pieceRead image n world a) (awaiting b n 2)) := by
  show pieceStep c image n world a (pieceStep c image n world a (awaiting b n 2) 0) 1 = _
  rw [pieceStep_port (piece_zero a) h0]
  exact pieceStep_port rfl h1

end

/-! The commands of a ring. -/

section
variable {s : State} {n : BitVec 5}

/-- A command of a ring's register reaches it (R322, R324). -/
theorem ringCommand_blk (h : hostAnswers s.blk) {op : Nat} (hop : op < 4) {b1 : Blk} (hcmd : ringCmd s.cfg s.blk n.toNat op false = b1) :
    hostWrite s (0x608 + 16 * n.toNat) (BitVec.ofNat 32 op) = .next { s with blk := b1 } := by
  have hn := n.isLt
  refine hostWrite_blk h (by omega) (by omega) ?_
  have hnum : (0x608 + 16 * n.toNat) / 16 % 32 = n.toNat := by omega
  have hoff : (0x608 + 16 * n.toNat) % 16 = 8 := by omega
  have hbits : bits (BitVec.ofNat 32 op) 1 0 = op := by
    rw [bits, toNat_ofNat_of_lt (by omega), Nat.shiftRight_zero]
    exact Nat.mod_eq_of_lt hop
  unfold writeAt
  rw [if_neg (by omega), if_neg (by omega), if_neg (by omega), if_pos (by omega)]
  unfold writeRing
  simp only [hnum, hoff, hbits, OfNat.ofNat_ne_zero, if_false, if_true, Nat.reduceEqDiff, hcmd]

end

section
variable {c : Cfg} {b : Blk} {n : Nat}

/-- A command of the host on a secure ring is refused while the world lock is set (R434). -/
theorem ringLocked_host (c : Cfg) (b : Blk) (n : Nat) : ringLocked c b n false = (c.lock && ringsecBit c b n) := by
  unfold ringLocked
  rw [Bool.not_false, Bool.and_true]

theorem refuseRing_eq (b : Blk) (n : Nat) : refuseRing b n = setRing b n { getRing b n with refused := true } := rfl

theorem ringCmd_setup (c : Cfg) (b : Blk) (n : Nat) (secure : Bool) : ringCmd c b n 1 secure = setupRing c b n secure := if_pos rfl
theorem ringCmd_start (c : Cfg) (b : Blk) (n : Nat) (secure : Bool) : ringCmd c b n 2 secure = startRing c b n secure :=
  (if_neg (by decide)).trans (if_pos rfl)
theorem ringCmd_stop (c : Cfg) (b : Blk) (n : Nat) (secure : Bool) : ringCmd c b n 3 secure = stopRing c b n secure :=
  (if_neg (by decide)).trans ((if_neg (by decide)).trans (if_pos rfl))

theorem setup_refused (h : (c.lock && ringsecBit c b n) = true ∨ (getRing b n).run = true ∨ (getRing b n).busy = true) :
    ringCmd c b n 1 false = setRing b n { getRing b n with refused := true } := by
  rw [ringCmd_setup]
  unfold setupRing
  rw [ringLocked_host]
  refine if_pos ?_
  simpa only [Bool.or_eq_true, or_assoc] using h

theorem setup_taken (hl : (c.lock && ringsecBit c b n) = false) (hrun : (getRing b n).run = false) (hbusy : (getRing b n).busy = false) :
    ringCmd c b n 1 false = if b.err.fatal then b else frontRead c (wake (setRing b n { getRing b n with busy := true })) true n (ringsecBit c b n)
      (BitVec.ofNat 64 ((getRing b n).ctxHi.toNat * 2 ^ 32 + (getRing b n).ctxLo.toNat)) 2 := by
  rw [ringCmd_setup]
  unfold setupRing
  rw [ringLocked_host, hl]
  simp only [hrun, hbusy, Bool.or_self, Bool.false_eq_true, if_false]

theorem start_refused (h : (c.lock && ringsecBit c b n) = true ∨ (getRing b n).busy = true ∨ (getRing b n).setUp = false ∨ c.sealed = false) :
    ringCmd c b n 2 false = setRing b n { getRing b n with refused := true } := by
  rw [ringCmd_start]
  unfold startRing
  rw [ringLocked_host]
  refine if_pos ?_
  simpa only [Bool.or_eq_true, Bool.not_eq_true', or_assoc] using h

theorem start_taken (hl : (c.lock && ringsecBit c b n) = false) (hbusy : (getRing b n).busy = false) (hset : (getRing b n).setUp = true)
    (hseal : c.sealed = true) : ringCmd c b n 2 false = if (getRing b n).run then b else startUnit c (wake b) n := by
  rw [ringCmd_start]
  unfold startRing
  rw [ringLocked_host, hl]
  simp only [hbusy, hset, hseal, Bool.or_self, Bool.not_true, Bool.false_eq_true, if_false]

theorem startUnit_plain (h : (getRing b n).st ≠ .waiting ∨ 8 ≤ n) : startUnit c b n = setRing b n { getRing b n with run := true } := by
  unfold startUnit
  refine if_neg ?_
  rw [modRing_eq, getRing_setRing]
  simp only [Bool.and_eq_true, decide_eq_true_eq]
  rintro ⟨⟨hkind, hst⟩, -⟩
  refine h.elim (fun hn => hn hst) fun hn => ?_
  unfold ringKind at hkind
  rw [if_neg (by omega)] at hkind
  revert hkind
  split_ifs <;> decide

theorem startUnit_waiting (hst : (getRing b n).st = .waiting) (hn : n < 8) (hwait : jobWaitOf b n = none) :
    startUnit c b n = armJob c (setRing b n { getRing b n with run := true }) n := by
  have hno : jobWaitOf (setRing b n { getRing b n with run := true }) n = none := hwait
  unfold startUnit
  rw [modRing_eq]
  refine if_pos ?_
  rw [getRing_setRing, hno, ringKind_job hn, hst]
  rfl

theorem stop_refused (h : (c.lock && ringsecBit c b n) = true ∨ (getRing b n).busy = true) :
    ringCmd c b n 3 false = setRing b n { getRing b n with refused := true } := by
  rw [ringCmd_stop]
  unfold stopRing
  rw [ringLocked_host]
  refine if_pos ?_
  simpa only [Bool.or_eq_true] using h

theorem stop_idle (hl : (c.lock && ringsecBit c b n) = false) (hbusy : (getRing b n).busy = false) (hrun : (getRing b n).run = false) :
    ringCmd c b n 3 false = b := by
  rw [ringCmd_stop]
  unfold stopRing
  rw [ringLocked_host, hl]
  simp only [hbusy, hrun, Bool.or_self, Bool.not_false, Bool.false_eq_true, if_false, if_true]

/-- BUSY after a STOP (R324). -/
def stopBusy (b : Blk) (n : Nat) (r : Ring) : Bool := r.halting || (ringKind n != 1 && !b.err.fatal && r.st != .idle)

theorem stop_taken (hl : (c.lock && ringsecBit c b n) = false) (hbusy : (getRing b n).busy = false) (hrun : (getRing b n).run = true)
    {b1 : Blk} {r1 : Ring} (h : stopUnit c b n = setRing b1 n r1) :
    ringCmd c b n 3 false = setRing b1 n { r1 with busy := stopBusy b n r1 } := by
  rw [ringCmd_stop]
  unfold stopRing
  rw [ringLocked_host, hl]
  simp only [hbusy, hrun, Bool.or_self, Bool.not_true, Bool.false_eq_true, if_false]
  rw [h, modRing_setRing]
  rfl

/-- A ring that no longer runs. -/
def haltedRing (b : Blk) (n : Nat) : Ring := { getRing b n with run := false }

theorem stopUnit_fatal (h : b.err.fatal = true) : stopUnit c b n = setRing b n (haltedRing b n) := if_pos h

theorem stopUnit_fetching (hf : b.err.fatal = false) (hst : (getRing b n).st = .fetching) :
    stopUnit c b n = setRing b n { haltedRing b n with halting := true } := by
  unfold stopUnit
  simp only [modRing_eq, getRing_setRing]
  rw [if_neg (by rw [show (setRing b n _).err = b.err from rfl, hf]; decide), if_pos hst, setRing_setRing]
  rfl

/-- A unit with nothing to stop. -/
theorem stopUnit_quiet (hf : b.err.fatal = false) (hst : (getRing b n).st ≠ .fetching) (hready : (getRing b n).st ≠ .ready) (hn : 8 ≤ n)
    (hdma : n < 24 → dmaCh b (n - 8) = none) (hstream : 24 ≤ n → n < 28 → streamOf b (n - 24) = none) :
    stopUnit c b n = setRing b n (haltedRing b n) := by
  unfold stopUnit
  simp only [modRing_eq, getRing_setRing]
  rw [if_neg (by rw [show (setRing b n _).err = b.err from rfl, hf]; decide), if_neg hst]
  by_cases h24 : n < 24
  · have hnone : dmaCh (setRing b n (haltedRing b n)) (n - 8) = none := hdma h24
    rw [ringKind_dma hn h24, if_neg (by decide), if_pos rfl, if_neg hready]
    unfold dmaStopCh
    rw [show dmaCh (setRing b n { getRing b n with run := false }) (n - 8) = none from hnone]
    rfl
  · by_cases h28 : n < 28
    · have hnone : streamOf (setRing b n (haltedRing b n)) (n - 24) = none := hstream (by omega) h28
      rw [ringKind_stream (by omega) h28, if_neg (by decide), if_neg (by decide), if_pos rfl, if_neg hready]
      unfold streamStop
      rw [show streamOf (setRing b n { getRing b n with run := false }) (n - 24) = none from hnone]
      rfl
    · rw [ringKind_event (by omega)]
      rfl

theorem stopUnit_ready (hf : b.err.fatal = false) (hst : (getRing b n).st = .ready) (h8 : 8 ≤ n) (h28 : n < 28) :
    stopUnit c b n = setRing b n { haltedRing b n with st := .idle, desc := [], halting := false, busy := false } := by
  unfold stopUnit
  simp only [modRing_eq, getRing_setRing]
  rw [if_neg (by rw [show (setRing b n _).err = b.err from rfl, hf]; decide), if_neg (by rw [hst]; decide)]
  have hstop : ringStopped (setRing b n (haltedRing b n)) n =
      setRing b n { haltedRing b n with st := .idle, desc := [], halting := false, busy := false } := modRing_setRing ..
  by_cases h24 : n < 24
  · rw [ringKind_dma h8 h24, if_neg (by decide), if_pos rfl, if_pos hst]
    exact hstop
  · rw [ringKind_stream (by omega) h28, if_neg (by decide), if_neg (by decide), if_pos rfl, if_pos hst]
    exact hstop

end

end Sys2Proof.Proofs
end

section
namespace Sys2Proof.Proofs
open Sys2Proof.Machine Sys2Proof.Laws

section
variable {c : Cfg} {b : Blk} {n : Nat}

/-- A job ring that stops, where no other ring's job is offered: its offer is withdrawn and its ARMED wait is freed (R324). -/
theorem stopUnit_job (hn : n < 8) (hf : b.err.fatal = false) (hst : (getRing b n).st ≠ .fetching)
    (hoffer : ∀ j, b.rings.offer = some j → j.ring.toNat = n) :
    stopUnit c b n = setRing { b with
      rings := { b.rings with offer := none, offerResume := if b.rings.offer.isSome then false else b.rings.offerResume }
      sync := { b.sync with waits := b.sync.waits.filter fun w => !(w.kind == .jobWait (BitVec.ofNat 3 n) && w.state == .armed) } }
      n (haltedRing b n) := by
  have hkind (w : WaitEntry) : (match w.kind with | .jobWait m => decide (m.toNat ≠ n) || w.state != .armed | _ => true) =
      !(w.kind == .jobWait (BitVec.ofNat 3 n) && w.state == .armed) := by
    cases hk : w.kind with
    | jobWait m =>
      have hm : (WaitKind.jobWait m == WaitKind.jobWait (BitVec.ofNat 3 n)) = decide (m.toNat = n) := by
        rw [Bool.eq_iff_iff, beq_iff_eq, decide_eq_true_eq, WaitKind.jobWait.injEq, ← BitVec.toNat_inj, toNat_ofNat_of_lt (by omega)]
      show (decide (m.toNat ≠ n) || w.state != .armed) = !(_ && _)
      rw [hm, Bool.not_and, decide_not]
      rfl
    | _ => rfl
  have hfreed (b1 : Blk) : ({ b1 with sync := { b1.sync with waits := b1.sync.waits.filter fun w => match w.kind with
        | .jobWait m => decide (m.toNat ≠ n) || w.state != .armed
        | _ => true } } : Blk) =
      { b1 with sync := { b1.sync with waits := b1.sync.waits.filter fun w => !(w.kind == .jobWait (BitVec.ofNat 3 n) && w.state == .armed) } } :=
    congrArg (fun f => ({ b1 with sync := { b1.sync with waits := b1.sync.waits.filter f } } : Blk)) (funext hkind)
  unfold stopUnit
  simp only [modRing_eq, getRing_setRing]
  rw [if_neg (by rw [show (setRing b n _).err = b.err from rfl, hf]; decide), if_neg hst, if_pos (ringKind_job hn)]
  refine (hfreed _).trans ?_
  cases ho : b.rings.offer with
  | none =>
    have hrings : b.rings = { b.rings with offer := none, offerResume := b.rings.offerResume } := by rw [← ho]
    rw [show (setRing b n { getRing b n with run := false }).rings.offer = none from ho]
    refine Eq.trans ?_ (congrArg (fun r : Rings => setRing { b with
      rings := r
      sync := { b.sync with waits := b.sync.waits.filter fun w => !(w.kind == .jobWait (BitVec.ofNat 3 n) && w.state == .armed) } }
      n (haltedRing b n)) hrings)
    rfl
  | some j =>
    rw [show (setRing b n { getRing b n with run := false }).rings.offer = some j from ho]
    dsimp only
    rw [if_pos (hoffer j ho)]
    rfl

/-- A doorbell value in bits [15:0]: clamped to the ring, with a record where the clamp changes it (R325). -/
theorem doorbellWrite_low {v : W32} (hf : b.err.fatal = false) (hv : v.toNat < 65536) :
    let r := getRing b n
    let top := (if r.setUp then r.size else 16) - 1
    let b0 := if top < v.toNat then logClamp b n 0x30 0xFFFE v.toNat top else b
    let b1 := maltSource (setRing b0 n { r with index := BitVec.ofNat 16 (Nat.min v.toNat top) }) 0
    doorbellWrite b n v = if r.run && decide (n < 28) then wake b1 else b1 := by
  intro r top b0 b1
  have hlow : bits v 15 0 = v.toNat := Nat.mod_eq_of_lt hv
  have hhigh : bits v 31 16 = 0 := by
    rw [bits, Nat.shiftRight_eq_div_pow, Nat.div_eq_of_lt (by omega), Nat.zero_mod]
  have hevent : (ringKind n ≠ 4) = (n < 28) := by
    rw [ne_eq, ringKind_eq_event, Nat.not_le]
  have hring : getRing b0 n = r := by
    show getRing (if top < v.toNat then logClamp b n 0x30 0xFFFE v.toNat top else b) n = r
    split <;> rfl
  unfold doorbellWrite
  simp only [hf, Bool.false_eq_true, if_false, hlow, hhigh, ne_eq, not_true_eq_false, modRing_eq]
  simp only [hevent]
  show (if r.run && decide (n < 28) then wake (maltSource (setRing b0 n { getRing b0 n with index := BitVec.ofNat 16 (Nat.min v.toNat top) }) 0)
    else maltSource (setRing b0 n { getRing b0 n with index := BitVec.ofNat 16 (Nat.min v.toNat top) }) 0) = _
  rw [hring]

end

section
variable {s : State} {n : BitVec 5}

theorem doorbell_blk (h : hostAnswers s.blk) (v : W32) : exec (.doorbell n v) s = .next { s with blk := doorbellWrite s.blk n.toNat v } := by
  have hn := n.isLt
  refine hostWrite_blk h (o := 0x800 + 4 * n.toNat) (by omega) (by omega) ?_
  have hnum : (0x800 + 4 * n.toNat - 0x800) / 4 = n.toNat := by omega
  unfold writeAt
  rw [if_neg (by omega), if_neg (by omega), if_neg (by omega), if_neg (by omega), if_pos (by omega), hnum]

end

/-- A busy bit that a stop clears was clear. -/
theorem stopBusy_quiet {b : Blk} {n : Nat} {r : Ring} (hhalt : r.halting = false) (hst : r.st = .idle) : stopBusy b n r = false := by
  unfold stopBusy
  rw [hhalt, hst]
  cases ringKind n != 1 <;> cases !b.err.fatal <;> rfl

theorem haltedRing_busy {b : Blk} {n : Nat} {busy : Bool} (hbusy : (getRing b n).busy = false) (h : busy = false) :
    { haltedRing b n with busy := busy } = haltedRing b n := by
  rw [h, ← hbusy]
  rfl

/-- Settles O32: doorbells by their value, and each command where it is refused and where it is taken. -/
theorem ringHostCommands : Obligations.RingHostCommands := by
  refine ⟨?_, ?_⟩
  · intro s n v h b r top rung
    refine ⟨fun hf => ?_, fun hf hv => ⟨fun hin => ?_, fun hout => ?_⟩⟩
    · refine (doorbell_blk h v).trans ?_
      rw [doorbellWrite, if_pos hf]
    · have hw := doorbellWrite_low (n := n.toNat) hf hv
      have hi : BitVec.ofNat 16 (Nat.min v.toNat top) = v.truncate 16 := congrArg (BitVec.ofNat 16) (Nat.min_eq_left hin)
      refine (doorbell_blk h v).trans (congrArg (fun x : Blk => Host.Outcome.next { s with blk := x }) (hw.trans ?_))
      rw [← hi]
      rw [if_neg (Nat.not_lt.mpr hin)]
    · have hw := doorbellWrite_low (n := n.toNat) hf hv
      have hi : BitVec.ofNat 16 (Nat.min v.toNat top) = BitVec.ofNat 16 top := congrArg (BitVec.ofNat 16) (Nat.min_eq_right (Nat.le_of_lt hout))
      refine (doorbell_blk h v).trans (congrArg (fun x : Blk => Host.Outcome.next { s with blk := x }) (hw.trans ?_))
      rw [← hi]
      rw [if_pos hout]
  · intro s n h c b r refused locked image world read
    have setup {b1 : Blk} (hc : ringCmd c b n.toNat 1 false = b1) : Gives s (.setup n) b1 := ringCommand_blk h (by decide) hc
    have start {b1 : Blk} (hc : ringCmd c b n.toNat 2 false = b1) : Gives s (.start n) b1 := ringCommand_blk h (by decide) hc
    have stop {b1 : Blk} (hc : ringCmd c b n.toNat 3 false = b1) : Gives s (.stop n) b1 := ringCommand_blk h (by decide) hc
    refine ⟨fun hr => setup (setup_refused hr), fun hl hrun hbusy hf => setup ((setup_taken hl hrun hbusy).trans (if_pos hf)),
      ?_, fun hr => start (start_refused hr),
      fun hl hbusy hset hseal => ?_, fun hr => stop (stop_refused hr), fun hl hbusy hrun => stop (stop_idle hl hbusy hrun),
      fun hl hbusy hrun hf hhalt => ?_, fun hl hbusy hrun hf hhalt => ?_⟩
    · intro hl hrun hbusy hf hstate b1 hp0 b2 hp1
      refine setup ((setup_taken hl hrun hbusy).trans ?_)
      have hawait : awaiting (setRing b n.toNat { r with busy := true }) n.toNat 2 = b1 := modRing_setRing ..
      have hwake : wake (setRing b n.toNat { r with busy := true }) = setRing b n.toNat { r with busy := true } := wake_run hstate
      rw [if_neg (by rw [hf]; decide)]
      refine (congrArg (fun x => frontRead c x true n.toNat world image 2) hwake).trans ?_
      refine (frontRead_two ?_ ?_).trans ?_
      · rw [hawait]; exact hp0
      · rw [hawait]; exact hp1
      · rw [hawait]; rfl
    · have htaken := start_taken hl hbusy hset hseal
      refine ⟨fun hrun => start (htaken.trans (if_pos hrun)), fun hstate hrun hst => start ?_, fun hstate hrun hst hn hwait => start ?_⟩
      · rw [htaken, if_neg (by rw [hrun]; decide), wake_run hstate, startUnit_plain hst]
      · rw [htaken, if_neg (by rw [hrun]; decide), wake_run hstate, startUnit_waiting hst hn hwait]
    · refine stop ((stop_taken hl hbusy hrun (stopUnit_fatal hf)).trans (congrArg (setRing b n.toNat) (haltedRing_busy hbusy ?_)))
      show (r.halting || (ringKind n.toNat != 1 && !b.err.fatal && r.st != .idle)) = false
      rw [hhalt, hf]
      simp
    · have htaken {b1 : Blk} {r1 : Ring} (hu : stopUnit c b n.toNat = setRing b1 n.toNat r1) := stop_taken hl hbusy hrun hu
      have hquiet (h8 : 8 ≤ n.toNat) (hst : r.st = .idle) (hdma : n.toNat < 24 → dmaCh b (n.toNat - 8) = none)
          (hstream : 24 ≤ n.toNat → n.toNat < 28 → streamOf b (n.toNat - 24) = none) :
          Gives s (.stop n) (setRing b n.toNat { r with run := false }) :=
        stop ((htaken (stopUnit_quiet hf (by rw [hst]; decide) (by rw [hst]; decide) h8 hdma hstream)).trans
          (congrArg (setRing b n.toNat) (haltedRing_busy hbusy (stopBusy_quiet hhalt hst))))
      refine ⟨fun hst => stop (htaken (stopUnit_fetching hf hst)), fun h28 hst => hquiet (by omega) hst (by omega) (by omega),
        fun h8 h24 hst hdma => hquiet h8 hst (fun _ => hdma) (by omega), fun h24 h28 hst hstream => hquiet (by omega) hst (by omega) fun _ _ => hstream,
        fun h8 h28 hst hdma hstream => stop ?_, fun h8 h28 hst => stop ?_, fun hn hst hoffer => stop ?_⟩
      · have hfetch : r.st ≠ .fetching := by rcases hst with hst | hst <;> rw [hst] <;> decide
        have hready : r.st ≠ .ready := by rcases hst with hst | hst <;> rw [hst] <;> decide
        have hbusy1 : stopBusy b n.toNat (haltedRing b n.toNat) = true := by
          have hjob : ringKind n.toNat ≠ 1 := by
            unfold ringKind
            split_ifs <;> omega
          have hidle : r.st ≠ .idle := by rcases hst with hst | hst <;> rw [hst] <;> decide
          show (r.halting || (ringKind n.toNat != 1 && !b.err.fatal && r.st != .idle)) = true
          rw [hf, bne_iff_ne.mpr hjob, bne_iff_ne.mpr hidle]
          exact Bool.or_true _
        rw [htaken (stopUnit_quiet hf hfetch hready h8 (fun _ => hdma) fun _ _ => hstream), hbusy1]
        rfl
      · refine (htaken (stopUnit_ready hf hst h8 h28)).trans (congrArg (setRing b n.toNat) ?_)
        rw [stopBusy_quiet rfl rfl]
        exact congrArg₂ (fun halting busy => { haltedRing b n.toNat with st := .idle, desc := [], halting := halting, busy := busy })
          hhalt.symm hbusy.symm
      · refine (htaken (stopUnit_job hn hf hst hoffer)).trans (congrArg (setRing _ n.toNat) (haltedRing_busy hbusy ?_))
        show (r.halting || (ringKind n.toNat != 1 && !b.err.fatal && r.st != .idle)) = false
        rw [hhalt, ringKind_job hn]
        rfl

end Sys2Proof.Proofs
end

section
namespace Sys2Proof.Proofs
open Sys2Proof.Machine Sys2Proof.Laws

/-! A job wait that is armed again reads its sync object across the bond (R315, R339), so it takes a beat that is on its way there. -/

/-- Job ring 0 waits on object 0, whose value meets its condition, and a beat is on its way across the bond. -/
def beatAtWait : State :=
  { pending := []
    cfg := Cfg.reset
    blk := setRing { Blk.reset with
        pwr := { Power.reset with pd := 0xFFFFFFFF, cd := 0x7FFFFFFFFF }
        sys := { Sys.reset with beats := [{ data := 0, header := 0, crc := 0 }] } } 0
      { Ring.zero with run := true, st := .waiting, desc := List.replicate 0x42 0 ++ [4] ++ List.replicate 61 0 } }

/-- Job ring n waits for an object whose value meets its condition, which it does not consume. -/
def JobWaitMet (s : State) (n : BitVec 3) : Prop :=
  let b := s.blk
  let r := getRing b n.toNat
  let obj : BitVec 16 := BitVec.ofNat 16 (r.fld 0x40 15 0)
  (frontRuns b = true ∧ r.run = true ∧ r.st = .waiting ∧ jobWaitOf b n.toNat = none ∧ r.fld 0x40 18 18 = 1) ∧
    objWorld s.cfg b obj = r.ctx.world ∧
    condHolds (BitVec.ofNat 2 (r.fld 0x40 17 16)) (b.sync.objs.get obj.toNat) (BitVec.ofNat 32 (r.fld 0x44 31 0)) = true ∧ r.fld 0x40 19 19 = 0

/-- As O36 has it, the retry keeps the beats. -/
theorem retry_keepsBeats (h : Obligations.DescriptorsAndJobOffers) {s : State} {n : BitVec 3} (hmet : JobWaitMet s n) :
    (retryJob s.cfg s.blk n.toNat).sys.beats = s.blk.sys.beats := by
  obtain ⟨-, hjobs⟩ := h
  obtain ⟨-, -, hretry, -⟩ := hjobs s n
  obtain ⟨⟨hfront, hrun, hst, hwait, harm⟩, hworld, hcond, hkeep⟩ := hmet
  obtain ⟨hready, -⟩ := hretry hfront hrun hst hwait harm hworld
  exact congrArg (fun t => t.blk.sys.beats) (Host.Outcome.next.inj (hready hcond hkeep))

theorem beatAtWait_met : JobWaitMet beatAtWait 0 := by
  unfold JobWaitMet
  decide +kernel

theorem beatAtWait_receives : (retryJob beatAtWait.cfg beatAtWait.blk (0 : BitVec 3).toNat).sys.beats = [] := by decide +kernel

theorem beatAtWait_beats : beatAtWait.blk.sys.beats ≠ [] := by decide +kernel

/-- Refutes O36: JOB_WAIT_ARM_RETRY of a ring whose object meets the condition makes the ring ready, but where a beat is on its way across the
bond the read of the object receives it, and the statement keeps it (no clause asks that no beat is received). -/
theorem not_descriptorsAndJobOffers : ¬ Obligations.DescriptorsAndJobOffers := fun h =>
  beatAtWait_beats ((retry_keepsBeats h beatAtWait_met).symm.trans beatAtWait_receives)

end Sys2Proof.Proofs
end

section
namespace Sys2Proof.Proofs
open Sys2Proof.Machine Sys2Proof.Laws

/-! Entries of the rings (R330–R337). -/

theorem frontRuns_parts {b : Blk} (h : frontRuns b = true) : pdRuns b 16 = true ∧ b.err.fatal = false ∧ b.pwr.state = .run := by
  simp only [frontRuns, Bool.and_eq_true, Bool.not_eq_true', beq_iff_eq] at h
  exact ⟨h.1.1, h.1.2, h.2⟩

/-- A write of the front end to chip memory is asked for (R323). -/
theorem frontWrite_port {c : Cfg} {b : Blk} {world : Bool} {a : Word} {bs : List Byte} {p : Purpose} (h : OnPort c b a bs.length world needW) :
    frontWrite c b world a bs p = issueReq c false
      { op := .wr, addr := BitVec.ofNat 64 (a.toNat / 64 * 64), be := byteMask (a.toNat % 64) bs.length, operand := 0
        data := pieceOfBytes (a.toNat % 64) bs, world := world, purpose := p } b := by
  obtain ⟨q, hr, hq⟩ := h
  unfold frontWrite
  rw [hr]
  cases q with
  | lts o => exact absurd rfl (hq o)
  | cached => rfl
  | port => rfl

/-- An entry is 32 bytes (R330, R334). -/
theorem entryBytes_length (big : Bool) {ws : List W32} (h : ws.length = 6) (time : Nat) : (entryBytes big ws time).length = 32 := by
  have hflat : (ws.flatMap fun w => if big then (leOfNat 4 w.toNat).reverse else leOfNat 4 w.toNat).length = 24 := by
    rw [List.length_flatMap, List.map_congr_left (g := fun _ => 4) (fun w _ => ?_), List.map_const', List.sum_replicate, h]
    · rfl
    · cases big
      · exact length_leOfNat ..
      · exact (List.length_reverse ..).trans (length_leOfNat ..)
  have htime : (if big then (leOfNat 8 time).reverse else leOfNat 8 time).length = 8 := by
    cases big
    · exact length_leOfNat ..
    · exact (List.length_reverse ..).trans (length_leOfNat ..)
  rw [entryBytes, List.length_append, hflat, htime]

theorem emitDesc_same (b : Blk) (world : Bool) (ring : Nat) (status : BitVec 8) (index : BitVec 16) : sameButObs b (emitDesc b world ring status index) :=
  emit_same _ _

theorem zeroExtend_eq_ofNat (x : BitVec 16) : x.zeroExtend 32 = BitVec.ofNat 32 x.toNat := by
  apply BitVec.eq_of_toNat_eq
  simp

section
variable {c : Cfg} {b : Blk} {n : Nat}

theorem writeCompletion_due (hfront : frontRuns b = true) (hst : (getRing b n).st = .done) (heven : (getRing b n).ctx.even = false) :
    let r := getRing b n
    let b1 := emitDesc (setRing b n { r with st := .completing, phase := if r.cur.toNat + 1 = r.size then !r.phase else r.phase })
      r.ctx.world n r.status r.cur
    writeCompletion c b n = frontWrite c b1 r.ctx.world (r.ctx.cbase + BitVec.ofNat 64 (32 * r.cur.toNat)) (entryBytes r.big
      [BitVec.ofNat 32 (byteMark + 65536 * r.phase.toNat + (if r.nclamp = 0 then 0 else 131072) + 2 ^ 24 * r.status.toNat),
       BitVec.ofNat 32 (r.cur.toNat + 65536 * r.firstCode.toNat + 2 ^ 24 * r.nclamp.toNat), r.tag, r.result,
       BitVec.ofNat 32 r.epoch.toNat, r.detail] b.pwr.sclk) (.completion n) := by
  intro r b1
  obtain ⟨hpd, hf, hrun⟩ := frontRuns_parts hfront
  have hroom : completionRoom b r = true := by
    unfold completionRoom
    rw [heven]
    rfl
  unfold writeCompletion
  refine (if_neg ?_).trans ?_
  · simp [hst, hpd, hrun, hf, show completionRoom b (getRing b n) = true from hroom]
  · have htime : b1.pwr.sclk = b.pwr.sclk := by
      rw [show b1 = _ from emitDesc_same ..]
      rfl
    rw [← htime, ← zeroExtend_eq_ofNat]

theorem writeCompletion_notDue (hst : (getRing b n).st ≠ .done) : writeCompletion c b n = b := by
  unfold writeCompletion
  exact if_pos (by simp [hst])

theorem setEq_ringList (b : Blk) (e : Nat) (x : List Event) : (setEq b e x).rings.rings = b.rings.rings := by
  unfold setEq
  split_ifs <;> rfl

theorem getRing_setEq (b : Blk) (e m : Nat) (x : List Event) : getRing (setEq b e x) m = getRing b m := by
  unfold getRing
  rw [setEq_ringList]

theorem writeQueuedEvent_due {e : Nat} {ev : Event} {rest : List Event} (hfront : frontRuns b = true) (hq : getEq b e = ev :: rest)
    (hslot : eventSlot b e = true) :
    let q := getRing b (28 + e)
    writeQueuedEvent c b e = frontWrite c (setRing (setEq b e rest) (28 + e)
        { q with head := BitVec.ofNat 16 ((q.head.toNat + 1) % q.size), phase := if q.head.toNat + 1 = q.size then !q.phase else q.phase })
      q.ctx.world (q.ctx.cbase + BitVec.ofNat 64 (32 * q.head.toNat)) (entryBytes q.ctx.corder
        [BitVec.ofNat 32 (byteMark + 65536 * q.phase.toNat + 2 ^ 24 * ev.ty.toNat),
         BitVec.ofNat 32 (ev.src.toNat + 256 * ev.status.toNat + 65536 * ev.index.toNat), ev.a, ev.b, 0, 0] b.pwr.sclk) (.event (28 + e)) := by
  intro q
  obtain ⟨hpd, hf, hrun⟩ := frontRuns_parts hfront
  have htime (r : Ring) : (setRing (setEq b e rest) (28 + e) r).pwr.sclk = b.pwr.sclk := congrArg Power.sclk (setEq_pwr b e rest)
  unfold writeQueuedEvent
  rw [hq]
  refine (if_neg (by simp [hslot, hpd, hrun, hf])).trans ?_
  unfold writeEvent
  dsimp only
  rw [getRing_setEq, htime]

theorem writeQueuedEvent_notDue {e : Nat} (h : getEq b e = [] ∨ eventSlot b e = false) : writeQueuedEvent c b e = b := by
  unfold writeQueuedEvent
  split
  · rfl
  · next hq =>
    have hslot := h.resolve_left (by rw [hq]; exact List.cons_ne_nil _ _)
    exact if_pos (by rw [hslot]; rfl)

theorem writeMessage_due (hfront : frontRuns b = true) (howed : (getRing b n).msgOwed ≠ 0) :
    let r := getRing b n
    writeMessage c b n = frontWrite c (setRing b n { r with msgOwed := r.msgOwed - 1 }) r.ctx.world r.ctx.msgaddr
      (leOfNat 4 r.ctx.msgdata.toNat) (.message n) := by
  unfold writeMessage
  exact if_neg (by simp [howed, hfront])

theorem writeMessage_notDue (howed : (getRing b n).msgOwed = 0) : writeMessage c b n = b := by
  unfold writeMessage
  exact if_pos (by simp [howed])

end

/-- A row that acts on the block alone. -/
theorem blkNext_gives {s : State} {f : Blk → Blk} {b1 : Blk} (h : f s.blk = b1) : blkNext s f = .next { s with blk := b1 } := by
  rw [← h]
  rfl

/-- A row that is not due. -/
theorem blkNext_stays {s : State} {f : Blk → Blk} (h : f s.blk = s.blk) : blkNext s f = .next s := blkNext_gives h

/-- Settles O37: each of the three rows writes its entry at its port, and only when it is due. -/
theorem ringEntries : Obligations.RingEntries := by
  intro s n e hfront c b r wrap write q
  obtain ⟨hpd, hf, hrun⟩ := frontRuns_parts hfront
  refine ⟨?_, fun hst => blkNext_stays (f := fun x => writeCompletion c x n.toNat) (writeCompletion_notDue hst), ?_, fun hnone => blkNext_stays (f := fun x => writeQueuedEvent c x e.toNat) (writeQueuedEvent_notDue hnone), ?_,
    fun howed => blkNext_stays (f := fun x => writeMessage c x n.toNat) (writeMessage_notDue howed)⟩
  · intro hst heven ws a b1 hport
    refine blkNext_gives (f := fun x => writeCompletion c x n.toNat) ((writeCompletion_due hfront hst heven).trans (frontWrite_port ?_))
    rw [entryBytes_length _ rfl]
    exact hport
  · intro ev rest hq hslot ws a b1 hport
    refine blkNext_gives (f := fun x => writeQueuedEvent c x e.toNat) ((writeQueuedEvent_due hfront hq hslot).trans (frontWrite_port ?_))
    rw [entryBytes_length _ rfl]
    exact hport
  · intro howed b1 hport
    refine blkNext_gives (f := fun x => writeMessage c x n.toNat) ((writeMessage_due hfront howed).trans (frontWrite_port ?_))
    rw [length_leOfNat]
    exact hport

end Sys2Proof.Proofs
end

section
namespace Sys2Proof.Proofs
open Sys2Proof.Machine Sys2Proof.Laws

/-! CR_JOBCTL (R340, R341, R343). -/

theorem emitJob_same (b : Blk) (world : Bool) (ring : BitVec 3) (what : Nat) (index : BitVec 16) (tag : W32) :
    sameButObs b (emitJob b world ring what index tag) := emit_same _ _

/-- A block whose rings have changed, and what is observed with them. -/
theorem rings_observed {b b2 : Blk} {r : Rings} (h : sameButObs { b with rings := r } b2) :
    b2 = { b with rings := b2.rings, obs := b2.obs } ∧ b2.rings = r := by
  unfold sameButObs at h
  rw [h]
  exact ⟨rfl, rfl⟩

section
variable {c : Cfg} {b : Blk} {j : Job}

/-- CR_JOBCTL is written at S and M (R341). -/
theorem mayWrite_jobctl (hl : b.core.ps.level ≠ 0) : crMayWrite b (0xA1 : BitVec 12).toNat = true :=
  (Bool.and_true _).trans (bne_iff_ne.mpr hl)

theorem jobctlBody_run (rs1 : BitVec 5) {op : Nat} (hop : op < 4) (hl : b.core.ps.level ≠ 0) :
    jobctlBody c op rs1 b = (if op = 1 then jobctlTake c else if op = 2 then jobctlEnd c else if op = 3 then jobctlPreempt c
      else crValueFault 0xA1 : M Unit) b := by
  have hbits : bits (setBits (b.core.reg rs1) 1 0 op) 1 0 = op := (bits_setBits_self _ (by decide)).trans (Nat.mod_eq_of_lt hop)
  refine (crPut_unit (c := c) (cr := 0xA1) (v := setBits (b.core.reg rs1) 1 0 op) (b := b) (m := writeJobctl c (setBits (b.core.reg rs1) 1 0 op))
    (mayWrite_jobctl hl) rfl (by decide) (by decide) rfl).trans ?_
  unfold writeJobctl
  rw [hbits]

/-! TAKE. -/

theorem jobctlTake_run (hoffer : b.rings.offer = some j) (hrun : b.rings.running = none)
    (hvis : jobVisible b.core.ps.level b.core.ps.world j = true) : jobctlTake c b = .ok () (jobTake c b j) := by
  simp only [jobctlTake, bind_run, get_run, hoffer, hrun, hvis, Option.isNone_none, Bool.and_self, check, if_true, pure_run, modify_run]

theorem jobctlTake_bad (h : b.rings.offer = none ∨ b.rings.running ≠ none) : jobctlTake c b = .error (.trap (crValueTrap 0xA1)) b := by
  unfold jobctlTake
  cases ho : b.rings.offer with
  | none => simp only [bind_run, get_run, ho, crValueFault_run]
  | some j =>
    obtain ⟨k, hk⟩ := Option.ne_none_iff_exists'.mp (h.resolve_left (by rw [ho]; exact Option.some_ne_none j))
    simp only [bind_run, get_run, ho, hk, Option.isNone_some, Bool.false_and, check, Bool.false_eq_true, if_false, crValueFault_run]

/-- A new job that is taken runs (R341). -/
theorem jobTake_new (hres : b.rings.offerResume = false) : sameButObs { b with rings := { b.rings with
      offer := none, running := some { j with stopped := 0 }, lastRing := j.ring, rring := j.ring, rindex := j.index
      rings := alPut b.rings.rings j.ring.toNat { getRing b j.ring.toNat with st := .begun } } } (jobTake c b j) := by
  have hkept : ({ b with rings := { b.rings with
      offer := none, running := some { j with stopped := 0 }, lastRing := j.ring, rring := j.ring, rindex := j.index
      rings := alPut b.rings.rings j.ring.toNat { getRing b j.ring.toNat with st := .begun } } } : Blk) =
      modRing { b with rings := { b.rings with
        offer := none, offerResume := false, running := some { j with stopped := 0 }, lastRing := j.ring, rring := j.ring, rindex := j.index } }
        j.ring.toNat fun r => { r with st := .begun } := by
    rw [← hres]
    rfl
  rw [hkept]
  unfold jobTake
  rw [hres]
  exact emitJob_same ..

/-! END. -/

theorem jobctlEnd_run (hrun : b.rings.running = some j) (hvis : jobVisible b.core.ps.level b.core.ps.world j = true) :
    jobctlEnd c b = .ok () (jobEnd c b j) := by
  simp only [jobctlEnd, bind_run, get_run, hrun, hvis, check, if_true, pure_run, modify_run]

theorem jobctlEnd_bad (h : b.rings.running = none) : jobctlEnd c b = .error (.trap (crValueTrap 0xA1)) b := by
  simp only [jobctlEnd, bind_run, get_run, h, crValueFault_run]

theorem shifted_epoch (e : BitVec 16) : BitVec.ofNat 32 (65536 * e.toNat) = e.zeroExtend 32 <<< 16 := by
  apply BitVec.eq_of_toNat_eq
  have := e.isLt
  simp only [BitVec.toNat_ofNat, BitVec.toNat_shiftLeft, BitVec.toNat_setWidth, Nat.shiftLeft_eq]
  omega

/-- The ring of a job that has ended without a signal (R341). -/
def endedRing (b : Blk) (r : Ring) : Ring :=
  { r with st := .done, status := 0, result := b.rings.jobRes.truncate 32, detail := BitVec.ofNat 32 (65536 * b.rings.epCore.toNat)
           epoch := b.rings.epCore }

theorem jobEnd_silent (hrun : b.rings.running = some j) (hsig : (getRing b j.ring.toNat).fld 0x58 3 3 = 0) :
    sameButObs { b with rings := { b.rings with
      running := none, rring := Config.endedRing b.rings.rring, rindex := Config.endedIndex b.rings.rindex
      rings := alPut b.rings.rings j.ring.toNat (endedRing b (getRing b j.ring.toNat)) } } (jobEnd c b j) := by
  have hnone : b.rings.noneRuns = { b.rings with
      running := none, rring := Config.endedRing b.rings.rring, rindex := Config.endedIndex b.rings.rindex } := by
    unfold Rings.noneRuns
    rw [hrun]
  have hend (e : Blk) (he : sameButObs { b with rings := b.rings.noneRuns } e) :
      jobSignalled (setRing e j.ring.toNat { getRing e j.ring.toNat with
        st := .ending, result := e.rings.jobRes.truncate 32, epoch := b.rings.epCore }) j.ring.toNat 0 =
      setRing e j.ring.toNat (endedRing b (getRing b j.ring.toNat)) := by
    have hres : e.rings.jobRes = b.rings.jobRes := by rw [he, hnone]
    have hring : getRing e j.ring.toNat = getRing b j.ring.toNat := by
      unfold getRing
      rw [he, hnone]
    have hdetail (x : Nat) : (0 : BitVec 8).toNat + x = x := Nat.zero_add x
    unfold jobSignalled finishDesc
    dsimp only
    rw [getRing_setRing, if_neg (not_not_intro rfl), modRing_setRing, hres, hring, hdetail]
    rfl
  have hemit := emitJob_same { b with rings := b.rings.noneRuns } j.world j.ring 2 j.index j.tag
  have hjob : jobEnd c b j = setRing (emitJob { b with rings := b.rings.noneRuns } j.world j.ring 2 j.index j.tag) j.ring.toNat
      (endedRing b (getRing b j.ring.toNat)) := by
    refine (if_pos ?_).trans (hend _ hemit)
    rw [modRing_eq, getRing_setRing]
    generalize emitJob { b with rings := b.rings.noneRuns } j.world j.ring 2 j.index j.tag = e at hemit
    unfold sameButObs at hemit
    rw [hemit, hnone]
    exact hsig
  rw [hjob]
  generalize emitJob { b with rings := b.rings.noneRuns } j.world j.ring 2 j.index j.tag = e at hemit
  unfold sameButObs at hemit
  rw [hemit, hnone]
  rfl

/-! PREEMPT. -/

theorem jobctlPreempt_bad (hp : b.rings.preempting = none) (h : b.rings.running = none ∨ b.rings.offer = none ∨ 7 ≤ b.rings.preempted.length) :
    jobctlPreempt c b = .error (.trap (crValueTrap 0xA1)) b := by
  unfold jobctlPreempt
  cases hr : b.rings.running with
  | none => simp only [bind_run, get_run, hp, hr, Option.isNone_none, if_true, crValueFault_run]
  | some j =>
    have hno : (b.rings.offer.isSome && decide (b.rings.preempted.length < 7)) = false := by
      rcases h.resolve_left (by rw [hr]; exact Option.some_ne_none j) with ho | hlen
      · rw [ho]; rfl
      · rw [decide_eq_false (Nat.not_lt.mpr hlen), Bool.and_false]
    simp only [bind_run, get_run, hp, hr, Option.isNone_none, if_true, hno, check, Bool.false_eq_true, if_false, crValueFault_run]

/-- A job whose masks name no running ring is preempted alone (R343). -/
theorem jobPreempt_alone (hmask : (getRing b j.ring.toNat).fld 0x38 19 0 = 0) (hpre : b.rings.preempted = []) :
    sameButObs { b with rings := { b.rings with running := none, preempted := [{ j with stopped := 0 }], preempting := some j.ring } }
      (jobPreempt c b j) := by
  have hnone : ((List.range 20).filter fun i => ((getRing b j.ring.toNat).fld 0x38 19 0).testBit i && (getRing b (8 + i)).run) = [] := by
    rw [List.filter_eq_nil_iff]
    intro i _
    rw [hmask, Nat.zero_testBit]
    exact Bool.false_ne_true
  unfold jobPreempt
  dsimp only
  rw [hnone]
  have hemit := emitJob_same b j.world j.ring 3 j.index j.tag
  simp only [List.foldl_nil]
  generalize emitJob b j.world j.ring 3 j.index j.tag = e at hemit
  unfold sameButObs at hemit ⊢
  rw [hemit, hpre]
  rfl

theorem jobctlPreempt_run (hp : b.rings.preempting = none) (hrun : b.rings.running = some j) (hoffer : b.rings.offer ≠ none)
    (hpre : b.rings.preempted = []) (hmask : (getRing b j.ring.toNat).fld 0x38 19 0 = 0) (heven : (getRing b j.ring.toNat).ctx.even = false) :
    ∃ b2, jobctlPreempt c b = .ok () b2 ∧ sameButObs { b with rings := { b.rings with running := none, preempted := [{ j with stopped := 0 }] } } b2 := by
  have hj := jobPreempt_alone (c := c) hmask hpre
  have hoff : b.rings.offer.isSome = true := Option.isSome_iff_ne_none.mpr hoffer
  unfold sameButObs at hj
  have hwaits : preemptWaits (jobPreempt c b j) = false := by
    rw [hj]
    unfold preemptWaits
    simp [bit]
  have hroom : preemptRoom (jobPreempt c b j) = true := by
    rw [hj]
    show (!(getRing b j.ring.toNat).ctx.even || _) = true
    rw [heven]
    rfl
  have hdone : sameButObs { b with rings := { b.rings with running := none, preempted := [{ j with stopped := 0 }] } } (preemptDone (jobPreempt c b j)) := by
    have hfind : [({ j with stopped := 0 } : Job)].find? (fun x => x.ring == j.ring) = some { j with stopped := 0 } :=
      List.find?_cons_of_pos (beq_self_eq_true j.ring)
    have hkept : ({ b with rings := { b.rings with running := none, preempted := [{ j with stopped := 0 }] } } : Blk) =
        { b with rings := { b.rings with running := none, preempted := [{ j with stopped := 0 }], preempting := none } } := by
      rw [← hp]
    generalize (jobPreempt c b j).obs = o at hj
    rw [hj, hkept]
    unfold preemptDone
    dsimp only
    rw [hfind]
    dsimp only
    split
    · next hn => exact absurd (heven.symm.trans hn) Bool.false_ne_true
    · rfl
  refine ⟨_, ?_, hdone⟩
  simp only [jobctlPreempt, bind_run, get_run, hp, hrun, hoff, hpre, Option.isNone_none, if_true, check, List.length_nil, Nat.reduceLT, decide_true,
    Bool.and_self, pure_run, modify_run, hwaits, hroom, Bool.not_true, Bool.or_self, Bool.false_eq_true, if_false]

end

/-- Settles O15: CR_JOBCTL's three operations, and each one against its table. -/
theorem jobControl : Obligations.JobControl := by
  intro s b1 rs1 j h hl bad n ends ended
  have runs {op : Nat} (hop : op < 4) := jobctlBody_run (c := s.cfg) rs1 hop hl
  refine ⟨fun hoffer hrun hvis hres => ?_, fun hbad => ?_, fun hrun hvis hsig => ?_, fun hbad => ?_, fun hrun hoffer hpre hp hmask heven => ?_, fun hp hbad => ?_⟩
  · obtain ⟨heq, hrings⟩ := rings_observed (jobTake_new (c := s.cfg) (j := j) hres)
    exact ⟨_, coreSeq_retires h _ rfl ((runs (by decide)).trans (jobctlTake_run hoffer hrun hvis)), heq, hrings⟩
  · exact coreSeq_traps h _ ((runs (by decide)).trans (jobctlTake_bad hbad))
  · obtain ⟨heq, hrings⟩ := rings_observed (jobEnd_silent (c := s.cfg) hrun hsig)
    refine ⟨_, ⟨_, coreSeq_retires h _ rfl ((runs (by decide)).trans (jobctlEnd_run hrun hvis)), heq, hrings⟩, rfl, rfl, rfl, rfl, shifted_epoch b1.rings.epCore⟩
  · exact coreSeq_traps h _ ((runs (by decide)).trans (jobctlEnd_bad hbad))
  · obtain ⟨b2, hb2, hsame⟩ := jobctlPreempt_run (c := s.cfg) hp hrun hoffer hpre hmask heven
    obtain ⟨heq, hrings⟩ := rings_observed hsame
    exact ⟨b2, coreSeq_retires h _ rfl ((runs (by decide)).trans hb2), heq, hrings⟩
  · exact coreSeq_traps h _ ((runs (by decide)).trans (jobctlPreempt_bad hp hbad))

end Sys2Proof.Proofs
end

section
namespace Sys2Proof.Proofs
open Sys2Proof.Machine Sys2Proof.Laws

/-! Host writes of the power, world and rest registers, and the latches of LO reads (R377, R425, R478). -/

section
variable (c : Cfg) (b : Blk) (v : W32)

theorem fixF_self (code x : Nat) : fixF code x x = [] := if_pos rfl
theorem fixF_ne {code x y : Nat} (h : x ≠ y) : fixF code x y = [(code, x, y)] := if_neg h

/-- A word below 4,096 sets no bit above bit 11. -/
theorem fixR_above12 {v : W32} (code : Nat) (h : v.toNat < 4096) : fixR code v 0xFFFFF000 = [] := by
  have h0 : v.toNat &&& 0xFFFFF000 = 0 := by
    apply Nat.eq_of_testBit_eq
    intro i
    rw [Nat.testBit_and, Nat.zero_testBit]
    by_cases hi : i < 12
    · have : ∀ j < 12, Nat.testBit 0xFFFFF000 j = false := by decide
      rw [this i hi, Bool.and_false]
    · rw [Nat.testBit_lt_two_pow (lt_of_lt_of_le h (Nat.pow_le_pow_right (n := 2) (i := 12) (by decide) (by omega))), Bool.false_and]
  unfold fixR
  dsimp only
  rw [h0]
  rfl

/-- KZ_PWR_CAP's field, where no bit above it is set. -/
theorem capField {v : W32} (h : v.toNat < 4096) : bits v 11 0 = v.toNat := by
  change v.toNat % 4096 = v.toNat
  exact Nat.mod_eq_of_lt h

theorem writeAt_idle : writeAt c b 0x228 v false = ({ c with idle := v }, maltSource b 15) := rfl

theorem writeAt_cap {v : W32} (h : v.toNat < 4096) : writeAt c b 0x218 v false =
    ({ c with cap := BitVec.ofNat 12 (clampNat 500 3000 v.toNat) },
      maltSource (clampSet b 0 (fixF 0x6C v.toNat (clampNat 500 3000 v.toNat))) 15) := by
  have hw : writeAt c b 0x218 v false = ({ c with cap := BitVec.ofNat 12 (clampNat 500 3000 (bits v 11 0)) },
      maltSource (clampSet b 0 (fixF 0x6C (bits v 11 0) (clampNat 500 3000 (bits v 11 0)) ++ fixR 0x80 v 0xFFFFF000)) 15) := rfl
  rw [hw, capField h, fixR_above12 0x80 h, List.append_nil]

theorem writeAt_cap_kept {v : W32} (h1 : 500 ≤ v.toNat) (h2 : v.toNat ≤ 3000) :
    writeAt c b 0x218 v false = ({ c with cap := v.truncate 12 }, maltSource b 15) := by
  have hc : clampNat 500 3000 v.toNat = v.toNat := by
    unfold clampNat
    rw [if_neg (by omega), if_neg (by omega)]
  rw [writeAt_cap c b (by omega), hc, fixF_self]
  rfl

theorem writeAt_cap_high {v : W32} (h1 : 3000 < v.toNat) (h2 : v.toNat < 4096) :
    writeAt c b 0x218 v false = ({ c with cap := 3000 }, maltSource (logClamp b 0xFF 0x6C 0 v.toNat 3000) 15) := by
  have hc : clampNat 500 3000 v.toNat = 3000 := by
    unfold clampNat
    rw [if_neg (by omega), if_pos (by omega)]
  rw [writeAt_cap c b h2, hc, fixF_ne (by omega)]
  rfl

theorem writeAt_fpTmo : writeAt c b 0xA10 v false =
    ({ c with fpTmo := w32 (Nat.max 48 v.toNat) }, clampSet b 0 (fixF 0x6A v.toNat (Nat.max 48 v.toNat))) := rfl

theorem writeAt_fpTmo_low {v : W32} (h : v.toNat < 48) : writeAt c b 0xA10 v false = ({ c with fpTmo := 48 }, logClamp b 0xFF 0x6A 0 v.toNat 48) := by
  rw [writeAt_fpTmo, show Nat.max 48 v.toNat = 48 from Nat.max_eq_left (by omega), fixF_ne (by omega)]
  rfl

theorem writeAt_fpTmo_kept {v : W32} (h : 48 ≤ v.toNat) : writeAt c b 0xA10 v false = ({ c with fpTmo := v }, b) := by
  rw [writeAt_fpTmo, show Nat.max 48 v.toNat = v.toNat from Nat.max_eq_right h, fixF_self, w32, BitVec.ofNat_toNat, BitVec.setWidth_eq]
  rfl

/-- The high word of a pair, written. -/
theorem setBits_high (w : Word) (v : W32) : setBits w 63 32 v.toNat = v ++ w.truncate 32 := by
  apply BitVec.eq_of_getLsbD_eq
  intro i hi
  rw [getLsbD_setBits, BitVec.getLsbD_append]
  by_cases h : i < 32
  · simp [h, show ¬ 32 ≤ i by omega]
  · simp [h, show 32 ≤ i by omega, BitVec.getLsbD]
    omega

theorem writeAt_mimgHi : writeAt c b 0x114 v false = ({ c with mimg := v ++ c.mimg.truncate 32 }, b) := by
  rw [← setBits_high]
  rfl

theorem writeAt_errStat : writeAt c b 0x9C0 v false =
    (c, { b with err := { b.err with pend := b.err.pend && !bit v 0, overrun := b.err.overrun && !bit v 1 } }) := rfl

theorem writeWorld_locked {c : Cfg} (h : c.lock = true) :
    writeWorld c b 0x400 v false = (c, logClamp b 0xFF 0x95 0 v.toNat (readWorld c b 0x400).toNat) := by
  unfold writeWorld
  rw [h]
  rfl

theorem writeWorld_ringsec {c : Cfg} {b : Blk} (h : c.lock = false) (hz : secureForcedZero b = false) :
    writeWorld c b 0x400 v false = ({ c with ringsec := v }, b) := by
  unfold writeWorld
  rw [h, hz]
  rfl

theorem writeAt_ringsec : writeAt c b 0x400 v false = writeWorld c b 0x400 v false := rfl

end

/-- A block that does not answer takes no host write. -/
theorem hostWrite_ignored {s : State} (h : ¬ hostAnswers s.blk) (off : Nat) (v : W32) : hostWrite s off v = .next s := by
  have hoff : (!blockOn s.blk || lcsHeld s.blk) = true := by
    simp only [hostAnswers, not_and] at h
    cases hon : blockOn s.blk
    · rfl
    · exact (Bool.not_eq_false _).mp (h hon)
  have hw : hcpWrite s.cfg s.blk (BitVec.ofNat 16 off) v false = (s.cfg, s.blk) := by
    rw [hcpWrite_eq, if_pos hoff]
  exact congrArg (fun r : CB => Host.Outcome.next { s with cfg := r.1, blk := r.2 }) hw

/-- The HI word of counter n, latched (R478). -/
def latchCounter (b : Blk) (n : Nat) : Blk := { b with obs := { b.obs with hi := b.obs.hi.set n (hiW (hcpCnt b n)) } }

section
variable {s : State} {off : BitVec 16}

/-- What a LO read latches in a block that answers. -/
theorem latching_answers (h : hostAnswers s.blk) {b1 : Blk}
    (hb : (if off.toNat / 4 * 4 = 0x230 then { s.blk with pwr := { s.blk.pwr with energyHi := hiW s.blk.pwr.energy } }
      else if off.toNat / 4 * 4 = 0x238 then { s.blk with pwr := { s.blk.pwr with sclkHi := w32 (s.blk.pwr.sclk / 2 ^ 32) } }
      else if latchingLo (off.toNat / 4 * 4) && obsRuns s.blk then
        latchCounter s.blk ((off.toNat / 4 * 4 - 0xC40) / 8)
      else s.blk) = b1) : exec (.latchingLoRead off) s = .next { s with blk := b1 } := by
  have hoff : ¬ (!blockOn s.blk || lcsHeld s.blk) = true := by
    rw [h.1, h.2]
    decide
  have hl : hcpLatch s.blk off = b1 := (if_neg hoff).trans hb
  exact congrArg (fun b => Host.Outcome.next { s with blk := b }) hl

theorem latching_counter (h : hostAnswers s.blk) (hobs : obsRuns s.blk = true) {n : Nat} (hn : n < 12) :
    exec (.latchingLoRead (BitVec.ofNat 16 (0xC40 + 8 * n))) s =
      .next { s with blk := latchCounter s.blk n } := by
  refine latching_answers h ?_
  have hlo : latchingLo (0xC40 + 8 * n) = true := by
    simp only [latchingLo, Bool.or_eq_true, Bool.and_eq_true, decide_eq_true_eq, beq_iff_eq]
    omega
  rw [ringOffset (by omega) (by omega), if_neg (by omega), if_neg (by omega), hlo, hobs, show (0xC40 + 8 * n - 0xC40) / 8 = n by omega]
  rfl

theorem latching_other (h : hostAnswers s.blk) (hlo : latchingLo (off.toNat / 4 * 4) = false) : exec (.latchingLoRead off) s = .next s := by
  refine latching_answers h ?_
  have hne : off.toNat / 4 * 4 ≠ 0x230 ∧ off.toNat / 4 * 4 ≠ 0x238 := by
    constructor <;> (intro he; rw [he] at hlo; exact absurd hlo (by decide))
  rw [if_neg hne.1, if_neg hne.2, hlo]
  rfl

end

/-- Settles O31: each register's write is its equation of `writeAt`, and each LO offset has its branch of the latch. -/
theorem hostWritesAndLatches : Obligations.HostWritesAndLatches := by
  refine ⟨fun s v => ⟨fun h => ?_, fun h off => hostWrite_ignored h _ v⟩, fun s h => ?_⟩
  · refine ⟨?_, rfl, fun h1 h2 => ?_, fun h1 h2 => ?_, fun h1 => ?_, fun h1 => ?_, ?_, ?_, fun hl => ?_, fun hl hz => ?_⟩
    · exact hostWrite_cfg h (o := 0x228) (by decide) (by decide) (writeAt_idle ..)
    · exact hostWrite_cfg h (o := 0x218) (by decide) (by decide) (writeAt_cap_kept _ _ h1 h2)
    · exact hostWrite_cfg h (o := 0x218) (by decide) (by decide) (writeAt_cap_high _ _ h1 h2)
    · exact hostWrite_cfg h (o := 0xA10) (by decide) (by decide) (writeAt_fpTmo_low _ _ h1)
    · exact hostWrite_cfg h (o := 0xA10) (by decide) (by decide) (writeAt_fpTmo_kept _ _ h1)
    · exact hostWrite_cfg h (o := 0x114) (by decide) (by decide) (writeAt_mimgHi ..)
    · exact hostWrite_blk h (o := 0x9C0) (by decide) (by decide) (writeAt_errStat ..)
    · exact hostWrite_blk h (o := 0x400) (by decide) (by decide) ((writeAt_ringsec ..).trans (writeWorld_locked _ _ hl))
    · exact hostWrite_cfg h (o := 0x400) (by decide) (by decide) ((writeAt_ringsec ..).trans (writeWorld_ringsec _ hl hz))
  · exact ⟨latching_answers h rfl, latching_answers h rfl, fun hobs n hn => latching_counter h hobs hn, fun off ho => latching_other h ho⟩

end Sys2Proof.Proofs
end

section
namespace Sys2Proof.Proofs
open Sys2Proof.Machine Sys2Proof.Laws

/-! The DMA engine's channels (R348–R360). -/

theorem dmaCh_setDmaCh (b : Blk) (n : Nat) (x : DmaCh) : dmaCh (setDmaCh b n x) n = some x := by
  change Option.map _ ((alPut b.dma.chs n x).find? fun e => e.1 == n) = some x
  rw [find_alPut]
  rfl

theorem dmaCh_dropDmaCh (b : Blk) (n : Nat) : dmaCh (dropDmaCh b n) n = none := by
  change Option.map _ ((b.dma.chs.filter fun e => e.1 != n).find? fun e => e.1 == n) = none
  rw [Option.map_eq_none_iff, List.find?_eq_none]
  intro e he
  simpa using (List.mem_filter.mp he).2

theorem setEpDma_rings (b : Blk) (g : Nat) (e : BitVec 16) : setEpDma b g e = { b with rings := (setEpDma b g e).rings } := by
  unfold setEpDma
  (repeat' split) <;> rfl

theorem setEpDma_getRing (b : Blk) (g : Nat) (e : BitVec 16) (n : Nat) : getRing (setEpDma b g e) n = getRing b n := by
  unfold setEpDma
  (repeat' split) <;> rfl

/-- The block in which a channel's descriptor begins: its group has applied the pending epoch where it may (R345). -/
def dmaEpochTaken (b : Blk) (ch : Nat) : Blk :=
  match epochReady b with
  | some e => setEpDma b (ch / 4) e
  | none => b

theorem dmaEpochTaken_rings (b : Blk) (ch : Nat) : dmaEpochTaken b ch = { b with rings := (dmaEpochTaken b ch).rings } := by
  unfold dmaEpochTaken
  split
  · exact setEpDma_rings ..
  · rfl

/-! A channel with an open descriptor and empty buffers (R353–R358). -/

section
variable {c : Cfg} {b : Blk} {ch : Nat} {x : DmaCh}

theorem dmaProgress_waits (hx : dmaCh b ch = some x) (hstat : x.dstat = 0) (hstop : x.stopping = false)
    (hopen : (x.acked && !x.sigen) = false) : dmaProgress c b ch = b := by
  unfold dmaProgress
  rw [hx]
  dsimp only
  rw [hstat, hstop, hopen]
  exact ite_self _

theorem dmaProgress_ends (hx : dmaCh b ch = some x) (hfatal : b.err.fatal = false) (hwb : x.writeback = false) (hsig : x.signalling = false)
    (hfly : x.flying = 0) (hacked : x.acked = true) (hsigen : x.sigen = false) (hstop : x.stopping = false) :
    dmaProgress c b ch = dmaFinish b ch x 0 := by
  simp only [DmaCh.acked, Bool.and_eq_true, beq_iff_eq, Option.isNone_iff_eq_none] at hacked
  obtain ⟨⟨⟨hnext, hpieces⟩, hstat⟩, had⟩ := hacked
  unfold dmaProgress DmaCh.acked
  rw [hx]
  dsimp only
  rw [hfatal, hwb, hsig, hfly, hsigen, hstop, hnext, hpieces, hstat, had]
  rfl

end

/-! DMA_DESCRIPTOR_BEGIN (R348, R360). -/

section
variable {c : Cfg} {b : Blk} {ch : BitVec 4}

/-- A checked descriptor of a running ring without an epoch to wait for begins. -/
theorem dmaBegin_begins (hf : frontRuns b = true) (hst : (getRing b (8 + ch.toNat)).st = .ready) (hrun : (getRing b (8 + ch.toNat)).run = true)
    (hh : (getRing b (8 + ch.toNat)).halting = false) (hep : (getRing b (8 + ch.toNat)).fld 0x08 6 6 = 0) :
    dmaBegin c b ch.toNat = dmaProgress c (setDmaCh (setRing (dmaEpochTaken b ch.toNat) (8 + ch.toNat)
      { getRing b (8 + ch.toNat) with st := .begun }) ch.toNat
        ((getRing b (8 + ch.toNat)).dma (epDma (dmaEpochTaken b ch.toNat) (ch.toNat / 4)))) ch.toNat := by
  have hdue : ¬ (decide (16 ≤ ch.toNat) || !frontRuns b || decide ((getRing b (dmaRing ch.toNat)).st ≠ .ready) ||
      !(getRing b (dmaRing ch.toNat)).run || (getRing b (dmaRing ch.toNat)).halting) = true := by
    rw [show dmaRing ch.toNat = 8 + ch.toNat from rfl, hf, hst, hrun, hh, decide_eq_false (by omega : ¬ 16 ≤ ch.toNat)]
    decide
  refine (if_neg hdue).trans (if_neg ?_)
  rw [show dmaRing ch.toNat = 8 + ch.toNat from rfl, hep]
  exact Bool.false_ne_true

theorem dmaBegin_notReady (h : (getRing b (8 + ch.toNat)).st ≠ .ready) : dmaBegin c b ch.toNat = b := by
  refine if_pos ?_
  rw [show dmaRing ch.toNat = 8 + ch.toNat from rfl, decide_eq_true h]
  simp only [Bool.or_true, Bool.true_or]

end

/-- The work of a descriptor begins unsignalled, with no piece, and at DONE. -/
theorem dma_fresh (r : Ring) (ep : BitVec 16) : (r.dma ep).dstat = 0 ∧ (r.dma ep).stopping = false ∧ (r.dma ep).writeback = false ∧
    (r.dma ep).signalling = false ∧ (r.dma ep).flying = 0 ∧ (r.dma ep).acked = decide ((r.dma ep).next = (r.dma ep).len) := by
  refine ⟨rfl, rfl, rfl, rfl, rfl, ?_⟩
  unfold DmaCh.acked Ring.dma
  simp

/-! DMA_PIECE_ISSUE (R350, R353). -/

/-- A range within one line is one segment. -/
theorem splitRange_line {a : Word} {n : Nat} (ha : a.toNat % 64 = 0) (h0 : 0 < n) (h64 : n ≤ 64) : splitRange 2 0 a n = [(0, n, a)] := by
  have hk : Nat.min n (64 - a.toNat % 64) = n := by
    rw [ha]
    exact Nat.min_eq_left h64
  unfold splitRange
  dsimp only
  rw [if_neg (by omega), hk, Nat.sub_self]
  rfl

/-- Without translation an assigned address is only redirected. -/
theorem dmaTranslate_bare (c : Cfg) {ctx : RingCtx} (ep : BitVec 16) (base : Word) (buddy write : Bool) {n : Nat} {a : Word} (b : Blk)
    (hten : ctx.ten = false) (ha : unassigned a = false) :
    dmaTranslate c ctx ep base buddy write [(0, n, a)] b = (.ok [{ pos := 0, len := n, addr := redirect c b ep a, buddy := buddy }], b) := by
  have ht (acc : Acc) : agentTranslate b ctx acc a = (.ok a, b) := by
    unfold agentTranslate
    rw [hten, ha]
    rfl
  unfold dmaTranslate
  rw [ht]
  rfl

/-- A path of an access rests on the configuration and the life-cycle state. -/
theorem resolve_sys {b b' : Blk} (c : Cfg) (h : b'.sys = b.sys) (a : Word) (n : Nat) (w m : Bool) (need : Need) (norm : Bool) :
    resolve c b' a n w m need norm = resolve c b a n w m need norm := by
  have hin (o : Nat) : inPartition c b' w o n = inPartition c b w o n := by
    unfold inPartition effSec secureForcedZero
    rw [h]
  unfold resolve
  split
  · split
    · rfl
    · split
      · rw [hin]
      · rfl
      · rfl
  · rfl

theorem segPath_port {c : Cfg} {b : Blk} {w : Bool} {a : Word} {n : Nat} {write : Bool} {f : Bool} {t : RegionType}
    (h : resolve c b a n w false (if write then needW else needR) false = .ok (.port f t)) : segPath c b w a n write = .ok (.port f t) := by
  unfold segPath
  rw [h]

theorem segReady_port {c : Cfg} {b : Blk} {s : DmaSeg} (h : ∀ o, route c s.addr ≠ .lts o) (hpd : pdRuns b 18 = true) : segReady c b s = true := by
  unfold segReady
  split
  · next o ho => exact absurd ho (h o)
  · exact hpd

/-- A source segment that leaves by a port is read there. -/
theorem dmaRead_port {c : Cfg} {b : Blk} {w : Bool} {s : DmaSeg} {f : Bool} {t : RegionType} (ch k : Nat)
    (h : resolve c b s.addr s.len w false needR false = .ok (.port f t)) :
    dmaRead c b ch k w s = issueReq c f
      { op := .rd, addr := BitVec.ofNat 64 (s.addr.toNat / 64 * 64), be := byteMask (s.addr.toNat % 64) s.len, operand := 0, data := 0
        world := w, purpose := .dmaRead ch k s.pos } b := by
  unfold dmaRead
  rw [segPath_port (write := false) h]
  rfl

section
variable {c : Cfg} {b : Blk}

theorem dmaIssue_none (h : dmaPick b = none) : dmaIssue c b = b := by
  unfold dmaIssue
  rw [h]
  exact ite_self _

/-- The channel after it has issued a piece (R350). -/
def pieceIssued (b : Blk) (ch : Nat) (x : DmaCh) (ctx : RingCtx) (p : DmaPiece) : Blk :=
  countEvents (setDmaCh { b with dma := { b.dma with lastServed := BitVec.ofNat 4 ch } } ch
    { x with next := x.next + p.len, pieces := x.pieces ++ [p] }) 0x0B ctx.lv ctx.world 1

theorem pieceIssued_sys (b : Blk) (ch : Nat) (x : DmaCh) (ctx : RingCtx) (p : DmaPiece) : (pieceIssued b ch x ctx p).sys = b.sys := by
  unfold pieceIssued
  rw [countEvents_same]
  rfl

/-- The turn's channel translates one source and one destination segment and issues the piece that joins them (R350, R353). -/
theorem dmaIssue_segments {ch : Nat} {x : DmaCh} {n : Nat} {s1 s2 : DmaSeg} (hf : frontRuns b = true)
    (hfly : b.dma.chs.foldl (fun a e => a + e.2.flying) 0 < 64) (hpick : dmaPick b = some (ch, x)) (hop : x.op = 0)
    (hn : Nat.min (x.len - x.next) (64 - (x.dst + BitVec.ofNat 64 x.next).toNat % 64) = n)
    (h1 : dmaTranslate c (getRing b (dmaRing ch)).ctx x.epoch x.src false false (splitRange 2 0 (x.src + BitVec.ofNat 64 x.next) n) b =
      (.ok [s1], b))
    (h2 : dmaTranslate c (getRing b (dmaRing ch)).ctx x.epoch x.dst false true (splitRange 2 0 (x.dst + BitVec.ofNat 64 x.next) n) b =
      (.ok [s2], b))
    {f1 f2 : Bool} {t1 t2 : RegionType}
    (hr : segPath c b (getRing b (dmaRing ch)).ctx.world s1.addr s1.len false = .ok (.port f1 t1))
    (hw : segPath c b (getRing b (dmaRing ch)).ctx.world s2.addr s2.len true = .ok (.port f2 t2))
    (hready : segReady c b s1 = true ∧ segReady c b s2 = true) :
    dmaIssue c b = dmaRead c (pieceIssued b ch x (getRing b (dmaRing ch)).ctx
      { k := x.next, off := x.next, len := n, data := 0, reads := 1, todo := [s2], writes := 0, failed := false })
      ch x.next (getRing b (dmaRing ch)).ctx.world s1 := by
  have hdue : ¬ (!frontRuns b || decide (64 ≤ b.dma.chs.foldl (fun a e => a + e.2.flying) 0)) = true := by
    rw [hf, decide_eq_false (by omega)]
    decide
  unfold dmaIssue
  rw [if_neg hdue, hpick]
  dsimp only
  rw [hn, h1]
  dsimp only
  rw [h2]
  dsimp only
  rw [if_neg (show ¬ x.op = 1 by rw [hop]; decide)]
  simp only [dmaTranslate, List.append_nil, List.filterMap_cons, List.filterMap_nil, List.cons_append, List.nil_append,
    hr, hw, List.all_cons, List.all_nil, hready.1, hready.2, Bool.and_self, Bool.not_true, Bool.false_eq_true, if_false,
    List.foldl_cons, List.foldl_nil, List.length_singleton]
  rfl

end

/-! DMA_END_SIGNAL (R354). -/

/-- The signal of a descriptor to an object of this block (R206). -/
theorem makeSignal_local (c : Cfg) (b : Blk) (ep : BitVec 16) (world : Bool) {t : Word} {obj : BitVec 16} (ht : localObject t obj)
    (op : BitVec 3) (x : W32) (src : SyncSrc) (p : Purpose) : makeSignal c b ep world t op x src p =
      (.sent, { b with sync := { b.sync with queue := b.sync.queue ++ [{ src := src, op := op, obj := obj, x := x, world := world }] } }) := by
  have hmode : bits t 44 43 = 0 := by
    unfold localObject at ht
    subst ht
    unfold bits
    rw [BitVec.toNat_setWidth, Nat.shiftRight_eq_div_pow]
    omega
  have hobj : (t.truncate 16 : BitVec 16) = obj := by
    unfold localObject at ht
    subst ht
    simp
  unfold makeSignal
  dsimp only
  rw [hmode, hobj]
  rfl

section
variable {c : Cfg} {b : Blk} {ch : Nat} {x : DmaCh}

theorem dmaSignal_none (hx : dmaCh b ch = some x) (h : x.sigen = false) : dmaSignal c b ch = b := by
  unfold dmaSignal
  rw [hx]
  dsimp only
  rw [h]
  simp

theorem dmaSignal_sent {obj : BitVec 16} (hx : dmaCh b ch = some x) (hf : frontRuns b = true) (hacked : x.acked = true) (hsig : x.signalling = false)
    (hwb : x.writeback = false) (hstop : x.stopping = false) (hsigen : x.sigen = true) (ht : localObject x.sigt obj) :
    dmaSignal c b ch = setDmaCh { b with sync := { b.sync with queue := b.sync.queue ++
      [{ src := .dmaSignal ch, op := x.sigop, obj := obj, x := x.sigx, world := (getRing b (dmaRing ch)).ctx.world }] } }
        ch { x with signalling := true } := by
  have hdue : ¬ (!frontRuns b || !x.acked || !x.sigen || x.signalling || x.writeback || x.stopping) = true := by
    rw [hf, hacked, hsig, hwb, hstop, hsigen]
    decide
  unfold dmaSignal
  rw [hx]
  dsimp only
  rw [if_neg hdue, makeSignal_local c b _ _ ht]

end

/-- The channel whose turn it is has a piece to issue. -/
theorem dmaPick_ready {b : Blk} {ch : Nat} {x : DmaCh} (h : dmaPick b = some (ch, x)) : x.next < x.len := by
  have hready : x.ready = true := by
    obtain ⟨m, -, hm⟩ := List.exists_of_findSome?_eq_some h
    split at hm
    · split at hm
      · next hrdy => cases hm; exact hrdy
      · cases hm
    · cases hm
  simp only [DmaCh.ready, Bool.and_eq_true, decide_eq_true_eq] at hready
  exact hready.1.2

/-- The next piece of a copy without translation, between aligned addresses, is read at its source's port (R350, R353). -/
theorem dmaIssue_aligned {c : Cfg} {b : Blk} {ch : Nat} {x : DmaCh} {len : Nat} {src dst a1 a2 : Word} {f1 f2 : Bool} {t1 t2 : RegionType}
    (hf : frontRuns b = true) (hfly : b.dma.chs.foldl (fun a e => a + e.2.flying) 0 < 64) (hpick : dmaPick b = some (ch, x)) (hop : x.op = 0)
    (hten : (getRing b (dmaRing ch)).ctx.ten = false) (hlen : len = Nat.min (x.len - x.next) 64)
    (hs : src = x.src + BitVec.ofNat 64 x.next) (hd : dst = x.dst + BitVec.ofNat 64 x.next)
    (hsrc : src.toNat % 64 = 0) (hdst : dst.toNat % 64 = 0) (hus : unassigned src = false) (hud : unassigned dst = false)
    (ha1 : a1 = redirect c b x.epoch src) (ha2 : a2 = redirect c b x.epoch dst)
    (h1 : resolve c b a1 len (getRing b (dmaRing ch)).ctx.world false needR false = .ok (.port f1 t1))
    (h2 : resolve c b a2 len (getRing b (dmaRing ch)).ctx.world false needW false = .ok (.port f2 t2))
    (hpd : pdRuns b 18 = true) (hr1 : ∀ o, route c a1 ≠ .lts o) (hr2 : ∀ o, route c a2 ≠ .lts o) :
    dmaIssue c b = issueReq c f1
      { op := .rd, addr := BitVec.ofNat 64 (a1.toNat / 64 * 64), be := byteMask (a1.toNat % 64) len, operand := 0, data := 0
        world := (getRing b (dmaRing ch)).ctx.world, purpose := .dmaRead ch x.next 0 }
      (pieceIssued b ch x (getRing b (dmaRing ch)).ctx
        { k := x.next, off := x.next, len := len, data := 0, reads := 1, todo := [{ pos := 0, len := len, addr := a2, buddy := false }]
          writes := 0, failed := false }) := by
  have hlt := dmaPick_ready hpick
  have hn : Nat.min (x.len - x.next) (64 - (x.dst + BitVec.ofNat 64 x.next).toNat % 64) = len := by
    rw [← hd, hdst, hlen]
  have hpos : 0 < len ∧ len ≤ 64 := by
    rw [hlen]
    exact ⟨Nat.lt_min.mpr ⟨by omega, by decide⟩, Nat.min_le_right _ _⟩
  have ht1 := dmaTranslate_bare c x.epoch x.src false false (n := len) b hten hus
  have ht2 := dmaTranslate_bare c x.epoch x.dst false true (n := len) b hten hud
  rw [← splitRange_line hsrc hpos.1 hpos.2, ← ha1, hs] at ht1
  rw [← splitRange_line hdst hpos.1 hpos.2, ← ha2, hd] at ht2
  exact (dmaIssue_segments hf hfly hpick hop hn ht1 ht2 (segPath_port h1) (segPath_port h2) ⟨segReady_port hr1 hpd, segReady_port hr2 hpd⟩).trans
    (dmaRead_port _ _ ((resolve_sys c (pieceIssued_sys ..) _ _ _ _ _ _).trans h1))

section
variable {c : Cfg} {b : Blk} {ch : BitVec 4} {r : Ring} {x0 : DmaCh}

/-- A descriptor with bytes to move is left open. -/
theorem dmaBegin_open (hr : getRing b (8 + ch.toNat) = r) (hx : r.dma (epDma (dmaEpochTaken b ch.toNat) (ch.toNat / 4)) = x0)
    (hf : frontRuns b = true) (hst : r.st = .ready) (hrun : r.run = true) (hh : r.halting = false) (hep : r.fld 0x08 6 6 = 0)
    (hlt : x0.next < x0.len) :
    dmaBegin c b ch.toNat = setDmaCh (setRing (dmaEpochTaken b ch.toNat) (8 + ch.toNat) { r with st := .begun }) ch.toNat x0 := by
  subst hr hx
  refine (dmaBegin_begins hf hst hrun hh hep).trans ?_
  obtain ⟨hd, hstop, _, _, _, hack⟩ := dma_fresh (getRing b (8 + ch.toNat)) (epDma (dmaEpochTaken b ch.toNat) (ch.toNat / 4))
  refine dmaProgress_waits (dmaCh_setDmaCh ..) hd hstop ?_
  rw [hack, decide_eq_false (Nat.ne_of_lt hlt)]
  rfl

/-- A descriptor with nothing to move and no signal completes at once. -/
theorem dmaBegin_empty (hr : getRing b (8 + ch.toNat) = r) (hx : r.dma (epDma (dmaEpochTaken b ch.toNat) (ch.toNat / 4)) = x0)
    (hf : frontRuns b = true) (hst : r.st = .ready) (hrun : r.run = true) (hh : r.halting = false) (hep : r.fld 0x08 6 6 = 0)
    (heq : x0.next = x0.len) (hsigen : x0.sigen = false) :
    dmaBegin c b ch.toNat =
      dmaFinish (setDmaCh (setRing (dmaEpochTaken b ch.toNat) (8 + ch.toNat) { r with st := .begun }) ch.toNat x0) ch.toNat x0 0 := by
  subst hr hx
  obtain ⟨hd, hstop, hwb, hsig, hfly, hack⟩ := dma_fresh (getRing b (8 + ch.toNat)) (epDma (dmaEpochTaken b ch.toNat) (ch.toNat / 4))
  have hfatal : (dmaEpochTaken b ch.toNat).err.fatal = false := by
    rw [dmaEpochTaken_rings]
    simp only [frontRuns, Bool.and_eq_true, Bool.not_eq_true'] at hf
    exact hf.1.2
  exact (dmaBegin_begins hf hst hrun hh hep).trans
    (dmaProgress_ends (dmaCh_setDmaCh ..) hfatal hwb hsig hfly (hack.trans (decide_eq_true heq)) hsigen hstop)

/-- The ring of a finished channel. -/
theorem getRing_dmaFinish (b : Blk) (ch : Nat) (x y : DmaCh) (r : Ring) (st : BitVec 8) :
    getRing (dmaFinish (setDmaCh (setRing b (dmaRing ch) r) ch y) ch x st) (dmaRing ch) =
      { r with st := .done, status := 0, result := BitVec.ofNat 32 (256 * st.toNat), detail := 0, epoch := x.epoch } := by
  have hr : getRing (dropDmaCh (setDmaCh (setRing b (dmaRing ch) r) ch y) ch) (dmaRing ch) = r := getRing_setRing b (dmaRing ch) r
  unfold dmaFinish finishDesc
  rw [modRing_eq, getRing_setRing, hr]

end

/-- Settles O39: each of the channel's three rows by the branch that it takes. -/
theorem dmaChannels : Obligations.DmaChannels := by
  intro s ch c b ring r b0 x0
  refine ⟨fun hf hst hrun hh hep => ⟨fun hlt => ?_, fun heq hsigen _ => ?_⟩, fun hst => ?_, ?_, fun hnone => ?_, ?_⟩
  · exact blkNext_gives (f := fun b => dmaBegin c b ch.toNat) (dmaBegin_open rfl rfl hf hst hrun hh hep hlt)
  · refine ⟨_, blkNext_gives (f := fun b => dmaBegin c b ch.toNat) (dmaBegin_empty rfl rfl hf hst hrun hh hep heq hsigen), rfl,
      dmaCh_dropDmaCh _ _, ?_⟩
    exact (getRing_dmaFinish b0 ch.toNat x0 x0 _ 0).trans rfl
  · exact blkNext_stays (f := fun b => dmaBegin c b ch.toNat) (dmaBegin_notReady hst)
  · intro x t1 t2 f1 f2 len src dst a1 a2 p hf hfly hpick _ hop hten hsrc hdst hus hud h1 h2 hpd hr1 hr2
    refine blkNext_gives (f := dmaIssue c)
      ((dmaIssue_aligned hf hfly hpick hop hten rfl rfl rfl hsrc hdst hus hud rfl rfl h1 h2 hpd hr1 hr2).trans ?_)
    unfold pieceIssued
    rw [BitVec.ofNat_toNat, BitVec.setWidth_eq]
    rfl
  · exact blkNext_stays (f := dmaIssue c) (dmaIssue_none hnone)
  · intro x obj hx hf hacked hsig hwb hstop ht
    exact ⟨fun hsigen => blkNext_gives (f := fun b => dmaSignal c b ch.toNat) (dmaSignal_sent hx hf hacked hsig hwb hstop hsigen ht),
      fun hsigen => blkNext_stays (f := fun b => dmaSignal c b ch.toNat) (dmaSignal_none hx hsigen)⟩

end Sys2Proof.Proofs
end

section
namespace Sys2Proof.Proofs
open Sys2Proof.Machine Sys2Proof.Laws

/-! Bytes of a piece under a mask, read from the LTS and written to it (R314, R368). -/

theorem getLsbD_lane (k : Nat) (x : BitVec w) (n : Nat) {t : Nat} (ht : t < k) : (lane k x n).getLsbD t = x.getLsbD (k * n + t) := by
  rw [lane, BitVec.getLsbD_ofNat, decide_eq_true ht, Bool.true_and, Nat.testBit_shiftRight]
  rfl

theorem lane_zero (k w n : Nat) : lane k (0 : BitVec w) n = 0 := by simp [lane]

theorem lane_or (k : Nat) (x y : BitVec w) (n : Nat) : lane k (x ||| y) n = lane k x n ||| lane k y n := by
  apply BitVec.eq_of_getLsbD_eq
  intro t ht
  rw [BitVec.getLsbD_or, getLsbD_lane k _ n ht, getLsbD_lane k _ n ht, getLsbD_lane k _ n ht, BitVec.getLsbD_or]

theorem testBit_natOfLE : ∀ (bs : List Byte) (k : Nat) {t : Nat}, t < 8 → (natOfLE bs).testBit (8 * k + t) = (bs.getD k 0).getLsbD t
  | [], k, t, _ => by simp [natOfLE]
  | x :: bs, 0, t, ht => by
    have hmod : (x.toNat + 256 * natOfLE bs) % 2 ^ 8 = x.toNat := field_low 8 (natOfLE bs) x.isLt
    have hbit := congrArg (Nat.testBit · t) hmod
    simp only [Nat.testBit_mod_two_pow, decide_eq_true ht, Bool.true_and] at hbit
    rw [natOfLE, Nat.mul_zero, Nat.zero_add, hbit]
    rfl
  | x :: bs, k + 1, t, ht => by
    have hdiv : (x.toNat + 2 ^ 8 * natOfLE bs) >>> (8 * (k + 1)) = natOfLE bs >>> (8 * k) := field_high 8 (natOfLE bs) k x.isLt
    have hbit := congrArg (Nat.testBit · t) hdiv
    simp only [Nat.testBit_shiftRight] at hbit
    rw [natOfLE, List.getD_cons_succ, ← testBit_natOfLE bs k ht]
    exact hbit

/-- A byte of a number is a byte of its little-endian list. -/
theorem getD_leOfNat : ∀ (n v k : Nat), k < n → (leOfNat n v).getD k 0 = BitVec.ofNat 8 (v >>> (8 * k))
  | n + 1, v, 0, _ => rfl
  | n + 1, v, k + 1, h => by
    rw [leOfNat, List.getD_cons_succ, getD_leOfNat n _ k (by omega), Nat.mul_succ, Nat.add_comm, Nat.shiftRight_add, Nat.shiftRight_eq_div_pow v 8]

theorem getD_pieceBytes (p : Piece) (o : Nat) {n k : Nat} (h : k < n) : (pieceBytes p o n).getD k 0 = lane 8 p (o + k) := by
  rw [pieceBytes, getD_leOfNat n _ k h, ← Nat.shiftRight_add, ← Nat.mul_add]
  rfl

/-- A byte of a piece made from a list. -/
theorem lane_pieceOfBytes (o : Nat) (bs : List Byte) {j : Nat} (hj : j < 64) :
    lane 8 (pieceOfBytes o bs) j = if o ≤ j then bs.getD (j - o) 0 else 0 := by
  apply BitVec.eq_of_getLsbD_eq
  intro t ht
  rw [getLsbD_lane 8 _ j ht, pieceOfBytes, BitVec.getLsbD_ofNat, decide_eq_true (by omega), Bool.true_and, Nat.testBit_shiftLeft]
  split
  · next h => rw [decide_eq_true (by omega), Bool.true_and, show 8 * j + t - 8 * o = 8 * (j - o) + t by omega, testBit_natOfLE bs _ ht]
  · next h => rw [decide_eq_false (by omega), Bool.false_and, BitVec.ofNat_eq_ofNat, BitVec.getLsbD_zero]

/-- A word of a mask that touches no byte. -/
theorem bit_of_untouched {be : Word} {i j : Nat} (h : bits be (8 * i + 7) (8 * i) = 0) (hj : j / 8 = i) : bit be j = false := by
  have hb := congrArg (Nat.testBit · (j - 8 * i)) h
  simp only [testBit_bits, Nat.zero_testBit] at hb
  rwa [decide_eq_true (by omega), Bool.true_and, show 8 * i + (j - 8 * i) = j by omega] at hb

/-- The words of a piece that a mask touches, of the first n. -/
def touchedWords (m : Sparse 8) (o : Nat) (be : Word) (n : Nat) : Piece :=
  (List.range n).foldl (fun r i => if bits be (8 * i + 7) (8 * i) = 0 then r else r ||| pieceOfBytes (8 * i) (Sparse.range m (o + 8 * i) 8)) 0

theorem touchedWords_succ (m : Sparse 8) (o : Nat) (be : Word) (n : Nat) : touchedWords m o be (n + 1) =
    if bits be (8 * n + 7) (8 * n) = 0 then touchedWords m o be n
    else touchedWords m o be n ||| pieceOfBytes (8 * n) (Sparse.range m (o + 8 * n) 8) := by
  rw [touchedWords, List.range_succ, List.foldl_append]
  rfl

theorem lane_touchedWords (m : Sparse 8) (o : Nat) {be : Word} {j : Nat} (hj : j < 64) (hbe : bit be j = true) :
    ∀ n, lane 8 (touchedWords m o be n) j = if j < 8 * n then m.get (o + j) else 0
  | 0 => by rw [if_neg (by omega), show touchedWords m o be 0 = 0 from rfl, lane_zero]
  | n + 1 => by
    have ih := lane_touchedWords m o hj hbe n
    rw [touchedWords_succ]
    split
    · next h =>
      have hne : j / 8 ≠ n := fun e => absurd (hbe.symm.trans (bit_of_untouched h e)) (by decide)
      rw [ih]
      by_cases hlt : j < 8 * n
      · rw [if_pos hlt, if_pos (by omega)]
      · rw [if_neg hlt, if_neg (by omega)]
    · rw [lane_or, ih, lane_pieceOfBytes _ _ hj]
      by_cases hlt : j < 8 * n
      · rw [if_pos hlt, if_neg (by omega), if_pos (by omega)]
        exact BitVec.or_zero
      · rw [if_neg hlt, if_pos (by omega)]
        refine BitVec.zero_or.trans ?_
        split
        · next h => rw [getD_range _ _ (by omega), show o + 8 * n + (j - 8 * n) = o + j by omega]
        · next h => exact List.getD_eq_default _ _ (by rw [length_range]; omega)

section
variable {b : Blk} (h : LtsQuiet b)
include h

theorem ltsReadMasked_quiet (world : Bool) (o : Nat) (be : Word) :
    ltsReadMasked world o be b = ((touchedWords b.lts.bytes o be 8, false), b) := by
  have hfold : ∀ n, (List.range n).foldl (fun (r : (Piece × Bool) × Blk) i =>
      if bits be (8 * i + 7) (8 * i) = 0 then r
      else
        let q := ltsBankRead world [] (o + 8 * i) 8 r.2
        ((r.1.1 ||| pieceOfBytes (8 * i) q.1.1, r.1.2 || q.1.2.isSome), q.2)) ((0, false), b) = ((touchedWords b.lts.bytes o be n, false), b) := by
    intro n
    induction n with
    | zero => rfl
    | succ n ih =>
      rw [List.range_succ, List.foldl_append, ih, List.foldl_cons, List.foldl_nil, ltsBankRead_quiet h.flips, touchedWords_succ]
      split <;> rfl
  unfold ltsReadMasked ltsCross
  rw [crossing_quiet h.beats]
  exact hfold 8

end

/-- The bytes that a masked read answers with. -/
theorem lane_maskedRead (m : Sparse 8) (o : Nat) (be : Word) {i : Nat} (hi : i < 64) :
    lane 8 (mergePiece 0 (touchedWords m o be 8) be) i = if bit be i then m.get (o + i) else 0 := by
  rw [mergePiece, lane_ofLanes _ (by omega), getD_map_range _ hi]
  split
  · next hbe => rw [lane_touchedWords m o hi hbe, if_pos (by omega)]
  · exact lane_zero ..

/-! Masked writes. -/

/-- The bytes of the LTS with those of a piece under a mask, of the first n words. -/
def maskedBytes (g : Nat → Byte) (o : Nat) (data : Piece) (be : Word) (n j : Nat) : Byte :=
  if o ≤ j ∧ j < o + 8 * n ∧ bit be (j - o) = true then lane 8 data (j - o) else g j

/-- One word of a masked write. -/
def writeMaskedWord (world : Bool) (o : Nat) (data : Piece) (be : Word) (r : Bool × Blk) (i : Nat) : Bool × Blk :=
  let m := bits be (8 * i + 7) (8 * i)
  if m = 0 then r
  else if m = 255 then
    let q := ltsWriteWord world (o / 8 + i) 0 (pieceBytes data (8 * i) 8) r.2
    (r.1 || q.1, q.2)
  else match ltsReadWord r.2 (o / 8 + i) with
    | (some v, b1) =>
      let merged := (List.range 8).map fun k => if m.testBit k then lane 8 data (8 * i + k) else lane 8 v k
      (r.1, ltsPutWord b1 (o / 8 + i) (BitVec.ofNat 64 (natOfLE merged)))
    | (none, b1) => (true, logErr b1 4 6 world (BitVec.ofNat 64 (o + 8 * i)))

theorem ltsBankWriteMasked_eq (world : Bool) (o : Nat) (data : Piece) (be : Word) (b : Blk) :
    ltsBankWriteMasked world o data be b = (List.range 8).foldl (writeMaskedWord world o data be) (false, b) := rfl

/-- Eight bytes put over a word, each from the piece where the mask has it and else as it was. -/
theorem overlay_masked {g : Nat → Byte} {o : Nat} {data : Piece} {be : Word} {i : Nat} {bs : List Byte} (hlen : bs.length = 8)
    (hbs : ∀ k < 8, bs.getD k 0 = if bit be (8 * i + k) then lane 8 data (8 * i + k) else g (o + 8 * i + k)) :
    overlay (maskedBytes g o data be i) (o + 8 * i) bs = maskedBytes g o data be (i + 1) := by
  funext j
  unfold overlay maskedBytes
  rw [hlen]
  by_cases hj : o + 8 * i ≤ j ∧ j < o + 8 * i + 8
  · rw [if_pos hj, hbs _ (by omega), show 8 * i + (j - (o + 8 * i)) = j - o by omega, show o + 8 * i + (j - (o + 8 * i)) = j by omega]
    by_cases hbe : bit be (j - o) = true
    · rw [if_pos hbe, if_pos ⟨by omega, by omega, hbe⟩]
    · rw [if_neg hbe, if_neg (fun hc => hbe hc.2.2)]
  · rw [if_neg hj]
    by_cases hin : o ≤ j ∧ j < o + 8 * i ∧ bit be (j - o) = true
    · rw [if_pos hin, if_pos ⟨hin.1, by omega, hin.2.2⟩]
    · rw [if_neg hin, if_neg (fun hc => hin ⟨hc.1, by omega, hc.2.2⟩)]

theorem maskedBytes_untouched {g : Nat → Byte} {o : Nat} {data : Piece} {be : Word} {i : Nat} (h : bits be (8 * i + 7) (8 * i) = 0) :
    maskedBytes g o data be i = maskedBytes g o data be (i + 1) := by
  funext j
  unfold maskedBytes
  by_cases hin : o ≤ j ∧ j < o + 8 * (i + 1) ∧ bit be (j - o) = true
  · have hne : (j - o) / 8 ≠ i := fun e => absurd (hin.2.2.symm.trans (bit_of_untouched h e)) (by decide)
    rw [if_pos hin, if_pos ⟨hin.1, by omega, hin.2.2⟩]
  · rw [if_neg hin, if_neg (fun hc => hin ⟨hc.1, by omega, hc.2.2⟩)]

theorem writeMaskedWord_quiet (world : Bool) {o : Nat} (ho : o % 8 = 0) (data : Piece) (be : Word) {b : Blk} {m : Sparse 8} {i : Nat}
    {g : Nat → Byte} (hm : m.get = maskedBytes g o data be i) :
    ∃ m', writeMaskedWord world o data be (false, withBytes b m) i = (false, withBytes b m') ∧ m'.get = maskedBytes g o data be (i + 1) := by
  have hw : 8 * (o / 8 + i) = o + 8 * i := by omega
  have hbit {k : Nat} (hk : k < 8) : (bits be (8 * i + 7) (8 * i)).testBit k = bit be (8 * i + k) := by
    rw [testBit_bits, decide_eq_true (by omega), Bool.true_and]
    rfl
  have hold {k : Nat} (hk : k < 8) : maskedBytes g o data be i (o + 8 * i + k) = g (o + 8 * i + k) := if_neg (by omega)
  unfold writeMaskedWord
  dsimp only
  split
  · next h0 => exact ⟨m, rfl, hm.trans (maskedBytes_untouched h0)⟩
  · split
    · next hall =>
      have hlen : (pieceBytes data (8 * i) 8).length = 8 := length_leOfNat ..
      obtain ⟨m', hrun, hget⟩ := ltsWriteWord_quiet (b := withBytes b m) rfl world (o / 8 + i) 0 (bs := pieceBytes data (8 * i) 8) (by rw [hlen])
      refine ⟨m', by rw [hrun]; rfl, hget.trans ?_⟩
      rw [hw, Nat.add_zero, show Sparse.get (withBytes b m).lts.bytes = maskedBytes g o data be i from hm]
      refine overlay_masked hlen fun k hk => ?_
      have hset : bit be (8 * i + k) = true := by
        rw [← hbit hk, hall, show (255 : Nat) = 2 ^ 8 - 1 from rfl, Nat.testBit_two_pow_sub_one, decide_eq_true hk]
      rw [getD_pieceBytes _ _ hk, if_pos hset]
    · have hput (v : Word) : ltsPutWord (withBytes b m) (o / 8 + i) v =
          withBytes b (Sparse.setAll m (8 * (o / 8 + i)) (leOfNat 8 v.toNat)) := rfl
      rw [ltsReadWord_quiet (b := withBytes b m) rfl]
      dsimp only
      refine ⟨_, by rw [hput], ?_⟩
      have hlen : ((List.range 8).map fun k => if (bits be (8 * i + 7) (8 * i)).testBit k then lane 8 data (8 * i + k)
          else lane 8 (ltsWord (withBytes b m) (o / 8 + i)) k).length = 8 := by rw [List.length_map, List.length_range]
      rw [bytes_of_word hlen, get_setAll, hw, hm]
      refine overlay_masked hlen fun k hk => ?_
      have hbyte : lane 8 (ltsWord (withBytes b m) (o / 8 + i)) k = m.get (o + 8 * i + k) := by
        have hbytes : leOfNat 8 (ltsWord (withBytes b m) (o / 8 + i)).toNat = Sparse.range m (8 * (o / 8 + i)) 8 := ltsWord_bytes ..
        rw [← hw, ← getD_range m _ hk, ← hbytes, getD_leOfNat _ _ _ hk]
        rfl
      rw [getD_map_range _ hk, hbit hk, hbyte, hm, hold hk]

/-- A masked write into an LTS without flipped bits, over an interface with no beat to come. -/
theorem ltsWriteMasked_quiet {b : Blk} (h : LtsQuiet b) (world : Bool) {o : Nat} (ho : o % 8 = 0) (data : Piece) (be : Word) :
    ∃ m, ltsWriteMasked world o data be b = (false, withBytes b m) ∧ m.get = maskedBytes (Sparse.get b.lts.bytes) o data be 8 := by
  have hfold : ∀ n, ∃ m, (List.range n).foldl (writeMaskedWord world o data be) (false, b) = (false, withBytes b m) ∧
      m.get = maskedBytes (Sparse.get b.lts.bytes) o data be n := by
    intro n
    induction n with
    | zero => exact ⟨b.lts.bytes, by rw [withBytes_self h.flips]; rfl, funext fun j => (if_neg (by omega)).symm⟩
    | succ n ih =>
      obtain ⟨m, hrun, hget⟩ := ih
      obtain ⟨m', hrun', hget'⟩ := writeMaskedWord_quiet world ho data be (b := b) hget
      exact ⟨m', by rw [List.range_succ, List.foldl_append, hrun]; exact hrun', hget'⟩
  obtain ⟨m, hrun, hget⟩ := hfold 8
  refine ⟨m, ?_, hget⟩
  simp only [ltsWriteMasked, ltsSend, ltsCross, crossing_quiet h.beats, List.isEmpty_nil, if_true, ltsBankWriteMasked_eq]
  exact hrun

end Sys2Proof.Proofs
end

section
namespace Sys2Proof.Proofs
open Sys2Proof.Machine Sys2Proof.Laws

/-! Requests that arrive at the Far Port (R365, R368, R387, R388). -/

theorem ltsQuiet_modLink {b : Blk} (h : LtsQuiet b) (p : BitVec 2) (f : Link → Link) : LtsQuiet (modLink b p f) := by
  refine ⟨?_, ?_, ?_⟩
  · simp only [modLink_lts, h.flips]
  · simp only [modLink_sys, h.beats]
  · simp only [modLink_err, h.fatal]

/-- A block's links do not bear on its LTS's world, power and wipes. -/
theorem inPartition_sys {b b' : Blk} (c : Cfg) (h : b'.sys = b.sys) (w : Bool) (o n : Nat) : inPartition c b' w o n = inPartition c b w o n := by
  unfold inPartition effSec secureForcedZero
  rw [h]

theorem modLink_links (b : Blk) (p : BitVec 2) (f : Link → Link) : sameButLinks b (modLink b p f) := setLink_links b p _

section
variable {c : Cfg} {b : Blk}

/-- A request on an UP Far Port frees its credits and is taken. -/
theorem farRequest_taken (hup : b.ports.fp.state = stUp) (hpd : pdRuns b 18 = true) (hrun : b.pwr.state = .run) (pk : Packet) {ch : Nat}
    (hch : channelOf pk.h.opc = some ch) (hreq : pk.h.opc ≠ 0x09 ∧ pk.h.opc ≠ 0x0A ∧ pk.h.opc ≠ 0x0B ∧ pk.h.opc ≠ 0x12) :
    packetArrives c b true pk = takeRequest c (modLink b 1 fun l => l.free ch (1 + dataFlits pk.h)) pk := by
  have hdue : (decide ((getLink b 1).state = stUp) && pdRuns b 18 && decide (b.pwr.state = .run)) = true := by
    rw [show (getLink b 1).state = stUp from hup, hpd, hrun]
    decide
  have hresp : ¬ (decide (pk.h.opc = 0x09) || decide (pk.h.opc = 0x0A) || decide (pk.h.opc = 0x0B) || (decide (pk.h.opc = 0x12) && true)) = true := by
    obtain ⟨h1, h2, h3, h4⟩ := hreq
    rw [decide_eq_false h1, decide_eq_false h2, decide_eq_false h3, decide_eq_false h4]
    decide
  refine (if_pos hdue).trans ?_
  unfold deliverPacket
  rw [hch]
  exact (if_neg hresp).trans (if_pos rfl)

/-- A request to the LTS that is well formed is served. -/
theorem takeRequest_served {pk : Packet} (hm : inboundMalformed pk.h = false) (hop : pk.h.opc ≠ 0x11) :
    takeRequest c b pk = inboundServe c b pk := by
  unfold takeRequest
  rw [hm, if_neg Bool.false_ne_true, if_neg hop]

theorem inboundServe_refused {pk : Packet} (h : inboundCheck c b pk.h = none) : inboundServe c b pk = answer (countIref b) pk.h 1 0 0 := by
  unfold inboundServe
  rw [h]

theorem inboundServe_performed {pk : Packet} {o : Nat} (h : inboundCheck c b pk.h = some o) (hpd : pdRuns b (quarterPd o) = true)
    (hw : ltsWiping b o 64 = false) (hheld : b.sys.heldIn = []) : inboundServe c b pk = inboundPerform b pk o := by
  unfold inboundServe
  rw [h]
  refine if_neg ?_
  rw [hpd, hw, hheld]
  exact Bool.false_ne_true

theorem inboundCheck_passes {h : Hdr} {o n : Nat} (hf : b.err.fatal = false) (hr : route c h.addr = .lts o)
    (hn : inboundSpan h o = (o, n)) (hin : inPartition c b h.world o n = true) (hq : quarterOk c o = true) : inboundCheck c b h = some o := by
  unfold inboundCheck
  rw [hf, hr, if_neg Bool.false_ne_true]
  dsimp only
  rw [hn, hin, hq]
  rfl

theorem inboundCheck_fails {h : Hdr} (hn : ∀ o, inboundSpan h o = (o, 64))
    (hbad : ∀ o, route c h.addr = .lts o → inPartition c b h.world o 64 = false ∨ quarterOk c o = false) : inboundCheck c b h = none := by
  unfold inboundCheck
  split
  · rfl
  · split
    · next o ho =>
      rw [hn]
      refine if_neg ?_
      rcases hbad o ho with h | h
      · rw [h]
        exact Bool.false_ne_true
      · rw [h, Bool.and_false]
        exact Bool.false_ne_true
    · rfl

/-- The LTS offset of an aligned address is aligned. -/
theorem route_aligned {a : Word} {o : Nat} (h : route c a = .lts o) (ha : a.toNat % 64 = 0) : o % 64 = 0 := by
  have hoff : blockOffset a % 64 = 0 := by
    unfold blockOffset bits
    rw [Nat.shiftRight_zero]
    omega
  unfold route ltsSize at h
  split at h
  · cases h
    omega
  · split at h <;> cases h

end

/-! The three requests performed at their bank. -/

section
variable {b : Blk} (hq : LtsQuiet b)
include hq

theorem inboundPerform_read (h : Hdr) (data : Piece) (hop : h.opc = 0x01) (o : Nat) : inboundPerform b { h := h, data := data } o =
    answer b h 0 (mergePiece 0 (touchedWords b.lts.bytes o h.be 8) h.be) 0 := by
  unfold inboundPerform
  dsimp only
  rw [if_pos hop, ltsReadMasked_quiet hq]
  rfl

theorem inboundPerform_write (h : Hdr) (data : Piece) (hop : h.opc = 0x02) {o : Nat} (ho : o % 8 = 0) :
    ∃ m, inboundPerform b { h := h, data := data } o = answer (withBytes b m) h 0 0 0 ∧
      m.get = maskedBytes (Sparse.get b.lts.bytes) o data h.be 8 := by
  obtain ⟨m, hrun, hget⟩ := ltsWriteMasked_quiet hq h.world ho data h.be
  refine ⟨m, ?_, hget⟩
  unfold inboundPerform
  dsimp only
  rw [if_neg (by rw [hop]; decide), if_pos hop, hrun]
  rfl

theorem inboundPerform_atomic (h : Hdr) (data : Piece) (hop : h.opc = 0x03) (o : Nat) {n : Nat} (hn : (if bit h.be 4 then 4 else 8) = n) :
    ∃ b1, inboundPerform b { h := h, data := data } o = answer b1 h 0 0 (BitVec.ofNat 64 (natOfLE (Sparse.range b.lts.bytes o n))) ∧
      Written b b1 [(o, leOfNat n (atomicNew (bits h.be 3 0) (8 * n) (natOfLE (Sparse.range b.lts.bytes o n)) h.operand.toNat
        (data.toNat % 2 ^ 64)))] := by
  obtain ⟨b1, hrun, hw⟩ := ltsWrite_quiet hq h.world o (leOfNat n (atomicNew (bits h.be 3 0) (8 * n) (natOfLE (Sparse.range b.lts.bytes o n))
    h.operand.toNat (data.toNat % 2 ^ 64)))
  refine ⟨b1, ?_, hw⟩
  unfold inboundPerform
  dsimp only
  rw [if_neg (by rw [hop]; decide), if_neg (by rw [hop]; decide), hn, ltsRead_quiet hq]
  dsimp only
  rw [hrun]
  rfl

end

/-! Requests served, refused and queued. -/

/-- The opcodes of a read, a write and an atomic. -/
def isAccess (opc : BitVec 5) : Prop := opc = 0x01 ∨ opc = 0x02 ∨ opc = 0x03

theorem access_opcode {opc : BitVec 5} (h : isAccess opc) :
    channelOf opc = some 0 ∧ (opc ≠ 0x09 ∧ opc ≠ 0x0A ∧ opc ≠ 0x0B ∧ opc ≠ 0x12) ∧ opc ≠ 0x11 := by
  rcases h with h | h | h <;> subst h <;> decide

section
variable {c : Cfg} {b : Blk} (hup : b.ports.fp.state = stUp) (hpd : pdRuns b 18 = true) (hrun : b.pwr.state = .run)
include hup hpd hrun

theorem farRequest_performed (hf : b.err.fatal = false) (hheld : b.sys.heldIn = []) (pk : Packet) (hacc : isAccess pk.h.opc)
    (hm : inboundMalformed pk.h = false)
    {o n : Nat} (hspan : inboundSpan pk.h o = (o, n)) (hr : route c pk.h.addr = .lts o) (hin : inPartition c b pk.h.world o n = true)
    (hq : quarterOk c o = true) (hqpd : pdRuns b (quarterPd o) = true) (hw : ltsWiping b o 64 = false) :
    packetArrives c b true pk = inboundPerform (modLink b 1 fun l => l.free 0 (1 + dataFlits pk.h)) pk o := by
  obtain ⟨hch, hreq, hop⟩ := access_opcode hacc
  refine (farRequest_taken hup hpd hrun pk hch hreq).trans ((takeRequest_served hm hop).trans (inboundServe_performed
    (inboundCheck_passes ?_ hr hspan ?_ hq) ?_ ?_ ?_))
  · simp only [modLink_err, hf]
  · rw [inPartition_sys c (modLink_sys ..), hin]
  · simpa only [pdRuns, pdOn, cdRuns, modLink_pwr] using hqpd
  · simpa only [ltsWiping, modLink_sys] using hw
  · simp only [modLink_sys, hheld]

theorem farRequest_refused (pk : Packet) (hacc : isAccess pk.h.opc)
    (hm : inboundMalformed pk.h = false)
    (hspan : ∀ o, inboundSpan pk.h o = (o, 64))
    (hbad : ∀ o, route c pk.h.addr = .lts o → inPartition c b pk.h.world o 64 = false ∨ quarterOk c o = false) :
    packetArrives c b true pk = answer (countIref (modLink b 1 fun l => l.free 0 (1 + dataFlits pk.h))) pk.h 1 0 0 := by
  obtain ⟨hch, hreq, hop⟩ := access_opcode hacc
  refine (farRequest_taken hup hpd hrun pk hch hreq).trans ((takeRequest_served hm hop).trans (inboundServe_refused
    (inboundCheck_fails hspan fun o ho => ?_)))
  rw [inPartition_sys c (modLink_sys ..)]
  exact hbad o ho

theorem farSync_taken (h : Hdr) (hop : h.opc = 0x11) (hm : bits h.be 2 0 < 5) :
    packetArrives c b true { h := h, data := 0 } = inboundSync c (modLink b 1 fun l => l.free 2 (1 + dataFlits h)) h := by
  have hmal : inboundMalformed h = false := by
    unfold inboundMalformed
    rw [if_neg (by rw [hop]; decide), if_pos hop, decide_eq_false (by omega)]
  refine (farRequest_taken hup hpd hrun { h := h, data := 0 } (ch := 2) (by dsimp only; rw [hop]; decide) (by dsimp only; rw [hop]; decide)).trans ?_
  unfold takeRequest
  dsimp only
  rw [hmal, if_neg Bool.false_ne_true, if_pos hop]

end

theorem inboundSync_queued {c : Cfg} {b : Blk} {h : Hdr} (hf : b.err.fatal = false) (hn : bits h.addr 16 0 = c.node.toNat)
    (hb : bits h.addr 26 17 = c.block.toNat) : inboundSync c b h = { b with sync := { b.sync with queue := b.sync.queue ++
      [{ src := .farPort h.rtag, op := BitVec.ofNat 3 (bits h.be 2 0), obj := BitVec.ofNat 16 (bits h.addr 47 32)
         x := h.operand.truncate 32, world := h.world }] } } := by
  refine if_neg ?_
  rw [hf, hn, hb, BitVec.ofNat_toNat, BitVec.ofNat_toNat, BitVec.setWidth_eq, BitVec.setWidth_eq]
  simp

theorem inboundSync_refused {c : Cfg} {b : Blk} {h : Hdr} (hne : bits h.addr 16 0 ≠ c.node.toNat ∨ bits h.addr 26 17 ≠ c.block.toNat) :
    inboundSync c b h = answer (countIref b) h 9 0 0 := by
  refine if_pos ?_
  have hnum {w hi lo : Nat} (hw : hi + 1 - lo = w) {x : BitVec w} (hx : bits h.addr hi lo ≠ x.toNat) : (BitVec.ofNat w (bits h.addr hi lo) != x) = true := by
    rw [bne_iff_ne]
    intro he
    have hlt := bits_lt h.addr hi lo
    rw [hw] at hlt
    have he' := congrArg BitVec.toNat he
    rw [BitVec.toNat_ofNat, Nat.mod_eq_of_lt hlt] at he'
    exact hx he'
  rcases hne with h1 | h1
  · rw [hnum rfl h1, Bool.or_true, Bool.true_or]
  · rw [hnum rfl h1, Bool.or_true]

/-- A read or write of whole aligned bytes is well formed. -/
theorem inboundMalformed_piece {h : Hdr} (hop : h.opc = 0x01 ∨ h.opc = 0x02) (ha : h.addr.toNat % 64 = 0) (hbe : h.be ≠ 0) :
    inboundMalformed h = false := by
  have hne : h.opc ≠ 0x03 ∧ h.opc ≠ 0x11 := by rcases hop with e | e <;> rw [e] <;> decide
  unfold inboundMalformed
  rw [if_neg hne.1, if_neg hne.2, ha, beq_eq_false_iff_ne.mpr hbe]
  decide

theorem inboundMalformed_atomic {h : Hdr} (hop : h.opc = 0x03) (ha : h.addr.toNat % (if bit h.be 4 then 4 else 8) = 0) (hbe : bits h.be 3 0 ≤ 8) :
    inboundMalformed h = false := by
  unfold inboundMalformed
  rw [if_pos hop, decide_eq_false (by omega), ha]
  rfl

theorem inboundSpan_atomic {h : Hdr} (hop : h.opc = 0x03) (o : Nat) : inboundSpan h o = (o, if bit h.be 4 then 4 else 8) := if_pos hop

/-- Settles O40: each request by its check's branch, the bytes by the masked read and write of a quiet LTS. -/
theorem farPortRequests : Obligations.FarPortRequests := by
  intro s h data c b hd freed reply refused hup hpd hrun hf
  refine ⟨fun o hr hin hq hqpd hw hheld hflips hbeats ha hbe => ⟨?_, ?_⟩, ?_, fun hbe hn hb => ?_, fun ha hbe hbad => ⟨?_, ?_⟩, fun hbe hne => ?_⟩
  · refine ⟨mergePiece 0 (touchedWords b.lts.bytes o h.be 8) h.be, fun i hi => lane_maskedRead _ _ _ hi, ?_⟩
    refine blkNext_gives (f := fun b => packetArrives c b true { h := hd 1, data := 0 }) ?_
    refine (farRequest_performed hup hpd hrun hf hheld { h := hd 1, data := 0 } (.inl rfl)
      (inboundMalformed_piece (.inl rfl) ha hbe) rfl hr hin hq hqpd hw).trans ?_
    refine (inboundPerform_read (ltsQuiet_modLink ⟨hflips, hbeats, hf⟩ _ _) (hd 1) 0 rfl o).trans ?_
    rw [modLink_lts]
    rfl
  · have ho := route_aligned hr ha
    obtain ⟨m, hperf, hget⟩ := inboundPerform_write (ltsQuiet_modLink ⟨hflips, hbeats, hf⟩ 1 fun l => l.free 0 (1 + dataFlits (hd 2))) (hd 2) data rfl
      (o := o) (by omega)
    refine ⟨withBytes b m, ⟨rfl, rfl, fun j => ?_⟩, ?_⟩
    · refine (congrFun hget j).trans ?_
      rw [modLink_lts]
      rfl
    · exact blkNext_gives (f := fun b => packetArrives c b true { h := hd 2, data := data })
        ((farRequest_performed hup hpd hrun hf hheld { h := hd 2, data := data } (.inr (.inl rfl))
          (inboundMalformed_piece (.inr rfl) ha hbe) rfl hr hin hq hqpd hw).trans hperf)
  · intro o n hr hin hq hqpd hw hheld hflips hbeats ha hbe _ old
    obtain ⟨b1, hperf, hwr⟩ := inboundPerform_atomic (ltsQuiet_modLink ⟨hflips, hbeats, hf⟩ 1 fun l => l.free 0 (1 + dataFlits (hd 3))) (hd 3) data rfl o
      (n := n) rfl
    have hrun := farRequest_performed hup hpd hrun hf hheld { h := hd 3, data := data } (.inr (.inr rfl))
      (inboundMalformed_atomic rfl ha hbe) (inboundSpan_atomic rfl o) hr hin hq hqpd hw
    rw [modLink_lts] at hperf hwr
    obtain ⟨hb1, hb1flips, hset, hkept⟩ := hwr
    refine ⟨{ b with lts := b1.lts }, ⟨rfl, hb1flips, hset, fun j hj => (hkept j hj).trans ?_⟩, ?_⟩
    · rw [modLink_lts]
    · rw [hb1] at hperf
      exact blkNext_gives (f := fun b => packetArrives c b true { h := hd 3, data := data }) (hrun.trans hperf)
  · refine blkNext_gives (f := fun b => packetArrives c b true { h := hd 0x11, data := 0 }) ?_
    refine (farSync_taken hup hpd hrun (hd 0x11) rfl hbe).trans ((inboundSync_queued (h := hd 0x11) ?_ hn hb).trans ?_)
    · simp only [modLink_err, hf]
    · rw [modLink_sync]
  · exact blkNext_gives (f := fun b => packetArrives c b true { h := hd 1, data := 0 })
      (farRequest_refused hup hpd hrun { h := hd 1, data := 0 } (.inl rfl) (inboundMalformed_piece (.inl rfl) ha hbe) (fun _ => rfl) hbad)
  · exact blkNext_gives (f := fun b => packetArrives c b true { h := hd 2, data := data })
      (farRequest_refused hup hpd hrun { h := hd 2, data := data } (.inr (.inl rfl)) (inboundMalformed_piece (.inr rfl) ha hbe) (fun _ => rfl) hbad)
  · exact blkNext_gives (f := fun b => packetArrives c b true { h := hd 0x11, data := 0 })
      ((farSync_taken hup hpd hrun (hd 0x11) rfl hbe).trans (inboundSync_refused hne))

end Sys2Proof.Proofs
end

section
namespace Sys2Proof.Proofs
open Sys2Proof.Machine Sys2Proof.Laws

/-! Blocks that a link receives (R383–R395). -/

@[simp] theorem setLink_setLink (b : Blk) (p : BitVec 2) (l l' : Link) : setLink (setLink b p l) p l' = setLink b p l' := by
  rcases port_cases p with h | h | h | h <;> subst h <;> rfl

theorem setLink_getLink (b : Blk) (p : BitVec 2) : setLink b p (getLink b p) = b := by
  rcases port_cases p with h | h | h | h <;> subst h <;> rfl

theorem modLink_setLink (b : Blk) (p : BitVec 2) (l : Link) (f : Link → Link) : modLink (setLink b p l) p f = setLink b p (f l) := by
  rw [modLink, getLink_setLink, setLink_setLink]

theorem linkTo_setLink (b : Blk) (p : BitVec 2) (l l' : Link) :
    linkTo (setLink b p l) p l' = if l.state = l'.state then setLink b p l' else emitLink (setLink b p l') p l'.state := by
  unfold linkTo
  rw [getLink_setLink, setLink_setLink]

theorem linkTo_moves {b : Blk} {p : BitVec 2} {l : Link} (h : (getLink b p).state ≠ l.state) :
    linkTo b p l = emitLink (setLink b p l) p l.state := if_neg h

theorem linkTo_setLink_moves {b : Blk} {p : BitVec 2} {l l' : Link} (h : l.state ≠ l'.state) :
    linkTo (setLink b p l) p l' = emitLink (setLink b p l') p l'.state := (linkTo_setLink b p l l').trans (if_neg h)

theorem report_state (p : BitVec 2) (l : Link) : (l.report p).2.state = l.state := by
  unfold Link.report
  dsimp only
  (repeat' split) <;> rfl

theorem driveCtl_state (p : BitVec 2) (l : Link) (sub : Nat) : (l.driveCtl p sub).state = l.state := by
  unfold Link.driveCtl
  dsimp only
  split
  · rfl
  · exact report_state p l

section
variable {b : Blk} {p : BitVec 2} {k : Block}

theorem receiving_iff : receiving b p = true ↔
    portRuns b p = true ∧ (getLink b p).state ≠ stDown ∧ (getLink b p).state ≠ stFailed ∧ (getLink b p).state ≠ stPaused := by
  unfold receiving
  simp only [Bool.and_eq_true, bne_iff_ne, and_assoc]

theorem receiving_up (hup : (getLink b p).state = stUp) (hrun : portRuns b p = true) : receiving b p = true :=
  receiving_iff.mpr ⟨hrun, by rw [hup]; decide⟩

theorem receive_bad (hr : receiving b p = true) (hk : k.good p = false) (kind : Bool) (f : Blk → Blk) : receive b p k kind f = badBlock b p := by
  unfold receive
  rw [hr, hk]
  rfl

/-- The link after a correct block, before what the block does. -/
theorem receive_good (hr : receiving b p = true) (hk : k.good p = true) {kind : Bool} (hkind : kind = true) (f : Blk → Blk) :
    receive b p k kind f = f (setLink b p ((getLink b p).goodBlock k.isTrain)) := by
  unfold receive
  rw [hr, hk, hkind]
  rfl

/-- A correct block of another kind only ends the rows. -/
theorem receive_other (hr : receiving b p = true) (hk : k.good p = true) {kind : Bool} (hkind : kind = false) (f : Blk → Blk) :
    receive b p k kind f = setLink b p ((getLink b p).goodBlock k.isTrain) := by
  unfold receive
  rw [hr, hk, hkind]
  rfl

/-- An UP link is neither DOWN nor retraining. -/
theorem up_ne : ¬ stUp = stDown ∧ ¬ stUp = stRetrain := by decide

theorem kind_up {n : Nat} (hty : k.btype = n) (hup : (getLink b p).state = stUp) : (k.btype == n && (getLink b p).state == stUp) = true := by
  rw [hty, hup]
  simp

theorem kindSub_up {n m : Nat} (hty : k.btype = n) (hsub : k.sub = m) (hup : (getLink b p).state = stUp) :
    (k.btype == n && k.sub == m && (getLink b p).state == stUp) = true := by
  rw [hty, hsub, hup]
  simp

/-! A block with a wrong CRC. -/

/-- The link that has discarded a block (R384, R391, R392). -/
def discarded (l : Link) : Link :=
  { l with crcErr := true, crcErrs := if l.crcErrs = 0xFFFF then l.crcErrs else l.crcErrs + 1, crcRow := l.crcRow + 1
           nak := true, nakOwed := !l.nak || l.nakOwed }

/-- NAK state is entered once. -/
theorem enterNak_eq (l : Link) : l.enterNak = { l with nak := true, nakOwed := !l.nak || l.nakOwed } := by
  unfold Link.enterNak
  split
  · next h =>
    rw [h]
    cases l
    cases h
    rfl
  · next h =>
    rw [(Bool.not_eq_true _).mp h]
    rfl

theorem badBlock_up {l : Link} (hl : getLink b p = l) (hup : l.state = stUp) :
    badBlock b p = if 16 ≤ (l.crcRow + 1).toNat then linkTo b p (discarded l).retrain else setLink b p (discarded l) := by
  unfold badBlock
  dsimp only
  rw [hl, if_pos hup, enterNak_eq]
  rfl

end

/-! The trailer of a correct block (R389, R391). -/

/-- The link whose retry buffer keeps what an ACK does not cover. -/
def ackedBy (a : BitVec 7) (l : Link) : Link :=
  { l with
    retry := l.retry.filter fun x => !covered a x.seq
    replayRow := if (l.retry.filter fun x => !covered a x.seq).length < l.retry.length then 0 else l.replayRow }

/-- The ACK of a block's trailer. -/
def ackOf (k : Block) : BitVec 7 := BitVec.ofNat 7 (bits k.ctl 13 7)

/-- The link after a trailer, whose CCNT counts when its block was taken. -/
def trailedBy (k : Block) (taken : Bool) (l : Link) : Link :=
  if taken then (ackedBy (ackOf k) l).credited (bits k.ctl 24 23) (BitVec.ofNat 7 (bits k.ctl 31 25)) else ackedBy (ackOf k) l

theorem credited_sendQ (l : Link) (ch : Nat) (n : BitVec 7) : (l.credited ch n).sendQ = l.sendQ := by
  unfold Link.credited
  (repeat' split) <;> rfl

theorem trailedBy_sendQ (k : Block) (taken : Bool) (l : Link) : (trailedBy k taken l).sendQ = l.sendQ := by
  unfold trailedBy
  split
  · exact credited_sendQ ..
  · rfl

/-- With nothing to send, sending only times the requests that have left. -/
theorem pumpPort_idle (b : Blk) {p : BitVec 2} {l : Link} (hp : p.toNat < 2) (hq : l.sendQ = []) :
    pumpPort (setLink b p l) p = stampSent (setLink b p l) (p == 1) := by
  have hpump : pumpLink p l = l := by
    unfold pumpLink
    rw [hq]
    rfl
  have hport : (if (p == 1) = true then 1 else 0 : BitVec 2) = p := by
    rcases port_cases p with h | h | h | h <;> subst h <;> revert hp <;> decide
  unfold pumpPort
  rw [if_pos hp]
  unfold pumpOne
  dsimp only
  rw [hport, modLink, getLink_setLink, setLink_setLink, hpump]

theorem trailer_idle (b : Blk) {p : BitVec 2} {l : Link} {k : Block} (taken : Bool) (hp : p.toNat < 2) (hq : l.sendQ = [])
    (hnak : bit k.ctl 14 = true → (ackedBy (ackOf k) l).retry = []) :
    trailer (setLink b p l) p k taken = stampSent (setLink b p (trailedBy k taken l)) (p == 1) := by
  have hno : ¬ (bit k.ctl 14 && !(l.retry.filter fun x => !covered (ackOf k) x.seq).isEmpty) = true := by
    rw [Bool.and_eq_true]
    rintro ⟨h14, hne⟩
    have hempty : (l.retry.filter fun x => !covered (ackOf k) x.seq) = [] := hnak h14
    rw [hempty] at hne
    exact absurd hne (by decide)
  unfold trailer
  dsimp only
  rw [getLink_setLink]
  refine (congrArg (pumpPort · p) (if_neg hno)).trans ?_
  rw [setLink_setLink]
  exact pumpPort_idle b hp ((trailedBy_sendQ k taken l).trans hq)

/-! The three cases of a data block (R391). -/

section
variable {c : Cfg} {b : Blk} {p : BitVec 2} {k : Block} {l : Link}

theorem bit_of_bits_zero {x : BitVec w} {hi lo j : Nat} (h : bits x hi lo = 0) (hlo : lo ≤ j) (hhi : j ≤ hi) : bit x j = false := by
  have hb := congrArg (Nat.testBit · (j - lo)) h
  simp only [testBit_bits, Nat.zero_testBit] at hb
  rwa [decide_eq_true (by omega), Bool.true_and, show lo + (j - lo) = j by omega] at hb

/-- A block without flits delivers nothing where nothing is owed. -/
theorem portFlits_empty (hp : p.toNat < 2) (howed : l.owed = []) (hv : bits k.ctl 22 17 = 0) :
    portFlits c (setLink b p l) (p == 1) k = setLink b p l := by
  have hport : (if (p == 1) = true then 1 else 0 : BitVec 2) = p := by
    rcases port_cases p with h | h | h | h <;> subst h <;> revert hp <;> decide
  have hs : (List.range 2).filter (fun i => bit k.ctl (21 + i)) = [] :=
    List.filter_eq_nil_iff.mpr fun i hi => by
      rw [List.mem_range] at hi
      rw [bit_of_bits_zero hv (by omega) (by omega)]
      exact Bool.false_ne_true
  have fs : (List.range 4).filter (fun i => bit k.ctl (17 + i)) = [] :=
    List.filter_eq_nil_iff.mpr fun i hi => by
      rw [List.mem_range] at hi
      rw [bit_of_bits_zero hv (by omega) (by omega)]
      exact Bool.false_ne_true
  have hkeep : ({ l with owed := [] } : Link) = l := by
    cases l
    cases howed
    rfl
  unfold portFlits
  dsimp only
  rw [hport, getLink_setLink, howed, hs, fs]
  simp only [List.map_nil, List.append_nil, List.foldl_nil, deliverWhole, hport, modLink, getLink_setLink, setLink_setLink, hkeep]

theorem dataBlock_inOrder (hp : p.toNat < 2) (hq : l.sendQ = []) (hnak : bit k.ctl 14 = true → (ackedBy (ackOf k) l).retry = [])
    (hrow : l.crcRow = 0) (hseq : BitVec.ofNat 7 (bits k.ctl 6 0) = l.eseq) (hv : bits k.ctl 22 17 = 0) (howed : l.owed = []) :
    dataBlock c (setLink b p l) p k = stampSent (setLink b p (trailedBy k true { l with eseq := l.eseq + 1, nak := false })) (p == 1) := by
  have hkeep : ({ l with eseq := l.eseq + 1, nak := false, crcRow := 0 } : Link) = { l with eseq := l.eseq + 1, nak := false } := by rw [← hrow]
  unfold dataBlock
  dsimp only
  rw [getLink_setLink, hseq, BitVec.sub_self, setLink_setLink, hkeep]
  refine (congrArg (trailer · p k true) ((if_pos rfl).trans (if_pos hp))).trans ?_
  rw [portFlits_empty (l := { l with eseq := l.eseq + 1, nak := false }) hp howed hv]
  exact trailer_idle b true hp hq hnak

theorem dataBlock_duplicate (hp : p.toNat < 2) (hq : l.sendQ = []) (hnak : bit k.ctl 14 = true → (ackedBy (ackOf k) l).retry = [])
    (hrow : l.crcRow = 0) (hd : 64 ≤ (BitVec.ofNat 7 (bits k.ctl 6 0) - l.eseq).toNat) :
    dataBlock c (setLink b p l) p k = stampSent (setLink b p (trailedBy k false l)) (p == 1) := by
  have hkeep : ({ l with crcRow := 0 } : Link) = l := by rw [← hrow]
  unfold dataBlock
  dsimp only
  have hne : ¬ (BitVec.ofNat 7 (bits k.ctl 6 0) - l.eseq).toNat = 0 := by omega
  rw [getLink_setLink, decide_eq_false hne, if_neg hne, if_pos hd, setLink_setLink, hkeep]
  exact trailer_idle b false hp hq hnak

theorem dataBlock_ahead (hp : p.toNat < 2) (hq : l.sendQ = []) (hnak : bit k.ctl 14 = true → (ackedBy (ackOf k) l).retry = [])
    (hrow : l.crcRow = 0) (hne : BitVec.ofNat 7 (bits k.ctl 6 0) ≠ l.eseq) (hd : (BitVec.ofNat 7 (bits k.ctl 6 0) - l.eseq).toNat < 64) :
    dataBlock c (setLink b p l) p k =
      stampSent (setLink b p (trailedBy k false { l with nak := true, nakOwed := !l.nak || l.nakOwed })) (p == 1) := by
  have hpos : (BitVec.ofNat 7 (bits k.ctl 6 0) - l.eseq).toNat ≠ 0 := by
    intro h0
    apply hne
    bv_omega
  have hkeep : ({ l.enterNak with crcRow := 0 } : Link) = { l with nak := true, nakOwed := !l.nak || l.nakOwed } := by rw [enterNak_eq, ← hrow]
  unfold dataBlock
  dsimp only
  have hnear : ¬ 64 ≤ (BitVec.ofNat 7 (bits k.ctl 6 0) - l.eseq).toNat := by omega
  rw [getLink_setLink, decide_eq_false hpos, if_neg hpos, if_neg hnear, setLink_setLink, hkeep]
  exact trailer_idle (l := { l with nak := true, nakOwed := !l.nak || l.nakOwed }) b false hp hq hnak

end

/-! The control blocks of the far end's direction (R395). -/

section
variable {b : Blk} {p : BitVec 2} {g : Link}

theorem linkDown_up (hup : g.state = stUp) :
    linkDown (setLink b p g) p = stampAll (emitLink (setLink b p (g.driveCtl p 6).down) p stDown) p := by
  have hlive : (decide (g.state = stUp) || decide (g.state = stPaused)) = true := by rw [hup]; decide
  unfold linkDown
  dsimp only
  rw [getLink_setLink, if_pos hlive, linkTo_setLink_moves fun e => absurd (hup.symm.trans e) up_ne.1]
  rfl

theorem trainBlock_up {k : Block} (hup : g.state = stUp) : trainBlock (setLink b p g) p k = emitLink (setLink b p g.retrain) p stRetrain := by
  unfold trainBlock
  dsimp only
  rw [getLink_setLink, if_pos hup, linkTo_setLink_moves fun e => absurd (hup.symm.trans e) up_ne.2]
  rfl

end

/-- Settles O42: a wrong CRC takes the discard, a correct block the branch of its kind. -/
theorem linkBlocks : Obligations.LinkBlocks := by
  intro s p k b l a seq send g acked trailed then_ bad hup hrun
  have hr : receiving b p = true := receiving_up hup hrun
  have hgup : (l.goodBlock k.isTrain).state = stUp := hup
  have hbad : badBlock b p = if 16 ≤ (l.crcRow + 1).toNat then linkTo b p bad.retrain else setLink b p bad := badBlock_up rfl hup
  refine ⟨fun hk h16 i hi => ?_, fun hk h15 => ?_, fun hk hp hq hnak => ⟨?_, ?_, ?_, ?_⟩, fun hk hty => ⟨?_, ?_, ?_, ?_⟩⟩
  · have hall (kind : Bool) (f : Blk → Blk) : receive b p k kind f = setLink b p bad :=
      (receive_bad hr hk kind f).trans (hbad.trans (if_neg (by omega)))
    simp only [List.mem_cons, List.not_mem_nil, or_false] at hi
    rcases hi with rfl | rfl | rfl | rfl | rfl | rfl | rfl <;>
      exact congrArg (fun b1 => Host.Outcome.next { s with blk := b1 }) (hall _ _)
  · refine congrArg (fun b1 => Host.Outcome.next { s with blk := b1 }) ((receive_bad hr hk _ _).trans (hbad.trans ((if_pos ?_).trans ?_)))
    · rw [h15]
      decide
    · exact linkTo_moves fun e => absurd (hup.symm.trans e) up_ne.2
  · intro hty hseq hv howed
    refine congrArg (fun b1 => Host.Outcome.next { s with blk := b1 }) ((receive_good hr hk ?_ fun b => dataBlock s.cfg b p k).trans
      (dataBlock_inOrder (l := l.goodBlock k.isTrain) hp hq hnak rfl hseq hv howed))
    exact kind_up hty hup
  · intro hty hne hd
    refine congrArg (fun b1 => Host.Outcome.next { s with blk := b1 }) ((receive_good hr hk ?_ fun b => dataBlock s.cfg b p k).trans
      (dataBlock_duplicate (l := l.goodBlock k.isTrain) hp hq hnak rfl hd))
    exact kind_up hty hup
  · intro hty hne hd
    refine congrArg (fun b1 => Host.Outcome.next { s with blk := b1 }) ((receive_good hr hk ?_ fun b => dataBlock s.cfg b p k).trans
      (dataBlock_ahead (l := l.goodBlock k.isTrain) hp hq hnak rfl hne hd))
    exact kind_up hty hup
  · intro hty
    refine congrArg (fun b1 => Host.Outcome.next { s with blk := b1 }) ((receive_good hr hk ?_ fun b => trailer b p k true).trans
      (trailer_idle (l := l.goodBlock k.isTrain) b true hp hq hnak))
    exact kind_up hty hup
  · intro hsub
    refine congrArg (fun b1 => Host.Outcome.next { s with blk := b1 }) ((receive_good hr hk ?_ fun b =>
      modLink b p fun l => { l with farPaused := true, crcRow := 0 }).trans (modLink_setLink ..))
    exact kindSub_up hty hsub hup
  · intro hsub
    refine congrArg (fun b1 => Host.Outcome.next { s with blk := b1 }) ((receive_good hr hk ?_ fun b =>
      modLink b p fun l => { l with farPaused := false, lreqO := false, lreqI := false, crcRow := 0 }).trans (modLink_setLink ..))
    exact kindSub_up hty hsub hup
  · intro hsub
    refine congrArg (fun b1 => Host.Outcome.next { s with blk := b1 }) ((receive_good hr hk ?_ fun b => linkDown b p).trans (linkDown_up hgup))
    exact kindSub_up hty hsub hup
  · intro hsub
    refine congrArg (fun b1 => Host.Outcome.next { s with blk := b1 }) ((receive_good hr hk ?_ fun b => trainBlock b p k).trans (trainBlock_up hgup))
    simp only [hty, hsub, beq_self_eq_true, Bool.and_self]

end Sys2Proof.Proofs
end

section
namespace Sys2Proof.Proofs
open Sys2Proof.Machine Sys2Proof.Laws

/-! Bring-up of a link, its timers and margins (R392, R393, R395, R397, R399). -/

/-- A count that stops at its top, read at the top or as it stands. -/
theorem saturated (x m y : BitVec w) : (if x = m then x else y) = if x = m then m else y := by
  split
  · assumption
  · rfl

theorem getLink_emitLink (b : Blk) (p q : BitVec 2) (st : BitVec 3) : getLink (emitLink b p st) q = getLink b q :=
  getLink_ports (emit_ports ..) q

theorem linkTo_stays {b : Blk} {p : BitVec 2} {l : Link} (h : (getLink b p).state = l.state) : linkTo b p l = setLink b p l := if_pos h

/-- A link that leaves one state for another. -/
theorem linkTo_from {b : Blk} {p : BitVec 2} {l : Link} {st st' : BitVec 3} (h : (getLink b p).state = st) (h' : l.state = st') (hne : st ≠ st') :
    linkTo b p l = emitLink (setLink b p l) p st' := by
  subst h h'
  exact linkTo_moves hne

theorem driveTrain_state (p : BitVec 2) (l : Link) : (l.driveTrain p).state = l.state := by
  unfold Link.driveTrain
  dsimp only
  split <;> rfl

theorem driveTrain_lreqI (p : BitVec 2) (l : Link) : (l.driveTrain p).lreqI = l.lreqI := by
  unfold Link.driveTrain
  dsimp only
  split <;> rfl

section
variable {b : Blk} {p : BitVec 2}

theorem reqToTrain_moves (hst : (getLink b p).state = stReq) (hl : (getLink b p).lreqI = true) :
    reqToTrain b p = emitLink (setLink b p { getLink b p with state := stTrain }) p stTrain := by
  have hdue : (decide ((getLink b p).state = stReq) && (getLink b p).lreqI) = true := by
    rw [hst, hl]
    decide
  exact (if_pos hdue).trans (linkTo_from hst rfl (by decide))

theorem reqToTrain_waits (hl : (getLink b p).lreqI = false) : reqToTrain b p = b := by
  refine if_neg ?_
  rw [hl, Bool.and_false]
  exact Bool.false_ne_true

theorem reqToTrain_other (hst : (getLink b p).state ≠ stReq) : reqToTrain b p = b := by
  refine if_neg ?_
  rw [decide_eq_false hst]
  exact Bool.false_ne_true

/-! LINK_REQUEST. -/

/-- A DOWN link that is needed asks for the far end, and trains at once where the far end asks too. -/
theorem linkRequest_due {c : Cfg} {l r : Link} (hl : getLink b p = l) (hdown : l.state = stDown) (hen : portEnabled c p = true)
    (hrun : portRuns b p = true) (hneed : linkNeeded b p = true) (hr : r = { l with state := stReq, lreqO := true }.driveTrain p) :
    linkRequest c b p = if l.lreqI then
        emitLink (setLink (emitLink (setLink b p r) p stReq) p { r with state := stTrain }) p stTrain
      else emitLink (setLink b p r) p stReq := by
  have hdue : ¬ (decide (l.state ≠ stDown) || !portEnabled c p || !portRuns b p || !linkNeeded b p) = true := by
    rw [hdown, hen, hrun, hneed]
    decide
  have hrst : r.state = stReq := by rw [hr, driveTrain_state]
  have hrl : r.lreqI = l.lreqI := by rw [hr, driveTrain_lreqI]
  have hnow : linkTo b p r = emitLink (setLink b p r) p stReq := linkTo_from (by rw [hl, hdown]) hrst (by decide)
  have hget : getLink (emitLink (setLink b p r) p stReq) p = r := (getLink_emitLink ..).trans (getLink_setLink ..)
  unfold linkRequest
  dsimp only
  rw [hl, if_neg hdue, ← hr, hnow]
  split
  · next hi => rw [reqToTrain_moves (by rw [hget, hrst]) (by rw [hget, hrl, hi]), hget]
  · next hi => rw [reqToTrain_waits (by rw [hget, hrl]; exact (Bool.not_eq_true _).mp hi)]

theorem linkRequest_notDue {c : Cfg} (h : (getLink b p).state ≠ stDown ∨ portEnabled c p = false ∨ linkNeeded b p = false) :
    linkRequest c b p = b := by
  refine if_pos ?_
  rcases h with h | h | h
  · rw [decide_eq_true h]
    rfl
  · rw [h, Bool.not_false, Bool.or_true, Bool.true_or, Bool.true_or]
  · rw [h, Bool.not_false, Bool.or_true]

/-! TRAIN and ADVERT blocks. -/

theorem receiving_training {st : BitVec 3} (hst : (getLink b p).state = st) (hlive : st ≠ stDown ∧ st ≠ stFailed ∧ st ≠ stPaused)
    (hrun : portRuns b p = true) : receiving b p = true := receiving_iff.mpr ⟨hrun, by rw [hst]; exact hlive⟩

section
variable {k : Block} {g : Link}

theorem isTrain_other (h : k.sub ≠ 1) : k.isTrain = false := by
  unfold Block.isTrain
  rw [beq_eq_false_iff_ne.mpr h, Bool.and_false]

/-- A correct TRAIN block keeps the row of TRAIN blocks. -/
theorem receive_train (hr : receiving b p = true) (hk : k.good p = true) (hty : k.btype = 2) (hsub : k.sub = 1) (f : Blk → Blk) :
    receive b p k (k.btype == 2 && k.sub == 1) f = f (setLink b p { getLink b p with crcRow := 0 }) := by
  have hkind : (k.btype == 2 && k.sub == 1) = true := by simp only [hty, hsub, beq_self_eq_true, Bool.and_self]
  rw [receive_good hr hk hkind, show k.isTrain = true from hkind]
  rfl

/-- A TRAIN block before lock lengthens the row. -/
theorem trainBlock_row (hst : g.state = stTrain) (hrow : g.trainRow.toNat < 63) (hpat : trainPattern p k = true) :
    trainBlock (setLink b p g) p k = setLink b p { g with trainRow := g.trainRow + 1, sawLock := g.sawLock || bit k.ctl 7 } := by
  have h64 : g.trainRow ≠ 64 := fun e => absurd (e ▸ hrow) (by decide)
  have hnext : ¬ (g.trainRow + 1 = 64) := by bv_omega
  have hphase : advertPhase p { g with trainRow := g.trainRow + 1, sawLock := g.sawLock || bit k.ctl 7 } =
      { g with trainRow := g.trainRow + 1, sawLock := g.sawLock || bit k.ctl 7 } := by
    refine if_neg ?_
    dsimp only
    rw [decide_eq_false hnext]
    simp only [Bool.false_and, Bool.false_eq_true, not_false_iff]
  unfold trainBlock
  dsimp only
  rw [getLink_setLink, if_neg (by rw [hst]; decide), if_neg h64, if_pos hpat, hphase, linkTo_setLink, if_pos rfl]

/-- Lock at both ends: the link advertises. -/
theorem trainBlock_locks (hst : g.state = stTrain) (hrow : g.trainRow = 63) (hpat : trainPattern p k = true) (hlock : bit k.ctl 7 = true)
    (hl : g.lreqI = true) (hadv : g.advSent = 0) : trainBlock (setLink b p g) p k = emitLink (setLink b p
      ({ g with trainRow := 64, sawLock := true, advSent := 4, state := stAdvert }.driveAdvert p)) p stAdvert := by
  have hphase : advertPhase p { g with trainRow := 64, sawLock := true } =
      { g with trainRow := 64, sawLock := true, advSent := 4, state := stAdvert }.driveAdvert p := by
    unfold advertPhase
    dsimp only
    rw [hst, hl, hadv]
    rfl
  unfold trainBlock
  dsimp only
  rw [getLink_setLink, if_neg (by rw [hst]; decide), if_neg (by rw [hrow]; decide), if_pos hpat, hlock, Bool.or_true, hrow,
    show (63 + 1 : BitVec 7) = 64 from rfl, hphase]
  refine linkTo_setLink_moves ?_
  rw [hst]
  exact (by decide : stTrain ≠ stAdvert)

/-- The link that enters UP afresh with the credits of an ADVERT block (R393). -/
def freshUp (k : Block) (l : Link) : Link :=
  { l with
    state := stUp, trainRow := 0, sawLock := false, advSent := 0, advGot := true, attempts := 0, lreqO := false, lreqI := false
    crcRow := 0, nak := false, nakOwed := false, txSeq := 0, retry := [], replayRow := 0, credit0 := bits k.data 47 32
    credit1 := bits k.data 63 48, credit2 := bits k.data 79 64, ccnt0 := 0, ccnt1 := 0, ccnt2 := 0, eseq := 0, freed0 := 0
    freed1 := 0, freed2 := 0, rep0 := 0, rep1 := 0, rep2 := 0, turn := 0, owed := [], half := none, chainHdr := none, chainRows := []
    farPaused := false }

theorem freshUp_goodBlock (k : Block) (l : Link) (train : Bool) : freshUp k (l.goodBlock train) = freshUp k l := rfl

/-- With nothing to send, sending only times the requests that have left. -/
theorem pumpPort_empty (hp : p.toNat < 2) (hq : (getLink b p).sendQ = []) : pumpPort b p = stampSent b (p == 1) := by
  have h := pumpPort_idle b hp hq
  rwa [setLink_getLink] at h

theorem linkUp_fresh (hst : g.state = stAdvert) (hre : g.retraining = false) (hp : p.toNat < 2) (hq : g.sendQ = []) :
    linkUp (setLink b p g) p k = stampSent (emitLink (setLink b p (freshUp k g)) p stUp) (p == 1) := by
  have hup : linkTo (setLink b p g) p (freshUp k g) = emitLink (setLink b p (freshUp k g)) p stUp :=
    linkTo_setLink_moves (by rw [hst]; exact (by decide : stAdvert ≠ stUp))
  have hfresh : (freshUp k g) = { freshUp k g with retraining := false } := by
    unfold freshUp
    rw [← hre]
  have hget : (getLink (emitLink (setLink b p (freshUp k g)) p stUp) p).sendQ = [] := by
    rw [getLink_emitLink, getLink_setLink]
    exact hq
  rw [← pumpPort_empty hp hget, ← hup]
  unfold linkUp
  dsimp only
  rw [getLink_setLink, hre, if_neg Bool.false_ne_true, if_pos hp]
  refine congrArg (pumpPort · p) ((if_neg Bool.false_ne_true).trans (congrArg (linkTo (setLink b p g) p) ?_))
  exact hfresh.symm

theorem advertBlock_up (hadv : g.advSent = 4) (hst : g.state = stAdvert) (hok : advertOk p k = true) :
    advertBlock (setLink b p g) p k = linkUp (setLink b p g) p k := by
  refine if_pos ?_
  rw [getLink_setLink, hadv, hst, hok]
  decide

end

/-! Timers. -/

section
variable {l : Link}

/-- An attempt that ends, but for what comes next (R393). -/
def attemptEnded (l : Link) : Link :=
  { l with attempts := l.attempts + 1, retrains := if l.retrains = 0xFF then 0xFF else l.retrains + 1, trainRow := 0, sawLock := false
           advSent := 0, advGot := false }

theorem attemptExpires_train (hl : getLink b p = l) (hrun : portRuns b p = true) (hst : l.state = stTrain) :
    attemptExpires b p = if l.attempts + 1 = 4 then
        stampAll (linkTo b p { attemptEnded l with state := stFailed, attempts := 0, lreqO := false }) p
      else reqToTrain (linkTo b p { attemptEnded l with state := if l.retraining then stRetrain else stReq, lreqO := true }) p := by
  have hdue : ¬ (!portRuns b p || !(decide (l.state = stReq) || decide (l.state = stTrain) || decide (l.state = stAdvert) ||
      decide (l.state = stRetrain))) = true := by
    rw [hrun, hst]
    decide
  unfold attemptExpires
  dsimp only
  rw [hl, if_neg hdue, saturated]
  rfl

theorem attemptExpires_again (hl : getLink b p = l) (hrun : portRuns b p = true) (hst : l.state = stTrain) (hn : l.attempts.toNat < 3)
    (hi : l.lreqI = false) (hre : l.retraining = false) :
    attemptExpires b p = emitLink (setLink b p { attemptEnded l with state := stReq, lreqO := true }) p stReq := by
  have hne : ¬ l.attempts + 1 = 4 := by bv_omega
  have hget : getLink (emitLink (setLink b p { attemptEnded l with state := stReq, lreqO := true }) p stReq) p =
      { attemptEnded l with state := stReq, lreqO := true } := (getLink_emitLink ..).trans (getLink_setLink ..)
  rw [attemptExpires_train hl hrun hst, if_neg hne, hre, if_neg Bool.false_ne_true, linkTo_from (by rw [hl, hst]) rfl (by decide : stTrain ≠ stReq)]
  refine reqToTrain_waits ?_
  rw [hget]
  exact hi

theorem attemptExpires_fails (hl : getLink b p = l) (hrun : portRuns b p = true) (hst : l.state = stTrain) (hn : l.attempts = 3) :
    attemptExpires b p = stampAll (emitLink (setLink b p { attemptEnded l with state := stFailed, attempts := 0, lreqO := false }) p stFailed) p := by
  rw [attemptExpires_train hl hrun hst, if_pos (by rw [hn]; decide), linkTo_from (by rw [hl, hst]) rfl (by decide : stTrain ≠ stFailed)]

theorem replayExpires_due (hl : getLink b p = l) (hrun : portRuns b p = true) (hst : l.state = stUp) (hne : l.retry ≠ [])
    (hrow : (l.replayRow + 1).toNat < 16) : replayExpires b p = setLink (countEvents b 0x0C 0 false 1) p
      ({ l with replayRow := l.replayRow + 1, replays := if l.replays = 0xFFFF then 0xFFFF else l.replays + 1 }.sendBlocks p l.retry) := by
  have hdue : (decide (l.state = stUp) && portRuns b p && !l.retry.isEmpty) = true := by
    rw [hst, hrun, List.isEmpty_eq_false_iff.mpr hne]
    decide
  unfold replayExpires
  dsimp only
  rw [hl, if_pos hdue]
  unfold replay
  dsimp only
  rw [hl, if_neg (Nat.not_le.mpr hrow), saturated]

theorem replayExpires_empty (h : (getLink b p).retry = []) : replayExpires b p = b := by
  refine if_neg ?_
  rw [h, List.isEmpty_nil, Bool.not_true, Bool.and_false]
  exact Bool.false_ne_true

end

/-! DESKEW blocks. -/

theorem deskewBlock_received {l : Link} (hl : getLink b p = l) (hr : receiving b p = true) :
    deskewBlock b p = setLink b p { l with crcRow := 0, trainRow := if l.trainRow = 64 then 64 else 0 } := by
  have hrow : (if (false || l.trainRow == 64) = true then l.trainRow else 0) = if l.trainRow = 64 then 64 else 0 := by
    simp only [Bool.false_or, beq_iff_eq]
    exact ite_congr rfl (fun h => h) fun _ => rfl
  unfold deskewBlock
  rw [if_pos hr, modLink, hl, Link.goodBlock, hrow]

theorem deskewInsert_up {l : Link} (hl : getLink b p = l) (hst : l.state = stUp) (hrun : portRuns b p = true) :
    deskewInsert b p = setLink b p (l.driveDeskew p) := by
  have hdue : (decide ((getLink b p).state = stUp) && portRuns b p) = true := by
    rw [hl, hst, hrun]
    decide
  unfold deskewInsert
  rw [if_pos hdue, modLink, hl]

theorem deskewInsert_notUp (h : (getLink b p).state ≠ stUp) : deskewInsert b p = b := by
  refine if_neg ?_
  rw [decide_eq_false h]
  exact Bool.false_ne_true

/-- Two halves side by side. -/
theorem lanes_pair {n m : Nat} (x y : BitVec n) (hm : m = n + n) :
    lane n (ofLanes m [x, y]) 0 = x ∧ lane n (ofLanes m [x, y]) 1 = y :=
  ⟨lane_ofLanes [x, y] (by omega), lane_ofLanes [x, y] (by omega)⟩

theorem driveDeskew_memory {l : Link} {x : Block} {rest : List Block} (htx : l.tx = x :: rest) (hp : p = 0) :
    l.driveDeskew p = { l with tx := [{ ctl := ~~~x.ctl, data := ~~~x.data, hdr := ~~~x.hdr, crc := ~~~x.crc }] } := by
  subst hp
  unfold Link.driveDeskew
  rw [htx]
  rfl

/-- On the Far Port the inserted block's second cycle complements its first (log 79). -/
theorem driveDeskew_far {l : Link} {x : Block} {rest : List Block} (htx : l.tx = x :: rest) (hp : p = 1) :
    ∃ y : Block, l.driveDeskew p = { l with tx := [y] } ∧ y.ctl = ~~~x.crc ∧ y.crc = x.crc ∧
      lane 512 y.data 0 = ~~~(lane 512 x.data 1) ∧ lane 512 y.data 1 = ~~~(lane 512 y.data 0 : BitVec 512) ∧
      lane 256 y.hdr 0 = ~~~(lane 256 x.hdr 1) ∧ lane 256 y.hdr 1 = ~~~(lane 256 y.hdr 0 : BitVec 256) := by
  subst hp
  obtain ⟨hd0, hd1⟩ := lanes_pair (m := 1024) (~~~(lane 512 x.data 1 : BitVec 512)) (lane 512 x.data 1) rfl
  obtain ⟨hh0, hh1⟩ := lanes_pair (m := 512) (~~~(lane 256 x.hdr 1 : BitVec 256)) (lane 256 x.hdr 1) rfl
  refine ⟨{ ctl := ~~~x.crc, data := ofLanes 1024 [~~~(lane 512 x.data 1 : BitVec 512), lane 512 x.data 1]
            hdr := ofLanes 512 [~~~(lane 256 x.hdr 1 : BitVec 256), lane 256 x.hdr 1], crc := x.crc }, ?_, rfl, rfl, hd0, ?_, hh0, ?_⟩
  · unfold Link.driveDeskew
    rw [htx]
    rfl
  · rw [hd0, hd1, BitVec.not_not]
  · rw [hh0, hh1, BitVec.not_not]

end

/-! LREQ_I (R395, R429). -/

section
variable {b : Blk} {p : BitVec 2} {l : Link}

/-- The block after a rise of LREQ_I at a port, before what its state does (R429). -/
def lreqSampled (b : Blk) (p : BitVec 2) (l : Link) : Blk := maltSource (setLink b p { l with lreqI := true }) 2

theorem getLink_lreqSampled : getLink (lreqSampled b p l) p = { l with lreqI := true } :=
  (getLink_ports (maltSource_ports ..) p).trans (getLink_setLink ..)

theorem portRuns_lreqSampled : portRuns (lreqSampled b p l) p = portRuns b p := by
  simp only [lreqSampled, portRuns, pdRuns, pdOn, maltSource_pwr, setLink_pwr]

theorem lreqRise_answers (hans : hostAnswers b) (hl : getLink b p = l) :
    lreqRise b p = if l.state = stDown || l.state = stPaused then wake (lreqSampled b p l)
      else if portRuns (lreqSampled b p l) p then
        linkTo (reqToTrain (lreqSampled b p l) p) p (advertPhase p (getLink (reqToTrain (lreqSampled b p l) p) p))
      else lreqSampled b p l := by
  have hoff : ¬ (!blockOn b || lcsHeld b) = true := by
    rw [hans.1, hans.2]
    decide
  unfold lreqRise
  dsimp only
  rw [if_neg hoff, hl]
  rfl

theorem lreqRise_wakes (hans : hostAnswers b) (hl : getLink b p = l) (hst : l.state = stDown ∨ l.state = stPaused) :
    lreqRise b p = wake (lreqSampled b p l) :=
  (lreqRise_answers hans hl).trans (if_pos (by simpa only [Bool.or_eq_true, decide_eq_true_eq] using hst))

theorem lreqRise_live (hans : hostAnswers b) (hl : getLink b p = l) (hdown : l.state ≠ stDown) (hpaused : l.state ≠ stPaused) :
    lreqRise b p = if portRuns (lreqSampled b p l) p then
        linkTo (reqToTrain (lreqSampled b p l) p) p (advertPhase p (getLink (reqToTrain (lreqSampled b p l) p) p))
      else lreqSampled b p l :=
  (lreqRise_answers hans hl).trans (if_neg (by rw [decide_eq_false hdown, decide_eq_false hpaused]; decide))

/-- A link that neither trains nor retrains does not advertise. -/
theorem advertPhase_settled {l : Link} (h1 : l.state ≠ stTrain) (h2 : l.state ≠ stRetrain) : advertPhase p l = l := by
  refine if_neg ?_
  rw [decide_eq_false h1, decide_eq_false h2, Bool.or_self, Bool.and_false]
  exact Bool.false_ne_true

theorem advertPhase_row {l : Link} (h : l.trainRow ≠ 64) : advertPhase p l = l := by
  refine if_neg ?_
  rw [decide_eq_false h]
  simp only [Bool.false_and, Bool.false_eq_true, not_false_iff]

theorem linkTo_same (b : Blk) (p : BitVec 2) : linkTo b p (getLink b p) = b := (linkTo_stays rfl).trans (setLink_getLink b p)

theorem lreqRise_settled (hans : hostAnswers b) (hl : getLink b p = l) (hst : l.state = stUp ∨ l.state = stFailed) :
    lreqRise b p = lreqSampled b p l := by
  have hne : l.state ≠ stDown ∧ l.state ≠ stPaused ∧ l.state ≠ stReq ∧ l.state ≠ stTrain ∧ l.state ≠ stRetrain := by
    rcases hst with h | h <;> rw [h] <;> decide
  obtain ⟨hdown, hpaused, hreq, htrain, hretrain⟩ := hne
  have hget := getLink_lreqSampled (b := b) (p := p) (l := l)
  rw [lreqRise_live hans hl hdown hpaused, reqToTrain_other (by rw [hget]; exact hreq),
    advertPhase_settled (by rw [hget]; exact htrain) (by rw [hget]; exact hretrain), linkTo_same]
  exact ite_self _

theorem lreqRise_trains (hans : hostAnswers b) (hl : getLink b p = l) (hst : l.state = stReq) (hrow : l.trainRow ≠ 64) (hrun : portRuns b p = true) :
    lreqRise b p = emitLink (setLink (lreqSampled b p l) p { l with lreqI := true, state := stTrain }) p stTrain := by
  have hget := getLink_lreqSampled (b := b) (p := p) (l := l)
  have hmove : reqToTrain (lreqSampled b p l) p = emitLink (setLink (lreqSampled b p l) p { l with lreqI := true, state := stTrain }) p stTrain := by
    rw [reqToTrain_moves (by rw [hget]; exact hst) (by rw [hget]), hget]
  have hrow' : (getLink (reqToTrain (lreqSampled b p l) p) p).trainRow ≠ 64 := by
    rw [hmove, getLink_emitLink, getLink_setLink]
    exact hrow
  rw [lreqRise_live hans hl (by rw [hst]; decide) (by rw [hst]; decide), portRuns_lreqSampled, if_pos hrun, advertPhase_row hrow', linkTo_same, hmove]

end

/-- Settles O43: each row by its branch, through the one move between states that it makes. -/
theorem linkBringUp : Obligations.LinkBringUp := by
  intro s p k c b l now
  have hgives {i : Instr} {b1 b2 : Blk} (he : exec i s = .next { s with blk := b1 }) (h : b1 = b2) : Gives s i b2 := h ▸ he
  refine ⟨fun hrun => ⟨?_, ?_, ?_, ?_, ?_, ?_, ?_, ?_, ?_, ?_, ?_, ?_⟩, ?_, ?_, ?_, fun hans => ⟨?_, ?_, ?_⟩, rfl⟩
  · intro hdown hen hneed r
    refine hgives rfl ((linkRequest_due (r := r) rfl hdown hen hrun hneed rfl).trans ?_)
    rw [show now r = emitLink (setLink b p r) p stReq from congrArg (emitLink _ p) (driveTrain_state p _)]
  · exact fun h => blkNext_stays (f := fun b => linkRequest c b p) (linkRequest_notDue h)
  · intro hst hk hty hsub hrow hpat
    exact hgives rfl ((receive_train (receiving_training hst (by decide) hrun) hk hty hsub fun b => trainBlock b p k).trans
      (trainBlock_row (g := { l with crcRow := 0 }) hst hrow hpat))
  · intro hst hk hty hsub hrow
    refine hgives rfl ((receive_other (receiving_training hst (by decide) hrun) hk ?_ _).trans ?_)
    · rw [show (getLink s.blk p).state = stTrain from hst, Bool.and_eq_false_iff]
      exact .inr rfl
    · rw [isTrain_other hsub, Link.goodBlock, beq_eq_false_iff_ne.mpr hrow]
      rfl
  · intro hst hk hty hsub hrow hpat hlock hi hadv
    exact hgives rfl ((receive_train (receiving_training hst (by decide) hrun) hk hty hsub fun b => trainBlock b p k).trans
      (trainBlock_locks (g := { l with crcRow := 0 }) hst hrow hpat hlock hi hadv))
  · intro hst hadv hre hk hty hsub hok hp hq
    have hkind : (k.btype == 2 && k.sub == 2) = true := by simp only [hty, hsub, beq_self_eq_true, Bool.and_self]
    have hup := (receive_good (receiving_training hst (by decide) hrun) hk hkind fun b => advertBlock b p k).trans
      ((advertBlock_up (g := l.goodBlock k.isTrain) hadv hst hok).trans (linkUp_fresh (g := l.goodBlock k.isTrain) hst hre hp hq))
    rw [freshUp_goodBlock] at hup
    exact hgives rfl hup
  · intro hst hn hi hre
    exact hgives rfl (attemptExpires_again rfl hrun hst hn hi hre)
  · intro hst hn
    exact hgives rfl (attemptExpires_fails rfl hrun hst hn)
  · intro hst hne hrow l'
    exact hgives rfl (replayExpires_due rfl hrun hst hne hrow)
  · exact fun h => blkNext_stays (f := fun b => replayExpires b p) (replayExpires_empty h)
  · intro h1 h2 h3
    exact hgives rfl (deskewBlock_received rfl (receiving_training rfl ⟨h1, h2, h3⟩ hrun))
  · intro hst x rest htx
    have hdrive : exec (.deskewInsert p) s = .next { s with blk := setLink b p (l.driveDeskew p) } :=
      blkNext_gives (f := fun b => deskewInsert b p) (deskewInsert_up rfl hst hrun)
    refine ⟨fun hp => hgives hdrive (congrArg (setLink b p) (driveDeskew_memory htx hp)), fun hp => ?_⟩
    obtain ⟨y, hy, hrest⟩ := driveDeskew_far htx hp
    exact ⟨y, hgives hdrive (congrArg (setLink b p) hy), hrest⟩
  · exact fun h => blkNext_stays (f := fun b => deskewInsert b p) (deskewInsert_notUp h)
  · intro n move m hpd
    exact hgives rfl (if_neg (by rw [hpd]; decide))
  · intro n move m hpd
    exact hgives rfl (if_neg (by rw [hpd]; decide))
  · intro hst
    refine hgives rfl ((lreqRise_wakes hans rfl hst).trans ((wake_eq _).trans ?_))
    rw [Bool.or_comm]
    rfl
  · intro hst
    exact hgives rfl (lreqRise_settled hans rfl hst)
  · intro hst hrow hr
    exact hgives rfl (lreqRise_trains hans rfl hst hrow hr)

end Sys2Proof.Proofs
end

section
namespace Sys2Proof.Proofs
open Sys2Proof.Machine Sys2Proof.Laws

/-! The links of a block that enters or leaves Couch or Steep (R393, R395). -/

/-! What sending keeps of a link. -/

theorem drive_state (p : BitVec 2) (l : Link) (xs : List (Option SentBlock)) : (l.drive p xs).state = l.state := by
  have hfold (r : List Block × Link) : (xs.foldl (fun (a : List Block × Link) x =>
      let q := match x with
        | some s => a.2.form p s.seq s.slots
        | none => a.2.form p a.2.txSeq Slots.empty
      (a.1 ++ [q.1], q.2)) r).2.state = r.2.state := by
    induction xs generalizing r with
    | nil => rfl
    | cons x xs ih =>
      rw [List.foldl_cons, ih]
      cases x <;> exact report_state p r.2
  exact hfold ([], l)

theorem sendBlocks_state (p : BitVec 2) (l : Link) (ss : List SentBlock) : (l.sendBlocks p ss).state = l.state :=
  foldl_keeps (P := fun l' : Link => l'.state = l.state) (fun l' xs h => (drive_state p l' xs).trans h) _ _ rfl

theorem spend_state (l : Link) (ch n : Nat) : (l.spend ch n).state = l.state := by
  unfold Link.spend
  (repeat' split) <;> rfl

theorem pumpGo_state (p : BitVec 2) : ∀ (n : Nat) (l : Link), (pumpGo p n l).state = l.state
  | 0, _ => rfl
  | n + 1, l => by
    unfold pumpGo
    split
    · split
      · rfl
      · dsimp only
        rw [pumpGo_state p n, sendBlocks_state]
        dsimp only
        split
        · exact (spend_state ..).trans (spend_state ..)
        · exact spend_state ..
    · rfl

theorem pumpLink_empty {p : BitVec 2} {l : Link} (h : l.sendQ = []) : pumpLink p l = l := by
  unfold pumpLink
  rw [h]
  rfl

theorem getLink_stampSent (b : Blk) (fp : Bool) (q : BitVec 2) : getLink (stampSent b fp) q = getLink b q := by
  cases fp <;> rcases port_cases q with h | h | h | h <;> subst h <;> rfl

theorem getLink_modLink_port (b : Blk) (p q : BitVec 2) (f : Link → Link) :
    getLink (modLink b p f) q = if q = p then f (getLink b q) else getLink b q := by
  unfold modLink
  split
  · next h => rw [h, getLink_setLink]
  · next h => exact getLink_setLink_other _ _ _ _ h

/-- The port of a direction of the Memory Port or the Far Port. -/
def portOf (fp : Bool) : BitVec 2 := if fp then 1 else 0

theorem getLink_pumpOne (b : Blk) (fp : Bool) (q : BitVec 2) :
    getLink (pumpOne b fp) q = if q = portOf fp then pumpLink (portOf fp) (getLink b q) else getLink b q :=
  (getLink_stampSent ..).trans (getLink_modLink_port ..)

theorem pumpOne_state (b : Blk) (fp : Bool) (q : BitVec 2) : (getLink (pumpOne b fp) q).state = (getLink b q).state := by
  rw [getLink_pumpOne, apply_ite Link.state, pumpLink, pumpGo_state, ite_self]

theorem pumpOne_empty {b : Blk} {q : BitVec 2} (fp : Bool) (h : (getLink b q).sendQ = []) : getLink (pumpOne b fp) q = getLink b q := by
  rw [getLink_pumpOne, pumpLink_empty h, ite_self]

theorem pump_state (b : Blk) (q : BitVec 2) : (getLink (pump b) q).state = (getLink b q).state :=
  (pumpOne_state _ true q).trans (pumpOne_state b false q)

theorem pump_empty {b : Blk} {q : BitVec 2} (h : (getLink b q).sendQ = []) : getLink (pump b) q = getLink b q := by
  have h1 := pumpOne_empty false h
  exact (pumpOne_empty true (by rw [h1]; exact h)).trans h1

theorem report_sendQ (p : BitVec 2) (l : Link) : (l.report p).2.sendQ = l.sendQ := by
  unfold Link.report
  dsimp only
  (repeat' split) <;> rfl

theorem driveCtl_sendQ (p : BitVec 2) (l : Link) (sub : Nat) : (l.driveCtl p sub).sendQ = l.sendQ := by
  unfold Link.driveCtl
  dsimp only
  split
  · rfl
  · exact report_sendQ p l

/-! The links as a whole. -/

theorem pauseLinks_links (b : Blk) : sameButLinks b (pauseLinks b) := by
  refine ports4_links (fun b p => ?_) b
  dsimp only
  split
  · exact linkTo_links ..
  · rfl

theorem getLink_pauseLinks (b : Blk) (q : BitVec 2) :
    getLink (pauseLinks b) q = if (getLink b q).state = stUp then ({ getLink b q with state := stPaused } : Link).driveCtl q 4 else getLink b q := by
  refine getLink_ports4 (g := fun p l => if l.state = stUp then ({ l with state := stPaused } : Link).driveCtl p 4 else l) (fun b p q => ?_) b q
  dsimp only
  split
  · exact getLink_linkTo ..
  · split
    · next h => rw [h]
    · rfl

/-- A PAUSED link as it resumes. -/
def resumed (p : BitVec 2) (l : Link) : Link := if l.state = stPaused then ({ l with state := stUp } : Link).driveCtl p 5 else l

theorem getLink_resumeLinks (b : Blk) (q : BitVec 2) :
    (getLink (resumeLinks b) q).state = (resumed q (getLink b q)).state ∧
      ((getLink b q).sendQ = [] → getLink (resumeLinks b) q = resumed q (getLink b q)) := by
  have hfold : getLink (ports4.foldl (fun b p => let l := getLink b p
      if l.state = stPaused then linkTo b p ({ l with state := stUp }.driveCtl p 5) else b) b) q = resumed q (getLink b q) := by
    refine getLink_ports4 (g := resumed) (fun b p q => ?_) b q
    dsimp only
    unfold resumed
    split
    · exact getLink_linkTo ..
    · split
      · next h => rw [h]
      · rfl
  refine ⟨(pump_state ..).trans (congrArg Link.state hfold), fun hq => (pump_empty ?_).trans hfold⟩
  rw [hfold]
  unfold resumed
  split
  · exact (driveCtl_sendQ ..).trans hq
  · exact hq

theorem linksLost_links (b : Blk) : sameButLinks b (linksLost b) := by
  refine ports4_links (fun b p => ?_) b
  split
  · rfl
  · exact linkDown_links ..

theorem getLink_linksLost (b : Blk) (q : BitVec 2) :
    getLink (linksLost b) q = if (getLink b q).state = stFailed then getLink b q else downFrom q (getLink b q) := by
  refine getLink_ports4 (g := fun p l => if l.state = stFailed then l else downFrom p l) (fun b p q => ?_) b q
  split
  · split
    · next h => rw [h]
    · rfl
  · exact getLink_linkDown ..

end Sys2Proof.Proofs
end

section
namespace Sys2Proof.Proofs
open Sys2Proof.Machine Sys2Proof.Laws

/-- A part of a block that its ports and observation unit do not bear on. -/
theorem sameButLinks_part {b b' : Blk} (h : sameButLinks b b') (f : Blk → α) (hf : ∀ p o, f { b with ports := p, obs := o } = f b) : f b' = f b := by
  unfold sameButLinks at h
  rw [h]
  exact hf _ _

theorem sameButObs_part {b b' : Blk} (h : sameButObs b b') (f : Blk → α) (hf : ∀ o, f { b with obs := o } = f b) : f b' = f b := by
  unfold sameButObs at h
  rw [h]
  exact hf _

/-! Couch, Steep and the wakes from them (R411–R417). -/

/-- What a block is but for its power, ports, Maltster and observation unit. -/
def sameButPower (b b' : Blk) : Prop := b' = { b with pwr := b'.pwr, ports := b'.ports, obs := b'.obs, malt := b'.malt }

theorem sameButPower_trans {a b c : Blk} (h1 : sameButPower a b) (h2 : sameButPower b c) : sameButPower a c := by
  unfold sameButPower at *
  rw [h2, h1]

theorem power_of_links {b b' : Blk} (h : sameButLinks b b') : sameButPower b b' := by
  unfold sameButLinks at h
  unfold sameButPower
  rw [h]

theorem power_of_malt (b : Blk) (i : Nat) : sameButPower b (maltSource b i) := by
  obtain ⟨st, src, h⟩ := maltSource_eq b i
  unfold sameButPower
  rw [h]

theorem setPds_power (b : Blk) (pd : W32) : sameButPower b (setPds b pd) := by
  obtain ⟨cd, h⟩ := setPds_frame b pd
  unfold sameButPower
  rw [h]

theorem setPds_pwr (b : Blk) (pd : W32) : (setPds b pd).pwr =
    { b.pwr with pd := pd ||| 3, cd := if b.pwr.state = .run then cdsRun b (pd ||| 3) else 7 ||| cd39 b } := by
  unfold setPds
  dsimp only
  (repeat' split) <;> rfl

theorem setPds_ports (b : Blk) (pd : W32) : (setPds b pd).ports = b.ports := by
  rw [setPds_power]
  unfold setPds
  dsimp only
  split <;> rfl

theorem powerChanged_pwr (b0 b : Blk) : (powerChanged b0 b).pwr = b.pwr := sameButObs_part (powerChanged_obs b0 b) Blk.pwr fun _ => rfl
theorem powerChanged_ports (b0 b : Blk) : (powerChanged b0 b).ports = b.ports := sameButObs_part (powerChanged_obs b0 b) Blk.ports fun _ => rfl

/-! Couch. -/

/-- A block with its power state entering Couch (R411). -/
def couchIn (x : Blk) (w : Power) : Blk := { x with pwr := { w with state := .couch, idleSince := w.sclk, hold := 0 } }

theorem couchIn_sys (x : Blk) (w : Power) : (couchIn x w).sys = x.sys := rfl
theorem couchIn_ports (x : Blk) (w : Power) : (couchIn x w).ports = x.ports := rfl
theorem couchIn_pwr (x : Blk) (w : Power) : (couchIn x w).pwr = { w with state := .couch, idleSince := w.sclk, hold := 0 } := rfl

/-- The block in Couch, before the domains' clocks stop. -/
def couchBlk (b : Blk) : Blk := couchIn (pauseLinks b) b.pwr

section
variable {b : Blk}

theorem pauseLinks_pwr (b : Blk) : (pauseLinks b).pwr = b.pwr := sameButLinks_part (pauseLinks_links b) Blk.pwr fun _ _ => rfl

theorem enterCouch_due (hrun : b.pwr.state = .run) (hphase : b.sys.phase = 9) (hidle : blockIdle b = true)
    (hnak : ∀ p, (getLink b p).state = stUp → (getLink b p).nak = false) :
    enterCouchAt b = powerChanged b (maltSource (setPds (couchBlk b) b.pwr.pd) 4) := by
  have hno : ports4.any (fun p => (getLink b p).state == stUp && (getLink b p).nak) = false := by
    rw [List.any_eq_false]
    intro p _ hp
    rw [Bool.and_eq_true, beq_iff_eq] at hp
    exact absurd ((hnak p hp.1).symm.trans hp.2) Bool.false_ne_true
  have hdue : ¬ (decide (b.pwr.state ≠ .run) || decide (b.sys.phase ≠ 9) || !blockIdle b ||
      ports4.any fun p => (getLink b p).state == stUp && (getLink b p).nak) = true := by
    rw [hrun, hphase, hidle, hno]
    decide
  unfold enterCouchAt
  rw [if_neg hdue]
  dsimp only
  rw [pauseLinks_pwr]
  rfl

theorem enterCouch_nak (h : ∃ p, (getLink b p).state = stUp ∧ (getLink b p).nak = true) : enterCouchAt b = b := by
  obtain ⟨p, hup, hnak⟩ := h
  have hany : ports4.any (fun p => (getLink b p).state == stUp && (getLink b p).nak) = true := by
    rw [List.any_eq_true]
    refine ⟨p, ?_, by rw [hup, hnak]; rfl⟩
    rcases port_cases p with h | h | h | h <;> subst h <;> decide
  refine if_pos ?_
  rw [hany, Bool.or_true]

theorem enterCouch_busy (h : blockIdle b = false) : enterCouchAt b = b := by
  refine if_pos ?_
  rw [h, Bool.not_false, Bool.or_true, Bool.true_or]

theorem couchBlk_power (b : Blk) : sameButPower b (couchBlk b) := by
  have hlinks := pauseLinks_links b
  unfold couchBlk couchIn
  generalize pauseLinks b = x at hlinks
  unfold sameButLinks at hlinks
  rw [hlinks]
  rfl

theorem cd39_couchBlk (b : Blk) : cd39 (couchBlk b) = cd39 b := by
  unfold cd39 couchBlk
  rw [couchIn_sys, couchIn_pwr, sameButLinks_part (pauseLinks_links b) Blk.sys fun _ _ => rfl]

/-- The block that has entered Couch. -/
theorem couch_entered (b : Blk) : ∃ b1, b1 = powerChanged b (maltSource (setPds (couchBlk b) b.pwr.pd) 4) ∧ sameButPower b b1 ∧
    b1.pwr = { b.pwr with state := .couch, idleSince := b.pwr.sclk, hold := 0, pd := b.pwr.pd ||| 3, cd := 7 ||| cd39 b } ∧
    b1.ports = (pauseLinks b).ports := by
  refine ⟨_, rfl, ?_, ?_, ?_⟩
  · exact sameButPower_trans (sameButPower_trans (couchBlk_power b) (setPds_power ..)) (sameButPower_trans (power_of_malt ..)
      (power_of_links (links_of_obs (powerChanged_obs ..))))
  · have hpwr : (couchBlk b).pwr = { b.pwr with state := .couch, idleSince := b.pwr.sclk, hold := 0 } := couchIn_pwr ..
    have hcouch : ¬ (couchBlk b).pwr.state = .run := by rw [hpwr]; nofun
    rw [powerChanged_pwr, maltSource_pwr, setPds_pwr, cd39_couchBlk, if_neg hcouch, hpwr]
  · rw [powerChanged_ports, maltSource_ports, setPds_ports]
    exact couchIn_ports ..

/-! The wake from Couch. -/

/-- The block in Run again, before its links resume. -/
def runBlk (b : Blk) : Blk := setPds { b with pwr := { b.pwr with state := .run, wakeHeld := false, hold := 0 } } b.pwr.pd

theorem wakeCouch_due (hst : b.pwr.state = .couch) (hcause : b.pwr.wakeHeld = true ∨ blockIdle b = false) :
    wakeCouchAt b = powerChanged b (maltSource (resumeLinks (runBlk b)) 4) := by
  have hdue : ¬ (decide (b.pwr.state ≠ .couch) || !(b.pwr.wakeHeld || !blockIdle b)) = true := by
    rw [hst]
    rcases hcause with h | h <;> rw [h]
    · simp
    · simp
  unfold wakeCouchAt
  rw [if_neg hdue]
  rfl

theorem couch_left (b : Blk) : ∃ b1, b1 = powerChanged b (maltSource (resumeLinks (runBlk b)) 4) ∧ sameButPower b b1 ∧
    b1.pwr = { b.pwr with
      state := .run, wakeHeld := false, hold := 0, pd := b.pwr.pd ||| 3, cd := (cdMask (b.pwr.pd ||| 3) &&& ~~~b.malt.cdOff) ||| 7 ||| cd39 b } ∧
    ∀ p, getLink b1 p = getLink (resumeLinks (runBlk b)) p := by
  have hrun : sameButPower b (runBlk b) := setPds_power { b with pwr := { b.pwr with state := .run, wakeHeld := false, hold := 0 } } b.pwr.pd
  refine ⟨_, rfl, ?_, ?_, fun p => getLink_ports ?_ p⟩
  · exact sameButPower_trans hrun (sameButPower_trans (power_of_links (resumeLinks_links _)) (sameButPower_trans (power_of_malt ..)
      (power_of_links (links_of_obs (powerChanged_obs ..)))))
  · rw [powerChanged_pwr, maltSource_pwr, sameButLinks_part (resumeLinks_links (runBlk b)) Blk.pwr fun _ _ => rfl]
    exact (setPds_pwr ..).trans rfl
  · rw [powerChanged_ports, maltSource_ports]

theorem getLink_runBlk (b : Blk) (p : BitVec 2) : getLink (runBlk b) p = getLink b p := getLink_ports ((setPds_ports ..).trans rfl) p

/-! The descent to Steep. -/

/-- Time and the Maltster's sources do not bear on what holds the block above Steep. -/
theorem holdBits_later (b : Blk) (t i : Nat) : holdBits (maltSource (elapse t b) i) = holdBits b := by
  obtain ⟨st, src, h⟩ := maltSource_eq (elapse t b) i
  rw [h, elapse_eq]
  rfl

/-- The PLL of a block in Steep. -/
def pllOff (p : Pll) : Pll := { p with on := false, lock := false, misses := 0, tries := 0 }

/-- A block with its core and power state entering Steep (R414). -/
def steepIn (x : Blk) (k : Core) (w : Power) : Blk := { x with
  core := { k with run := .steep }
  pwr := { w with state := .steep, hold := 0, deep := false, pllF := pllOff w.pllF, pllL := pllOff w.pllL } }

/-- The block in Steep, before its domains go. -/
def steepBlk (b : Blk) : Blk := steepIn (linksLost b) b.core b.pwr

section
variable {c : Cfg} {b0 : Blk}

theorem descend_due (hst : b.pwr.state = .couch) (hidle : c.idle ≠ 0xFFFFFFFF) (hwake : b.pwr.wakeHeld = false) (hb : blockIdle b = true)
    (h0 : b0 = maltSource (elapse (b.pwr.idleSince + c.idle.toNat) b) 5) :
    descend c b = if holdBits b0 ≠ 0 then { b0 with pwr := { b0.pwr with hold := holdBits b0 } }
      else
        let b1 := (linksLost b0).caches.l1d.foldl (fun b l => if l.valid && l.dirty then mergeL1d b l.tag l.world else b) (linksLost b0)
        if b1.err.fatal then b1
        else powerChanged b0 (maltSource (offEpochs (setPds { b1 with
          core := { b1.core with run := .steep }
          pwr := { b1.pwr with state := .steep, hold := 0, deep := false, pllF := pllOff b1.pwr.pllF, pllL := pllOff b1.pwr.pllL } } 3)) 4) := by
  have hdue : ¬ (decide (b.pwr.state ≠ .couch) || decide (c.idle = 0xFFFFFFFF) || b.pwr.wakeHeld || !blockIdle b) = true := by
    rw [hst, decide_eq_false hidle, hwake, hb]
    decide
  unfold descend
  rw [if_neg hdue, ← h0]
  rfl

theorem descend_busy (h : blockIdle b = false) : descend c b = b := by
  refine if_pos ?_
  rw [h, Bool.not_false, Bool.or_true]

/-- A block that nothing holds is not in fatal state. -/
theorem fatal_of_holdBits (h : holdBits b = 0) : b.err.fatal = false := by
  by_contra hf
  rw [Bool.not_eq_false] at hf
  have hbit : (holdBits b).getLsbD 5 = true := by
    unfold holdBits
    dsimp only
    rw [hf]
    simp only [List.foldr_cons, List.foldr_nil, BitVec.getLsbD_ofNat]
    generalize (!(b.core.run == .sleeping && b.pwr.deep)) = x0
    generalize (b.tile.inuse != 0) = x1
    generalize ((List.range 16).any fun g => gOpen (b.tun.grp g)) = x2
    generalize ((b.chain.cgt.any fun x => x.2.valid && x.2.fwd) || _) = x3
    generalize (b.core.run == .lockedUp) = x4
    generalize (ports4.any fun p => !(getLink b p).retry.isEmpty || !(getLink b p).sendQ.isEmpty) = x6
    revert x0 x1 x2 x3 x4 x6
    decide
  rw [h] at hbit
  exact absurd hbit (by decide)

theorem descend_steep (hst : b.pwr.state = .couch) (hidle : c.idle ≠ 0xFFFFFFFF) (hwake : b.pwr.wakeHeld = false) (hb : blockIdle b = true)
    (h0 : b0 = maltSource (elapse (b.pwr.idleSince + c.idle.toNat) b) 5) (hhold : holdBits b0 = 0) (hl1 : b0.caches.l1d = []) :
    descend c b = powerChanged b0 (maltSource (offEpochs (setPds (steepBlk b0) 3)) 4) := by
  have hlinks := linksLost_links b0
  have hcaches : (linksLost b0).caches.l1d = [] := (sameButLinks_part hlinks (·.caches.l1d) fun _ _ => rfl).trans hl1
  have hfatal : (linksLost b0).err.fatal = false := (sameButLinks_part hlinks (·.err.fatal) fun _ _ => rfl).trans (fatal_of_holdBits hhold)
  have hcore : (linksLost b0).core = b0.core := sameButLinks_part hlinks Blk.core fun _ _ => rfl
  have hpwr : (linksLost b0).pwr = b0.pwr := sameButLinks_part hlinks Blk.pwr fun _ _ => rfl
  rw [descend_due hst hidle hwake hb h0, if_neg (not_not_intro hhold)]
  dsimp only
  rw [hcaches, List.foldl_nil, hfatal, if_neg Bool.false_ne_true, hcore, hpwr]
  rfl

end

end

/-! What is left of a block whose domains go, and of one that wakes. -/

/-- A part of a block that its power, ports, observation unit, Maltster and rings do not bear on. -/
def Apart5 (f : Blk → α) : Prop := ∀ b w p o m r, f { b with pwr := w, ports := p, obs := o, malt := m, rings := r } = f b

theorem offEpochs_rings (b : Blk) : offEpochs b = { b with rings := (offEpochs b).rings } := by
  unfold offEpochs
  split <;> rfl

theorem part_power {f : Blk → α} (hf : Apart5 f) {b b' : Blk} (h : sameButPower b b') : f b' = f b := by
  unfold sameButPower at h
  rw [h]
  exact hf b b'.pwr b'.ports b'.obs b'.malt b.rings

theorem part_offEpochs {f : Blk → α} (hf : Apart5 f) (b : Blk) : f (offEpochs b) = f b := by
  rw [offEpochs_rings]
  exact hf b b.pwr b.ports b.obs b.malt (offEpochs b).rings

theorem part_changed {f : Blk → α} (hf : Apart5 f) (b0 b : Blk) (i : Nat) : f (powerChanged b0 (maltSource b i)) = f b :=
  (part_power hf (power_of_links (links_of_obs (powerChanged_obs ..)))).trans (part_power hf (power_of_malt ..))

/-- The descent's last steps leave all but the power, the rings and what is observed. -/
theorem part_descended {f : Blk → α} (hf : Apart5 f) (b0 x : Blk) : f (powerChanged b0 (maltSource (offEpochs (setPds x 3)) 4)) = f x :=
  (part_changed hf ..).trans ((part_offEpochs hf _).trans (part_power hf (setPds_power ..)))

theorem pwr_descended (b0 : Blk) {x : Blk} (h : x.pwr.state ≠ .run) :
    (powerChanged b0 (maltSource (offEpochs (setPds x 3)) 4)).pwr = { x.pwr with pd := 3, cd := 7 ||| cd39 x } := by
  rw [powerChanged_pwr, maltSource_pwr, offEpochs_rings]
  refine (setPds_pwr ..).trans ?_
  rw [if_neg h]
  rfl

theorem ports_descended (b0 x : Blk) : (powerChanged b0 (maltSource (offEpochs (setPds x 3)) 4)).ports = x.ports := by
  rw [powerChanged_ports, maltSource_ports, offEpochs_rings]
  exact setPds_ports ..

/-! The wake from Steep. -/

/-- What a wake from Steep makes of a PLL's check (R404, R415). -/
def wakeCheck (p : Pll) (ok : Bool) : Pll := if p.fail then p.retry ok else if p.lock then p else p.judge ok

theorem wakeCheck_stable {p : Pll} (h : p.fail = false) : (wakeCheck p true).lock = true := by
  unfold wakeCheck
  rw [h, if_neg Bool.false_ne_true]
  split
  · assumption
  · rfl

/-- A block that is waking, with its PLLs on. -/
def wakingBlk (b : Blk) : Blk :=
  { b with pwr := { b.pwr with state := .waking, pllF := { b.pwr.pllF with on := true }, pllL := { b.pwr.pllL with on := true } } }

/-- A block whose PLLs have been judged, in Run. -/
def wokenBlk (b : Blk) (cf cl : BitVec 16) : Blk :=
  let x := bothPlls (wakingBlk b) cf cl wakeCheck
  { x with pwr := { x.pwr with state := .run, wakeHeld := false } }

section
variable {c : Cfg} {b : Blk} {cf cl : BitVec 16}

/-- A PLL that needs no further check before the wake goes on. -/
def pllJudged (p : Pll) : Bool := p.lock || p.fail

theorem wakeSteepAt_eq : wakeSteepAt c b cf cl =
    if !(b.pwr.state = .waking || (b.pwr.state = .steep && (b.pwr.wakeHeld || anyPendingEnabled b))) then b
    else if !b.pwr.pgL then powerChanged b { b with pwr := { b.pwr with state := .waking } }
    else if !(pllJudged (bothPlls (wakingBlk b) cf cl wakeCheck).pwr.pllF && pllJudged (bothPlls (wakingBlk b) cf cl wakeCheck).pwr.pllL) then
      powerChanged b (bothPlls (wakingBlk b) cf cl wakeCheck)
    else powerChanged b (maltSource (releaseAt (setPds (steepLoss (wokenBlk b cf cl)) (wakePds c)) (wokenBlk b cf cl).pwr.wakepc) 4) := rfl

theorem wake_due (hst : b.pwr.state = .steep) (hwake : b.pwr.wakeHeld = true) :
    ¬ (!(decide (b.pwr.state = .waking) || (decide (b.pwr.state = .steep) && (b.pwr.wakeHeld || anyPendingEnabled b)))) = true := by
  rw [hst, hwake]
  simp

theorem wakeSteep_waits (hst : b.pwr.state = .steep) (hwake : b.pwr.wakeHeld = true) (hpg : b.pwr.pgL = false) :
    wakeSteepAt c b cf cl = powerChanged b { b with pwr := { b.pwr with state := .waking } } := by
  rw [wakeSteepAt_eq, if_neg (wake_due hst hwake), if_pos (by rw [hpg]; rfl)]

theorem bothPlls_locked (hf : b.pwr.pllF.fail = false) (hl : b.pwr.pllL.fail = false) (hsf : pllStable b.pwr.k.toNat cf.toNat = true)
    (hsl : pllStable 64 cl.toNat = true) : ∃ m w, wokenBlk b cf cl = { b with pwr := w, malt := m } ∧ w.state = .run ∧ w.wakeHeld = false ∧
      w.wakepc = b.pwr.wakepc ∧ w.pllF.lock = true ∧ w.pllL.lock = true ∧
      (bothPlls (wakingBlk b) cf cl wakeCheck).pwr = { w with state := .waking, wakeHeld := b.pwr.wakeHeld } := by
  have hF : (wakeCheck { b.pwr.pllF with on := true } (pllStable b.pwr.k.toNat cf.toNat)).lock = true := by
    rw [hsf]
    exact wakeCheck_stable hf
  have hL : (wakeCheck { b.pwr.pllL with on := true } (pllStable 64 cl.toNat)).lock = true := by
    rw [hsl]
    exact wakeCheck_stable hl
  have hboth : bothPlls (wakingBlk b) cf cl wakeCheck = maltSource (setPlls (wakingBlk b)
    (wakeCheck { b.pwr.pllF with on := true } (pllStable b.pwr.k.toNat cf.toNat))
    (wakeCheck { b.pwr.pllL with on := true } (pllStable 64 cl.toNat))) 8 := rfl
  generalize wakeCheck { b.pwr.pllF with on := true } (pllStable b.pwr.k.toNat cf.toNat) = F at hF hboth
  generalize wakeCheck { b.pwr.pllL with on := true } (pllStable 64 cl.toNat) = L at hL hboth
  obtain ⟨st, src, hm⟩ := maltSource_eq (setPlls (wakingBlk b) F L) 8
  unfold wokenBlk
  rw [hboth, hm]
  exact ⟨_, _, rfl, rfl, rfl, rfl, hF, hL, rfl⟩

theorem wakeSteep_wakes (hst : b.pwr.state = .steep) (hwake : b.pwr.wakeHeld = true) (hpg : b.pwr.pgL = true)
    (hF : (bothPlls (wakingBlk b) cf cl wakeCheck).pwr.pllF.lock = true) (hL : (bothPlls (wakingBlk b) cf cl wakeCheck).pwr.pllL.lock = true) :
    wakeSteepAt c b cf cl =
      powerChanged b (maltSource (releaseAt (setPds (steepLoss (wokenBlk b cf cl)) (wakePds c)) (wokenBlk b cf cl).pwr.wakepc) 4) := by
  have hjudged : ¬ (!(pllJudged (bothPlls (wakingBlk b) cf cl wakeCheck).pwr.pllF &&
      pllJudged (bothPlls (wakingBlk b) cf cl wakeCheck).pwr.pllL)) = true := by
    unfold pllJudged
    rw [hF, hL]
    exact Bool.false_ne_true
  rw [wakeSteepAt_eq, if_neg (wake_due hst hwake), if_neg (by rw [hpg]; exact Bool.false_ne_true), if_neg hjudged]

end

end Sys2Proof.Proofs
end

section
namespace Sys2Proof.Proofs
open Sys2Proof.Machine Sys2Proof.Laws

/-! The block after a descent to Steep and after the wake from it (R414–R416). -/

/-- An event of a powered block does what `f` makes of the block. -/
theorem onNext_gives {s : State} {f : Blk → Blk} {b1 : Blk} (hon : blockOn s.blk = true) (h : f s.blk = b1) :
    onNext s f = .next { s with blk := b1 } :=
  blkNext_gives (f := fun b => if blockOn b then f b else b) ((if_pos hon).trans h)

theorem onNext_stays {s : State} {f : Blk → Blk} (h : f s.blk = s.blk) : onNext s f = .next s := by
  refine blkNext_stays (f := fun b => if blockOn b then f b else b) ?_
  rw [h, ite_self]

theorem steepIn_ports (x : Blk) (k : Core) (w : Power) : (steepIn x k w).ports = x.ports := rfl
theorem steepIn_pwr (x : Blk) (k : Core) (w : Power) : (steepIn x k w).pwr =
    { w with state := .steep, hold := 0, deep := false, pllF := pllOff w.pllF, pllL := pllOff w.pllL } := rfl
theorem steepIn_core (x : Blk) (k : Core) (w : Power) : (steepIn x k w).core = { k with run := .steep } := rfl

/-- What the descent keeps but for the core's state. -/
theorem part_steepBlk {f : Blk → α} (hf : Apart5 f) (hcore : ∀ b k, f { b with core := k } = f b) (b : Blk) : f (steepBlk b) = f b := by
  have hlost : f (linksLost b) = f b := part_power hf (power_of_links (linksLost_links b))
  have hin (x : Blk) : f (steepIn x b.core b.pwr) = f x :=
    (hcore { x with pwr := (steepIn x b.core b.pwr).pwr } _).trans (hf x (steepIn x b.core b.pwr).pwr x.ports x.obs x.malt x.rings)
  exact (hin _).trans hlost

/-- The block in Steep: its PLLs and domains are off, its core sleeps, its stores are kept and its links are down but for a FAILED one. -/
theorem steep_entered (b0 : Blk) : ∃ b1, b1 = powerChanged b0 (maltSource (offEpochs (setPds (steepBlk b0) 3)) 4) ∧
    b1.pwr.state = .steep ∧ b1.pwr.sclk = b0.pwr.sclk ∧ b1.pwr.pd = 3 ∧ b1.pwr.pllF.on = false ∧ b1.pwr.pllL.on = false ∧
    b1.core = { b0.core with run := .steep } ∧ b1.lts = b0.lts ∧ b1.tun = b0.tun ∧ b1.caches = b0.caches ∧ b1.sync = b0.sync ∧
    ∀ p, getLink b1 p = if (getLink b0 p).state = stFailed then getLink b0 p else downFrom p (getLink b0 p) := by
  have hpwr : (steepBlk b0).pwr = { b0.pwr with state := .steep, hold := 0, deep := false, pllF := pllOff b0.pwr.pllF, pllL := pllOff b0.pwr.pllL } :=
    steepIn_pwr ..
  have hlive : (steepBlk b0).pwr.state ≠ .run := by rw [hpwr]; nofun
  have hdown := pwr_descended b0 hlive
  rw [hpwr] at hdown
  refine ⟨_, rfl, ?_, ?_, ?_, ?_, ?_, ?_, ?_, ?_, ?_, ?_, fun p => ?_⟩
  · rw [hdown]
  · rw [hdown]
  · rw [hdown]
  · rw [hdown]; rfl
  · rw [hdown]; rfl
  · exact (part_descended (f := Blk.core) (fun _ _ _ _ _ _ => rfl) b0 (steepBlk b0)).trans (steepIn_core ..)
  · exact (part_descended (f := Blk.lts) (fun _ _ _ _ _ _ => rfl) b0 (steepBlk b0)).trans (part_steepBlk (fun _ _ _ _ _ _ => rfl) (fun _ _ => rfl) b0)
  · exact (part_descended (f := Blk.tun) (fun _ _ _ _ _ _ => rfl) b0 (steepBlk b0)).trans (part_steepBlk (fun _ _ _ _ _ _ => rfl) (fun _ _ => rfl) b0)
  · exact (part_descended (f := Blk.caches) (fun _ _ _ _ _ _ => rfl) b0 (steepBlk b0)).trans (part_steepBlk (fun _ _ _ _ _ _ => rfl) (fun _ _ => rfl) b0)
  · exact (part_descended (f := Blk.sync) (fun _ _ _ _ _ _ => rfl) b0 (steepBlk b0)).trans (part_steepBlk (fun _ _ _ _ _ _ => rfl) (fun _ _ => rfl) b0)
  · have hports : (steepBlk b0).ports = (linksLost b0).ports := steepIn_ports ..
    rw [getLink_ports ((ports_descended b0 _).trans hports), getLink_linksLost]

theorem releaseAt_core (b : Blk) (pc : Word) : (releaseAt b pc).core = { b.core with run := .running, pc := pc } := rfl
theorem releaseAt_pwr (b : Blk) (pc : Word) : (releaseAt b pc).pwr = b.pwr := rfl

/-- A wake from Steep with both PLLs locked: what of the waking block `x` is kept (R416). -/
theorem steep_left (b x : Blk) (pd : W32) : ∃ b1, b1 = powerChanged b (maltSource (releaseAt (setPds (steepLoss x) pd) x.pwr.wakepc) 4) ∧
    (∃ cd, b1.pwr = { x.pwr with pd := pd ||| 3, cd := cd }) ∧ b1.core = { Core.reset with run := .running, pc := x.pwr.wakepc } ∧
    b1.lts = x.lts ∧ b1.caches = { Caches.reset with l2 := x.caches.l2, side := x.caches.side, evict := x.caches.evict } ∧
    b1.dma.lastServed = Dma.reset.lastServed ∧ b1.sparge.last = Sparge.reset.last ∧ b1.tun.rows = x.tun.rows ∧ b1.sync.objs = x.sync.objs ∧
    b1.tile = TileFile.reset ∧ b1.vec = Vec.reset := by
  have hpart {α : Type} {f : Blk → α} (hf : Apart5 f) (hcore : ∀ b k, f { b with core := k } = f b) :
      f (powerChanged b (maltSource (releaseAt (setPds (steepLoss x) pd) x.pwr.wakepc) 4)) = f (steepLoss x) :=
    (part_changed hf ..).trans ((hcore _ _).trans (part_power hf (setPds_power ..)))
  refine ⟨_, rfl, ⟨if x.pwr.state = .run then cdsRun (steepLoss x) (pd ||| 3) else 7 ||| cd39 (steepLoss x), ?_⟩, ?_, ?_, ?_, ?_, ?_, ?_, ?_, ?_, ?_⟩
  · rw [powerChanged_pwr, maltSource_pwr, releaseAt_pwr]
    exact setPds_pwr ..
  · refine (part_changed (f := Blk.core) (fun _ _ _ _ _ _ => rfl) ..).trans ?_
    rw [releaseAt_core, part_power (f := Blk.core) (fun _ _ _ _ _ _ => rfl) (setPds_power ..)]
    rfl
  · exact (hpart (f := Blk.lts) (fun _ _ _ _ _ _ => rfl) fun _ _ => rfl).trans rfl
  · exact (hpart (f := Blk.caches) (fun _ _ _ _ _ _ => rfl) fun _ _ => rfl).trans rfl
  · exact (hpart (f := fun b => b.dma.lastServed) (fun _ _ _ _ _ _ => rfl) fun _ _ => rfl).trans rfl
  · exact (hpart (f := fun b => b.sparge.last) (fun _ _ _ _ _ _ => rfl) fun _ _ => rfl).trans rfl
  · exact (hpart (f := fun b => b.tun.rows) (fun _ _ _ _ _ _ => rfl) fun _ _ => rfl).trans rfl
  · exact (hpart (f := fun b => b.sync.objs) (fun _ _ _ _ _ _ => rfl) fun _ _ => rfl).trans rfl
  · exact (hpart (f := Blk.tile) (fun _ _ _ _ _ _ => rfl) fun _ _ => rfl).trans rfl
  · exact (hpart (f := Blk.vec) (fun _ _ _ _ _ _ => rfl) fun _ _ => rfl).trans rfl

theorem sclk_later (b : Blk) (t i : Nat) : (maltSource (elapse t b) i).pwr.sclk = Nat.max b.pwr.sclk t := by
  rw [maltSource_pwr, elapse_eq]

/-- A part of a block that time and the Maltster's sources do not bear on. -/
theorem part_later {f : Blk → α} (hf : Apart5 f) (b : Blk) (t i : Nat) : f (maltSource (elapse t b) i) = f b := by
  refine (part_power hf (power_of_malt ..)).trans (part_power hf ?_)
  unfold sameButPower
  rw [elapse_eq]

theorem getLink_later (b : Blk) (t i : Nat) (p : BitVec 2) : getLink (maltSource (elapse t b) i) p = getLink b p := by
  refine getLink_ports ?_ p
  rw [maltSource_ports, elapse_eq]

theorem downFrom_state (p : BitVec 2) (l : Link) : (downFrom p l).state = stDown := rfl

/-- Settles O47: each move between the power states by the block it leaves, links and domains by their own laws. -/
theorem powerStates : Obligations.PowerStates := by
  intro s cf cl c b hon
  refine ⟨fun hrun hphase hidle hnak => ?_, fun _ hnak => onNext_stays (enterCouch_nak hnak),
    fun hbusy => ⟨onNext_stays (enterCouch_busy hbusy), onNext_stays (f := descend c) (descend_busy hbusy)⟩, fun hst hcause => ?_,
    fun hst hidle hwake hb => ?_, fun hst hwake hpg => ?_, fun hst hwake hpg hF hL hsf hsl => ?_⟩
  · obtain ⟨b1, hb1, hsame, hpwr, hports⟩ := couch_entered b
    refine ⟨b1, onNext_gives hon ((enterCouch_due hrun hphase hidle hnak).trans hb1.symm), hsame, ?_, ?_, ?_, ?_, fun p => ?_⟩
    · rw [hpwr]
    · rw [hpwr]
    · rw [hpwr]
    · rw [hpwr]
    · rw [getLink_ports hports, getLink_pauseLinks]
  · obtain ⟨b1, hb1, hsame, hpwr, hlinks⟩ := couch_left b
    refine ⟨b1, onNext_gives hon ((wakeCouch_due hst hcause).trans hb1.symm), hsame, ?_, ?_, ?_, fun p => ⟨?_, fun hp hq => ?_⟩⟩
    · rw [hpwr]
    · rw [hpwr]
    · rw [hpwr]
    · rw [hlinks, (getLink_resumeLinks _ p).1, getLink_runBlk, resumed, apply_ite Link.state, driveCtl_state]
    · rw [hlinks, (getLink_resumeLinks _ p).2 (by rw [getLink_runBlk]; exact hq), getLink_runBlk, resumed, if_pos hp]
  · intro sclk b0
    refine ⟨fun hhold => onNext_gives (f := descend c) hon ?_, fun hhold hl1 => ?_⟩
    · have hh : holdBits b0 = holdBits b := holdBits_later b _ 5
      rw [descend_due hst hidle hwake hb rfl, if_pos (by rw [show holdBits (maltSource _ 5) = holdBits b from hh]; exact hhold)]
      rw [show holdBits (maltSource _ 5) = holdBits b from hh]
    · have hh : holdBits b0 = 0 := (holdBits_later b _ 5).trans hhold
      have hl1' : b0.caches.l1d = [] := (part_later (f := fun b => b.caches.l1d) (fun _ _ _ _ _ _ => rfl) b _ 5).trans hl1
      obtain ⟨b1, hb1, hstate, hsclk, hpd, hpf, hpl, hcore, hlts, htun, hcaches, hsync, hlinks⟩ := steep_entered b0
      refine ⟨b1, onNext_gives (f := descend c) hon ((descend_steep hst hidle hwake hb rfl hh hl1').trans hb1.symm), hstate, hsclk.trans (sclk_later ..), hpd,
        hpf, hpl, ?_, ?_, ?_, ?_, ?_, fun p => ?_⟩
      · exact hcore.trans (congrArg (fun k : Core => { k with run := .steep }) (part_later (f := Blk.core) (fun _ _ _ _ _ _ => rfl) b _ 5))
      · exact hlts.trans (part_later (f := Blk.lts) (fun _ _ _ _ _ _ => rfl) b _ 5)
      · exact htun.trans (part_later (f := Blk.tun) (fun _ _ _ _ _ _ => rfl) b _ 5)
      · exact hcaches.trans (part_later (f := Blk.caches) (fun _ _ _ _ _ _ => rfl) b _ 5)
      · exact hsync.trans (part_later (f := Blk.sync) (fun _ _ _ _ _ _ => rfl) b _ 5)
      · have hl := hlinks p
        rw [show getLink b0 p = getLink b p from getLink_later b _ 5 p] at hl
        split
        · next hfailed => rw [hl, if_pos hfailed]
        · next hlive => rw [hl, if_neg hlive, downFrom_state]
  · refine ⟨_, onNext_gives (f := fun b => wakeSteepAt c b cf cl) hon (wakeSteep_waits hst hwake hpg), ?_⟩
    exact powerChanged_obs b { b with pwr := { b.pwr with state := .waking } }
  · obtain ⟨m, w, hx, hwst, hwh, hwpc, hlF, hlL, hboth⟩ := bothPlls_locked (b := b) hF hL hsf hsl
    have hrun := wakeSteep_wakes (c := c) (cf := cf) (cl := cl) hst hwake hpg (by rw [hboth]; exact hlF) (by rw [hboth]; exact hlL)
    obtain ⟨b1, hb1, ⟨cd, hpwr⟩, hcore, hlts, hcaches, hdma, hsparge, htun, hsync, htile, hvec⟩ := steep_left b (wokenBlk b cf cl) (wakePds c)
    rw [hx] at hpwr hcore hlts hcaches htun hsync
    refine ⟨b1, onNext_gives (f := fun b => wakeSteepAt c b cf cl) hon (hrun.trans hb1.symm), ?_, ?_, ?_, ?_, ?_, ?_, hlts, ?_, ?_, ?_, ?_, ?_, hdma, hsparge,
      htun, hsync, htile, hvec⟩
    · rw [hpwr]; exact hwst
    · rw [hpwr]; exact hwh
    · rw [hcore]; exact congrArg (fun pc => { Core.reset with run := .running, pc := pc }) hwpc
    · rw [hpwr]; exact hlF
    · rw [hpwr]; exact hlL
    · rw [hpwr]
    · rw [hcaches]
    · rw [hcaches]
    · rw [hcaches]
    · rw [hcaches]; rfl
    · rw [hcaches]; rfl

end Sys2Proof.Proofs
end

section
namespace Sys2Proof.Proofs
open Sys2Proof.Machine Sys2Proof.Laws

/-! The governor's period (R419–R423). -/

section
variable {c : Cfg} {b : Blk} {mw vsup : BitVec 12} {temp slack : Byte} {cf cl : BitVec 16}

/-- The block with what the sensors report (R425). -/
def sensed (b : Blk) (mw vsup : BitVec 12) (temp : Byte) : Blk :=
  { b with pwr := { b.pwr with mw := mw, temp := temp, vsup := vsup, energy := b.pwr.energy + BitVec.ofNat 64 (10 * mw.toNat) } }

theorem governorStep_stopped (h : b.malt.started = false) : governorStep c b mw temp vsup slack cf cl = maltSource (sensed b mw vsup temp) 6 := by
  refine if_pos ?_
  rw [h, Bool.not_false, Bool.or_true]

/-- The block after the law has been applied to what the windows leave (R421, R423). -/
def governed (c : Cfg) (b x : Blk) (mw vsup : BitVec 12) (temp slack : Byte) : Blk :=
  let r := governorLaw c b mw.toNat temp vsup
  let m := moffNext c b slack.toNat
  { x with pwr := { x.pwr with
    k := BitVec.ofNat 7 r.1, t := BitVec.ofNat 3 r.2.1, low := BitVec.ofNat 4 r.2.2.1, moff := m.1, marginRun := m.2
    mnotice := x.pwr.mnotice ||| BitVec.ofNat 6 r.2.2.2, margin := slack
    minEver := if slack.toNat < x.pwr.minEver.toNat then slack else x.pwr.minEver } }

/-- A block with the voltage that it delivers. -/
def powered (x : Blk) : Blk := { x with
  pwr := { x.pwr with mv := BitVec.ofNat 12 (delivered x) }, malt := { x.malt with mv := BitVec.ofNat 12 (delivered x) } }

theorem governorStep_live (hst : b.pwr.state = .run) (hm : b.malt.started = true) : governorStep c b mw temp vsup slack cf cl =
    powerChanged b (maltSource (powered (governed c (sensed b mw vsup temp) (bothPlls (sensed b mw vsup temp) cf cl Pll.periodic)
      mw vsup temp slack)) 6) := by
  refine if_neg ?_
  rw [hst, hm]
  simp

/-- A locked PLL with a stable window keeps its lock and its FAIL bit. -/
theorem periodic_stable {p : Pll} (hp : p = { p with on := true, lock := true, fail := false }) : p.periodic true = { p with misses := 0 } := by
  rw [hp]
  rfl

/-- With both PLLs stable the windows change their miss counts alone. -/
theorem bothPlls_stable (hF : b.pwr.pllF = { b.pwr.pllF with on := true, lock := true, fail := false })
    (hL : b.pwr.pllL = { b.pwr.pllL with on := true, lock := true, fail := false }) (hsf : pllStable b.pwr.k.toNat cf.toNat = true)
    (hsl : pllStable 64 cl.toNat = true) : bothPlls b cf cl Pll.periodic =
      maltSource { b with pwr := { b.pwr with pllF := { b.pwr.pllF with misses := 0 }, pllL := { b.pwr.pllL with misses := 0 } } } 8 := by
  unfold bothPlls setPlls
  dsimp only
  rw [hsf, hsl, periodic_stable hF, periodic_stable hL]
  simp

/-- What the governor's period makes of a block whose PLLs are stable. -/
theorem governor_period (hst : b.pwr.state = .run) (hm : b.malt.started = true)
    (hF : b.pwr.pllF = { b.pwr.pllF with on := true, lock := true, fail := false })
    (hL : b.pwr.pllL = { b.pwr.pllL with on := true, lock := true, fail := false }) (hsf : pllStable b.pwr.k.toNat cf.toNat = true)
    (hsl : pllStable 64 cl.toNat = true) : ∃ b1 : Blk, governorStep c b mw temp vsup slack cf cl = b1 ∧
      b1 = { b with pwr := b1.pwr, malt := b1.malt, obs := b1.obs } ∧
      b1.pwr.mw = mw ∧ b1.pwr.temp = temp ∧ b1.pwr.vsup = vsup ∧ b1.pwr.margin = slack ∧
      b1.pwr.energy = b.pwr.energy + BitVec.ofNat 64 (10 * mw.toNat) ∧
      b1.pwr.minEver = (if slack.toNat < b.pwr.minEver.toNat then slack else b.pwr.minEver) ∧ b1.malt.mv = b1.pwr.mv ∧
      (∀ k t low notes, governorLaw c (sensed b mw vsup temp) mw.toNat temp vsup = (k, t, low, notes) →
        b1.pwr.k = BitVec.ofNat 7 k ∧ b1.pwr.t = BitVec.ofNat 3 t ∧ b1.pwr.low = BitVec.ofNat 4 low ∧
        b1.pwr.mnotice = b.pwr.mnotice ||| BitVec.ofNat 6 notes) := by
  have hboth := bothPlls_stable (b := sensed b mw vsup temp) (cf := cf) (cl := cl) hF hL hsf hsl
  obtain ⟨st, src, hsrc⟩ := maltSource_eq { sensed b mw vsup temp with pwr := { (sensed b mw vsup temp).pwr with
    pllF := { b.pwr.pllF with misses := 0 }, pllL := { b.pwr.pllL with misses := 0 } } } 8
  have hlive := governorStep_live (c := c) (mw := mw) (vsup := vsup) (temp := temp) (slack := slack) (cf := cf) (cl := cl) hst hm
  rw [hboth.trans hsrc] at hlive
  generalize hx : powered (governed c (sensed b mw vsup temp) _ mw vsup temp slack) = x at hlive
  have hxb : x = { b with pwr := x.pwr, malt := x.malt } := by rw [← hx]; rfl
  obtain ⟨st2, src2, hsrc2⟩ := maltSource_eq x 6
  have hobs := powerChanged_obs b (maltSource x 6)
  rw [hsrc2] at hobs hlive
  generalize powerChanged b { x with malt := { x.malt with stat := st2, msrc := src2 } } = b1 at hobs hlive
  have hpwr : b1.pwr = x.pwr := sameButObs_part hobs Blk.pwr fun _ => rfl
  have hmalt : b1.malt = { x.malt with stat := st2, msrc := src2 } := sameButObs_part hobs Blk.malt fun _ => rfl
  refine ⟨b1, hlive, ?_, ?_⟩
  · rw [hpwr, hmalt]
    unfold sameButObs at hobs
    rw [hobs, hxb]
  · rw [hpwr, hmalt, ← hx]
    refine ⟨rfl, rfl, rfl, rfl, rfl, rfl, rfl, fun k t low notes hlaw => ?_⟩
    have hpart {α : Type} (f : Nat × Nat × Nat × Nat → α) := congrArg f hlaw
    exact ⟨hpart fun r => BitVec.ofNat 7 r.1, hpart fun r => BitVec.ofNat 3 r.2.1, hpart fun r => BitVec.ofNat 4 r.2.2.1,
      hpart fun r => b.pwr.mnotice ||| BitVec.ofNat 6 r.2.2.2⟩

end

/-! The governor's law (R421). -/

section
variable {c : Cfg} {b : Blk} {mw vsup : BitVec 12} {temp : Byte}

theorem stepDown_above {kmin n k t : Nat} (h : kmin < k) : stepDown kmin (n + 1) (k, t) = stepDown kmin n (k - 1, t) := by
  rw [stepDown, if_pos h]

/-- Four steps down from a point four steps above KMIN. -/
theorem stepDown_four {kmin k t : Nat} (h : kmin + 4 ≤ k) : stepDown kmin 4 (k, t) = (k - 4, t) := by
  rw [stepDown_above (by omega), stepDown_above (by omega), stepDown_above (by omega), stepDown_above (by omega)]
  rfl

theorem law_far {p : Nat} (h : 11 * c.cap.toNat < 10 * p) (hmin : c.kmin.toNat + 4 ≤ b.pwr.k.toNat) (hmax : b.pwr.k.toNat ≤ c.kmax.toNat + 4) :
    governorLaw c b p temp vsup = (b.pwr.k.toNat - 4, b.pwr.t.toNat, 0, 1) := by
  unfold governorLaw
  dsimp only
  rw [if_pos h, stepDown_four hmin, show Nat.min (b.pwr.k.toNat - 4) c.kmax.toNat = b.pwr.k.toNat - 4 from Nat.min_eq_left (by omega)]

theorem law_over {p : Nat} (h : c.cap.toNat < p) (hfar : 10 * p ≤ 11 * c.cap.toNat) (hmin : b.pwr.k.toNat = c.kmin.toNat)
    (hmax : b.pwr.k.toNat ≤ c.kmax.toNat) :
    ∃ notes, governorLaw c b p temp vsup = (b.pwr.k.toNat, Nat.min 7 (b.pwr.t.toNat + 1), 0, notes) := by
  unfold governorLaw
  dsimp only
  rw [if_neg (by omega), if_pos (by rw [decide_eq_true h]; rfl)]
  simp only [stepDown]
  rw [if_neg (by omega)]
  dsimp only
  rw [show Nat.min b.pwr.k.toNat c.kmax.toNat = b.pwr.k.toNat from Nat.min_eq_left hmax]
  exact ⟨_, rfl⟩

section
variable {p : Nat} (hcap : p ≤ c.cap.toNat) (htemp : temp.toInt ≤ c.tlim.toNat)
  (hneed : (vbase b.pwr.k.toNat : Int) + 5 * b.pwr.moff.toInt ≤ vsup.toNat)
include hcap htemp hneed

/-- With nothing that asks for a step down, the law follows the estimate against 95 % of the cap. -/
theorem law_within : governorLaw c b p temp vsup =
    if 20 * p < 19 * c.cap.toNat then
      let low := b.pwr.low.toNat + 1
      if 8 ≤ low then
        if b.pwr.t.toNat ≠ 0 then (Nat.min b.pwr.k.toNat c.kmax.toNat, b.pwr.t.toNat - 1, 0, 0)
        else (Nat.min (b.pwr.k.toNat + 1) c.kmax.toNat, b.pwr.t.toNat, 0, 0)
      else (Nat.min b.pwr.k.toNat c.kmax.toNat, b.pwr.t.toNat, low, 0)
    else (Nat.min b.pwr.k.toNat c.kmax.toNat, b.pwr.t.toNat, 0, 0) := by
  have h1 : ¬ 11 * c.cap.toNat < 10 * p := by omega
  have h2 : ¬ c.cap.toNat < p := by omega
  have h3 : ¬ (c.tlim.toNat : Int) < temp.toInt := by omega
  have h4 : ¬ (vsup.toNat : Int) < (vbase b.pwr.k.toNat : Int) + moffMv b := by
    unfold moffMv
    omega
  unfold governorLaw
  dsimp only
  rw [if_neg h1, decide_eq_false h2, decide_eq_false h3, decide_eq_false h4]
  rfl

theorem law_holds (hmax : b.pwr.k.toNat ≤ c.kmax.toNat) (h : 19 * c.cap.toNat ≤ 20 * p) :
    governorLaw c b p temp vsup = (b.pwr.k.toNat, b.pwr.t.toNat, 0, 0) := by
  rw [law_within hcap htemp hneed, if_neg (by omega), show Nat.min b.pwr.k.toNat c.kmax.toNat = b.pwr.k.toNat from Nat.min_eq_left hmax]

theorem law_counts (hmax : b.pwr.k.toNat ≤ c.kmax.toNat) (h : 20 * p < 19 * c.cap.toNat) (hlow : b.pwr.low.toNat < 7) :
    governorLaw c b p temp vsup = (b.pwr.k.toNat, b.pwr.t.toNat, b.pwr.low.toNat + 1, 0) := by
  rw [law_within hcap htemp hneed, if_pos h]
  dsimp only
  rw [if_neg (by omega), show Nat.min b.pwr.k.toNat c.kmax.toNat = b.pwr.k.toNat from Nat.min_eq_left hmax]

theorem law_rises (hmax : b.pwr.k.toNat < c.kmax.toNat) (h : 20 * p < 19 * c.cap.toNat) (hlow : b.pwr.low = 7) (ht : b.pwr.t.toNat = 0) :
    governorLaw c b p temp vsup = (b.pwr.k.toNat + 1, 0, 0, 0) := by
  rw [law_within hcap htemp hneed, if_pos h, hlow, ht]
  dsimp only
  rw [if_pos (by decide), if_neg (by decide), show Nat.min (b.pwr.k.toNat + 1) c.kmax.toNat = b.pwr.k.toNat + 1 from Nat.min_eq_left hmax]

end

end

/-! Oscillator trim (R402, R457). -/

section
variable {c : Cfg} {b : Blk} {count : BitVec 16} {w : BitVec 128}

/-- The count of one window of the successive approximation. -/
def sarWindow (w : BitVec 128) (i : Nat) : Nat := bits w (16 * i + 15) (16 * i)

/-- One step of the successive approximation. -/
def sarStep (refmhz : Nat) (w : BitVec 128) (r : Option Byte) (i : Nat) : Option Byte :=
  match r with
  | none => none
  | some v =>
    let n := bits w (16 * i + 15) (16 * i)
    if n = 0 then none else some (if refmhz * 1024 ≤ n * 48 then setBit v (7 - i) true else v)

theorem sarTrim_eq (refmhz : Nat) (w : BitVec 128) : sarTrim refmhz w = (List.range 8).foldl (sarStep refmhz w) (some 0) := rfl

/-- A window without an edge ends the approximation. -/
theorem sarTrim_none {refmhz : Nat} (h : ∃ i, i < 8 ∧ bits w (16 * i + 15) (16 * i) = 0) : sarTrim refmhz w = none := by
  have hnone : ∀ (is : List Nat), is.foldl (sarStep refmhz w) none = none := by
    intro is
    induction is with
    | nil => rfl
    | cons i is ih => exact ih
  have hgo : ∀ (is : List Nat) (r : Option Byte), (∃ i ∈ is, bits w (16 * i + 15) (16 * i) = 0) → is.foldl (sarStep refmhz w) r = none := by
    intro is
    induction is with
    | nil => rintro r ⟨i, hi, -⟩; exact absurd hi List.not_mem_nil
    | cons j is ih =>
      rintro r ⟨i, hi, h0⟩
      rw [List.foldl_cons]
      rcases List.mem_cons.mp hi with rfl | hi
      · have hstep : sarStep refmhz w r i = none := by
          cases r with
          | none => rfl
          | some v => exact if_pos h0
        rw [hstep, hnone]
      · exact ih _ ⟨i, hi, h0⟩
  obtain ⟨i, hi, h0⟩ := h
  exact hgo _ _ ⟨i, List.mem_range.mpr hi, h0⟩

theorem bit_setBit_true (v : Byte) {k j : Nat} (hk : k < 8) : bit (setBit v k true) j = (bit v j || decide (j = k)) := by
  unfold bit setBit
  rw [if_pos rfl, BitVec.getLsbD_or, BitVec.getLsbD_ofNat, Nat.testBit_two_pow]
  by_cases hj : k = j
  · subst hj
    simp [hk]
  · simp [hj, Ne.symm hj]

/-- With an edge in every window each bit of the code stands where its window counts enough. -/
theorem sarTrim_some {refmhz : Nat} (h : ∀ i, i < 8 → bits w (16 * i + 15) (16 * i) ≠ 0) : ∃ x, sarTrim refmhz w = some x ∧
    ∀ i, i < 8 → bit x (7 - i) = decide (refmhz * 1024 ≤ bits w (16 * i + 15) (16 * i) * 48) := by
  have hgo : ∀ n, n ≤ 8 → ∃ x, (List.range n).foldl (sarStep refmhz w) (some 0) = some x ∧
      ∀ i, i < 8 → bit x (7 - i) = (decide (i < n) && decide (refmhz * 1024 ≤ bits w (16 * i + 15) (16 * i) * 48)) := by
    intro n
    induction n with
    | zero => exact fun _ => ⟨0, rfl, fun i _ => by simp [bit]⟩
    | succ n ih =>
      intro hn
      obtain ⟨x, hx, hbits⟩ := ih (by omega)
      refine ⟨if refmhz * 1024 ≤ bits w (16 * n + 15) (16 * n) * 48 then setBit x (7 - n) true else x, ?_, fun i hi => ?_⟩
      · rw [List.range_succ, List.foldl_append, hx]
        exact if_neg (h n (by omega))
      · split
        · next hge =>
          rw [bit_setBit_true x (by omega), hbits i hi]
          by_cases hin : i = n
          · subst hin
            simp [hge]
          · rw [decide_eq_false (by omega : ¬ 7 - i = 7 - n), Bool.or_false, show decide (i < n + 1) = decide (i < n) from decide_eq_decide.mpr (by omega)]
        · next hlt =>
          rw [hbits i hi]
          by_cases hin : i = n
          · subst hin
            simp [hlt]
          · rw [show decide (i < n + 1) = decide (i < n) from decide_eq_decide.mpr (by omega)]
  obtain ⟨x, hx, hbits⟩ := hgo 8 (Nat.le_refl _)
  refine ⟨x, (sarTrim_eq ..).trans hx, fun i hi => ?_⟩
  rw [hbits i hi, decide_eq_true hi, Bool.true_and]

theorem trimPeriod_lost (h : count = 0) : trimPeriod c b count w = { maltSource b 7 with pwr := { (maltSource b 7).pwr with reflost := true } } :=
  if_pos h

theorem trimPeriod_search (h : count ≠ 0) (hlost : b.pwr.reflost = true) : trimPeriod c b count w =
    match sarTrim c.refMhz.toNat w with
    | some t => { maltSource b 7 with pwr := { (maltSource b 7).pwr with reflost := false, trim := t } }
    | none => maltSource b 7 := by
  refine (if_neg h).trans (if_pos ?_)
  rw [maltSource_pwr]
  exact hlost

theorem trimPeriod_steps (h : count ≠ 0) (hkept : b.pwr.reflost = false) : trimPeriod c b count w =
    { maltSource b 7 with pwr := { (maltSource b 7).pwr with trim :=
      if c.refMhz.toNat * 16384 < count.toNat * 48 then (if b.pwr.trim = 0xFF then 0xFF else b.pwr.trim + 1)
      else if count.toNat * 48 < c.refMhz.toNat * 16384 then (if b.pwr.trim = 0 then 0 else b.pwr.trim - 1) else b.pwr.trim } } := by
  have hlost : ¬ (maltSource b 7).pwr.reflost = true := by
    rw [maltSource_pwr, hkept]
    exact Bool.false_ne_true
  refine (if_neg h).trans ((if_neg hlost).trans ?_)
  rw [maltSource_pwr]
  dsimp only
  rw [saturated, saturated]

end

/-! PLL retry, droop, the timer and AON_WAKE_IN (R404, R417, R424, R426). -/

section
variable {b : Blk} {cf cl : BitVec 16}

theorem pllRetry_locks (hlost : b.pwr.reflost = false) (hst : b.pwr.state = .run) (hon : b.pwr.pllF.on = true) (hF : b.pwr.pllF.fail = true)
    (hL : b.pwr.pllL.fail = false) (hsf : pllStable b.pwr.k.toNat cf.toNat = true) : pllRetryAt b cf cl = maltSource { b with pwr := { b.pwr with
      pllF := { on := true, lock := true, fail := false, misses := 0, tries := 0 }, mnotice := setBit b.pwr.mnotice 3 true } } 8 := by
  have hretryF : b.pwr.pllF.retry true = { on := true, lock := true, fail := false, misses := 0, tries := 0 } := by
    unfold Pll.retry
    rw [hon, hF]
    rfl
  have hretryL (ok : Bool) : b.pwr.pllL.retry ok = b.pwr.pllL := by
    unfold Pll.retry
    rw [hL, Bool.and_false, Bool.false_and]
    rfl
  have hdue : ¬ (b.pwr.reflost || !(decide (b.pwr.state = .run) || decide (b.pwr.state = .couch)) || !(b.pwr.pllF.fail || b.pwr.pllL.fail)) = true := by
    rw [hlost, hst, hF]
    simp
  refine (if_neg hdue).trans ?_
  unfold bothPlls setPlls
  dsimp only
  rw [hsf, hretryF, hretryL, hF]
  simp

theorem pllRetry_notDue (hF : b.pwr.pllF.fail = false) (hL : b.pwr.pllL.fail = false) : pllRetryAt b cf cl = b := by
  refine if_pos ?_
  rw [hF, hL, Bool.or_self, Bool.not_false, Bool.or_true]

theorem droopEvent_run (h : b.pwr.state = .run) : droopEvent b =
    { b with pwr := { b.pwr with droops := if b.pwr.droops = 0xFFF then 0xFFF else b.pwr.droops + 1 } } := by
  unfold droopEvent
  rw [h, saturated]
  rfl

theorem timerAt_off (h : bit b.pwr.tcmp 63 = false) : timerAt b = b := by
  refine if_pos ?_
  rw [h]
  rfl

theorem elapse_state (t : Nat) (b : Blk) : (elapse t b).pwr.state = b.pwr.state := by
  rw [elapse_eq]

theorem timerAt_run (h : bit b.pwr.tcmp 63 = true) (hst : b.pwr.state = .run) : timerAt b = elapse (b.pwr.tcmp.toNat % 2 ^ 63) b := by
  refine (if_neg (by rw [h]; exact Bool.false_ne_true)).trans (if_pos ?_)
  rw [elapse_state, hst]

theorem wake_held {b : Blk} (h : b.pwr.state ≠ .run) : wake b = { b with pwr := { b.pwr with wakeHeld := true } } := if_neg h

theorem timerAt_wakes (h : bit b.pwr.tcmp 63 = true) (hst : b.pwr.state ≠ .run) : timerAt b =
    { maltSource (elapse (b.pwr.tcmp.toNat % 2 ^ 63) b) 14 with
      pwr := { (maltSource (elapse (b.pwr.tcmp.toNat % 2 ^ 63) b) 14).pwr with wakeHeld := true } } := by
  have hlive : ¬ (elapse (b.pwr.tcmp.toNat % 2 ^ 63) b).pwr.state = .run := by rwa [elapse_state]
  refine (if_neg (by rw [h]; exact Bool.false_ne_true)).trans ((if_neg hlive).trans (wake_held ?_))
  rwa [maltSource_pwr]

end

/-! The law's natural numbers as the fields that keep them. -/

theorem ofNat_sub {n : Nat} (x : BitVec n) {d : Nat} (h : d ≤ x.toNat) : BitVec.ofNat n (x.toNat - d) = x - BitVec.ofNat n d := by
  rw [← BitVec.ofNat_sub_ofNat_of_le x.toNat d (by have := x.isLt; omega) h, BitVec.ofNat_toNat, BitVec.setWidth_eq]

theorem ofNat_succ {n : Nat} (x : BitVec n) : BitVec.ofNat n (x.toNat + 1) = x + 1 := by
  rw [BitVec.ofNat_add, BitVec.ofNat_toNat, BitVec.setWidth_eq]
  rfl

theorem ofNat_min_seven (x : BitVec 3) : BitVec.ofNat 3 (Nat.min 7 (x.toNat + 1)) = if x = 7 then 7 else x + 1 := by
  revert x
  decide

/-- Settles O48: the period by the law's branches, the other events each by its own equation. -/
theorem governorAndClocks : Obligations.GovernorAndClocks := by
  intro s mw vsup temp slack cf cl count w c b k t hans
  have hon := hans.1
  have hrise (b1 : Blk) (h : wake (maltSource b 1) = b1) : Gives s .wakeInRise b1 := by
    refine blkNext_gives (f := fun b => if blockOn b && !lcsHeld b then wake (maltSource b 1) else b) ((if_pos ?_).trans h)
    rw [show blockOn s.blk = true from hans.1, show lcsHeld s.blk = false from hans.2]
    rfl
  refine ⟨fun hm => ?_, fun hst hm hF hL hsf hsl => ?_, fun hphase => ?_, fun hlost hst hpon hF hL hsf => ?_, fun hF hL => ?_, fun hst => ?_,
    fun htc => ?_, fun htc hst => ?_, fun htc hst => ?_, elapse_eq _ _, fun hst => ?_, fun hst => ?_⟩
  · exact onNext_gives (f := fun b => governorStep c b mw temp vsup slack cf cl) hon (governorStep_stopped hm)
  · obtain ⟨b1, hrun, hframe, hmw, htemp, hvsup, hmargin, henergy, hmin, hmv, hlaw⟩ :=
      governor_period (c := c) (mw := mw) (vsup := vsup) (temp := temp) (slack := slack) hst hm hF hL hsf hsl
    refine ⟨b1, onNext_gives (f := fun b => governorStep c b mw temp vsup slack cf cl) hon hrun, hframe, hmw, htemp, hvsup, hmargin, henergy, hmin, hmv,
      fun hfar hkmin hkmax => ?_, fun hover hfar hkmin hkmax => ?_, fun hcap hcool hneed hkmax => ⟨fun hband => ?_, fun hlow hcount => ?_,
        fun hlow hcount ht hk => ?_⟩⟩
    · obtain ⟨hk1, ht1, hl1, hn1⟩ := hlaw _ _ _ _ (law_far (b := sensed b mw vsup temp) hfar hkmin hkmax)
      exact ⟨hk1.trans (ofNat_sub b.pwr.k (by omega)), ht1.trans (BitVec.ofNat_toNat ..), hl1, hn1⟩
    · obtain ⟨notes, hover⟩ := law_over (b := sensed b mw vsup temp) (vsup := vsup) (temp := temp) hover hfar hkmin hkmax
      obtain ⟨hk1, ht1, hl1, -⟩ := hlaw _ _ _ _ hover
      exact ⟨hk1.trans (BitVec.ofNat_toNat ..), ht1.trans (ofNat_min_seven b.pwr.t), hl1⟩
    · obtain ⟨hk1, ht1, hl1, -⟩ := hlaw _ _ _ _ (law_holds (b := sensed b mw vsup temp) hcap hcool hneed hkmax hband)
      exact ⟨hk1.trans (BitVec.ofNat_toNat ..), ht1.trans (BitVec.ofNat_toNat ..), hl1⟩
    · obtain ⟨hk1, ht1, hl1, -⟩ := hlaw _ _ _ _ (law_counts (b := sensed b mw vsup temp) hcap hcool hneed hkmax hlow hcount)
      exact ⟨hk1.trans (BitVec.ofNat_toNat ..), ht1.trans (BitVec.ofNat_toNat ..), hl1.trans (ofNat_succ b.pwr.low)⟩
    · obtain ⟨hk1, ht1, hl1, -⟩ := hlaw _ _ _ _ (law_rises (b := sensed b mw vsup temp) hcap hcool hneed hk hlow hcount ht)
      exact ⟨hk1.trans (ofNat_succ b.pwr.k), ht1, hl1⟩
  · have htrim (b1 : Blk) (h : trimPeriod c b count w = b1) : Gives s (.oscillatorTrim count w) b1 :=
      onNext_gives (f := fun b => if b.sys.phase.toNat < 3 then b else trimPeriod c b count w) hon ((if_neg (Nat.not_lt.mpr hphase)).trans h)
    refine ⟨fun h0 => htrim _ (trimPeriod_lost h0), fun hn hlost => ⟨fun hdead => htrim _ ?_, fun hedges => ?_⟩, fun hn hkept =>
      ⟨fun hfast => htrim _ ?_, fun hslow => htrim _ ?_, fun heq => htrim _ ?_⟩⟩
    · rw [trimPeriod_search hn hlost, sarTrim_none hdead]
    · obtain ⟨x, hx, hbits⟩ := sarTrim_some (refmhz := c.refMhz.toNat) hedges
      refine ⟨x, htrim _ ?_, hbits⟩
      rw [trimPeriod_search hn hlost, hx]
    · rw [trimPeriod_steps hn hkept, if_pos hfast]
    · rw [trimPeriod_steps hn hkept, if_neg (by omega), if_pos hslow]
    · rw [trimPeriod_steps hn hkept, if_neg (by omega), if_neg (by omega)]
  · exact onNext_gives (f := fun b => pllRetryAt b cf cl) hon (pllRetry_locks hlost hst hpon hF hL hsf)
  · exact onNext_stays (f := fun b => pllRetryAt b cf cl) (pllRetry_notDue hF hL)
  · exact onNext_gives (f := droopEvent) hon (droopEvent_run hst)
  · exact onNext_stays (f := timerAt) (timerAt_off htc)
  · exact onNext_gives (f := timerAt) hon (timerAt_run htc hst)
  · exact onNext_gives (f := timerAt) hon (timerAt_wakes htc hst)
  · refine hrise _ (wake_held ?_)
    rwa [maltSource_pwr]
  · refine hrise _ (wake_run ?_)
    rwa [maltSource_pwr]

end Sys2Proof.Proofs
end

section
namespace Sys2Proof.Proofs
open Sys2Proof.Machine Sys2Proof.Laws

/-! Sources and tasks of the Maltster (R235, R429). -/

theorem maltSource_waits {b : Blk} {i : Nat} (h : taskOf b.malt i = 3) :
    maltSource b i = { b with malt := { b.malt with stat := setBits b.malt.stat (2 * i + 1) (2 * i) 1 } } := if_pos h

theorem maltSource_latches {b : Blk} {i : Nat} (h : taskOf b.malt i ≠ 3) :
    maltSource b i = { b with malt := { b.malt with msrc := setBit b.malt.msrc i true } } := if_neg h

/-- A task's state in a word of states where one task's was written. -/
theorem taskBits_set (x : W32) {i j v : Nat} (hi : i < 16) (hv : v < 4) :
    bits (setBits x (2 * i + 1) (2 * i) v) (2 * j + 1) (2 * j) = if j = i then v else bits x (2 * j + 1) (2 * j) := by
  split
  · next h =>
    subst h
    rw [bits_setBits_self _ (by omega), show 2 * j + 1 + 1 - 2 * j = 2 by omega]
    exact Nat.mod_eq_of_lt hv
  · next h => exact bits_setBits_apart _ (by omega)

/-- A source of a waiting task makes it READY; any other is latched. -/
theorem maltSource_does (b : Blk) {i : Nat} (hi : i < 16) :
    if taskOf b.malt i = 3 then taskOf (maltSource b i).malt i = 1 else bit (maltSource b i).malt.msrc i = true := by
  split
  · next h =>
    rw [maltSource_waits h]
    exact (taskBits_set _ hi (by decide)).trans (if_pos rfl)
  · next h =>
    rw [maltSource_latches h]
    exact bit_setBit_self _ hi true

/-! A domain that ramps up (R407, R410). -/

/-- The clocks of a domain. -/
def clocksOf (d : Nat) : BitVec 40 := BitVec.ofNat 40 (maskBits (cdsOf d).2 (cdsOf d).1)

theorem cdsOf_within {d : Nat} (h : d < 32) : (cdsOf d).2 < 40 := by
  unfold cdsOf
  (repeat' split) <;> dsimp only <;> omega

/-- A field reads all ones in a word that a mask of the field was put into. -/
theorem bits_or_mask (x : BitVec w) {hi lo : Nat} (h : hi < w) : bits (x ||| BitVec.ofNat w (maskBits hi lo)) hi lo = 2 ^ (hi + 1 - lo) - 1 := by
  apply Nat.eq_of_testBit_eq
  intro i
  rw [testBit_bits, Nat.testBit_two_pow_sub_one]
  by_cases hi' : i < hi + 1 - lo
  · rw [BitVec.getLsbD_or, BitVec.getLsbD_ofNat, maskBits, Nat.testBit_shiftLeft, Nat.add_sub_cancel_left, Nat.testBit_two_pow_sub_one]
    simp [hi', show lo + i < w by omega]
  · simp [hi']

/-- The block whose domain `d` ramps up, before the Maltster hears of it. -/
def rampUp (b : Blk) (d : Nat) : Blk :=
  powerOn { b with malt := { b.malt with
    pdreq := setBit b.malt.pdreq d true, cden := b.malt.cden ||| clocksOf d, cdOff := b.malt.cdOff &&& ~~~clocksOf d } } d

section
variable {c : Cfg} {b : Blk} {pd : BitVec 5}

theorem pdUp_due (hst : b.pwr.state = .run) (hphase : b.sys.phase = 9) (hoff : pdRuns b pd.toNat = false) (hall : pdAllowed c pd.toNat = true)
    (hask : pdAsked b pd.toNat = true ∨ bit b.malt.pdreq pd.toNat = true ∨ pdRule c b pd.toNat = true) :
    pdUp c b pd = maltSource (rampUp b pd.toNat) 3 := by
  refine if_neg ?_
  rw [hst, hphase, hoff, hall]
  rcases hask with h | h | h <;> rw [h] <;> simp

theorem pdUp_runs (h : pdRuns b pd.toNat = true) : pdUp c b pd = b := by
  refine if_pos ?_
  rw [h, Bool.or_true, Bool.true_or, Bool.true_or]

theorem rampUp_runs (hst : b.pwr.state = .run) {d : Nat} (hd : d < 32) : pdRuns (rampUp b d) d = true := by
  have hcd : (rampUp b d).pwr.cd = b.pwr.cd ||| clocksOf d := by
    have hmask : clocksOf d &&& ~~~(b.malt.cdOff &&& ~~~clocksOf d) = clocksOf d := by
      ext i hi
      simp only [BitVec.getElem_and, BitVec.getElem_not]
      cases (clocksOf d)[i] <;> simp
    refine (if_pos hst).trans ?_
    exact congrArg (b.pwr.cd ||| ·) hmask
  unfold pdRuns
  rw [hcd, clocksOf, bits_or_mask _ (cdsOf_within hd), decide_eq_true rfl, Bool.and_true]
  exact bit_setBit_self _ hd true

theorem rampUp_other {d e : Nat} (h : e ≠ d) : pdOn (rampUp b d) e = pdOn b e := bit_setBit_other _ h true

end

/-! CR_MPDREQ (R430). -/

section
variable {c : Cfg} {b : Blk} {v : W32}

/-- Whether a domain holds work rests on neither its power nor the Maltster, the caches or the observation unit. -/
theorem pdBusy_apart (c : Cfg) (b : Blk) (p : Power) (k : Caches) (m : Malt) (o : Obs) (d : Nat) :
    pdBusy c { b with pwr := p, caches := k, malt := m, obs := o } d = pdBusy c b d := rfl

/-- A domain that a request switches off. -/
def goesOff (c : Cfg) (b : Blk) (v : W32) (d : Nat) : Bool := !bit (v ||| 3) d && pdOn b d && !pdBusy c b d

/-- One domain of a request. -/
def requestOne (c : Cfg) (v : W32) (b : Blk) (d : Nat) : Blk := if goesOff c b v d then switchOff b d else b

theorem pdRequest_eq (c : Cfg) (b : Blk) (v : W32) : pdRequest c b v =
    offEpochs ((List.range 32).foldl (requestOne c v) { b with malt := { b.malt with pdreq := v ||| 3 } }) := rfl

theorem powerOff_frame (b : Blk) (d : Nat) :
    powerOff b d = { b with pwr := (powerOff b d).pwr, obs := (powerOff b d).obs } ∧ (powerOff b d).pwr.pd = setBit b.pwr.pd d false := by
  unfold powerOff
  dsimp only
  split <;> exact ⟨rfl, rfl⟩

theorem foldl_fixed {f : β → α → β} {x : β} : ∀ (as : List α), (∀ a ∈ as, f x a = x) → as.foldl f x = x
  | [], _ => rfl
  | a :: as, h => by
    rw [List.foldl_cons, h a List.mem_cons_self]
    exact foldl_fixed as fun a' ha' => h a' (List.mem_cons_of_mem a ha')

/-- The caches once a domain goes off, where no line of the L1D is dirty. -/
def cachesWithout (k : Caches) (d : Nat) : Caches := if d = 4 then { k with l1i := [], l1d := [] } else k

theorem switchOff_frame {d : Nat} (hclean : ∀ l ∈ b.caches.l1d, (l.valid && l.dirty) = false) :
    switchOff b d = { b with pwr := (switchOff b d).pwr, obs := (switchOff b d).obs, caches := cachesWithout b.caches d } ∧
      (switchOff b d).pwr.pd = setBit b.pwr.pd d false := by
  unfold switchOff
  split
  · next h =>
    rw [show cachesWithout b.caches d = b.caches from if_neg h]
    exact powerOff_frame b d
  · next h =>
    rw [not_not] at h
    subst h
    dsimp only
    rw [foldl_fixed b.caches.l1d fun l hl => if_neg (by rw [hclean l hl]; exact Bool.false_ne_true)]
    exact powerOff_frame _ 4

/-- The block after the domains below `n` of a request. -/
theorem request_below (hclean : ∀ l ∈ b.caches.l1d, (l.valid && l.dirty) = false) : ∀ n, n ≤ 32 →
    let x := (List.range n).foldl (requestOne c v) b
    x = { b with pwr := x.pwr, obs := x.obs, caches := if decide (4 < n) && goesOff c b v 4 then { b.caches with l1i := [], l1d := [] } else b.caches } ∧
      ∀ e, e < 32 → pdOn x e = (pdOn b e && !(decide (e < n) && goesOff c b v e)) := by
  intro n
  induction n with
  | zero =>
    refine fun _ => ⟨by simp, fun e _ => by simp⟩
  | succ n ih =>
    intro hn
    obtain ⟨hframe, hpds⟩ := ih (by omega)
    dsimp only
    rw [List.range_succ, List.foldl_append, List.foldl_cons, List.foldl_nil]
    generalize (List.range n).foldl (requestOne c v) b = x at hframe hpds
    have hcond : goesOff c x v n = goesOff c b v n := by
      unfold goesOff
      rw [hpds n (by omega)]
      rw [hframe, pdBusy_apart]
      simp
    have hcleanx : ∀ l ∈ x.caches.l1d, (l.valid && l.dirty) = false := by
      rw [hframe]
      dsimp only
      split
      · exact fun l hl => absurd hl List.not_mem_nil
      · exact hclean
    have hlater (hn4 : n ≠ 4) : decide (4 < n + 1) = decide (4 < n) := decide_eq_decide.mpr (by omega)
    have hpast {e : Nat} (h : e ≠ n) : decide (e < n + 1) = decide (e < n) := decide_eq_decide.mpr (by omega)
    unfold requestOne
    rw [hcond]
    cases hoff : goesOff c b v n with
    | false =>
      rw [if_neg Bool.false_ne_true]
      refine ⟨hframe.trans ?_, fun e he => (hpds e he).trans ?_⟩
      · by_cases hn4 : n = 4
        · subst hn4
          rw [hoff, Bool.and_false, Bool.and_false]
        · rw [hlater hn4]
      · by_cases hen : e = n
        · rw [hen, hoff, Bool.and_false, Bool.and_false]
        · rw [hpast hen]
    | true =>
      rw [if_pos rfl]
      obtain ⟨hoffFrame, hpd⟩ := switchOff_frame (d := n) hcleanx
      refine ⟨hoffFrame.trans ?_, fun e he => ?_⟩
      · have hcaches : cachesWithout x.caches n =
            if decide (4 < n + 1) && goesOff c b v 4 then { b.caches with l1i := [], l1d := [] } else b.caches := by
          rw [hframe]
          by_cases hn4 : n = 4
          · subst hn4
            rw [hoff]
            rfl
          · rw [hlater hn4]
            exact if_neg hn4
        rw [hcaches, hframe]
      · unfold pdOn at hpds ⊢
        rw [hpd]
        by_cases hen : e = n
        · rw [hen, bit_setBit_self _ (by omega), hoff]
          simp
        · rw [bit_setBit_other _ hen, hpds e he, hpast hen]

/-- The block after a request of the Maltster. -/
theorem pdRequest_does (hclean : ∀ l ∈ b.caches.l1d, (l.valid && l.dirty) = false) : ∃ b1, pdRequest c b v = b1 ∧
    b1.malt = { b.malt with pdreq := v ||| 3 } ∧ b1.core = b.core ∧ b1.lts = b.lts ∧
    b1.caches = (if pdOn b 4 && !bit v 4 && !pdBusy c b 4 then { b.caches with l1i := [], l1d := [] } else b.caches) ∧
    ∀ e, e < 32 → pdOn b1 e = (pdOn b e && (bit (v ||| 3) e || pdBusy c b e)) := by
  obtain ⟨hframe, hpds⟩ := request_below (c := c) (b := { b with malt := { b.malt with pdreq := v ||| 3 } }) (v := v) hclean 32 (Nat.le_refl _)
  rw [pdRequest_eq]
  generalize (List.range 32).foldl (requestOne c v) _ = x at hframe hpds
  refine ⟨_, rfl, ?_, ?_, ?_, ?_, fun e he => ?_⟩ <;> rw [offEpochs_rings]
  · rw [hframe]
  · rw [hframe]
  · rw [hframe]
  · rw [hframe]
    have hfour : bit (v ||| 3) 4 = bit v 4 := by
      unfold bit
      rw [BitVec.getLsbD_or]
      exact Bool.or_false _
    have hgo : goesOff c { b with malt := { b.malt with pdreq := v ||| 3 } } v 4 = (pdOn b 4 && !bit v 4 && !pdBusy c b 4) := by
      rw [← hfour, Bool.and_comm (pdOn b 4)]
      rfl
    rw [hgo]
    rfl
  · refine (hpds e he).trans ?_
    have hgo : goesOff c { b with malt := { b.malt with pdreq := v ||| 3 } } v e = (!bit (v ||| 3) e && pdOn b e && !pdBusy c b e) := rfl
    rw [hgo, decide_eq_true he]
    show (pdOn b e && _) = _
    cases pdOn b e <;> simp

end

/-! One instruction of the Maltster (R428–R431). -/

section
variable {c : Cfg} {b : Blk} {n : Nat}

theorem foldl_stat (js : List Nat) (m : Malt) :
    ∃ st, js.foldl (fun m j => if taskOf m j = 2 then setTask m j 1 else m) m = { m with stat := st } := by
  induction js generalizing m with
  | nil => exact ⟨m.stat, rfl⟩
  | cons j js ih =>
    rw [List.foldl_cons]
    split
    · exact ih (setTask m j 1)
    · exact ih m

/-- The task that is given the Maltster changes the tasks' states alone. -/
theorem maltRun_stat (m : Malt) (i : Nat) : ∃ st, maltRun m i = { m with stat := st } := by
  obtain ⟨st, h⟩ := foldl_stat (List.range 16) m
  unfold maltRun
  rw [h]
  exact ⟨_, rfl⟩

theorem maltRun_pcs (m : Malt) (i : Nat) : (maltRun m i).pcs = m.pcs := by
  obtain ⟨st, h⟩ := maltRun_stat m i
  rw [h]

/-- What the task's word makes of the block, or its fault. -/
def maltEnd (c : Cfg) (b : Blk) (n : Nat) (pc : Word) (r : MaltR) : CB :=
  match r with
  | .ok cb => cb
  | .error e => (c, maltFault b n e pc)

/-- The word at the running task's PC. -/
def maltWordAt (b : Blk) (n : Nat) : W32 := BitVec.ofNat 32 (natOfLE (b.malt.ram.range (b.malt.pcs.get n).toNat 4))

section
variable (hpick : maltPick b.malt = some n)
include hpick

theorem maltStep_eq : maltStep c b = maltEnd c { b with malt := maltRun b.malt n } n ((maltRun b.malt n).pcs.get n)
    (if ((maltRun b.malt n).pcs.get n).toNat % 4 ≠ 0 then .error 2
      else if 0x10000 ≤ ((maltRun b.malt n).pcs.get n).toNat then .error 3
      else
        let k := tryCross false 1 { b with malt := maltRun b.malt n }
        if k.1 then maltWord c k.2 n ((maltRun b.malt n).pcs.get n)
          (BitVec.ofNat 32 (natOfLE (k.2.malt.ram.range ((maltRun b.malt n).pcs.get n).toNat 4))) else .ok (c, k.2)) := by
  unfold maltStep
  rw [hpick]
  rfl

theorem maltStep_misaligned (hpc : (b.malt.pcs.get n).toNat % 4 ≠ 0) :
    maltStep c b = (c, maltFault { b with malt := maltRun b.malt n } n 2 (b.malt.pcs.get n)) := by
  rw [maltStep_eq hpick, maltRun_pcs, if_pos hpc]
  rfl

theorem maltStep_unmapped (hpc : (b.malt.pcs.get n).toNat % 4 = 0) (hhigh : 0x10000 ≤ (b.malt.pcs.get n).toNat) :
    maltStep c b = (c, maltFault { b with malt := maltRun b.malt n } n 3 (b.malt.pcs.get n)) := by
  rw [maltStep_eq hpick, maltRun_pcs, if_neg (not_not.mpr hpc), if_pos hhigh]
  rfl

/-- A task at a mapped PC, with no beat on its way, executes its word. -/
theorem maltStep_word (hquiet : b.sys.beats = []) (hpc : (b.malt.pcs.get n).toNat % 4 = 0) (hlow : (b.malt.pcs.get n).toNat < 0x10000) :
    maltStep c b = maltEnd c { b with malt := maltRun b.malt n } n (b.malt.pcs.get n)
      (maltWord c { b with malt := maltRun b.malt n } n (b.malt.pcs.get n) (maltWordAt b n)) := by
  have hcross : tryCross false 1 { b with malt := maltRun b.malt n } = (true, { b with malt := maltRun b.malt n }) := by
    unfold tryCross
    rw [crossing_quiet (b := { b with malt := maltRun b.malt n }) hquiet]
    rfl
  have hram : (maltRun b.malt n).ram = b.malt.ram := by
    obtain ⟨st, h⟩ := maltRun_stat b.malt n
    rw [h]
  rw [maltStep_eq hpick, maltRun_pcs, if_neg (not_not.mpr hpc), if_neg (Nat.not_le.mpr hlow), hcross]
  dsimp only
  rw [if_pos rfl, hram]
  rfl

end

theorem maltWord_addi {i : Nat} {pc : Word} {w : W32} (h : bits w 31 26 = 4) : maltWord c b i pc w =
    .ok (maltPut c b i (bits w 25 21) (maltReg b.malt i (bits w 20 16) + sext16 (BitVec.ofNat 16 (bits w 15 0))) (pc + 4)) := by
  unfold maltWord
  dsimp only
  rw [h]
  rfl

theorem maltWord_jump {i : Nat} {pc : Word} {w : W32} (h : bits w 31 26 = 0x26) : maltWord c b i pc w =
    .ok (c, maltGo b i (pc + jumpOff (BitVec.ofNat 26 (bits w 25 0)))) := by
  unfold maltWord
  dsimp only
  rw [h]
  rfl

theorem maltWord_undefined {i : Nat} {pc : Word} {w : W32} (h : bits w 31 26 = 0x3F) : maltWord c b i pc w = .error 1 := by
  unfold maltWord
  dsimp only
  rw [h]
  rfl

end

theorem cbNext_gives {s : State} {f : Cfg → Blk → Cfg × Blk} {b1 : Blk} (h : f s.cfg s.blk = (s.cfg, b1)) :
    cbNext s f = .next { s with blk := b1 } := by
  unfold cbNext
  rw [h]

/-- The low bits of a word, as a field and truncated. -/
theorem ofNat_bits_zero {w : Nat} (x : BitVec w) {k h : Nat} (hk : h + 1 = k) : BitVec.ofNat k (bits x h 0) = x.truncate k := by
  apply BitVec.eq_of_toNat_eq
  rw [BitVec.toNat_ofNat, BitVec.toNat_setWidth, bits, Nat.shiftRight_zero, show h + 1 - 0 = k from hk, Nat.mod_mod]

/-- A left shift by two bits is a product with four. -/
theorem shift_two (x : Word) : x <<< 2 = x * 4 := by
  bv_omega

/-- Settles O49: domains by the bits that they write, the request by the domains below a bound, an instruction by its word. -/
theorem maltsterAndDomains : Obligations.MaltsterAndDomains := by
  intro s d v i c b hon
  have hstep (hm : b.malt.started = true) {b1 : Blk} (h : maltStep c b = (c, b1)) : Gives s .maltsterInstruction b1 :=
    cbNext_gives (f := fun c b => if blockOn b && b.malt.started then maltStep c b else (c, b)) ((if_pos (by rw [hon, hm]; rfl)).trans h)
  refine ⟨fun hst hphase hoff hall hask => ?_, fun hruns => ?_, fun hm hclean => ?_, fun hwait => ?_, fun hbusy => ?_, fun hm hnone => ?_,
    fun n hm hquiet hpick => ⟨fun hpc hlow => ⟨fun haddi => ?_, fun hjump => ?_, fun hundef => ?_⟩, fun hpc => ?_, fun hpc hhigh => ?_⟩⟩
  · refine ⟨_, onNext_gives (f := fun b => pdUp c b d) hon (pdUp_due hst hphase hoff hall hask), ?_, ?_, fun e _ he => ?_, ?_, ?_⟩
    · obtain ⟨st, src, h⟩ := maltSource_eq (rampUp b d.toNat) 3
      rw [h]
      rfl
    · unfold pdRuns pdOn
      rw [maltSource_pwr]
      exact rampUp_runs hst d.isLt
    · unfold pdOn
      rw [maltSource_pwr]
      exact rampUp_other he
    · obtain ⟨st, src, h⟩ := maltSource_eq (rampUp b d.toNat) 3
      rw [h]
      exact bit_setBit_self _ d.isLt true
    · exact maltSource_does (rampUp b d.toNat) (by decide)
  · exact onNext_stays (f := fun b => pdUp c b d) (pdUp_runs hruns)
  · obtain ⟨b1, hreq, hrest⟩ := pdRequest_does (c := c) (b := b) (v := v) hclean
    exact ⟨b1, onNext_gives (f := fun b => if b.malt.started then pdRequest c b v else b) hon ((if_pos hm).trans hreq), hrest⟩
  · refine ⟨_, onNext_gives (f := fun b => maltSource b i.toNat) hon (maltSource_waits hwait), rfl, fun j hj => ?_⟩
    exact taskBits_set _ i.isLt (by decide)
  · refine ⟨_, onNext_gives (f := fun b => maltSource b i.toNat) hon (maltSource_latches hbusy), rfl, fun j hj => ?_⟩
    by_cases hji : j = i.toNat
    · rw [decide_eq_true hji, Bool.or_true, hji]
      exact bit_setBit_self _ i.isLt true
    · rw [decide_eq_false hji, Bool.or_false]
      exact bit_setBit_other _ hji true
  · refine hstep hm ?_
    unfold maltStep
    rw [hnone]
  · refine hstep hm ?_
    rw [maltStep_word hpick hquiet hpc hlow, maltWord_addi (w := maltWordAt b n) haddi, ofNat_bits_zero (maltWordAt b n) (show 15 + 1 = 16 from rfl)]
    rfl
  · refine hstep hm ?_
    rw [maltStep_word hpick hquiet hpc hlow, maltWord_jump (w := maltWordAt b n) hjump,
      ofNat_bits_zero (maltWordAt b n) (show 25 + 1 = 26 from rfl), jumpOff, shift_two]
    rfl
  · refine hstep hm ?_
    rw [maltStep_word hpick hquiet hpc hlow, maltWord_undefined (w := maltWordAt b n) hundef]
    rfl
  · exact hstep hm (maltStep_misaligned hpick hpc)
  · exact hstep hm (maltStep_unmapped hpick hpc hhigh)

end Sys2Proof.Proofs
end

section
namespace Sys2Proof.Proofs
open Sys2Proof.Machine Sys2Proof.Laws

/-! What a wipe resets whatever its coverage (R444). -/

section
variable (cov : BitVec 4) (b : Blk)

theorem wipeReset_core : (wipeReset cov b).core = { Core.reset with run := b.core.run } := by
  unfold wipeReset; dsimp only; split <;> rfl
theorem wipeReset_caches : (wipeReset cov b).caches = Caches.reset := by unfold wipeReset; dsimp only; split <;> rfl
theorem wipeReset_lts : (wipeReset cov b).lts = Lts.reset := by unfold wipeReset; dsimp only; split <;> rfl
theorem wipeReset_tun : (wipeReset cov b).tun = Tun.reset := by unfold wipeReset; dsimp only; split <;> rfl
theorem wipeReset_ports : (wipeReset cov b).ports = rstatReset b.ports := by unfold wipeReset; dsimp only; split <;> rfl
theorem wipeReset_pwr : (wipeReset cov b).pwr = { b.pwr with tcmp := 0, wakepc := 0, mnotice := 0 } := by
  unfold wipeReset; dsimp only; split <;> rfl

end

/-- A wipe leaves the links as they stand. -/
theorem wipeReset_links (cov : BitVec 4) (b : Blk) : (wipeReset cov b).ports.mp = b.ports.mp ∧ (wipeReset cov b).ports.fp = b.ports.fp ∧
    (wipeReset cov b).ports.ce = b.ports.ce ∧ (wipeReset cov b).ports.cw = b.ports.cw := by
  rw [wipeReset_ports]
  exact ⟨rfl, rfl, rfl, rfl⟩

/-- The links of a block are four parts of its ports. -/
theorem getLink_parts {b b' : Blk} (h : b'.ports.mp = b.ports.mp ∧ b'.ports.fp = b.ports.fp ∧ b'.ports.ce = b.ports.ce ∧ b'.ports.cw = b.ports.cw)
    (p : BitVec 2) : getLink b' p = getLink b p := by
  obtain ⟨hmp, hfp, hce, hcw⟩ := h
  unfold getLink
  rw [hmp, hfp, hce, hcw]

/-! Warm resets and life-cycle changes (R450, R451). -/

/-- What a warm reset leaves of a block: all at its reset value but the configuration, the links going down as they stood. -/
def Warmed (b b1 : Blk) (last kind : BitVec 3) : Prop :=
  b1.core = Core.reset ∧ b1.lts = Lts.reset ∧
  b1.caches = Caches.reset ∧ b1.tun = Tun.reset ∧ b1.sync = Sync.reset ∧ b1.rings.rings = [] ∧ b1.sys.phase = 3 ∧ b1.sys.last = last ∧
  b1.sys.resetKind = kind ∧ b1.pwr.tcmp = 0 ∧ b1.pwr.wakepc = 0 ∧ b1.pwr.mnotice = 0 ∧ b1.pwr.state = .run ∧ b1.err.fatal = false ∧
  b1.malt.started = false ∧ b1.ports.outMp = [] ∧ b1.ports.outFp = [] ∧
  ∀ p, (getLink b1 p).state = stDown ∧
    ((getLink b p).state = stUp ∨ (getLink b p).state = stPaused → (getLink b1 p).tx = ((getLink b p).driveCtl p 6).tx)

/-- A link that goes down from UP or PAUSED has sent its DOWN block. -/
theorem downFrom_sends (p : BitVec 2) {l : Link} (h : l.state = stUp ∨ l.state = stPaused) : (downFrom p l).tx = (l.driveCtl p 6).tx := by
  unfold downFrom
  rw [if_pos (by simpa only [Bool.or_eq_true, decide_eq_true_eq] using h)]
  rfl

theorem Warmed.obs {b x b1 : Blk} {last kind : BitVec 3} (h : Warmed b x last kind) (ho : sameButObs x b1) : Warmed b b1 last kind := by
  unfold sameButObs at ho
  rw [ho]
  exact h

/-- The links count for a warm reset only as they stand. -/
theorem Warmed.of_ports {b b' b1 : Blk} {last kind : BitVec 3} (h : Warmed b' b1 last kind) (hp : b'.ports = b.ports) : Warmed b b1 last kind := by
  unfold Warmed at h ⊢
  simpa only [getLink_ports hp] using h

theorem warmBlk_warmed {b : Blk} (kind last : BitVec 3) (hheld : lcsHeld b = false) : Warmed b (warmBlk b kind last) last kind := by
  have hlinks := linksDown_links b
  have hheld' : lcsHeld (linksDown b) = false := by
    rw [hlinks]
    exact hheld
  have hget := getLink_linksDown b
  refine Warmed.obs ?_ (powerChanged_obs _ _)
  rw [hheld', if_neg Bool.false_ne_true]
  generalize linksDown b = d at hlinks hget
  generalize covUnion b (covOf kind) = cov
  have hcore := wipeReset_core cov { d with core := Core.reset }
  have hpwr := wipeReset_pwr cov { d with core := Core.reset }
  have hports := wipeReset_ports cov { d with core := Core.reset }
  refine ⟨hcore, wipeReset_lts .., wipeReset_caches .., wipeReset_tun .., rfl, rfl, rfl, rfl, rfl, ?_, ?_, ?_, rfl, rfl, rfl, rfl, rfl, fun p => ?_⟩
  · exact congrArg Power.tcmp hpwr
  · exact congrArg Power.wakepc hpwr
  · exact congrArg Power.mnotice hpwr
  · have hlinks := wipeReset_links cov { d with core := Core.reset }
    refine ⟨(congrArg Link.state ((getLink_parts hlinks p).trans (hget p))).trans (downFrom_state ..), fun hlive => ?_⟩
    exact (congrArg Link.tx ((getLink_parts hlinks p).trans (hget p))).trans (downFrom_sends p hlive)

section
variable {c : Cfg} {b : Blk}

theorem warmReset_running (h : b.sys.phase = 9) (kind last : BitVec 3) : warmReset c b kind last = (cfgReset c (kind == rkLcs), warmBlk b kind last) := by
  refine if_neg ?_
  unfold resetInProgress
  rw [h]
  exact Bool.false_ne_true

/-- A change of a supply line is the Maltster's to hear of. -/
theorem supplyChange_frame (b : Blk) : supplyChange b = { b with pwr := { b.pwr with mnotice := setBit b.pwr.mnotice 4 true }, malt := (supplyChange b).malt } := by
  obtain ⟨st, src, h⟩ := maltSource_eq { b with pwr := { b.pwr with mnotice := setBit b.pwr.mnotice 4 true } } 9
  unfold supplyChange
  rw [h]

theorem cbNext_does {s : State} {f : Cfg → Blk → Cfg × Blk} {c1 : Cfg} {b1 : Blk} (h : f s.cfg s.blk = (c1, b1)) :
    cbNext s f = .next { s with cfg := c1, blk := b1 } := by
  unfold cbNext
  rw [h]

/-- AON_PG_L falls in Run or Couch: a warm reset (R418). -/
theorem pgLLow_running (hans : hostAnswers b) (hphase : b.sys.phase = 9) (hst : b.pwr.state = .run ∨ b.pwr.state = .couch) :
    ∃ b1, pgLLow c b = (cfgReset c false, b1) ∧ Warmed b b1 4 2 := by
  have hframe := supplyChange_frame { b with pwr := { b.pwr with pgL := false } }
  have hon : ¬ (!blockOn { b with pwr := { b.pwr with pgL := false } }) = true := by
    rw [show blockOn { b with pwr := { b.pwr with pgL := false } } = true from hans.1]
    exact Bool.false_ne_true
  unfold pgLLow
  dsimp only
  rw [if_neg hon]
  generalize supplyChange { b with pwr := { b.pwr with pgL := false } } = x at hframe
  have hlive : (decide (x.pwr.state = .run) || decide (x.pwr.state = .couch)) = true := by
    rw [hframe]
    simpa only [Bool.or_eq_true, decide_eq_true_eq] using hst
  have hx : x.sys.phase = 9 := by
    rw [hframe]
    exact hphase
  have hheld : lcsHeld x = false := by
    rw [hframe]
    exact hans.2
  rw [if_pos hlive, warmReset_running hx]
  refine ⟨_, rfl, (warmBlk_warmed rkWarm 4 hheld).of_ports ?_⟩
  rw [hframe]

/-- AON_PG_M falls: a warm reset (R418). -/
theorem pgMLow_running (hans : hostAnswers b) (hphase : b.sys.phase = 9) : ∃ b1, pgMLow c b = (cfgReset c false, b1) ∧ Warmed b b1 5 2 := by
  have hframe := supplyChange_frame { b with pwr := { b.pwr with pgM := false } }
  have hon : ¬ (!blockOn { b with pwr := { b.pwr with pgM := false } }) = true := by
    rw [show blockOn { b with pwr := { b.pwr with pgM := false } } = true from hans.1]
    exact Bool.false_ne_true
  unfold pgMLow
  dsimp only
  rw [if_neg hon]
  generalize supplyChange { b with pwr := { b.pwr with pgM := false } } = x at hframe
  have hx : x.sys.phase = 9 := by
    rw [hframe]
    exact hphase
  have hidle : ¬ (resetInProgress x && decide (rkRank rkWarm < rkRank x.sys.resetKind)) = true := by
    unfold resetInProgress
    rw [hx]
    exact Bool.false_ne_true
  have hheld : lcsHeld x = false := by
    rw [hframe]
    exact hans.2
  rw [if_neg hidle, warmReset_running hx]
  refine ⟨_, rfl, (warmBlk_warmed rkWarm 5 hheld).of_ports ?_⟩
  rw [hframe]

/-! Life-cycle changes (R440, R441). -/

variable {lcs : BitVec 3} {valid : Bool}

/-- The block that has taken the life-cycle lines. -/
def lcsTaken (b : Blk) (lcs : BitVec 3) (valid : Bool) : Blk :=
  let n := b.sys.changes
  let x := maltSource { b with sys := { b.sys with lcs := lcs, lcsValid := valid, scanOut := 0, changes := if n = 0xFF then n else n + 1 } } 10
  { x with pwr := { x.pwr with cd := setBit x.pwr.cd 39 (cd39 x != 0) } }

theorem lcsTaken_frame (b : Blk) (lcs : BitVec 3) (valid : Bool) : lcsTaken b lcs valid = { b with
    pwr := (lcsTaken b lcs valid).pwr, malt := (lcsTaken b lcs valid).malt, sys := { b.sys with
      lcs := lcs, lcsValid := valid, scanOut := 0, changes := if b.sys.changes = 0xFF then b.sys.changes else b.sys.changes + 1 } } := by
  obtain ⟨st, src, h⟩ := maltSource_eq { b with sys := { b.sys with
    lcs := lcs, lcsValid := valid, scanOut := 0, changes := if b.sys.changes = 0xFF then b.sys.changes else b.sys.changes + 1 } } 10
  unfold lcsTaken
  dsimp only
  rw [h]

theorem lcsTaken_held (hlcs : lcs.toNat < 4) : lcsHeld (lcsTaken b lcs true) = false := by
  have hbit : bit lcs 2 = false := Nat.testBit_lt_two_pow (show lcs.toNat < 2 ^ 2 from hlcs)
  rw [lcsTaken_frame]
  unfold lcsHeld
  rw [hbit]
  rfl

theorem lcsChange_same (h1 : lcs = b.sys.lcs) (h2 : valid = b.sys.lcsValid) : lcsChange c b lcs valid = (c, b) := by
  unfold lcsChange
  rw [h1, h2]
  simp

/-- What a block does once it has taken changed lines: a cold sequence goes on with them, and elsewhere they reset the block. -/
def lcsGo (c : Cfg) (x : Blk) : Cfg × Blk :=
  if x.sys.resetKind = rkCold && resetInProgress x then
    if lcsHeld (lcsCold x) then
      let d := linksDown (lcsCold x)
      (cfgReset c true, setPds { d with sys := { d.sys with phase := 0, img := none, entry := none, imgFail := 0 }
                                        ports := { d.ports with outMp := [], outFp := [], failed := [] } } 3)
    else if (lcsCold x).sys.phase = 0 then (cfgReset c true, setPhase (lcsCold x) 1)
    else (cfgReset c true, lcsCold x)
  else warmReset c x rkLcs 6

theorem lcsChange_eq (hon : blockOn b = true) (hnew : ¬ (lcs = b.sys.lcs ∧ valid = b.sys.lcsValid)) :
    lcsChange c b lcs valid = lcsGo c (lcsTaken b lcs valid) := by
  have hpins : ¬ (!(b.pwr.porstN && b.pwr.pgAon)) = true := by
    rw [show (b.pwr.porstN && b.pwr.pgAon) = true from hon]
    exact Bool.false_ne_true
  have hdiff : ¬ (decide (b.sys.lcs = lcs) && (b.sys.lcsValid == valid)) = true := by
    rw [Bool.and_eq_true, decide_eq_true_eq, beq_iff_eq]
    exact fun h => hnew ⟨h.1.symm, h.2.symm⟩
  unfold lcsChange
  rw [if_neg hpins, if_neg hdiff]
  extract_lets n _ x _ taken
  change _ = lcsGo c taken
  clear_value taken
  unfold lcsGo
  dsimp only

theorem lcsChange_running (hans : hostAnswers b) (hphase : b.sys.phase = 9) (hlcs : lcs.toNat < 4)
    (hnew : ¬ (lcs = b.sys.lcs ∧ true = b.sys.lcsValid)) : ∃ b1, lcsChange c b lcs true = (cfgReset c true, b1) ∧ Warmed b b1 6 4 := by
  have hframe := lcsTaken_frame b lcs true
  have hheld := lcsTaken_held (b := b) hlcs
  rw [lcsChange_eq hans.1 hnew]
  unfold lcsGo
  generalize lcsTaken b lcs true = x at hframe hheld
  have hx : x.sys.phase = 9 := by
    rw [hframe]
    exact hphase
  have hidle : ¬ (decide (x.sys.resetKind = rkCold) && resetInProgress x) = true := by
    unfold resetInProgress
    rw [hx]
    simp
  rw [if_neg hidle, warmReset_running hx]
  refine ⟨_, rfl, (warmBlk_warmed rkLcs 6 hheld).of_ports ?_⟩
  rw [hframe]

/-- What a change in a cold sequence does to the sequence's state. -/
theorem lcsCold_sys (x : Blk) : (lcsCold x).sys.lcs = x.sys.lcs ∧ (lcsCold x).sys.lcsValid = x.sys.lcsValid ∧
    (lcsCold x).sys.phase = x.sys.phase ∧ ∀ w, x.sys.kiln = some w →
      (lcsCold x).sys.kiln = some { cov := w.cov &&& 7 ||| 1, lts := [], uworld := none } ∧ (lcsCold x).sys.kilnQueue = [] ∧
        (lcsCold x).sys.kilnTrig = 4 := by
  unfold lcsCold
  dsimp only
  split
  · refine ⟨rfl, rfl, rfl, fun w hw => ⟨?_, rfl, rfl⟩⟩
    unfold covUnion
    rw [hw]
  · next hno => exact ⟨rfl, rfl, rfl, fun w hw => absurd (congrArg Option.isSome hw) hno⟩

/-- A change in a cold sequence that does not hold it: the logs are cleared and a wipe starts again. -/
theorem lcsChange_cold (hans : hostAnswers b) (hkind : b.sys.resetKind = 1) (h9 : b.sys.phase ≠ 9) (h10 : b.sys.phase ≠ 10) (hlcs : lcs.toNat < 4)
    (hnew : ¬ (lcs = b.sys.lcs ∧ true = b.sys.lcsValid)) : ∃ b1, lcsChange c b lcs true = (cfgReset c true, b1) ∧
      b1.sys.lcs = lcs ∧ b1.sys.lcsValid = true ∧
        b1.sys.phase = (if b.sys.phase = 0 then 1 else b.sys.phase) ∧ b1.err.pend = false ∧ b1.rings.clogTotal = 0 ∧
        (∀ w, b.sys.kiln = some w →
          b1.sys.kiln = some { cov := w.cov &&& 7 ||| 1, lts := [], uworld := none } ∧ b1.sys.kilnQueue = [] ∧ b1.sys.kilnTrig = 4) := by
  have hframe := lcsTaken_frame b lcs true
  have hheld : lcsHeld (lcsCold (lcsTaken b lcs true)) = false := by
    refine Eq.trans ?_ (lcsTaken_held (b := b) hlcs)
    unfold lcsCold lcsHeld
    dsimp only
    split <;> rfl
  rw [lcsChange_eq hans.1 hnew]
  unfold lcsGo
  rw [hheld, if_neg Bool.false_ne_true]
  generalize lcsTaken b lcs true = x at hframe hheld
  have hgoing : (decide (x.sys.resetKind = rkCold) && resetInProgress x) = true := by
    unfold resetInProgress
    rw [hframe]
    dsimp only
    rw [hkind, decide_eq_true h9, decide_eq_true h10]
    rfl
  rw [if_pos hgoing]
  have hx : x.sys.lcs = lcs ∧ x.sys.lcsValid = true ∧ x.sys.phase = b.sys.phase ∧ x.sys.kiln = b.sys.kiln := by
    rw [hframe]
    exact ⟨rfl, rfl, rfl, rfl⟩
  obtain ⟨hx1, hx2, hx3, hx4⟩ := hx
  obtain ⟨h1, h2, h3, h4⟩ := lcsCold_sys x
  rw [hx1] at h1
  rw [hx2] at h2
  rw [hx3] at h3
  rw [hx4] at h4
  rw [h3]
  split
  · exact ⟨_, rfl, h1, h2, rfl, rfl, rfl, h4⟩
  · exact ⟨_, rfl, h1, h2, h3, rfl, rfl, h4⟩

end

end Sys2Proof.Proofs
end

section
namespace Sys2Proof.Proofs
open Sys2Proof.Machine Sys2Proof.Laws

/-! The phase of the start-up sequence through the beats of a wipe (R315, R445). -/

theorem countEvents_phase (b : Blk) (ev : Nat) (l : BitVec 2) (w : Bool) (k : Nat) : (countEvents b ev l w k).sys.phase = b.sys.phase :=
  sameButObs_part (countEvents_same b ev l w k) (fun b => b.sys.phase) fun _ => rfl

theorem receiveBeat_phase (b : Blk) : (receiveBeat b).2.sys.phase = b.sys.phase := by
  unfold receiveBeat
  split <;> rfl

theorem beatGo_phase : ∀ (n : Nat) (b : Blk), (beatGo n b).2.sys.phase = b.sys.phase
  | 0, _ => rfl
  | n + 1, b => by
    have hreread (x : Blk) : (reread x).sys.phase = x.sys.phase := countEvents_phase ..
    unfold beatGo
    dsimp only
    split
    · exact receiveBeat_phase b
    · split
      · rw [beatGo_phase n, receiveBeat_phase]
      · rw [beatGo_phase n, hreread, receiveBeat_phase]

theorem crossing_phase (world : Bool) (addr : Nat → Word) : ∀ (k p : Nat) (b : Blk), (crossing world addr k p b).2.sys.phase = b.sys.phase
  | 0, _, _ => rfl
  | k + 1, p, b => by
    have hlog (x : Blk) : (logErr x 5 7 world (addr p)).sys.phase = x.sys.phase := by
      unfold logErr
      split <;> rfl
    unfold crossing
    split
    · rfl
    · dsimp only
      rw [crossing_phase world addr k]
      split
      · exact beatGo_phase 4 b
      · rw [hlog]
        exact beatGo_phase 4 b

theorem goFatal_phase (b : Blk) : (goFatal b).sys.phase = b.sys.phase := by
  unfold goFatal
  split
  · rfl
  · rw [fatalFront_frame]
    dsimp only
    rw [maltSource_sys]

/-- A wipe whose write fails puts the block in fatal state and sets KZ_KILN_STAT.FAIL (R445). -/
theorem kilnCross_failed {b : Blk} {w : Wipe} (h : (kilnCross b w).1 = false) : (kilnCross b w).2.sys.kilnFail = true ∧
    (kilnCross b w).2.err.fatal = true ∧ (kilnCross b w).2.sys.phase = b.sys.phase := by
  have hfailed : (tryCross false (wipeBeats w) b).1 = false := by
    unfold kilnCross at h
    dsimp only at h
    split at h
    · exact h
    · next hx => exact Bool.eq_false_iff.mpr hx
  have hstop : (tryCross false (wipeBeats w) b).2.err.fatal = true ∧ (tryCross false (wipeBeats w) b).2.sys.phase = b.sys.phase := by
    unfold tryCross at hfailed ⊢
    dsimp only at hfailed ⊢
    split at hfailed
    · next hx => exact absurd hfailed.symm Bool.false_ne_true
    · next hx =>
      rw [if_neg hx]
      refine ⟨?_, (goFatal_phase _).trans (crossing_phase ..)⟩
      rw [goFatal_err]
  unfold kilnCross
  dsimp only
  rw [if_neg (by rw [hfailed]; exact Bool.false_ne_true)]
  exact ⟨rfl, hstop⟩

theorem kilnCross_quiet {b : Blk} (h : b.sys.beats = []) (w : Wipe) : kilnCross b w = (true, b) := by
  have hcross : tryCross false (wipeBeats w) b = (true, b) := by
    unfold tryCross
    rw [crossing_quiet h]
    rfl
  unfold kilnCross
  rw [hcross]
  rfl

/-! The end of a wipe (R444, R445). -/

/-- The domains that a wipe needs are powered. -/
def powerUps (b : Blk) (ds : List Nat) : Blk := ds.foldl (fun b d => if pdOn b d then b else powerOn b d) b

theorem powerUps_frame : ∀ (ds : List Nat) (b : Blk), powerUps b ds = { b with pwr := (powerUps b ds).pwr }
  | [], _ => rfl
  | d :: ds, b => by
    have hstep : (if pdOn b d then b else powerOn b d) = { b with pwr := (if pdOn b d then b else powerOn b d).pwr } := by
      split <;> rfl
    have hrest := powerUps_frame ds (if pdOn b d then b else powerOn b d)
    show powerUps (if pdOn b d then b else powerOn b d) ds = { b with pwr := (powerUps (if pdOn b d then b else powerOn b d) ds).pwr }
    generalize (if pdOn b d then b else powerOn b d) = x at hstep hrest
    rw [hrest, hstep]

theorem powerUps_on : ∀ {ds : List Nat} (b : Blk), (∀ d ∈ ds, d < 32) → ∀ e, pdOn (powerUps b ds) e = (pdOn b e || ds.contains e)
  | [], b, _, e => (Bool.or_false _).symm
  | d :: ds, b, h, e => by
    have hstep : pdOn (if pdOn b d then b else powerOn b d) e = (pdOn b e || e == d) := by
      split
      · next hon =>
        by_cases hed : e = d
        · subst hed
          rw [hon, Bool.true_or]
        · rw [beq_eq_false_iff_ne.mpr hed, Bool.or_false]
      · by_cases hed : e = d
        · subst hed
          rw [beq_self_eq_true, Bool.or_true]
          exact bit_setBit_self _ (h e List.mem_cons_self) true
        · rw [beq_eq_false_iff_ne.mpr hed, Bool.or_false]
          exact bit_setBit_other _ hed true
    have hrest := powerUps_on (if pdOn b d then b else powerOn b d) (fun d' hd' => h d' (List.mem_cons_of_mem d hd')) e
    exact hrest.trans (by rw [hstep, Bool.or_assoc, List.contains_cons])

section
variable {c : Cfg} {b : Blk} {w : Wipe}

/-- The block after a wipe of its LTS, tile and Tun state, before the Kiln's own state. -/
def wiped (c : Cfg) (b : Blk) (w : Wipe) : Blk :=
  let x := powerUps b (wipePds c w)
  let x := if bit w.cov 2 then wipeReset w.cov x else x
  let x := if bit w.cov 3 then wipeUnits x else x
  let x := w.lts.foldl wipeLts x
  match w.uworld with
  | some u => { x with core := { x.core with ps := { x.core.ps with uworld := u } } }
  | none => x

/-- The Kiln goes on to the wipe that waits, and counts the one that ended. -/
def kilnNext (x : Blk) : Sys :=
  { x.sys with
    kiln := x.sys.kilnQueue.head?, kilnQueue := x.sys.kilnQueue.drop 1
    kilnCount := if x.sys.kilnCount = 0xFFFF then x.sys.kilnCount else x.sys.kilnCount + 1
    kilnTrig := match x.sys.kilnQueue with
      | [] => x.sys.kilnTrig
      | q :: _ => if bit q.cov 3 then 5 else 6 }

theorem kilnFinish_eq (c : Cfg) (b : Blk) (w : Wipe) : kilnFinish c b w = maltSource { wiped c b w with sys := kilnNext (wiped c b w) } 11 := rfl

/-- A wipe that is not core-only changes neither the error state nor the sequence's. -/
theorem wiped_keeps (h : bit w.cov 2 = false) : (wiped c b w).err = b.err ∧ (wiped c b w).sys = b.sys := by
  unfold wiped
  dsimp only
  rw [h, if_neg Bool.false_ne_true]
  have hpowered : (powerUps b (wipePds c w)).err = b.err ∧ (powerUps b (wipePds c w)).sys = b.sys := by
    rw [powerUps_frame]
    exact ⟨rfl, rfl⟩
  generalize powerUps b (wipePds c w) = x at hpowered
  have hunits : (if bit w.cov 3 then wipeUnits x else x).err = b.err ∧ (if bit w.cov 3 then wipeUnits x else x).sys = b.sys := by
    split
    · exact hpowered
    · exact hpowered
  generalize (if bit w.cov 3 then wipeUnits x else x) = y at hunits
  have hlts := foldl_keeps (P := fun y : Blk => y.err = b.err ∧ y.sys = b.sys) (f := wipeLts) (fun _ _ hy => hy) w.lts y hunits
  split
  · exact hlts
  · exact hlts

theorem kilnFinish_keeps (h : bit w.cov 2 = false) : (kilnFinish c b w).err = b.err ∧ (kilnFinish c b w).sys.phase = b.sys.phase ∧
    (kilnFinish c b w).sys.kilnFail = b.sys.kilnFail := by
  obtain ⟨herr, hsys⟩ := wiped_keeps (c := c) (b := b) h
  rw [kilnFinish_eq, maltSource_err, maltSource_sys]
  unfold kilnNext
  rw [hsys]
  exact ⟨herr, rfl, rfl⟩

/-- What a failed sequence keeps of the error state. -/
theorem seqFail_does (b : Blk) (code : BitVec 4) : (seqFail b code).err = b.err ∧ (seqFail b code).sys.phase = 10 ∧
    (seqFail b code).sys.failcode = code ∧ (seqFail b code).sys.kilnFail = b.sys.kilnFail := by
  have hlinks := linksLost_links b
  unfold seqFail
  dsimp only
  rw [setPds_power]
  generalize linksLost b = x at hlinks
  unfold sameButLinks at hlinks
  rw [hlinks]
  exact ⟨rfl, rfl, rfl, rfl⟩

theorem phase_past_wipe (h : b.sys.phase ≠ 3) : (decide (b.sys.phase = 3) && !wipePowered b) = false := by
  rw [decide_eq_false h, Bool.false_and]

theorem kilnDone_eq (hw : b.sys.kiln = some w) (hcov : bit w.cov 2 = false)
    (hdue : (decide (b.sys.phase = 3) && !wipePowered b) = false) : kilnDone c b =
    if !(kilnCross b w).1 && resetInProgress (kilnFinish c (kilnCross b w).2 w) then seqFail (kilnFinish c (kilnCross b w).2 w) 10
    else if (kilnFinish c (kilnCross b w).2 w).sys.phase = 3 && (kilnFinish c (kilnCross b w).2 w).sys.kiln.isNone then
      afterWipe (kilnFinish c (kilnCross b w).2 w)
    else kilnFinish c (kilnCross b w).2 w := by
  unfold kilnDone
  rw [hw]
  dsimp only
  rw [hcov, Bool.false_and, if_neg Bool.false_ne_true, hdue, if_neg Bool.false_ne_true]

/-- A wipe whose write failed: the block is in fatal state, and a sequence ends. -/
theorem kilnDone_failed (hw : b.sys.kiln = some w) (hcov : bit w.cov 2 = false) (hphase : b.sys.phase = 8 ∨ b.sys.phase = 9)
    (hfail : (kilnCross b w).1 = false) : (kilnDone c b).sys.kilnFail = true ∧ (kilnDone c b).err.fatal = true ∧
      (b.sys.phase = 8 → (kilnDone c b).sys.phase = 10 ∧ (kilnDone c b).sys.failcode = 10) := by
  have h3 : b.sys.phase ≠ 3 := by rcases hphase with h | h <;> rw [h] <;> decide
  obtain ⟨hkfail, hfatal, hkphase⟩ := kilnCross_failed hfail
  obtain ⟨herr, hfphase, hffail⟩ := kilnFinish_keeps (c := c) (b := (kilnCross b w).2) hcov
  rw [kilnDone_eq hw hcov (phase_past_wipe h3), hfail, Bool.not_false, Bool.true_and]
  generalize kilnFinish c (kilnCross b w).2 w = x at herr hfphase hffail
  rw [hkphase] at hfphase
  rcases hphase with h8 | h9
  · have hgoing : resetInProgress x = true := by
      unfold resetInProgress
      rw [hfphase, h8]
      rfl
    obtain ⟨hserr, hsphase, hscode, hsfail⟩ := seqFail_does x 10
    rw [if_pos hgoing, hserr, herr, hsfail, hffail]
    exact ⟨hkfail, hfatal, fun _ => ⟨hsphase, hscode⟩⟩
  · have hended : ¬ resetInProgress x = true := by
      unfold resetInProgress
      rw [hfphase, h9]
      exact Bool.false_ne_true
    have hlate : ¬ (decide (x.sys.phase = 3) && x.sys.kiln.isNone) = true := by
      rw [hfphase, h9]
      exact Bool.false_ne_true
    rw [if_neg hended, if_neg hlate, herr, hffail]
    exact ⟨hkfail, hfatal, fun h8 => absurd (h8.symm.trans h9) (by decide)⟩

/-- A wipe of a range of the LTS powers the quarters that are available. -/
theorem wiped_range (lo hi : Nat) : wiped c b { cov := 0, lts := [(lo, hi)], uworld := none } =
    wipeLts (powerUps b ([25, 26, 27, 28].filter fun d => bit c.qen (d - 25))) (lo, hi) := by
  have hcov2 : bit (0 : BitVec 4) 2 = false := by decide
  have hcov3 : bit (0 : BitVec 4) 3 = false := by decide
  unfold wiped wipePds
  dsimp only
  rw [hcov2, hcov3]
  rfl

/-- A wipe of a range of the LTS after the sequence: the range is zero, the quarters' domains are powered, and the Kiln counts it. -/
theorem kilnDone_range {lo hi : Nat} (hw : b.sys.kiln = some { cov := 0, lts := [(lo, hi)], uworld := none }) (hqueue : b.sys.kilnQueue = [])
    (hphase : b.sys.phase = 9) (hquiet : b.sys.beats = []) : ∃ b1, kilnDone c b = b1 ∧
      b1 = { b with lts := b1.lts, sys := b1.sys, malt := b1.malt, pwr := b1.pwr } ∧ b1.sys.kiln = none ∧
      b1.sys.kilnCount = (if b.sys.kilnCount = 0xFFFF then 0xFFFF else b.sys.kilnCount + 1) ∧
      (∀ d, 25 ≤ d → d ≤ 28 → pdOn b1 d = (pdOn b d || bit c.qen (d - 25))) ∧
      ∀ j : Nat, Sparse.get b1.lts.bytes j = if lo ≤ j ∧ j < hi then 0 else Sparse.get b.lts.bytes j := by
  have h3 : b.sys.phase ≠ 3 := by rw [hphase]; decide
  have hpd := powerUps_on (ds := [25, 26, 27, 28].filter fun d => bit c.qen (d - 25)) b fun d hd => by
    have hd' := (List.mem_filter.mp hd).1
    simp only [List.mem_cons, List.not_mem_nil, or_false] at hd'
    omega
  have hframe := powerUps_frame ([25, 26, 27, 28].filter fun d => bit c.qen (d - 25)) b
  rw [kilnDone_eq hw (show bit (0 : BitVec 4) 2 = false by decide) (phase_past_wipe h3), kilnCross_quiet hquiet]
  dsimp only
  rw [kilnFinish_eq, wiped_range, Bool.not_true, Bool.false_and, if_neg Bool.false_ne_true]
  generalize powerUps b ([25, 26, 27, 28].filter fun d => bit c.qen (d - 25)) = x at hpd hframe
  have hsys : x.sys = b.sys := by rw [hframe]
  obtain ⟨st, src, hsrc⟩ := maltSource_eq { wipeLts x (lo, hi) with sys := kilnNext (wipeLts x (lo, hi)) } 11
  rw [hsrc]
  have hlate : ¬ (decide ((kilnNext (wipeLts x (lo, hi))).phase = 3) && (kilnNext (wipeLts x (lo, hi))).kiln.isNone) = true := by
    rw [show (kilnNext (wipeLts x (lo, hi))).phase = x.sys.phase from rfl, hsys, hphase]
    exact Bool.false_ne_true
  refine ⟨_, if_neg hlate, ?_, ?_, ?_, fun d hlo hhi => ?_, fun j => ?_⟩
  · rw [hframe]
    rfl
  · show x.sys.kilnQueue.head? = none
    rw [hsys, hqueue]
    rfl
  · show (if x.sys.kilnCount = 0xFFFF then x.sys.kilnCount else x.sys.kilnCount + 1) = _
    rw [hsys]
    split
    · next h => exact h
    · rfl
  · refine (hpd d).trans (congrArg (pdOn b d || ·) ?_)
    rw [Bool.eq_iff_iff, List.contains_iff_mem, List.mem_filter]
    refine ⟨fun h => h.2, fun h => ⟨?_, h⟩⟩
    simp only [List.mem_cons, List.not_mem_nil, or_false]
    omega
  · refine (get_clear x.lts.bytes lo hi j).trans ?_
    rw [hframe]

end

/-! Cold resets (R418, R449). -/

/-- A cold reset keeps the pins alone. -/
theorem cold_does (b : Blk) (porstN pgAon : Bool) : ∃ b1, coldBlk { b with pwr := { b.pwr with porstN := porstN, pgAon := pgAon } } = b1 ∧
    b1 = { Blk.reset with
      ports := b1.ports, pwr := { Power.reset with porstN := porstN, pgAon := pgAon, pgL := b.pwr.pgL, pgM := b.pwr.pgM }, freeCount := b.freeCount } ∧
    b1.ports.outMp = [] ∧ b1.ports.outFp = [] ∧ ∀ p, getLink b1 p = { Link.reset with lreqI := (getLink b p).lreqI } := by
  refine ⟨_, rfl, rfl, rfl, rfl, fun p => ?_⟩
  rcases port_cases p with h | h | h | h <;> subst h <;> rfl

/-- Settles O50: the resets as what each keeps, the Kiln's end by its beats. -/
theorem resetsAndWipes : Obligations.ResetsAndWipes := by
  intro s lcs valid c b cold warm kept lcsKept fresh
  have hlcs {c1 : Cfg} {b1 : Blk} (hon : blockOn b = true) (h : lcsChange c b lcs valid = (c1, b1)) : GivesCfg s (.lifeCycleChange lcs valid) c1 b1 :=
    cbNext_does (f := fun c b => if blockOn b then lcsChange c b lcs valid else (c, b)) ((if_pos hon).trans h)
  refine ⟨?_, ?_, fun hans hphase => ⟨fun hst => ?_, ?_, fun hfresh => ?_⟩, fun hans h1 h2 => ?_, fun hans hkind h9 h10 hfresh => ?_, fun hon hno => ?_,
    fun lo hi hon hw hqueue hphase hquiet => ?_, fun w hon hw hcov hphase hfail => ?_⟩
  · obtain ⟨b1, hcold, hrest⟩ := cold_does b false b.pwr.pgAon
    exact ⟨b1, cbNext_does (f := fun _ b => (Cfg.reset, coldBlk { b with pwr := { b.pwr with porstN := false } })) (congrArg (Prod.mk Cfg.reset) hcold), hrest⟩
  · obtain ⟨b1, hcold, hrest⟩ := cold_does b b.pwr.porstN false
    exact ⟨b1, cbNext_does (f := fun _ b => (Cfg.reset, coldBlk { b with pwr := { b.pwr with pgAon := false } })) (congrArg (Prod.mk Cfg.reset) hcold), hrest⟩
  · obtain ⟨b1, hfall, hwarm⟩ := pgLLow_running (c := c) hans hphase hst
    exact ⟨b1, cbNext_does (f := pgLLow) hfall, hwarm⟩
  · obtain ⟨b1, hfall, hwarm⟩ := pgMLow_running (c := c) hans hphase
    exact ⟨b1, cbNext_does (f := pgMLow) hfall, hwarm⟩
  · obtain ⟨hvalid, hrange, hnew⟩ := hfresh
    subst hvalid
    obtain ⟨b1, hchange, hwarm⟩ := lcsChange_running (c := c) hans hphase hrange hnew
    exact ⟨b1, hlcs hans.1 hchange, hwarm⟩
  · exact hlcs hans.1 (lcsChange_same h1 h2)
  · obtain ⟨hvalid, hrange, hnew⟩ := hfresh
    subst hvalid
    obtain ⟨b1, hchange, hrest⟩ := lcsChange_cold (c := c) hans hkind h9 h10 hrange hnew
    exact ⟨b1, hlcs hans.1 hchange, hrest⟩
  · refine onNext_stays (f := kilnDone c) ?_
    unfold kilnDone
    rw [hno]
  · obtain ⟨b1, hdone, hrest⟩ := kilnDone_range (c := c) hw hqueue hphase hquiet
    exact ⟨b1, onNext_gives (f := kilnDone c) hon hdone, hrest⟩
  · exact ⟨_, onNext_gives (f := kilnDone c) hon rfl, kilnDone_failed hw hcov hphase hfail⟩

end Sys2Proof.Proofs
end

section
namespace Sys2Proof.Proofs
open Sys2Proof.Machine Sys2Proof.Laws

/-! The ends of the start-up sequence: FAILED and RUNNING (R461, R462). -/

/-- The sequence of block `b` has stopped in FAILED with a code. -/
def SeqFailed (b b1 : Blk) (code : BitVec 4) : Prop := b1.sys.phase = 10 ∧ b1.sys.failcode = code ∧ b1.pwr.pd = 3 ∧
  b1.core.run = .held ∧ ∀ p, (getLink b1 p).state = if (getLink b p).state = stFailed then stFailed else stDown

/-- What of a block a failed sequence keeps. -/
theorem seqFail_keeps (x : Blk) (code : BitVec 4) : (seqFail x code).malt = x.malt ∧ (seqFail x code).mmu = x.mmu ∧
    (∃ pd cd, (seqFail x code).pwr = { x.pwr with pd := pd, cd := cd }) ∧
    (seqFail x code).sys = { x.sys with phase := 10, failcode := code, entry := none, imgFail := 0, img := none } := by
  have hlinks := linksLost_links x
  unfold seqFail
  dsimp only
  generalize linksLost x = y at hlinks
  unfold sameButLinks at hlinks
  obtain ⟨cd, hpds⟩ := setPds_frame { y with
    sys := { y.sys with phase := 10, failcode := code, entry := none, imgFail := 0, img := none }
    ports := { y.ports with outMp := y.ports.outMp.filter fun o => o.purpose != .boot && o.purpose != .image }
    core := { y.core with run := .held } } 3
  rw [hpds, hlinks]
  exact ⟨rfl, rfl, ⟨_, _, rfl⟩, rfl⟩

theorem seqFail_failed {b x : Blk} (hlinks : ∀ p, (getLink x p).state = (getLink b p).state) (code : BitVec 4) : SeqFailed b (seqFail x code) code := by
  obtain ⟨-, -, -, hsys⟩ := seqFail_keeps x code
  refine ⟨congrArg Sys.phase hsys, congrArg Sys.failcode hsys, ?_, ?_, fun p => ?_⟩
  · unfold seqFail
    rw [setPds_pwr]
    rfl
  · unfold seqFail
    rw [setPds_power]
  · have hports : getLink (seqFail x code) p = getLink (linksLost x) p := by
      unfold seqFail
      exact (getLink_ports (setPds_ports ..) p).trans (getLink_parts ⟨rfl, rfl, rfl, rfl⟩ p)
    rw [hports, getLink_linksLost, ← hlinks p]
    split
    · next h => exact h
    · rfl

section
variable {c : Cfg} {b : Blk}

/-- The main core runs at an entry after the sequence. -/
def Released (c : Cfg) (b b1 : Blk) (e : Word) : Prop := b1.sys.phase = 9 ∧ b1.core.run = .running ∧ b1.core.pc = e ∧
  b1.core.ps = Pstate.reset ∧ b1.core.reg 8 = b.sys.last.zeroExtend 64 ∧ b1.core.reg 9 = c.cimg ∧
  b1.core.mb.vbase = BitVec.ofNat 64 (c.node.toNat * 2 ^ 47) ∧ ∀ d, 25 ≤ d → d ≤ 28 → bit c.qen (d - 25) = false → pdOn b1 d = false

/-- The core as the sequence releases it. -/
def releasedCore (c : Cfg) (last : BitVec 3) : Core :=
  (({ Core.reset with mb := { Bank.reset with vbase := nodeBase c } } : Core).setReg 8 (last.zeroExtend 64)).setReg 9 c.cimg

theorem releasedCore_regs (c : Cfg) (last : BitVec 3) : (releasedCore c last).reg 8 = last.zeroExtend 64 ∧ (releasedCore c last).reg 9 = c.cimg := by
  refine ⟨?_, get_set_self ..⟩
  exact (get_set_other _ _ _ _ fun h => absurd (h : (16 : Nat) = 17) (by decide)).trans (get_set_self ..)

theorem nodeBase_eq (c : Cfg) : nodeBase c = BitVec.ofNat 64 (c.node.toNat * 2 ^ 47) := by
  have hlt := c.node.isLt
  unfold nodeBase withNode setBits
  change (0#64 &&& _) ||| _ = _
  rw [BitVec.zero_and, BitVec.zero_or, Nat.mod_eq_of_lt (by omega), Nat.shiftLeft_eq]

/-- The unavailable quarters' domains are off in the domains that the release keeps. -/
theorem released_pd (pd : W32) {d : Nat} (h25 : 25 ≤ d) (h28 : d ≤ 28) (hoff : bit c.qen (d - 25) = false) :
    bit ((pd &&& (~~~(15 <<< 25 : W32) ||| quarterPds c)) ||| 3) d = false := by
  have hq : bit (quarterPds c) d = false := by
    unfold quarterPds bit
    rw [BitVec.getLsbD_ofNat, Nat.testBit_mul_two_pow]
    rw [show c.qen.toNat.testBit (d - 25) = false from hoff, Bool.and_false, Bool.and_false]
  unfold bit at hq ⊢
  have h3 : (3 : W32).getLsbD d = false := by
    interval_cases d <;> decide
  have hmask : (~~~(15 <<< 25 : W32)).getLsbD d = false := by
    interval_cases d <;> decide
  rw [BitVec.getLsbD_or, BitVec.getLsbD_and, BitVec.getLsbD_or, hq, h3, hmask, Bool.or_false, Bool.or_false, Bool.and_false]

/-- The release of a core in a block whose domains are those of its partition. -/
def releaseIn (x : Blk) (k : Core) (entry : Word) : Blk :=
  let y := releaseAt { x with core := k } entry
  let y := match epochReady y with
    | some e => { y with rings := { y.rings with epCore := e, epVec := e, epTile := e } }
    | none => y
  let y := if y.sys.resetKind = rkCore && !y.sys.full then y
    else
      { y with malt := { y.malt with started := true, regs := [], pcs := Sparse.set [] 0 y.sys.maltEntry, stat := 1, taskPc := 0, msrc := 0 } }
  { y with sys := { y.sys with phase := 9, resetKind := 0, full := false, entry := none, imgFail := 0 } }

/-- The block with the domains of an unavailable quarter off. -/
def partitioned (c : Cfg) (b : Blk) : Blk := setPds b (b.pwr.pd &&& (~~~(15 <<< 25 : W32) ||| quarterPds c))

theorem release_eq (c : Cfg) (b : Blk) (e : Word) :
    release c b e = releaseIn (partitioned c b) (releasedCore c (partitioned c b).sys.last) e := rfl

theorem releaseIn_does (x : Blk) (k : Core) (e : Word) : (releaseIn x k e).sys.phase = 9 ∧ (releaseIn x k e).core = { k with run := .running, pc := e } ∧
    (releaseIn x k e).pwr = x.pwr ∧ (releaseIn x k e).mmu = x.mmu := by
  have hepoch (y : Blk) (r : Rings → BitVec 16 → Rings) (o : Option (BitVec 16)) : ∃ rings,
      (match o with | some e => { y with rings := r y.rings e } | none => y) = { y with rings := rings } := by
    cases o
    · exact ⟨_, rfl⟩
    · exact ⟨_, rfl⟩
  unfold releaseIn
  dsimp only
  obtain ⟨rings, h⟩ := hepoch (releaseAt { x with core := k } e) (fun r e => { r with epCore := e, epVec := e, epTile := e })
    (epochReady (releaseAt { x with core := k } e))
  dsimp only at h
  rw [h]
  split
  · exact ⟨rfl, rfl, rfl, rfl⟩
  · exact ⟨rfl, rfl, rfl, rfl⟩

theorem release_released (c : Cfg) (b : Blk) (e : Word) : Released c b (release c b e) e := by
  obtain ⟨hphase, hcore, hpwr, -⟩ := releaseIn_does (partitioned c b) (releasedCore c (partitioned c b).sys.last) e
  have hlast : (partitioned c b).sys.last = b.sys.last := by
    unfold partitioned
    rw [setPds_power]
  obtain ⟨h8, h9⟩ := releasedCore_regs c b.sys.last
  rw [release_eq]
  rw [hlast] at hphase hcore hpwr ⊢
  refine ⟨hphase, ?_, ?_, ?_, ?_, ?_, ?_, fun d h25 h28 hoff => ?_⟩
  · rw [hcore]
  · rw [hcore]
  · rw [hcore]
    rfl
  · rw [hcore]
    exact h8
  · rw [hcore]
    exact h9
  · rw [hcore]
    exact nodeBase_eq c
  · unfold pdOn
    rw [hpwr]
    unfold partitioned
    rw [setPds_pwr]
    exact released_pd b.pwr.pd h25 h28 hoff

end

end Sys2Proof.Proofs
end

section
namespace Sys2Proof.Proofs
open Sys2Proof.Machine Sys2Proof.Laws

/-! The sweep of a bond lane (R459). -/

/-- Steps `i` to `i + n` of a sweep pass. -/
def Passes (s : BitVec 64) (a n : Nat) : Prop := ∀ i, i < n → bit s (a + i) = true

theorem passRun_passes (s : BitVec 64) : ∀ n i, passRun s n i ≤ n ∧ Passes s i (passRun s n i) ∧ ∀ m, m ≤ n → Passes s i m → m ≤ passRun s n i
  | 0, i => ⟨Nat.le_refl 0, fun _ h => absurd h (Nat.not_lt_zero _), fun m h _ => h⟩
  | n + 1, i => by
    obtain ⟨hle, hpass, hmax⟩ := passRun_passes s n (i + 1)
    unfold passRun
    split
    · next hbit =>
      refine ⟨by omega, fun j hj => ?_, fun m hm hp => ?_⟩
      · cases j with
        | zero => exact hbit
        | succ j =>
          have h := hpass j (by omega)
          rwa [Nat.add_assoc, Nat.add_comm 1 j] at h
      · cases m with
        | zero => omega
        | succ m =>
          have h := hmax m (by omega) fun j hj => by
            have h := hp (j + 1) (by omega)
            rwa [Nat.add_comm j 1, ← Nat.add_assoc] at h
          omega
    · next hbit =>
      refine ⟨by omega, fun _ h => absurd h (Nat.not_lt_zero _), fun m hm hp => ?_⟩
      cases m with
      | zero => exact Nat.le_refl 0
      | succ m => exact absurd (hp 0 (by omega)) hbit

/-- The widest of the windows that begin below `n`, of equal ones the lowest. -/
def WidestBelow (s : BitVec 64) (n : Nat) (w : Nat × Nat) : Prop :=
  w.1 ≤ n ∧ w.1 + w.2 ≤ 64 ∧ Passes s w.1 w.2 ∧ ∀ a m, a < n → a + m ≤ 64 → Passes s a m → m ≤ w.2 ∧ (m = w.2 → w.1 ≤ a)

theorem widestBelow_step {s : BitVec 64} {n : Nat} {w : Nat × Nat} (hn : n < 64) (h : WidestBelow s n w) :
    WidestBelow s (n + 1) (if w.2 < passRun s (64 - n) n then (n, passRun s (64 - n) n) else w) := by
  obtain ⟨hle, hroom, hpass, hbest⟩ := h
  obtain ⟨hrun, hruns, hmax⟩ := passRun_passes s (64 - n) n
  split
  · next hlt =>
    refine ⟨by omega, by omega, hruns, fun a m ha hm hp => ?_⟩
    by_cases han : a = n
    · subst han
      exact ⟨hmax m (by omega) hp, fun _ => Nat.le_refl a⟩
    · have := (hbest a m (by omega) hm hp).1
      exact ⟨by omega, fun _ => by omega⟩
  · next hge =>
    refine ⟨by omega, hroom, hpass, fun a m ha hm hp => ?_⟩
    by_cases han : a = n
    · subst han
      have := hmax m (by omega) hp
      exact ⟨by omega, fun _ => hle⟩
    · exact hbest a m (by omega) hm hp

theorem widestWindow_widest (s : BitVec 64) : WidestWindow s (widestWindow s) := by
  have hgo : ∀ n, n ≤ 64 → WidestBelow s n
      ((List.range n).foldl (fun w i => let n := passRun s (64 - i) i; if w.2 < n then (i, n) else w) (0, 0)) := by
    intro n
    induction n with
    | zero =>
      exact fun _ => ⟨Nat.le_refl 0, Nat.zero_le 64, fun _ h => absurd h (Nat.not_lt_zero _), fun a m ha => absurd ha (Nat.not_lt_zero a)⟩
    | succ n ih =>
      intro hn
      rw [List.range_succ, List.foldl_append]
      exact widestBelow_step (by omega) (ih (by omega))
  obtain ⟨hle, hroom, hpass, hbest⟩ := hgo 64 (Nat.le_refl 64)
  refine ⟨hroom, hpass, fun a m ham hp => ?_⟩
  by_cases ha : a < 64
  · exact hbest a m ha ham hp
  · exact ⟨by omega, fun _ => by unfold widestWindow; omega⟩

theorem widestWindow_unique {s : BitVec 64} {v w : Nat × Nat} (hv : WidestWindow s v) (hw : WidestWindow s w) : v = w := by
  obtain ⟨hvroom, hvpass, hvbest⟩ := hv
  obtain ⟨hwroom, hwpass, hwbest⟩ := hw
  have h1 := hvbest w.1 w.2 hwroom hwpass
  have h2 := hwbest v.1 v.2 hvroom hvpass
  exact Prod.ext (by omega) (by omega)

/-- The windows of the lanes are determined by their sweeps. -/
theorem windows_unique {sweeps : List (BitVec 64)} {ws : List (Nat × Nat)} (hlen : ws.length = sweeps.length)
    (h : ∀ i, i < ws.length → WidestWindow (sweeps.getD i 0) (ws.getD i (0, 0))) : sweeps.map widestWindow = ws := by
  refine List.ext_getElem (by rw [List.length_map, hlen]) fun i h1 h2 => ?_
  have hs : i < sweeps.length := by rwa [List.length_map] at h1
  have hw := h i h2
  rw [← List.getElem_eq_getD (h := hs), ← List.getElem_eq_getD (h := h2)] at hw
  rw [List.getElem_map]
  exact widestWindow_unique (widestWindow_widest _) hw

/-! The phases (R455–R459). -/

section
variable {c : Cfg} {b : Blk}

theorem bit_two : ∀ lcs : BitVec 3, bit lcs 2 = !decide (lcs.toNat < 4) := by decide

/-- The block out of the cold reset. -/
theorem resetRelease_does (hoff : blockOn b = false) (lcs : BitVec 3) (valid : Bool) : ∃ b1, resetRelease b lcs valid = b1 ∧ blockOn b1 = true ∧
    b1.pwr.pgL = true ∧ b1.pwr.pgM = true ∧ b1.sys.lcs = lcs ∧ b1.sys.lcsValid = valid ∧
    b1.sys.phase = (if valid && decide (lcs.toNat < 4) then 1 else 0) ∧ b1.pwr.pd = 3 := by
  have hoff' : ¬ blockOn b = true := by rw [hoff]; exact Bool.false_ne_true
  have hheld (x : Blk) (hl : x.sys.lcs = lcs) (hv : x.sys.lcsValid = valid) :
      (if lcsHeld x then (0 : BitVec 4) else 1) = if valid && decide (lcs.toNat < 4) then 1 else 0 := by
    unfold lcsHeld
    rw [hl, hv, bit_two]
    cases valid <;> cases decide (lcs.toNat < 4) <;> rfl
  refine ⟨_, if_neg hoff', ?_⟩
  generalize hx : ({ b with
    pwr := { b.pwr with porstN := true, pgAon := true, pgL := true, pgM := true }
    sys := { b.sys with lcs := lcs, lcsValid := valid } } : Blk) = x
  have hxs : x.sys.lcs = lcs ∧ x.sys.lcsValid = valid ∧ x.pwr.porstN = true ∧ x.pwr.pgAon = true ∧ x.pwr.pgL = true ∧ x.pwr.pgM = true := by
    rw [← hx]
    exact ⟨rfl, rfl, rfl, rfl, rfl, rfl⟩
  obtain ⟨hl, hv, hporst, haon, hpgL, hpgM⟩ := hxs
  obtain ⟨cd, hpds⟩ := setPds_frame (setPhase x (if lcsHeld x then 0 else 1)) 3
  dsimp only
  rw [hpds]
  refine ⟨?_, hpgL, hpgM, hl, hv, hheld x hl hv, rfl⟩
  show (x.pwr.porstN && x.pwr.pgAon) = true
  rw [hporst, haon]
  rfl

/-- A supply-good line rises in a powered block. -/
theorem pgRise_does {m : Bool} (hlow : (if m then b.pwr.pgM else b.pwr.pgL) = false) (hon : blockOn b = true) : pgRise b m = maltSource { b with pwr :=
    { b.pwr with pgM := m || b.pwr.pgM, pgL := !m || b.pwr.pgL, mnotice := setBit b.pwr.mnotice 4 true } } 9 := by
  have hlow' : ¬ (if m then b.pwr.pgM else b.pwr.pgL) = true := by rw [hlow]; exact Bool.false_ne_true
  refine (if_neg hlow').trans ?_
  cases m
  · exact if_pos hon
  · exact if_pos hon

theorem trimPhase_stands {w : BitVec 128} (hphase : b.sys.phase = 2) (h : ∀ i, i < 8 → bits w (16 * i + 15) (16 * i) ≠ 0) :
    ∃ t : Byte, trimPhase c b w = { b with pwr := { b.pwr with trim := t, reflost := false }, sys := { b.sys with phase := 3 } } ∧
      ∀ i, i < 8 → bit t (7 - i) = decide (c.refMhz.toNat * 1024 ≤ bits w (16 * i + 15) (16 * i) * 48) := by
  obtain ⟨t, ht, hbits⟩ := sarTrim_some (refmhz := c.refMhz.toNat) h
  refine ⟨t, ?_, hbits⟩
  unfold trimPhase
  rw [if_neg (not_not.mpr hphase), ht]
  rfl

theorem trimPhase_lost {w : BitVec 128} (hphase : b.sys.phase = 2) (h : ∃ i, i < 8 ∧ bits w (16 * i + 15) (16 * i) = 0) :
    trimPhase c b w = seqFail { b with pwr := { b.pwr with reflost := true } } 1 := by
  unfold trimPhase
  rw [if_neg (not_not.mpr hphase), sarTrim_none h]

theorem wipeReset_sys (cov : BitVec 4) (b : Blk) : (wipeReset cov b).sys = b.sys := by unfold wipeReset; dsimp only; split <;> rfl

/-- The PLL that WIPE has started. -/
def pllStart (p : Pll) : Pll := if p.lock then p else { p with on := true, misses := 0, tries := 0 }

/-- The block whose domains and PLLs WIPE has started. -/
def wipeStarted (c : Cfg) (b : Blk) : Blk :=
  let x := setPds b (allPds c)
  { x with pwr := { x.pwr with pllF := pllStart x.pwr.pllF, pllL := pllStart x.pwr.pllL } }

theorem wipePhase_eq (hphase : b.sys.phase = 3) (hkiln : b.sys.kiln = none) : wipePhase c b =
    let x := wipeStarted c b
    let cov := covOf x.sys.resetKind
    let y := if bit cov 2 then x else wipeReset cov x
    { y with sys := { y.sys with kiln := some { cov := cov, lts := [], uworld := none }, kilnQueue := [], kilnTrig := trigOf y.sys.resetKind } } := by
  unfold wipePhase
  rw [hkiln, hphase]
  rfl

theorem wipeStarted_does (c : Cfg) (b : Blk) : (wipeStarted c b).sys = b.sys ∧ (wipeStarted c b).pwr.pd = allPds c ||| 3 ∧
    (wipeStarted c b).pwr.pllF = pllStart b.pwr.pllF ∧ (wipeStarted c b).pwr.pllL = pllStart b.pwr.pllL := by
  obtain ⟨cd, hpds⟩ := setPds_frame b (allPds c)
  unfold wipeStarted
  rw [hpds]
  exact ⟨rfl, rfl, rfl, rfl⟩

/-- WIPE of a cold reset: the Kiln begins, and the PLLs start. -/
theorem wipePhase_cold (hphase : b.sys.phase = 3) (hkiln : b.sys.kiln = none) (hkind : b.sys.resetKind = 1) (hF : b.pwr.pllF.lock = false)
    (hL : b.pwr.pllL.lock = false) : ∃ b1, wipePhase c b = b1 ∧ b1.sys.kiln = some { cov := 1, lts := [], uworld := none } ∧ b1.sys.kilnTrig = 1 ∧
      b1.pwr.pd = allPds c ||| 3 ∧ b1.pwr.pllF.on = true ∧ b1.pwr.pllL.on = true ∧ b1.lts = Lts.reset ∧ b1.sys.phase = 3 := by
  obtain ⟨hsys, hpd, hpllF, hpllL⟩ := wipeStarted_does c b
  have hcov : covOf (wipeStarted c b).sys.resetKind = 1 := by
    rw [hsys, hkind]
    rfl
  have hwide : ¬ bit (1 : BitVec 4) 2 = true := by decide
  have hon (p : Pll) (h : p.lock = false) : (pllStart p).on = true := by
    unfold pllStart
    rw [h]
    rfl
  refine ⟨_, wipePhase_eq hphase hkiln, ?_⟩
  dsimp only
  rw [hcov, if_neg hwide, wipeReset_sys, hsys]
  refine ⟨rfl, ?_, ?_, ?_, ?_, wipeReset_lts .., hphase⟩
  · rw [hkind]
    rfl
  · rw [wipeReset_pwr]
    exact hpd
  · rw [wipeReset_pwr]
    dsimp only
    rw [hpllF, hon _ hF]
  · rw [wipeReset_pwr]
    dsimp only
    rw [hpllL, hon _ hL]

/-- The Kiln's end in WIPE waits for the domains. -/
theorem kilnDone_unpowered {w : Wipe} (hphase : b.sys.phase = 3) (hw : b.sys.kiln = some w) (hcov : bit w.cov 2 = false)
    (hpow : wipePowered b = false) : kilnDone c b = b := by
  unfold kilnDone
  rw [hw]
  dsimp only
  rw [hcov, Bool.false_and, if_neg Bool.false_ne_true, hphase, hpow]
  rfl

/-- A wipe that is not core-only keeps the PLLs. -/
theorem wiped_plls {w : Wipe} (h : bit w.cov 2 = false) : (wiped c b w).pwr.pllF = b.pwr.pllF ∧ (wiped c b w).pwr.pllL = b.pwr.pllL := by
  have hup : ∀ (ds : List Nat) (x : Blk), x.pwr.pllF = b.pwr.pllF ∧ x.pwr.pllL = b.pwr.pllL →
      (powerUps x ds).pwr.pllF = b.pwr.pllF ∧ (powerUps x ds).pwr.pllL = b.pwr.pllL := by
    refine fun ds x hx => foldl_keeps (P := fun x : Blk => x.pwr.pllF = b.pwr.pllF ∧ x.pwr.pllL = b.pwr.pllL) (fun x d hx => ?_) ds x hx
    split
    · exact hx
    · exact hx
  unfold wiped
  dsimp only
  rw [h, if_neg Bool.false_ne_true]
  have hpowered := hup (wipePds c w) b ⟨rfl, rfl⟩
  generalize powerUps b (wipePds c w) = x at hpowered
  have hunits : (if bit w.cov 3 then wipeUnits x else x).pwr = x.pwr := by
    split
    · rfl
    · rfl
  have hlts := foldl_keeps (P := fun y : Blk => y.pwr = x.pwr) (f := wipeLts) (fun _ _ hy => hy) w.lts _ hunits
  split
  · exact ⟨(congrArg Power.pllF hlts).trans hpowered.1, (congrArg Power.pllL hlts).trans hpowered.2⟩
  · exact ⟨(congrArg Power.pllF hlts).trans hpowered.1, (congrArg Power.pllL hlts).trans hpowered.2⟩

/-- A wipe that none waits behind leaves the Kiln idle. -/
theorem kilnFinish_idle {w : Wipe} (hcov : bit w.cov 2 = false) (hqueue : b.sys.kilnQueue = []) : (kilnFinish c b w).sys.kiln = none ∧
    (kilnFinish c b w).sys.phase = b.sys.phase ∧ (kilnFinish c b w).sys.full = b.sys.full := by
  have hsys := (wiped_keeps (c := c) (b := b) hcov).2
  rw [kilnFinish_eq, maltSource_sys]
  generalize wiped c b w = x at hsys
  refine ⟨?_, (congrArg Sys.phase hsys : x.sys.phase = _), (congrArg Sys.full hsys : x.sys.full = _)⟩
  show x.sys.kilnQueue.head? = none
  rw [hsys, hqueue]
  rfl

/-- The Kiln's end in WIPE, once its domains are powered. -/
theorem kilnDone_powered {w : Wipe} (hphase : b.sys.phase = 3) (hw : b.sys.kiln = some w) (hcov : bit w.cov 2 = false) (hqueue : b.sys.kilnQueue = [])
    (hquiet : b.sys.beats = []) (hpow : wipePowered b = true) : kilnDone c b = afterWipe (kilnFinish c b w) := by
  obtain ⟨hkiln, hnext, -⟩ := kilnFinish_idle (c := c) hcov hqueue
  have hdue : (decide (b.sys.phase = 3) && !wipePowered b) = false := by
    rw [hpow, Bool.not_true, Bool.and_false]
  have hlast : (decide ((kilnFinish c b w).sys.phase = 3) && (kilnFinish c b w).sys.kiln.isNone) = true := by
    rw [hnext, hphase, hkiln]
    rfl
  refine (kilnDone_eq (c := c) hw hcov hdue).trans ?_
  have hgoing : ¬ (!true && resetInProgress (kilnFinish c b w)) = true := Bool.false_ne_true
  rw [kilnCross_quiet hquiet]
  dsimp only
  rw [if_neg hgoing, if_pos hlast]

/-- The Kiln's end in WIPE: the PLLs' phase follows, or the link's. -/
theorem kilnDone_wipe {w : Wipe} (hphase : b.sys.phase = 3) (hw : b.sys.kiln = some w) (hcov : bit w.cov 2 = false) (hqueue : b.sys.kilnQueue = [])
    (hquiet : b.sys.beats = []) (hpow : wipePowered b = true) : (kilnDone c b).sys.kiln = none ∧
      (kilnDone c b).sys.phase = if b.sys.full = true ∨ b.pwr.pllF.lock = false ∨ b.pwr.pllL.lock = false then 4 else 6 := by
  obtain ⟨hkiln, -, hfull⟩ := kilnFinish_idle (c := c) hcov hqueue
  have hplls : (kilnFinish c b w).pwr.pllF = b.pwr.pllF ∧ (kilnFinish c b w).pwr.pllL = b.pwr.pllL := by
    rw [kilnFinish_eq, maltSource_pwr]
    exact wiped_plls hcov
  rw [kilnDone_powered hphase hw hcov hqueue hquiet hpow]
  generalize kilnFinish c b w = x at hkiln hfull hplls
  have hcond : (x.sys.full || !(x.pwr.pllF.lock && x.pwr.pllL.lock)) = true ↔
      b.sys.full = true ∨ b.pwr.pllF.lock = false ∨ b.pwr.pllL.lock = false := by
    rw [hplls.1, hplls.2, hfull, Bool.or_eq_true, Bool.not_eq_true', Bool.and_eq_false_iff]
  unfold afterWipe setPhase
  by_cases h : b.sys.full = true ∨ b.pwr.pllF.lock = false ∨ b.pwr.pllL.lock = false
  · rw [if_pos (hcond.mpr h), if_pos h]
    exact ⟨hkiln, rfl⟩
  · rw [if_neg (mt hcond.mp h), if_neg h]
    exact ⟨hkiln, rfl⟩

/-! PLL (R404, R456, R458). -/

/-- The check of a PLL in its phase. -/
def pllCheck (p : Pll) (ok : Bool) : Pll := if p.lock then p else p.judge ok

/-- The block whose PLLs were checked. -/
def pllsChecked (b : Blk) (cf cl : BitVec 16) : Blk :=
  setPlls b (pllCheck b.pwr.pllF (pllStable b.pwr.k.toNat cf.toNat)) (pllCheck b.pwr.pllL (pllStable 64 cl.toNat))

/-- A PLL that has failed its attempts. -/
def pllEnded (p : Pll) : Bool := !p.lock && p.fail && p.tries == 0

theorem pllPhase_eq {cf cl : BitVec 16} (hphase : b.sys.phase = 4) : pllPhase b cf cl =
    let x := maltSource (pllsChecked b cf cl) 8
    if pllEnded x.pwr.pllF then seqFail x 2
    else if pllEnded x.pwr.pllL then seqFail x 3
    else if x.pwr.pllF.lock && x.pwr.pllL.lock then setPhase x (if x.sys.full then 5 else 6)
    else x := by
  unfold pllPhase
  rw [if_neg (not_not.mpr hphase)]
  rfl

theorem pllPhase_locks {cf cl : BitVec 16} (hphase : b.sys.phase = 4) (hF : b.pwr.pllF.lock = false) (hL : b.pwr.pllL.lock = false)
    (hsf : pllStable b.pwr.k.toNat cf.toNat = true) (hsl : pllStable 64 cl.toNat = true) : ∃ b1, pllPhase b cf cl = b1 ∧ b1.pwr.pllF.lock = true ∧
      b1.pwr.pllL.lock = true ∧ b1.sys = { b.sys with phase := if b.sys.full then 5 else 6 } := by
  have hcheck (p : Pll) (h : p.lock = false) : (pllCheck p true).lock = true := by
    unfold pllCheck
    rw [h]
    rfl
  have hpwr : (maltSource (pllsChecked b cf cl) 8).pwr.pllF = pllCheck b.pwr.pllF true ∧
      (maltSource (pllsChecked b cf cl) 8).pwr.pllL = pllCheck b.pwr.pllL true := by
    rw [maltSource_pwr]
    unfold pllsChecked
    rw [hsf, hsl]
    exact ⟨rfl, rfl⟩
  have hsys : (maltSource (pllsChecked b cf cl) 8).sys = b.sys := maltSource_sys ..
  rw [pllPhase_eq hphase]
  generalize maltSource (pllsChecked b cf cl) 8 = x at hpwr hsys
  obtain ⟨hxF, hxL⟩ := hpwr
  have hended (p : Pll) (h : p.lock = true) : ¬ pllEnded p = true := by
    unfold pllEnded
    rw [h]
    exact Bool.false_ne_true
  have hlF : x.pwr.pllF.lock = true := by rw [hxF]; exact hcheck _ hF
  have hlL : x.pwr.pllL.lock = true := by rw [hxL]; exact hcheck _ hL
  dsimp only
  rw [if_neg (hended _ hlF), if_neg (hended _ hlL), hlF, hlL, hsys]
  refine ⟨_, if_pos rfl, hlF, hlL, ?_⟩
  unfold setPhase
  rw [hsys]

/-- The ACLK PLL fails its fourth attempt: the sequence fails, and the notice stands only where a FAIL bit changed. -/
theorem pllPhase_fails {cf cl : BitVec 16} (hphase : b.sys.phase = 4) (hF : b.pwr.pllF.lock = false) (htries : b.pwr.pllF.tries = 3)
    (hsf : pllStable b.pwr.k.toNat cf.toNat = false) : ∃ x, pllPhase b cf cl = seqFail x 2 ∧ x.ports = b.ports ∧ x.pwr.pllF.fail = true ∧
      (b.pwr.pllF.fail = true → b.pwr.pllL.fail = false → b.pwr.pllL.tries ≠ 3 → x.pwr.mnotice = b.pwr.mnotice) := by
  have hcheckF : pllCheck b.pwr.pllF false = { b.pwr.pllF with lock := false, fail := true, tries := 0 } := by
    unfold pllCheck Pll.judge
    rw [hF, htries]
    rfl
  have hx : (maltSource (pllsChecked b cf cl) 8).pwr.pllF = { b.pwr.pllF with lock := false, fail := true, tries := 0 } := by
    rw [maltSource_pwr]
    unfold pllsChecked
    rw [hsf, hcheckF]
    rfl
  have hended : pllEnded (maltSource (pllsChecked b cf cl) 8).pwr.pllF = true := by
    rw [hx]
    rfl
  refine ⟨_, (pllPhase_eq hphase).trans (if_pos hended), maltSource_ports .., ?_, fun hfF hfL htL => ?_⟩
  · rw [hx]
  · have hL (ok : Bool) : (pllCheck b.pwr.pllL ok).fail = false := by
      unfold pllCheck Pll.judge
      split
      · exact hfL
      · split
        · rfl
        · split
          · next h => exact absurd (by revert h; generalize b.pwr.pllL.tries = n; revert n; decide) htL
          · exact hfL
    rw [maltSource_pwr]
    unfold pllsChecked setPlls
    rw [hsf, hcheckF, hL, hfF, hfL]
    rfl

/-! BONDCAL and LINK (R317, R456, R459, R462). -/

/-- The smallest half-window of the lanes. -/
def bondLeast (ws : List (Nat × Nat)) : Nat := ws.foldl (fun x k => Nat.min x (k.2 / 2)) 32

theorem bondLeast_le (ws : List (Nat × Nat)) : bondLeast ws ≤ 32 :=
  foldl_keeps (P := fun x => x ≤ 32) (fun x k (hx : x ≤ 32) => Nat.le_trans (Nat.min_le_left x (k.2 / 2)) hx) ws 32 (Nat.le_refl 32)

/-- The block whose lanes stand at the middle of their windows. -/
def bondSet (b : Blk) (ws : List (Nat × Nat)) : Blk :=
  { b with sys := { b.sys with
    bondTrims := Sparse.setAll [] 0 (ws.map fun k => BitVec.ofNat 6 (k.1 + k.2 / 2)), bondSeen := true
    bondMargin := if b.sys.bondSeen = true ∧ b.sys.bondMargin.toNat ≤ bondLeast ws then b.sys.bondMargin else BitVec.ofNat 8 (bondLeast ws) } }

theorem bondMeasured_eq (b : Blk) (ws : List (Nat × Nat)) :
    bondMeasured { b with sys := { b.sys with bondTrims := Sparse.setAll [] 0 (ws.map fun k => BitVec.ofNat 6 (k.1 + k.2 / 2)) } }
      (BitVec.ofNat 8 (bondLeast ws)) = bondSet b ws := by
  have hle := bondLeast_le ws
  have hnat : (BitVec.ofNat 8 (bondLeast ws)).toNat = bondLeast ws := by
    rw [BitVec.toNat_ofNat]
    exact Nat.mod_eq_of_lt (by omega)
  have hmargin : (if b.sys.bondSeen && decide (b.sys.bondMargin.toNat ≤ bondLeast ws) then b.sys.bondMargin else BitVec.ofNat 8 (bondLeast ws)) =
      if b.sys.bondSeen = true ∧ b.sys.bondMargin.toNat ≤ bondLeast ws then b.sys.bondMargin else BitVec.ofNat 8 (bondLeast ws) :=
    if_congr (by rw [Bool.and_eq_true, decide_eq_true_eq]) rfl rfl
  unfold bondMeasured bondSet
  rw [hnat, ← hmargin]

theorem bondPhase_early {sweeps : List (BitVec 64)} {n : Nat} (h : n < 16384) : bondPhase b sweeps n = b := by
  refine if_pos ?_
  rw [decide_eq_true h, Bool.or_true]

theorem bondPhase_does {sweeps : List (BitVec 64)} {n : Nat} {ws : List (Nat × Nat)} (hphase : b.sys.phase = 5) (hn : 16384 ≤ n)
    (hws : sweeps.map widestWindow = ws) : bondPhase b sweeps n =
      if bondLeast ws < 4 then seqFail (bondSet b ws) 4 else setPhase (bondSet b ws) 6 := by
  have hdue : ¬ (decide (b.sys.phase ≠ 5) || decide (n < 16384)) = true := by
    rw [hphase, decide_eq_false (Nat.not_lt.mpr hn)]
    decide
  refine (if_neg hdue).trans ?_
  rw [hws]
  exact congrArg (fun x => if bondLeast ws < 4 then seqFail x 4 else setPhase x 6) (bondMeasured_eq b ws)

theorem linkPhase_up (hphase : b.sys.phase = 6) (h : b.ports.mp.state = stUp) : linkPhase b = { b with sys := { b.sys with phase := 7 } } :=
  (if_neg (not_not.mpr hphase)).trans (if_pos h)

theorem linkPhase_failed (hphase : b.sys.phase = 6) (h : b.ports.mp.state = stFailed) : linkPhase b = seqFail b 5 :=
  (if_neg (not_not.mpr hphase)).trans ((if_neg (by rw [h]; decide)).trans (if_pos h))

end

end Sys2Proof.Proofs
end

section
namespace Sys2Proof.Proofs
open Sys2Proof.Machine Sys2Proof.Laws

/-! A request of the Memory Port that is outstanding (R365, R386). -/

/-- An outstanding request is timed, and otherwise as it was. -/
def Timed (f : Outst → Outst) : Prop := ∀ o, ∃ t, f o = { o with issued := t }

theorem stampSent_out (b : Blk) : ∃ f, Timed f ∧ (stampSent b false).ports.outMp = b.ports.outMp.map f := by
  have hstamp (p : Bool) (o : Outst) (t : Option Nat) : ∃ u, (if p then { o with issued := t } else o) = { o with issued := u } := by
    cases p
    · exact ⟨o.issued, rfl⟩
    · exact ⟨t, rfl⟩
  exact ⟨_, fun o => hstamp _ o _, rfl⟩

theorem modLink_out (b : Blk) (p : BitVec 2) (f : Link → Link) : (modLink b p f).ports.outMp = b.ports.outMp ∧
    (modLink b p f).ports.outFp = b.ports.outFp := by
  unfold modLink setLink
  rcases port_cases p with h | h | h | h <;> subst h <;> exact ⟨rfl, rfl⟩

theorem sendPacket_out (b : Blk) (pk : Packet) : ∃ f, Timed f ∧ (sendPacket b false pk).ports.outMp = b.ports.outMp.map f := by
  obtain ⟨f, hf, h⟩ := stampSent_out (modLink (modLink b 0 fun l => { l with sendQ := l.sendQ ++ [pk] }) 0 (pumpLink 0))
  rw [(modLink_out _ _ _).1, (modLink_out _ _ _).1] at h
  exact ⟨f, hf, h⟩

/-- What an outstanding request has of the request that was issued. -/
def Requests (r : Request) (o : Outst) : Prop := o.purpose = r.purpose ∧ o.op = r.op ∧ o.addr = r.addr ∧ o.world = r.world

theorem Requests.timed {r : Request} {o : Outst} (h : Requests r o) {f : Outst → Outst} (hf : Timed f) : Requests r (f o) := by
  obtain ⟨t, ht⟩ := hf o
  rw [ht]
  exact h

/-- A request issued on the Memory Port joins those outstanding. -/
theorem issueReq_out (c : Cfg) (r : Request) (b : Blk) : ∃ (f : Outst → Outst) (o : Outst), Timed f ∧ Requests r o ∧
    (issueReq c false r b).ports.outMp = b.ports.outMp.map f ++ [o] := by
  have hsend (x : Blk) (o : Outst) (dead : Bool) (pk : Packet) (hx : x.ports.outMp = b.ports.outMp ++ [o]) (ho : Requests r o) :
      ∃ (f : Outst → Outst) (o : Outst), Timed f ∧ Requests r o ∧
        (if dead then x else sendPacket x false pk).ports.outMp = b.ports.outMp.map f ++ [o] := by
    cases dead
    · obtain ⟨f, hf, h⟩ := sendPacket_out x pk
      rw [hx, List.map_append] at h
      exact ⟨f, f o, hf, ho.timed hf, h⟩
    · exact ⟨id, o, fun o => ⟨o.issued, rfl⟩, ho, by rw [List.map_id]; exact hx⟩
  unfold issueReq
  exact hsend _ _ _ _ rfl ⟨rfl, rfl, rfl, rfl⟩

/-- A request on the Memory Port leaves alone what is not of the ports or the observation unit. -/
theorem issueReq_same (c : Cfg) (r : Request) (b : Blk) : (issueReq c false r b).sys = b.sys ∧ (issueReq c false r b).malt = b.malt ∧
    (issueReq c false r b).mmu = b.mmu ∧ (issueReq c false r b).err = b.err := by
  rw [issueReq_frame]
  exact ⟨rfl, rfl, rfl, rfl⟩

/-! Images (R443, R460). -/

section
variable {c : Cfg} {b : Blk}

/-- The read of an image's next piece. -/
def imageRead (m : Image) : Request :=
  { op := .rd, addr := m.base + BitVec.ofNat 64 m.bytes.length, be := BitVec.allOnes 64, operand := 0, data := 0, world := true, purpose := .image }

theorem imgAsk_eq (c : Cfg) (b : Blk) (m : Image) : imgAsk c b m = issueReq c false (imageRead m) { b with sys := { b.sys with img := some m } } := rfl

/-- A phase that begins its image: the read of its first piece is outstanding. -/
theorem imgStart_does (hout : b.ports.outMp = []) (base : Word) : ∃ r, (imgStart c b base).sys =
    { b.sys with img := some { base := base, bytes := [], failed := false } } ∧ (imgStart c b base).ports.outMp = [r] ∧ r.purpose = .image ∧
      r.op = .rd ∧ r.addr = base ∧ r.world = true := by
  obtain ⟨f, o, -, ⟨hpurpose, hop, haddr, hworld⟩, h⟩ := issueReq_out c (imageRead { base := base, bytes := [], failed := false })
    { b with sys := { b.sys with img := some { base := base, bytes := [], failed := false } } }
  refine ⟨o, (issueReq_same ..).1, h.trans ?_, hpurpose, hop, haddr.trans (BitVec.add_zero base), hworld⟩
  show b.ports.outMp.map f ++ [o] = [o]
  rw [hout]
  rfl

theorem imgWaits_early {x : Image} {n kind : Nat} (hlegal : imgLegal c kind x.bytes = true) (hn : n < imgTime x.bytes) : imgWaits c kind x n = true := by
  unfold imgWaits
  rw [hlegal, decide_eq_true hn, Bool.and_self, Bool.or_true]

theorem imgWaits_over {x : Image} {n kind : Nat} (hread : x.failed = false) (hwants : imgWants c kind x.bytes = false) (hn : imgLegal c kind x.bytes = false ∨ imgTime x.bytes ≤ n) :
    imgWaits c kind x n = false := by
  unfold imgWaits
  rw [hread, hwants, Bool.or_self, Bool.false_or]
  rcases hn with h | h
  · rw [h, Bool.false_and]
  · rw [decide_eq_false (Nat.not_lt.mpr h), Bool.and_false]

section
variable (hphase : b.sys.phase = 7) (hlive : b.err.fatal = false)
include hphase hlive

theorem mimg_due : ¬ (decide (b.sys.phase ≠ 7) || b.err.fatal) = true := by
  rw [hphase, hlive]
  decide

theorem mimgPhase_starts {n : Nat} (himg : b.sys.img = none) : mimgPhase c b n = imgStart c b c.mimg := by
  unfold mimgPhase
  rw [if_neg (mimg_due hphase hlive), himg]

theorem mimgPhase_image {n : Nat} {x : Image} (himg : b.sys.img = some x) : mimgPhase c b n =
    if imgWaits c 0 x n then b
    else if imgLegal c 0 x.bytes && imgSigned b x.bytes then
      { b with sys := { b.sys with img := none, maltEntry := BitVec.ofNat 64 (imgEntry x.bytes), phase := 8 } }
    else seqFail { b with malt := { b.malt with ram := [] }, sys := { b.sys with sigfail := true } } 7 := by
  unfold mimgPhase
  rw [if_neg (mimg_due hphase hlive), himg]
  rfl

end

section
variable (hphase : b.sys.phase = 8) (hlive : b.err.fatal = false) (hkiln : b.sys.kiln = none) (hentry : b.sys.entry = none)
include hphase hlive hkiln hentry

theorem cimg_due : ¬ (decide (b.sys.phase ≠ 8) || b.err.fatal || b.sys.kiln.isSome || b.sys.entry.isSome) = true := by
  rw [hphase, hlive, hkiln, hentry]
  decide

theorem cimgPhase_starts {n : Nat} (himg : b.sys.img = none) : cimgPhase c b n = imgStart c b c.cimg := by
  unfold cimgPhase
  rw [if_neg (cimg_due hphase hlive hkiln hentry), himg]

/-- The block with a verdict on the machine image. -/
def imageJudged (b : Blk) (e : Word) (good : Bool) : Blk :=
  { b with sys := { b.sys with img := none, entry := some e, imgFail := if good then 0 else 9, sigfail := b.sys.sigfail || !good } }

theorem cimgPhase_image {n : Nat} {x : Image} (himg : b.sys.img = some x) : cimgPhase c b n =
    if imgWaits c 1 x n then b
    else bootDone c (imageJudged b (BitVec.ofNat 64 (imgEntry x.bytes)) (imgLegal c 1 x.bytes && imgSigned b x.bytes)) := by
  unfold cimgPhase
  rw [if_neg (cimg_due hphase hlive hkiln hentry), himg]
  rfl

end

/-- The end of a machine image: nothing of it is outstanding. -/
theorem bootDone_due {e : Word} (hentry : b.sys.entry = some e) (hphase : b.sys.phase = 8) (hlive : b.err.fatal = false) (hmp : b.ports.outMp = [])
    (hfp : b.ports.outFp = []) : bootDone c b = if b.sys.imgFail = 0 then release c b e else seqFail b b.sys.imgFail := by
  unfold bootDone
  rw [hentry]
  refine if_pos ?_
  unfold anyOutst
  rw [hphase, hlive, hmp, hfp]
  rfl

theorem bootDone_stays (hentry : b.sys.entry = none) : bootDone c b = b := by
  unfold bootDone
  rw [hentry]

/-! The responses that end a request of the Memory Port (R365, R387). -/

theorem releaseTable_stays (h : b.mmu.older = none) : releaseTable b = b := by
  unfold releaseTable
  rw [h]

/-- The status of an answer that is not a sync operation's. -/
theorem answer_ok {o : Outst} (hop : o.op ≠ .sy) (st : BitVec 8) :
    ((if o.op = .sy || st = 0 || st = 2 then st else 1) == 0) = decide (st = 0) := by
  rw [decide_eq_false hop, Bool.false_or]
  by_cases h0 : st = 0
  · subst h0
    rfl
  · by_cases h2 : st = 2
    · subst h2
      rfl
    · rw [decide_eq_false h0, decide_eq_false h2]
      rfl

theorem respond_boot {o : Outst} (hop : o.op = .wr) (hpurpose : o.purpose = .boot) (st : BitVec 8) (data : Piece) (old : Word) :
    respond c b o st false data old = if decide (st = 0) || b.sys.imgFail != 0 then b else seqFail b 8 := by
  rw [← answer_ok (o := o) (by rw [hop]; decide) st]
  unfold respond
  rw [hpurpose]
  rfl

theorem respond_image {o : Outst} (hop : o.op = .rd) (hpurpose : o.purpose = .image) (st : BitVec 8) (data : Piece) (old : Word) :
    respond c b o st false data old = imageArrives c b (if decide (st = 0) then some data else none) := by
  rw [← answer_ok (o := o) (by rw [hop]; decide) st]
  unfold respond
  rw [hpurpose]
  rfl

/-- The one request outstanding on the Memory Port, which a response answers in time, is taken from the table. -/
theorem takeOutst_one {o : Outst} {p : Outst → Bool} (hout : b.ports.outMp = [o]) (hp : p o = true) :
    takeOutst b false o.rtag p = some (o, { b with ports := { b.ports with outMp := [] } }) := by
  unfold takeOutst
  dsimp only
  rw [if_neg Bool.false_ne_true, hout, List.find?_cons_of_pos (by rw [beq_self_eq_true, hp]; rfl)]
  dsimp only
  rw [if_neg Bool.false_ne_true, List.filter_cons_of_neg (by rw [bne_self_eq_false]; exact Bool.false_ne_true)]
  rfl

/-- The Memory Port's link has taken a packet, and its one request is answered. -/
def answered (b : Blk) (l : Link) : Blk := { b with ports := { b.ports with mp := l, outMp := [] } }

theorem answered_links {l : Link} (h : l.state = b.ports.mp.state) (p : BitVec 2) : (getLink (answered b l) p).state = (getLink b p).state := by
  rcases port_cases p with hp | hp | hp | hp <;> subst hp
  · exact h
  · rfl
  · rfl
  · rfl

theorem free_state (l : Link) (ch n : Nat) : (l.free ch n).state = l.state := by
  unfold Link.free
  (repeat' split) <;> rfl

/-- A response that arrives whole on a Memory Port in UP ends the one request outstanding. -/
theorem packetArrives_answers {o : Outst} {pk : Packet} (hup : b.ports.mp.state = stUp) (hruns : pdRuns b 18 = true) (hst : b.pwr.state = .run)
    (hout : b.ports.outMp = [o]) (htag : pk.h.rtag = o.rtag) (htime : o.inTime b.pwr.sclk = true) (hanswers : answers pk.h.opc o.op = true)
    (hopc : pk.h.opc = 0x09 ∨ pk.h.opc = 0x0A) (hmask : o.op = .rd → mergePiece pk.data 0 o.be = 0) :
    packetArrives c b false pk =
      endRequest c (answered b (b.ports.mp.free 1 (1 + dataFlits pk.h))) o pk.h.status false pk.data pk.h.operand := by
  have hch : channelOf pk.h.opc = some 1 := by
    rcases hopc with h | h <;> rw [h] <;> rfl
  have hresponse : (decide (pk.h.opc = 0x09) || decide (pk.h.opc = 0x0A) || decide (pk.h.opc = 0x0B) || (decide (pk.h.opc = 0x12) && false)) = true := by
    rcases hopc with h | h <;> rw [h] <;> rfl
  have hdue : (decide ((getLink b 0).state = stUp) && pdRuns b 18 && decide (b.pwr.state = .run)) = true := by
    rw [show (getLink b 0).state = stUp from hup, hruns, hst]
    rfl
  have hformed : ¬ (decide (o.op = .rd) && decide (pk.h.status = 0) && mergePiece pk.data 0 o.be != 0) = true := by
    by_cases hrd : o.op = .rd
    · rw [hmask hrd, bne_self_eq_false, Bool.and_false]
      exact Bool.false_ne_true
    · rw [decide_eq_false hrd, Bool.false_and, Bool.false_and]
      exact Bool.false_ne_true
  have htake := takeOutst_one (b := { b with ports := { b.ports with mp := b.ports.mp.free 1 (1 + dataFlits pk.h) } }) (o := o)
    (p := fun o => answers pk.h.opc o.op && o.inTime b.pwr.sclk) hout (by rw [hanswers, htime]; rfl)
  refine (if_pos hdue).trans ?_
  unfold deliverPacket
  rw [hch]
  refine (if_pos hresponse).trans ?_
  change takeResponse c { b with ports := { b.ports with mp := b.ports.mp.free 1 (1 + dataFlits pk.h) } } false pk = _
  unfold takeResponse
  rw [htag, htake]
  exact if_neg hformed

/-- The end of a request of the Memory Port while no redirect table is to be released. -/
theorem endRequest_eq {x z : Blk} {o : Outst} {st : BitVec 8} {data : Piece} {old : Word} (hz : bootDone c (respond c x o st false data old) = z)
    (hmmu : z.mmu.older = none) : endRequest c x o st false data old = z := by
  unfold endRequest
  rw [hz]
  exact releaseTable_stays hmmu

theorem release_mmu (c : Cfg) (b : Blk) (e : Word) : (release c b e).mmu = b.mmu := by
  obtain ⟨-, -, -, hmmu⟩ := releaseIn_does (partitioned c b) (releasedCore c (partitioned c b).sys.last) e
  rw [release_eq, hmmu]
  unfold partitioned
  rw [setPds_power]

theorem seqFail_entry (x : Blk) (code : BitVec 4) : (seqFail x code).sys.entry = none := by
  obtain ⟨-, -, -, hsys⟩ := seqFail_keeps x code
  rw [hsys]

section
variable {x : Blk} {o : Outst} {st : BitVec 8} {data : Piece} {old : Word} (hmp : x.ports.outMp = []) (hfp : x.ports.outFp = [])
  (hlive : x.err.fatal = false) (holder : x.mmu.older = none)
include hmp hfp hlive holder

/-- The last write of a machine image is acknowledged: the core is released, or the sequence fails. -/
theorem endRequest_boot {e : Word} (hop : o.op = .wr) (hpurpose : o.purpose = .boot) (hphase : x.sys.phase = 8) (hentry : x.sys.entry = some e) :
    endRequest c x o st false data old =
      if x.sys.imgFail = 0 then (if st = 0 then release c x e else seqFail x 8) else seqFail x x.sys.imgFail := by
  have hfails (code : BitVec 4) : (seqFail x code).mmu.older = none := by
    obtain ⟨-, hmmu, -, -⟩ := seqFail_keeps x code
    rw [hmmu, holder]
  have hdone := bootDone_due (c := c) hentry hphase hlive hmp hfp
  have hresp := respond_boot (c := c) (b := x) (o := o) hop hpurpose st data old
  by_cases h0 : x.sys.imgFail = 0
  · rw [if_pos h0]
    by_cases hst : st = 0
    · rw [if_pos hst]
      refine endRequest_eq ?_ (by rw [release_mmu, holder])
      rw [hresp, decide_eq_true hst, Bool.true_or, if_pos rfl, hdone, if_pos h0]
    · rw [if_neg hst]
      refine endRequest_eq ?_ (hfails 8)
      rw [hresp, decide_eq_false hst, h0, bne_self_eq_false, Bool.or_self, if_neg Bool.false_ne_true]
      exact bootDone_stays (seqFail_entry x 8)
  · rw [if_neg h0]
    refine endRequest_eq ?_ (hfails _)
    rw [hresp, bne_iff_ne.mpr h0, Bool.or_true, if_pos rfl, hdone, if_neg h0]

/-- The block whose machine image was not read whole. -/
def imageLost (x : Blk) (im : Image) : Blk :=
  { x with sys := { x.sys with img := some { im with failed := true }, entry := some 0, imgFail := 8 } }

/-- A read of an image that fails ends the sequence. -/
theorem endRequest_imageFailed {im : Image} (hop : o.op = .rd) (hpurpose : o.purpose = .image) (hphase : x.sys.phase = 7 ∨ x.sys.phase = 8)
    (himg : x.sys.img = some im) (hst : st ≠ 0) : ∃ y, y.ports = x.ports ∧
      endRequest c x o st false data old = seqFail y (if x.sys.phase = 7 then 6 else 8) := by
  have hfails (y : Blk) (hy : y.mmu = x.mmu) (code : BitVec 4) : (seqFail y code).mmu.older = none := by
    obtain ⟨-, hmmu, -, -⟩ := seqFail_keeps y code
    rw [hmmu, hy, holder]
  have hresp := respond_image (c := c) (b := x) (o := o) hop hpurpose st data old
  rw [decide_eq_false hst, if_neg Bool.false_ne_true] at hresp
  rcases hphase with h7 | h8
  · refine ⟨x, rfl, endRequest_eq ?_ (hfails x rfl _)⟩
    rw [hresp]
    unfold imageArrives
    rw [himg]
    dsimp only
    rw [if_pos h7, if_pos h7]
    exact bootDone_stays (seqFail_entry x 6)
  · have h7 : ¬ x.sys.phase = 7 := by rw [h8]; decide
    refine ⟨imageLost x im, rfl, endRequest_eq ?_ (hfails (imageLost x im) rfl _)⟩
    have harrives : imageArrives c x none = imageLost x im := by
      unfold imageArrives
      rw [himg]
      exact if_neg h7
    rw [hresp, harrives, if_neg h7]
    exact (bootDone_due (b := imageLost x im) (e := 0) rfl h8 hlive hmp hfp).trans (if_neg (show ¬ (8 : BitVec 4) = 0 by decide))

end

/-! A piece of an image arrives (R460). -/

theorem tryCross_quiet {x : Blk} (h : x.sys.beats = []) (world : Bool) (k : Nat) : tryCross world k x = (true, x) := by
  unfold tryCross
  rw [crossing_quiet h]
  rfl

/-- The secure posted write of a piece of the machine image. -/
def imageWrite (bs : List Byte) (off : Nat) (data : Piece) : Request :=
  { op := .wr, addr := BitVec.ofNat 64 (imgLoad bs + off), be := BitVec.allOnes 64, operand := 0, data := data, world := true, purpose := .boot }

theorem imgStore_malt {x : Blk} (hphase : x.sys.phase = 7) (hquiet : x.sys.beats = []) (bs : List Byte) (off : Nat) (data : Piece) :
    imgStore c x bs off data = { x with malt := { x.malt with ram := Sparse.setAll x.malt.ram (imgLoad bs + off) (bytesOf 64 data) } } := by
  unfold imgStore
  rw [if_pos hphase, tryCross_quiet hquiet]
  rfl

theorem imgStore_memory {x : Blk} (hphase : x.sys.phase = 8) (bs : List Byte) (off : Nat) (data : Piece) :
    imgStore c x bs off data = issueReq c false (imageWrite bs off data) x :=
  if_neg (by rw [hphase]; decide)

/-- What a stored piece of an image leaves of the block. -/
theorem imgStore_does {x : Blk} (hphase : x.sys.phase = 7 ∨ x.sys.phase = 8) (hquiet : x.sys.beats = []) (bs : List Byte) (off : Nat) (data : Piece) :
    let y := imgStore c x bs off data
    y.sys = x.sys ∧ y.err = x.err ∧ y.mmu = x.mmu ∧
      y.malt.ram = (if x.sys.phase = 7 then Sparse.setAll x.malt.ram (imgLoad bs + off) (bytesOf 64 data) else x.malt.ram) ∧
      (x.sys.phase = 8 → ∃ r ∈ y.ports.outMp, Requests (imageWrite bs off data) r) := by
  rcases hphase with h7 | h8
  · dsimp only
    rw [imgStore_malt h7 hquiet, if_pos h7]
    exact ⟨rfl, rfl, rfl, rfl, fun h8 => absurd (h7.symm.trans h8) (by decide)⟩
  · have h7 : ¬ x.sys.phase = 7 := by rw [h8]; decide
    obtain ⟨hsys, hmalt, hmmu, herr⟩ := issueReq_same c (imageWrite bs off data) x
    obtain ⟨f, o, -, ho, hout⟩ := issueReq_out c (imageWrite bs off data) x
    dsimp only
    rw [imgStore_memory h8, if_neg h7]
    refine ⟨hsys, herr, hmmu, congrArg Malt.ram hmalt, fun _ => ⟨o, ?_, ho⟩⟩
    rw [hout]
    exact List.mem_append_right _ List.mem_cons_self

/-- A piece of an image that has arrived: it is kept, stored when it is of the body, and the next is asked for while bytes are wanted. -/
theorem imageArrives_does {x : Blk} {im : Image} {data : Piece} (hphase : x.sys.phase = 7 ∨ x.sys.phase = 8) (himg : x.sys.img = some im)
    (hlive : x.err.fatal = false) (hquiet : x.sys.beats = []) :
    let bs := im.bytes ++ bytesOf 64 data
    let n := im.bytes.length
    let z := imageArrives c x (some data)
    z.sys = { x.sys with img := some { im with bytes := bs } } ∧ z.mmu = x.mmu ∧
      z.malt.ram = (if x.sys.phase = 7 ∧ 256 ≤ n then Sparse.setAll x.malt.ram (imgLoad bs + (n - 256)) (bytesOf 64 data) else x.malt.ram) ∧
      (x.sys.phase = 8 → 256 ≤ n → ∃ r ∈ z.ports.outMp, Requests (imageWrite bs (n - 256) data) r) ∧
      (imgWants c (if x.sys.phase = 7 then 0 else 1) bs = true → ∃ r ∈ z.ports.outMp, Requests (imageRead { im with bytes := bs }) r) := by
  intro bs n z
  have hstored : ∃ y, (if 256 ≤ n then imgStore c x bs (n - 256) data else x) = y ∧ y.sys = x.sys ∧ y.err = x.err ∧ y.mmu = x.mmu ∧
      y.malt.ram = (if x.sys.phase = 7 ∧ 256 ≤ n then Sparse.setAll x.malt.ram (imgLoad bs + (n - 256)) (bytesOf 64 data) else x.malt.ram) ∧
      (x.sys.phase = 8 → 256 ≤ n → ∃ r ∈ y.ports.outMp, Requests (imageWrite bs (n - 256) data) r) := by
    refine ⟨_, rfl, ?_⟩
    by_cases hn : 256 ≤ n
    · obtain ⟨hsys, herr, hmmu, hram, hout⟩ := imgStore_does (c := c) hphase hquiet bs (n - 256) data
      rw [if_pos hn]
      exact ⟨hsys, herr, hmmu, hram.trans (if_congr (by simp [hn]) rfl rfl), fun h8 _ => hout h8⟩
    · rw [if_neg hn, if_neg fun h => hn h.2]
      exact ⟨rfl, rfl, rfl, rfl, fun _ h => absurd h hn⟩
  obtain ⟨y, hy, hsys, herr, hmmu, hram, hout⟩ := hstored
  have hz : z = if imgWants c (if x.sys.phase = 7 then 0 else 1) bs then imgAsk c y { im with bytes := bs }
      else { y with sys := { y.sys with img := some { im with bytes := bs } } } := by
    show imageArrives c x (some data) = _
    unfold imageArrives
    rw [himg]
    dsimp only
    rw [hy, hsys, herr, hlive, Bool.not_false, Bool.and_true]
  rw [hz]
  by_cases hwants : imgWants c (if x.sys.phase = 7 then 0 else 1) bs = true
  · rw [if_pos hwants]
    obtain ⟨hsys2, hmalt2, hmmu2, -⟩ := issueReq_same c (imageRead { im with bytes := bs }) { y with sys := { y.sys with img := some { im with bytes := bs } } }
    obtain ⟨f, o, hf, ho, hout2⟩ := issueReq_out c (imageRead { im with bytes := bs }) { y with sys := { y.sys with img := some { im with bytes := bs } } }
    rw [imgAsk_eq]
    refine ⟨hsys2.trans ?_, hmmu2.trans hmmu, (congrArg Malt.ram hmalt2).trans hram, fun h8 hn => ?_, fun _ => ⟨o, ?_, ho⟩⟩
    · dsimp only
      rw [hsys]
    · obtain ⟨r, hr, hreq⟩ := hout h8 hn
      refine ⟨f r, ?_, hreq.timed hf⟩
      rw [hout2]
      exact List.mem_append_left _ (List.mem_map_of_mem hr)
    · rw [hout2]
      exact List.mem_append_right _ List.mem_cons_self
  · rw [if_neg hwants]
    refine ⟨?_, hmmu, hram, hout, fun h => absurd h hwants⟩
    dsimp only
    rw [hsys]

end

end Sys2Proof.Proofs
end

section
namespace Sys2Proof.Proofs
open Sys2Proof.Machine Sys2Proof.Laws

/-! The responses that the sequence waits for, as they arrive (R460–R462). -/

section
variable {c : Cfg} {b : Blk} {o : Outst} {h : Hdr} (hup : b.ports.mp.state = stUp) (hruns : pdRuns b 18 = true) (hst : b.pwr.state = .run)
  (hout : b.ports.outMp = [o]) (hfp : b.ports.outFp = []) (htag : h.rtag = o.rtag) (htime : o.inTime b.pwr.sclk = true)
  (hlive : b.err.fatal = false) (holder : b.mmu.older = none)
include hup hruns hst hout hfp htag htime hlive holder

/-- The acknowledgement of the machine image's last write. -/
theorem ackArrives {e : Word} (hphase : b.sys.phase = 8) (hentry : b.sys.entry = some e) (hpurpose : o.purpose = .boot) (hop : o.op = .wr) :
    ∃ x, (∀ p, (getLink x p).state = (getLink b p).state) ∧ x.sys = b.sys ∧
      packetArrives c b false { h := { h with opc := 0x0A }, data := 0 } =
        if b.sys.imgFail = 0 then (if h.status = 0 then release c x e else seqFail x 8) else seqFail x b.sys.imgFail := by
  have hend := packetArrives_answers (c := c) (pk := { h := { h with opc := 0x0A }, data := 0 }) hup hruns hst hout htag htime (by rw [hop]; rfl)
    (Or.inr rfl) fun hrd => absurd (hop.symm.trans hrd) (by decide)
  exact ⟨_, answered_links (free_state ..), rfl, hend.trans (endRequest_boot (x := answered b _) rfl hfp hlive holder hop hpurpose hphase hentry)⟩

section
variable {im : Image} {data : Piece} (hphase : b.sys.phase = 7 ∨ b.sys.phase = 8) (himg : b.sys.img = some im) (hpurpose : o.purpose = .image)
  (hop : o.op = .rd) (hmask : mergePiece data 0 o.be = 0)
include hphase himg hpurpose hop hmask

theorem imageArrives_failed (hbad : h.status ≠ 0) : ∃ x, (∀ p, (getLink x p).state = (getLink b p).state) ∧
    packetArrives c b false { h := { h with opc := 0x09 }, data := data } = seqFail x (if b.sys.phase = 7 then 6 else 8) := by
  have hend := packetArrives_answers (c := c) (pk := { h := { h with opc := 0x09 }, data := data }) hup hruns hst hout htag htime (by rw [hop]; rfl)
    (Or.inl rfl) fun _ => hmask
  obtain ⟨y, hports, hfail⟩ := endRequest_imageFailed (c := c) (x := answered b (b.ports.mp.free 1 (1 + dataFlits { h with opc := 0x09 }))) (o := o)
    (data := data) (old := h.operand) rfl hfp hlive holder hop hpurpose hphase himg hbad
  refine ⟨y, fun p => ?_, hend.trans hfail⟩
  rw [getLink_ports hports]
  exact answered_links (free_state ..) p

omit hfp in
theorem imageArrives_kept (hentry : b.sys.entry = none) (hquiet : b.sys.beats = []) (hgood : h.status = 0) : ∃ x, x.sys = b.sys ∧ x.mmu = b.mmu ∧
    x.err = b.err ∧ x.malt = b.malt ∧
    packetArrives c b false { h := { h with opc := 0x09 }, data := data } = imageArrives c x (some data) := by
  have hend := packetArrives_answers (c := c) (pk := { h := { h with opc := 0x09 }, data := data }) hup hruns hst hout htag htime (by rw [hop]; rfl)
    (Or.inl rfl) fun _ => hmask
  refine ⟨answered b (b.ports.mp.free 1 (1 + dataFlits { h with opc := 0x09 })), rfl, rfl, rfl, rfl, hend.trans ?_⟩
  obtain ⟨hsys, hmmu, -⟩ := imageArrives_does (c := c) (x := answered b (b.ports.mp.free 1 (1 + dataFlits { h with opc := 0x09 }))) (data := data)
    hphase himg hlive hquiet
  refine endRequest_eq ?_ (by rw [hmmu]; exact holder)
  rw [respond_image hop hpurpose, decide_eq_true hgood, if_pos rfl]
  refine bootDone_stays ?_
  rw [hsys]
  exact hentry

end

end

/-- Settles O51: each phase by its own equation, the images by what a piece or an acknowledgement leaves. -/
theorem startUp : Obligations.StartUp := by
  intro s lcs valid m w cf cl sweeps n h data c b window fails released starts engine
  refine ⟨fun hoff => ?_, fun hlow hon => ?_, fun hon => ⟨fun hphase hedges => ?_, fun hphase hdead => ⟨?_, ?_⟩, fun hphase hkiln hkind hF hL => ?_,
    fun k hphase hk hcov hqueue hquiet => ⟨fun hpow => ?_, fun hpow => ?_⟩, fun hphase hF hL hsf hsl => ?_, fun hphase hF htries hsf => ?_,
    fun hphase hn => ?_, fun ws hphase hn hlen hws => ?_, fun hphase hup => ?_, fun hphase hfailed => ?_,
    fun hphase hlive => ⟨fun himg hout => ?_, fun x himg hread hwants => ⟨fun hlegal hn => ?_, fun hgood hn => ?_, fun hbad hn => ?_⟩⟩,
    fun hphase hlive hkiln hentry => ⟨fun himg hout => ?_, fun x himg hread hwants hmp hfp => ⟨fun hlegal hn => ?_, fun hgood hn => ?_, fun hbad hn => ?_⟩⟩⟩,
    fun o hon hout hfp htag htime hup hruns hst holder hlive => ⟨fun e hphase hentry hpurpose hop => ?_,
      fun x hphase hentry himg hpurpose hop hmask hquiet => ⟨fun hgood => ?_, fun hbad => ?_⟩⟩⟩
  · obtain ⟨b1, hrel, hrest⟩ := resetRelease_does hoff lcs valid
    exact ⟨b1, blkNext_gives (f := fun b => resetRelease b lcs valid) hrel, hrest⟩
  · exact blkNext_gives (f := fun b => pgRise b m) (pgRise_does hlow hon)
  · obtain ⟨t, htrim, hbits⟩ := trimPhase_stands (c := c) hphase hedges
    exact ⟨t, onNext_gives (f := fun b => trimPhase c b w) hon htrim, hbits⟩
  · exact ⟨_, onNext_gives (f := fun b => trimPhase c b w) hon (trimPhase_lost hphase hdead), seqFail_failed (fun _ => rfl) 1⟩
  · obtain ⟨-, -, ⟨pd, cd, hpwr⟩, -⟩ := seqFail_keeps { b with pwr := { b.pwr with reflost := true } } 1
    exact ⟨_, onNext_gives (f := fun b => trimPhase c b w) hon (trimPhase_lost hphase hdead), congrArg Power.reflost hpwr⟩
  · obtain ⟨b1, hwipe, hrest⟩ := wipePhase_cold (c := c) hphase hkiln hkind hF hL
    exact ⟨b1, onNext_gives (f := wipePhase c) hon hwipe, hrest⟩
  · exact onNext_stays (f := kilnDone c) (kilnDone_unpowered hphase hk hcov hpow)
  · exact ⟨_, onNext_gives (f := kilnDone c) hon rfl, kilnDone_wipe hphase hk hcov hqueue hquiet hpow⟩
  · obtain ⟨b1, hpll, hrest⟩ := pllPhase_locks hphase hF hL hsf hsl
    exact ⟨b1, onNext_gives (f := fun b => pllPhase b cf cl) hon hpll, hrest⟩
  · obtain ⟨x, hpll, hports, hfail, hnotice⟩ := pllPhase_fails (cl := cl) hphase hF htries hsf
    obtain ⟨-, -, ⟨pd, cd, hpwr⟩, -⟩ := seqFail_keeps x 2
    have hgives := onNext_gives (s := s) (f := fun b => pllPhase b cf cl) hon hpll
    refine ⟨⟨_, hgives, seqFail_failed (fun p => congrArg Link.state (getLink_ports hports p)) 2⟩, _, hgives, ?_, fun h1 h2 h3 => ?_⟩
    · exact (congrArg (fun w => w.pllF.fail) hpwr).trans hfail
    · exact (congrArg Power.mnotice hpwr).trans (hnotice h1 h2 h3)
  · exact onNext_stays (f := fun b => bondPhase b sweeps n) (bondPhase_early hn)
  · have hbond := bondPhase_does hphase hn (windows_unique hlen hws)
    refine ⟨fun hwide => ?_, fun hnarrow => ?_⟩
    · exact onNext_gives (f := fun b => bondPhase b sweeps n) hon (hbond.trans (if_neg (Nat.not_lt.mpr hwide)))
    · exact ⟨_, onNext_gives (f := fun b => bondPhase b sweeps n) hon (hbond.trans (if_pos hnarrow)), seqFail_failed (fun _ => rfl) 4⟩
  · exact onNext_gives (f := linkPhase) hon (linkPhase_up hphase hup)
  · exact ⟨_, onNext_gives (f := linkPhase) hon (linkPhase_failed hphase hfailed), seqFail_failed (fun _ => rfl) 5⟩
  · obtain ⟨r, hsys, hout1, hreq⟩ := imgStart_does (c := c) hout c.mimg
    exact ⟨_, r, onNext_gives (f := fun b => mimgPhase c b n) hon (mimgPhase_starts hphase hlive himg), hsys, hout1, hreq⟩
  · refine onNext_stays (f := fun b => mimgPhase c b n) ((mimgPhase_image hphase hlive himg).trans (if_pos ?_))
    exact imgWaits_early hlegal hn
  · have hover : ¬ imgWaits c 0 x n = true := by
      rw [imgWaits_over hread hwants (Or.inr hn)]
      exact Bool.false_ne_true
    rw [Bool.and_eq_true, decide_eq_true_eq] at hgood
    refine onNext_gives (f := fun b => mimgPhase c b n) hon ((mimgPhase_image hphase hlive himg).trans ((if_neg hover).trans (if_pos ?_)))
    rw [hgood.1, hgood.2]
    rfl
  · have hover : ¬ imgWaits c 0 x n = true := by
      rw [imgWaits_over hread hwants hn]
      exact Bool.false_ne_true
    rw [Bool.and_eq_true, decide_eq_true_eq] at hbad
    have hunsigned : ¬ (imgLegal c 0 x.bytes && imgSigned b x.bytes) = true := by
      rw [hbad.2, Bool.and_false]
      exact Bool.false_ne_true
    have hgives := onNext_gives (s := s) (f := fun b => mimgPhase c b n) hon
      ((mimgPhase_image hphase hlive himg).trans ((if_neg hover).trans (if_neg hunsigned)))
    obtain ⟨hmalt, -, -, hsys⟩ := seqFail_keeps { b with malt := { b.malt with ram := [] }, sys := { b.sys with sigfail := true } } 7
    exact ⟨⟨_, hgives, seqFail_failed (fun _ => rfl) 7⟩, _, hgives, congrArg Malt.ram hmalt, congrArg Sys.sigfail hsys⟩
  · obtain ⟨r, hsys, hout1, hreq⟩ := imgStart_does (c := c) hout c.cimg
    exact ⟨_, r, onNext_gives (f := fun b => cimgPhase c b n) hon (cimgPhase_starts hphase hlive hkiln hentry himg), hsys, hout1, hreq⟩
  · refine onNext_stays (f := fun b => cimgPhase c b n) ((cimgPhase_image hphase hlive hkiln hentry himg).trans (if_pos ?_))
    exact imgWaits_early hlegal hn
  · have hover : ¬ imgWaits c 1 x n = true := by
      rw [imgWaits_over hread hwants (Or.inr hn)]
      exact Bool.false_ne_true
    rw [Bool.and_eq_true, decide_eq_true_eq] at hgood
    have hjudged := cimgPhase_image (c := c) (n := n) hphase hlive hkiln hentry himg
    rw [if_neg hover, hgood.1, hgood.2] at hjudged
    have hdone := bootDone_due (c := c) (b := imageJudged b (BitVec.ofNat 64 (imgEntry x.bytes)) true) rfl hphase hlive hmp hfp
    exact ⟨_, onNext_gives (f := fun b => cimgPhase c b n) hon (hjudged.trans (hdone.trans (if_pos rfl))),
      release_released c (imageJudged b (BitVec.ofNat 64 (imgEntry x.bytes)) true) _⟩
  · have hover : ¬ imgWaits c 1 x n = true := by
      rw [imgWaits_over hread hwants hn]
      exact Bool.false_ne_true
    rw [Bool.and_eq_true, decide_eq_true_eq] at hbad
    have hjudged := cimgPhase_image (c := c) (n := n) hphase hlive hkiln hentry himg
    rw [if_neg hover, hbad.2, Bool.and_false] at hjudged
    have hdone := bootDone_due (c := c) (b := imageJudged b (BitVec.ofNat 64 (imgEntry x.bytes)) false) rfl hphase hlive hmp hfp
    have hgives := onNext_gives (s := s) (f := fun b => cimgPhase c b n) hon
      (hjudged.trans (hdone.trans (if_neg (show ¬ (9 : BitVec 4) = 0 by decide))))
    obtain ⟨-, -, -, hsys⟩ := seqFail_keeps (imageJudged b (BitVec.ofNat 64 (imgEntry x.bytes)) false) 9
    exact ⟨⟨_, hgives, seqFail_failed (fun _ => rfl) 9⟩, _, hgives, (congrArg Sys.sigfail hsys).trans (Bool.or_true _)⟩
  · obtain ⟨x, hlinks, hsys, hack⟩ := ackArrives (c := c) hup hruns hst hout hfp htag htime hlive holder hphase hentry hpurpose hop
    have hgives {b1 : Blk} (hb1 : packetArrives c b false { h := { h with opc := 0x0A }, data := 0 } = b1) : Gives s (.wra false h) b1 :=
      blkNext_gives (f := fun b => packetArrives c b false { h := { h with opc := 0x0A }, data := 0 }) hb1
    refine ⟨fun h0 hst0 => ?_, fun h0 hst0 => ?_, fun h0 => ?_⟩
    · refine ⟨_, hgives (hack.trans ((if_pos h0).trans (if_pos hst0))), ?_⟩
      have hrel := release_released c x e
      unfold Released at hrel
      rw [hsys] at hrel
      exact hrel
    · exact ⟨_, hgives (hack.trans ((if_pos h0).trans (if_neg hst0))), seqFail_failed hlinks 8⟩
    · exact ⟨_, hgives (hack.trans (if_neg h0)), seqFail_failed hlinks _⟩
  · obtain ⟨y, hsys, hmmu, herr, hmalt, harr⟩ := imageArrives_kept (c := c) hup hruns hst hout htag htime hlive holder hphase himg hpurpose hop hmask
      hentry hquiet hgood
    obtain ⟨hsys1, -, hram, hwrite, hask⟩ := imageArrives_does (c := c) (x := y) (data := data) (by rw [hsys]; exact hphase) (by rw [hsys]; exact himg)
      (by rw [herr]; exact hlive) (by rw [hsys]; exact hquiet)
    rw [hsys] at hsys1 hram hwrite hask
    rw [hmalt] at hram
    refine ⟨_, blkNext_gives (f := fun b => packetArrives c b false { h := { h with opc := 0x09 }, data := data }) harr, congrArg Sys.img hsys1,
      (congrArg Sys.phase hsys1).trans rfl, hram, fun h8 hn => ?_, fun hw => ?_⟩
    · obtain ⟨r, hr, hpurp, hop1, haddr, hworld⟩ := hwrite h8 hn
      exact ⟨r, hr, hpurp, hop1, haddr, hworld⟩
    · obtain ⟨r, hr, hpurp, hop1, haddr, hworld⟩ := hask hw
      refine ⟨r, hr, hpurp, hop1, haddr.trans ?_, hworld⟩
      show x.base + BitVec.ofNat 64 (x.bytes ++ bytesOf 64 data).length = _
      rw [List.length_append, bytesOf, length_leOfNat]
  · obtain ⟨y, hlinks, hfail⟩ := imageArrives_failed (c := c) hup hruns hst hout hfp htag htime hlive holder hphase himg hpurpose hop hmask hbad
    exact ⟨_, blkNext_gives (f := fun b => packetArrives c b false { h := { h with opc := 0x09 }, data := data }) hfail, seqFail_failed hlinks _⟩

end Sys2Proof.Proofs
end

section
namespace Sys2Proof.Proofs
open Sys2Proof.Machine Sys2Proof.Laws

/-! One edge of the observation port (R380, R470). -/

/-- The unit once the port has sent the oldest word. -/
def obsSent (o : Obs) : Obs :=
  match o.fifo with
  | [] => { o with valid := false, sop := false }
  | x :: rest => { o with fifo := rest, d := x.2, valid := true, sop := x.1 }

theorem obsSent_slots (o : Obs) : (obsSent o).slots = o.slots := by
  unfold obsSent
  split <;> rfl

theorem obsSent_lost (o : Obs) : (obsSent o).lost = o.lost := by
  unfold obsSent
  split <;> rfl

section
variable {b : Blk}

theorem obsEdge_stopped (h : pdRuns b 20 = false) : obsEdge b = b := by
  refine if_pos ?_
  rw [h]
  rfl

/-- What the FIFO accepts once the port has sent its word. -/
def obsAccepts (b : Blk) (o : Obs) : Blk :=
  match acceptOrder.findSome? fun t => o.slots.find? fun p => p.ty == t with
  | none => { b with obs := o }
  | some p =>
    if 512 < o.fifo.length + p.words.length then { b with obs := o }
    else fillLost { b with obs := { o with fifo := o.fifo ++ p.words, slots := o.slots.filter fun q => q.ty != p.ty } }

theorem obsEdge_eq (h : pdRuns b 20 = true) : obsEdge b = obsAccepts b (obsSent b.obs) := by
  have hruns : ¬ (!pdRuns b 20) = true := by
    rw [h]
    exact Bool.false_ne_true
  have hsent : (match b.obs.fifo with
      | [] => { b.obs with valid := false, sop := false }
      | (first, w) :: rest => { b.obs with fifo := rest, d := w, valid := true, sop := first }) = obsSent b.obs := by
    unfold obsSent
    generalize b.obs = o
    obtain ⟨cfg, slots, lost, fifo, d, valid, sop, drops, cnt, cntcfg, cntuen, inspect, hi⟩ := o
    cases fifo <;> rfl
  rw [← hsent]
  exact if_neg hruns

theorem obsEdge_noSlot (h : pdRuns b 20 = true) (hslots : b.obs.slots = []) : obsEdge b = { b with obs := obsSent b.obs } := by
  rw [obsEdge_eq h]
  unfold obsAccepts
  rw [obsSent_slots, hslots]
  rfl

/-- The one packet held is the highest one, whatever its type. -/
theorem accept_single {p : ObsPacket} (h1 : 1 ≤ p.ty.toNat) (h9 : p.ty.toNat ≤ 9) :
    (acceptOrder.findSome? fun t => [p].find? fun q => q.ty == t) = some p := by
  have hall : ∀ t : BitVec 4, 1 ≤ t.toNat → t.toNat ≤ 9 → t ∈ acceptOrder := by decide
  have hfind (t : BitVec 4) : ([p].find? fun q => q.ty == t) = if p.ty = t then some p else none := by
    by_cases h : p.ty = t
    · rw [if_pos h]
      exact List.find?_cons_of_pos (p := fun q : ObsPacket => q.ty == t) (beq_iff_eq.mpr h)
    · rw [if_neg h]
      exact List.find?_cons_of_neg (p := fun q : ObsPacket => q.ty == t) (by rw [beq_iff_eq]; exact h)
  have hgo : ∀ ts : List (BitVec 4), p.ty ∈ ts → (ts.findSome? fun t => [p].find? fun q => q.ty == t) = some p := by
    intro ts
    induction ts with
    | nil => exact fun h => absurd h List.not_mem_nil
    | cons t ts ih =>
      intro h
      rw [List.findSome?_cons, hfind]
      by_cases ht : p.ty = t
      · rw [if_pos ht]
      · rw [if_neg ht]
        exact ih ((List.mem_cons.mp h).resolve_left ht)
  exact hgo acceptOrder (hall p.ty h1 h9)

theorem words_length (p : ObsPacket) : p.words.length = 1 + p.payload.length := by
  unfold ObsPacket.words
  rw [List.length_cons, List.length_map, Nat.add_comm]

section
variable {p : ObsPacket} (h : pdRuns b 20 = true) (hslots : b.obs.slots = [p]) (h1 : 1 ≤ p.ty.toNat) (h9 : p.ty.toNat ≤ 9)
include h hslots h1 h9

theorem obsEdge_full (hroom : 512 < (obsSent b.obs).fifo.length + (1 + p.payload.length)) : obsEdge b = { b with obs := obsSent b.obs } := by
  rw [obsEdge_eq h]
  unfold obsAccepts
  rw [obsSent_slots, hslots, accept_single h1 h9]
  dsimp only
  rw [words_length, if_pos hroom]

/-- The packet that fits leaves its slot empty; a lost count then makes a LOST packet. -/
theorem obsEdge_fits (hroom : (obsSent b.obs).fifo.length + (1 + p.payload.length) ≤ 512) : obsEdge b =
    fillLost { b with obs := { obsSent b.obs with fifo := (obsSent b.obs).fifo ++ p.words, slots := [] } } := by
  have hempty : ([p].filter fun q => q.ty != p.ty) = [] := List.filter_cons_of_neg (by rw [bne_self_eq_false]; exact Bool.false_ne_true)
  rw [obsEdge_eq h]
  unfold obsAccepts
  rw [obsSent_slots, hslots, accept_single h1 h9]
  dsimp only
  rw [words_length, if_neg (Nat.not_lt.mpr hroom), hempty]

end

theorem fillLost_fills (h : b.obs.lost ≠ 0) (hslots : ∀ q ∈ b.obs.slots, q.ty ≠ 2) : fillLost b = { b with obs := { b.obs with
    slots := b.obs.slots ++ [{ ty := 2, world := false, level := 3, ts := BitVec.ofNat 16 b.pwr.sclk, payload := [b.obs.lost] }], lost := 0 } } := by
  have hany : b.obs.slots.any (fun p => p.ty == 2) = false := by
    rw [List.any_eq_false]
    exact fun q hq h2 => hslots q hq (beq_iff_eq.mp h2)
  refine if_pos ?_
  rw [decide_eq_true h, hany]
  rfl

theorem fillLost_held (hslots : ∃ q ∈ b.obs.slots, q.ty = 2) : fillLost b = b := by
  obtain ⟨q, hq, h2⟩ := hslots
  have hany : b.obs.slots.any (fun p => p.ty == 2) = true := List.any_eq_true.mpr ⟨q, hq, beq_iff_eq.mpr h2⟩
  refine if_neg ?_
  rw [hany, Bool.not_true, Bool.and_false]
  exact Bool.false_ne_true

/-! The count reaches a multiple (R405, R468). -/

/-- A unit with nothing to send. -/
def Quiet (b : Blk) : Prop := b.obs.fifo = [] ∧ b.obs.slots = [] ∧ b.obs.valid = false

theorem obsEdges_quiet (h : Quiet b) (n : Nat) : obsEdges n b = b := by
  obtain ⟨hfifo, hslots, hvalid⟩ := h
  cases n with
  | zero => rfl
  | succ n =>
    refine if_pos ?_
    rw [hfifo, hslots, hvalid]
    rfl

/-- What the counters of clock edges count is in the counters alone. -/
def SameButCnt (b b' : Blk) : Prop := b' = { b with obs := { b.obs with cnt := b'.obs.cnt } }

theorem SameButCnt.trans {a b c : Blk} (h1 : SameButCnt a b) (h2 : SameButCnt b c) : SameButCnt a c := by
  unfold SameButCnt at *
  rw [h2, h1]

theorem countEvents_cnt (b : Blk) (ev : Nat) (l : BitVec 2) (w : Bool) (k : Nat) : SameButCnt b (countEvents b ev l w k) := by
  unfold countEvents
  split <;> rfl

theorem countFixed_cnt (b : Blk) (ps : Pstate) (n k : Nat) : SameButCnt b (countFixed b ps n k) := by
  unfold countFixed
  split <;> rfl

theorem countEdges_cnt (t0 t : Nat) (b : Blk) : SameButCnt b (countEdges t0 t b) := by
  have hif {x y : Blk} (p : Prop) [Decidable p] (h1 : SameButCnt b x) (h2 : SameButCnt x y) : SameButCnt b (if p then y else x) := by
    split
    · exact h1.trans h2
    · exact h1
  have hstall {x : Blk} (k : Nat) (h : SameButCnt b x) : SameButCnt b (match x.core.blocked with
      | some (.power _) => countEvents x 0x12 x.core.ps.level x.core.ps.world k
      | _ => x) := by
    split
    · exact h.trans (countEvents_cnt ..)
    · exact h
  exact hstall _ (hif _ (hif _ (hif _ (hif _ rfl (countFixed_cnt ..)) (countFixed_cnt ..)) (countEvents_cnt ..)) (countEvents_cnt ..))

/-- The block with the count at `t` and other counters. -/
def countedTo (b : Blk) (t : Nat) (cnt : Sparse 64) : Blk := { b with pwr := { b.pwr with sclk := t }, obs := { b.obs with cnt := cnt } }

theorem countedTo_quiet (h : Quiet b) (t : Nat) (cnt : Sparse 64) : Quiet (countedTo b t cnt) := h

/-- A quiet unit whose count moves on: the counters, then the packets of the two intervals. -/
theorem elapse_quiet (h : Quiet b) {t : Nat} (ht : b.pwr.sclk < t) : ∃ cnt, elapse t b =
    atMultiples (pcsEvery b) b.pwr.sclk t emitPcs (atMultiples 65536 b.pwr.sclk t emitSync (countedTo b t cnt)) := by
  refine ⟨(countEdges b.pwr.sclk t b).obs.cnt, (if_neg (Nat.not_le.mpr ht)).trans ?_⟩
  have hcnt := countEdges_cnt b.pwr.sclk t b
  rw [obsEdges_quiet h]
  generalize countEdges b.pwr.sclk t b = x at hcnt
  unfold SameButCnt at hcnt
  rw [hcnt]
  rfl

/-- A packet type that makes none leaves a quiet unit as it is. -/
theorem atMultiples_quiet (h : Quiet b) (hruns : pdRuns b 20 = true) {n t0 t : Nat} {ev : Blk → Blk}
    (hev : ∀ m, (ev { b with pwr := { b.pwr with sclk := m } }).obs = b.obs) : atMultiples n t0 t ev b = b := by
  unfold atMultiples
  dsimp only
  rw [hev, hruns, if_pos rfl]
  split
  · rfl
  · exact obsEdges_quiet h _

/-- At the next multiple a packet of the type is made, and no edge has passed since. -/
theorem atMultiples_makes (hruns : pdRuns b 20 = true) {n : Nat} (hn : 0 < n) (t0 : Nat) (ev : Blk → Blk) :
    atMultiples n t0 ((t0 / n + 1) * n) ev b = { b with obs := (ev { b with pwr := { b.pwr with sclk := (t0 / n + 1) * n } }).obs } := by
  have hdiv : (t0 / n + 1) * n / n = t0 / n + 1 := Nat.mul_div_cancel _ hn
  have hmod : (t0 / n + 1) * n % n = 0 := Nat.mul_mod_left _ _
  unfold atMultiples
  dsimp only
  rw [hdiv, hmod, hruns, if_neg (by omega), if_pos rfl]
  rfl

/-- A type that makes no packet changes nothing where no edge follows its multiple. -/
theorem atMultiples_silent {n t0 t : Nat} {ev : Blk → Blk} (hruns : pdRuns b 20 = true)
    (hev : ∀ m, (ev { b with pwr := { b.pwr with sclk := m } }).obs = b.obs) (hedge : t / n = t0 / n ∨ t % n = 0) : atMultiples n t0 t ev b = b := by
  unfold atMultiples
  dsimp only
  rw [hev, hruns, if_pos rfl]
  rcases hedge with h | h
  · rw [h, Nat.sub_self, if_pos rfl]
  · rw [h]
    exact ite_self b

/-- The next multiple of 65,536 is the last one of any power of two that it passes. -/
theorem multiple_edge (t0 l : Nat) :
    (t0 / 65536 + 1) * 65536 / 2 ^ l = t0 / 2 ^ l ∨ (t0 / 65536 + 1) * 65536 % 2 ^ l = 0 := by
  generalize ht : (t0 / 65536 + 1) * 65536 = t
  by_cases hl : l ≤ 16
  · right
    have hdvd : 2 ^ l ∣ 65536 := Nat.pow_dvd_pow 2 hl
    rw [← ht]
    exact Nat.mod_eq_zero_of_dvd (Dvd.dvd.mul_left hdvd _)
  · obtain ⟨k, hk⟩ : 65536 ∣ t / 2 ^ l * 2 ^ l := Dvd.dvd.mul_left (Nat.pow_dvd_pow 2 (Nat.le_of_lt (Nat.lt_of_not_le hl))) _
    have hle : t / 2 ^ l * 2 ^ l ≤ t := Nat.div_mul_le_self t (2 ^ l)
    by_cases hpast : t0 < t / 2 ^ l * 2 ^ l
    · right
      have heq : t / 2 ^ l * 2 ^ l = t := by omega
      rw [← heq]
      exact Nat.mul_mod_left _ _
    · left
      refine Nat.le_antisymm ((Nat.le_div_iff_mul_le (Nat.two_pow_pos l)).mpr (Nat.le_of_not_lt hpast)) (Nat.div_le_div_right ?_)
      omega

/-- Packets are made, and all of them shown: the unit runs, and the life-cycle state is open. -/
def Traces (b : Blk) : Prop := pdRuns b 20 = true ∧ b.obs.lost = 0 ∧ Quiet b ∧ lcsHeld b = false ∧ lcsFiltered b = false ∧ bit b.obs.cfg 0 = true

theorem Traces.on (h : Traces b) : pdOn b 20 = true := by
  obtain ⟨hruns, -⟩ := h
  unfold pdRuns at hruns
  exact (Bool.and_eq_true _ _ ▸ hruns).1

theorem Traces.counted (h : Traces b) (t : Nat) (cnt : Sparse 64) : Traces (countedTo b t cnt) := h

/-- A packet of an enabled type fills the unit's one slot. -/
theorem Traces.fills (h : Traces b) {p : ObsPacket} (hty : bit b.obs.cfg p.ty.toNat = true) : emit b p = { b with obs := { b.obs with slots := [p] } } := by
  have hon := h.on
  obtain ⟨-, hlost, ⟨-, hslots, -⟩, hheld, hfilter, hen⟩ := h
  refine (emit_fills hon hen hty hheld hfilter hlost (by rw [hslots]; exact fun q hq => absurd hq List.not_mem_nil)).trans ?_
  rw [hslots]
  rfl

theorem emit_disabled {p : ObsPacket} (hty : bit b.obs.cfg p.ty.toNat = false) : emit b p = b := by
  refine if_pos ?_
  rw [hty, Bool.and_false, Bool.false_and]
  rfl

theorem emitSync_disabled (hty : bit b.obs.cfg 1 = false) : emitSync b = b := emit_disabled hty

theorem emitPcs_disabled (hty : bit b.obs.cfg 4 = false) : emitPcs b = b := by
  unfold emitPcs
  split
  · rfl
  · exact emit_disabled hty

theorem emitSync_silent (hty : bit b.obs.cfg 1 = false) (m : Nat) : (emitSync { b with pwr := { b.pwr with sclk := m } }).obs = b.obs :=
  (congrArg Blk.obs (emitSync_disabled (b := { b with pwr := { b.pwr with sclk := m } }) hty)).trans rfl

theorem emitPcs_silent (hty : bit b.obs.cfg 4 = false) (m : Nat) : (emitPcs { b with pwr := { b.pwr with sclk := m } }).obs = b.obs :=
  (congrArg Blk.obs (emitPcs_disabled (b := { b with pwr := { b.pwr with sclk := m } }) hty)).trans rfl

/-- The block whose count has reached `t`, with one packet made. -/
def tracedAt (b : Blk) (t : Nat) (cnt : Sparse 64) (p : ObsPacket) : Blk :=
  { b with pwr := { b.pwr with sclk := t }, obs := { b.obs with slots := [p], cnt := cnt } }

/-- The SYNC packet of a count. -/
def syncPacket (t : Nat) : ObsPacket := { ty := 1, world := false, level := 3, ts := BitVec.ofNat 16 t, payload := words2 t }

/-- The PCS packet of a count. -/
def pcsPacket (b : Blk) (t : Nat) : ObsPacket :=
  { ty := 4, world := b.core.ps.world, level := b.core.ps.level, ts := BitVec.ofNat 16 t, payload := words2 b.core.pc.toNat }

theorem toMultiple_eq (n : Nat) (b : Blk) : toMultiple n b = elapse ((b.pwr.sclk / n + 1) * n) b := congrArg (elapse · b) (Nat.succ_mul ..).symm

/-- TRACE_SYNC: the count reaches its next multiple of 65,536, and a SYNC packet is made. -/
theorem sync_made (h : Traces b) (hsync : bit b.obs.cfg 1 = true) (hpcs : bit b.obs.cfg 4 = false) : ∃ cnt, toMultiple 65536 b =
    tracedAt b ((b.pwr.sclk / 65536 + 1) * 65536) cnt (syncPacket ((b.pwr.sclk / 65536 + 1) * 65536)) := by
  obtain ⟨hruns, -, hquiet, -⟩ := id h
  obtain ⟨cnt, helapse⟩ := elapse_quiet hquiet (t := (b.pwr.sclk / 65536 + 1) * 65536) (by omega)
  have hmake := atMultiples_makes (b := countedTo b ((b.pwr.sclk / 65536 + 1) * 65536) cnt) hruns (n := 65536) (by decide) b.pwr.sclk emitSync
  have hedge := multiple_edge b.pwr.sclk (bits b.obs.cfg 20 16)
  rw [toMultiple_eq]
  generalize (b.pwr.sclk / 65536 + 1) * 65536 = t at helapse hmake hedge ⊢
  have hfill : emitSync (countedTo b t cnt) = tracedAt b t cnt (syncPacket t) := (h.counted t cnt).fills (p := syncPacket t) hsync
  have hmade : atMultiples 65536 b.pwr.sclk t emitSync (countedTo b t cnt) = tracedAt b t cnt (syncPacket t) := by
    refine hmake.trans ?_
    change { countedTo b t cnt with obs := (emitSync (countedTo b t cnt)).obs } = _
    rw [hfill]
    rfl
  refine ⟨cnt, helapse.trans ?_⟩
  rw [hmade]
  exact atMultiples_silent (b := tracedAt b t cnt (syncPacket t)) hruns (emitPcs_silent (b := tracedAt b t cnt (syncPacket t)) hpcs) hedge

/-- PC_SAMPLE: the count reaches its next multiple of the interval, and a PCS packet of the running core is made. -/
theorem pcs_made (h : Traces b) (hsync : bit b.obs.cfg 1 = false) (hpcs : bit b.obs.cfg 4 = true) (hrun : b.core.run = .running) :
    ∃ cnt, toMultiple (pcsEvery b) b = tracedAt b ((b.pwr.sclk / pcsEvery b + 1) * pcsEvery b) cnt
      (pcsPacket b ((b.pwr.sclk / pcsEvery b + 1) * pcsEvery b)) := by
  obtain ⟨hruns, -, hquiet, -⟩ := id h
  have hpos : 0 < pcsEvery b := Nat.two_pow_pos _
  have hlater : b.pwr.sclk < (b.pwr.sclk / pcsEvery b + 1) * pcsEvery b := by
    rw [Nat.mul_comm]
    exact Nat.lt_mul_div_succ _ hpos
  obtain ⟨cnt, helapse⟩ := elapse_quiet hquiet hlater
  have hmake := atMultiples_makes (b := countedTo b ((b.pwr.sclk / pcsEvery b + 1) * pcsEvery b) cnt) hruns hpos b.pwr.sclk emitPcs
  rw [toMultiple_eq]
  generalize (b.pwr.sclk / pcsEvery b + 1) * pcsEvery b = t at helapse hmake ⊢
  have hsilent : atMultiples 65536 b.pwr.sclk t emitSync (countedTo b t cnt) = countedTo b t cnt :=
    atMultiples_quiet (countedTo_quiet hquiet t cnt) hruns (emitSync_silent (b := countedTo b t cnt) hsync)
  have hfill : emitPcs (countedTo b t cnt) = tracedAt b t cnt (pcsPacket b t) := by
    have hlive : ¬ (countedTo b t cnt).core.run ≠ .running := not_not.mpr hrun
    exact (if_neg hlive).trans ((h.counted t cnt).fills (p := pcsPacket b t) hpcs)
  refine ⟨cnt, helapse.trans ?_⟩
  rw [hsilent]
  refine hmake.trans ?_
  change { countedTo b t cnt with obs := (emitPcs (countedTo b t cnt)).obs } = _
  rw [hfill]
  rfl

end

/-! CR_TRACEW (R469–R472). -/

section
variable {b : Blk} {p : ObsPacket} (hon : packetOn b p) (hshown : packetShown b p)
include hon hshown

theorem emit_slot (hlost : b.obs.lost = 0) (hfree : ∀ q ∈ b.obs.slots, q.ty ≠ p.ty) :
    emit b p = { b with obs := { b.obs with slots := b.obs.slots ++ [p] } } := by
  have hany : b.obs.slots.any (fun q => q.ty == p.ty) = false := List.any_eq_false.mpr fun q hq h => hfree q hq (beq_iff_eq.mp h)
  rw [emit_shown hon hshown, hany, if_neg Bool.false_ne_true]
  exact fillLost_none (b := { b with obs := { b.obs with slots := b.obs.slots ++ [p] } }) hlost

theorem emit_loses (hfull : ∃ q ∈ b.obs.slots, q.ty = p.ty) : emit b p = fillLost { b with obs := lostOne b.obs } := by
  obtain ⟨q, hq, hty⟩ := hfull
  have hany : b.obs.slots.any (fun q => q.ty == p.ty) = true := List.any_eq_true.mpr ⟨q, hq, beq_iff_eq.mpr hty⟩
  rw [emit_shown hon hshown, hany, if_pos rfl]

end

theorem lostOne_some (o : Obs) : (lostOne o).lost ≠ 0 := by
  show (if o.lost = 0xFFFFFFFF then o.lost else o.lost + 1) ≠ 0
  split
  · next h =>
    rw [h]
    decide
  · next h => bv_omega

/-- Settles O52: the intervals on a quiet unit, the FIFO by its one packet, CR_TRACEW by its slots. -/
theorem observationEvents : Obligations.ObservationEvents := by
  refine ⟨?_, ?_⟩
  · intro s scanIn b o quiet holds sent hon
    have htraces (hq : quiet) : Traces b := by
      obtain ⟨hruns, hlost, hslots, hfifo, hvalid, hheld, hfilter, hen⟩ := hq
      exact ⟨hruns, hlost, ⟨hfifo, hslots, hvalid⟩, hheld, hfilter, hen⟩
    have hsent : sent = obsSent o := by
      unfold obsSent
      rfl
    have haccept {b1 : Blk} (h : obsEdge b = b1) : Gives s .tracePacketAccept b1 := onNext_gives (f := obsEdge) hon h
    refine ⟨fun hq hsync hpcs => ?_, fun hq hsync hpcs hrun => ?_, fun hoff => ?_, fun hruns => ⟨fun hslots => ?_, fun p hslots h1 h9 =>
      ⟨fun hroom => ⟨fun hlost => ?_, fun hlost => ?_⟩, fun hroom => ?_⟩⟩, fun hvalid hlcs => ?_, fun hoff => ?_⟩
    · obtain ⟨cnt, hmade⟩ := sync_made (htraces hq) hsync hpcs
      exact ⟨_, onNext_gives (f := toMultiple 65536) hon hmade, rfl⟩
    · obtain ⟨cnt, hmade⟩ := pcs_made (htraces hq) hsync hpcs hrun
      exact ⟨_, onNext_gives (f := fun b => toMultiple (pcsEvery b) b) hon hmade, rfl⟩
    · exact onNext_stays (f := obsEdge) (obsEdge_stopped hoff)
    · rw [hsent]
      exact haccept (obsEdge_noSlot hruns hslots)
    · rw [hsent] at hroom ⊢
      refine haccept ((obsEdge_fits hruns hslots h1 h9 hroom).trans (fillLost_none ?_))
      exact (obsSent_lost o).trans hlost
    · rw [hsent] at hroom ⊢
      have hlost' : (obsSent o).lost ≠ 0 := by rwa [obsSent_lost]
      refine haccept ((obsEdge_fits hruns hslots h1 h9 hroom).trans ((fillLost_fills hlost' fun q hq => absurd hq List.not_mem_nil).trans ?_))
      dsimp only
      rw [obsSent_lost, List.nil_append]
    · rw [hsent] at hroom ⊢
      exact haccept (obsEdge_full hruns hslots h1 h9 hroom)
    · refine ⟨_, onNext_gives (f := fun b => if b.sys.lcsValid && b.sys.lcs == 0 then
        { b with sys := { b.sys with scanOut := Config.scanOut b.freeCount scanIn }, freeCount := b.freeCount + 1 } else b) hon (if_pos ?_)⟩
      rw [hvalid, hlcs]
      rfl
    · refine onNext_stays (f := fun b => if b.sys.lcsValid && b.sys.lcs == 0 then
        { b with sys := { b.sys with scanOut := Config.scanOut b.freeCount scanIn }, freeCount := b.freeCount + 1 } else b) (if_neg ?_)
      rw [Bool.and_eq_true, beq_iff_eq]
      rintro ⟨h1, h0⟩
      rcases hoff with h | h
      · exact Bool.false_ne_true (h.symm.trans h1)
      · exact h h0
  · intro s b1 rs1 h x o p on shown hon i hi
    have hshown : shown ↔ packetShown b1 p := by
      simp only [shown, packetShown]
      rw [show namesSecure p = false ↔ _ from namesSecure_user b1 x]
    have hemit {b2 : Blk} (he : emit b1 p = b2) : exec i s = retired s 1 b2 := (tracew_emits h rs1 hi).trans (congrArg (retired s 1) he)
    refine ⟨fun hs hlost hfree => ?_, fun hs hfull hheld => ?_, fun hs hfull hfree => ?_, fun hs => ?_⟩
    · exact hemit (emit_slot (b := b1) (p := p) hon (hshown.mp hs) hlost hfree)
    · exact hemit ((emit_loses (b := b1) (p := p) hon (hshown.mp hs) hfull).trans (fillLost_held hheld))
    · exact hemit ((emit_loses (b := b1) (p := p) hon (hshown.mp hs) hfull).trans (fillLost_fills (lostOne_some o) hfree))
    · exact hemit (emit_notShown fun hp => hs (hshown.mpr hp))

end Sys2Proof.Proofs
end

section
namespace Sys2Proof.Proofs
open Sys2Proof.Machine Sys2Proof.Laws

/-! What the units that a tick calls do where nothing waits. -/

section
variable {b : Blk} (c : Cfg)

theorem failedAnswer_none (h : b.ports.failed = []) : failedAnswer c b = b := by
  unfold failedAnswer
  rw [h]

theorem heldRetry_none (h : b.caches.heldFills = []) : heldRetry c b = b := if_pos (by rw [h]; rfl)

theorem inboundRetry_none (h : b.sys.heldIn = []) : inboundRetry c b = b := by
  unfold inboundRetry
  rw [h, List.foldl_nil, ← h]

theorem streamOf_mem {n : Nat} {x : Stream} (h : streamOf b n = some x) : ∃ e ∈ b.sparge.streams, e.2 = x := by
  obtain ⟨e, he, hx⟩ := Option.map_eq_some_iff.mp h
  exact ⟨e, List.mem_of_find?_eq_some he, hx⟩

theorem streamFetch_waits (h : ∀ e ∈ b.sparge.streams, e.2.reading = true ∨ e.2.parked = true ∨ e.2.ended.isSome = true) (f n : Nat) :
    streamFetch c f b n = b := by
  cases f with
  | zero => rfl
  | succ f =>
    rw [streamFetch]
    cases hs : streamOf b n with
    | none => rfl
    | some x =>
      obtain ⟨e, he, hx⟩ := streamOf_mem hs
      refine if_pos ?_
      have hwait := h e he
      rw [hx] at hwait
      simp only [Bool.or_eq_true]
      rcases hwait with hwait | hwait | hwait <;> simp only [hwait, true_or, or_true]

theorem streamRetry_none (h : ∀ e ∈ b.sparge.streams, e.2.reading = true ∨ e.2.parked = true ∨ e.2.ended.isSome = true) : streamRetry c b = b :=
  foldl_fixed _ fun n _ => streamFetch_waits c h fetchFuel n

theorem dmaFlush_none (h : ∀ e ∈ b.dma.chs, ∀ p ∈ e.2.pieces, p.todo = []) : dmaFlush c b = b :=
  foldl_fixed _ fun e he => foldl_fixed _ fun p hp => if_pos (by rw [h e he p hp]; rfl)

theorem background_settled (h : Settled b) : background c b = b := by
  obtain ⟨hfailed, hfills, hin, hdma, hstreams, -⟩ := h
  rw [background, failedAnswer_none c hfailed, heldRetry_none c hfills, inboundRetry_none c hin, streamRetry_none c hstreams,
    dmaFlush_none c hdma]

theorem awaken_settled (h : Settled b) : awaken b = b := by
  obtain ⟨-, -, -, -, -, hrun⟩ := h
  refine if_neg ?_
  rw [decide_eq_false hrun, Bool.false_and, Bool.false_and]
  exact Bool.false_ne_true
end

/-! One cycle of the links. -/

/-- A link after a cycle without a data block. -/
def cycled (runs : Bool) (p : BitVec 2) (l : Link) : Link :=
  if !runs then l
  else if l.state = stUp then l.driveIdle p
  else if l.state = stReq || l.state = stTrain || (l.state = stRetrain && l.advSent = 0) then l.driveTrain p
  else if l.state = stAdvert || l.state = stRetrain then l.driveAdvert p
  else l

theorem linkCycle_eq (b : Blk) (p : BitVec 2) : linkCycle b p = setLink b p (cycled (portRuns b p) p (getLink b p)) := by
  unfold linkCycle cycled
  simp only [apply_ite (setLink b p), setLink_getLink]

theorem getLink_linkCycle (b : Blk) (p q : BitVec 2) :
    getLink (linkCycle b p) q = if q = p then cycled (portRuns b p) p (getLink b p) else getLink b q := by
  rw [linkCycle_eq]
  split
  · next h => rw [h, getLink_setLink]
  · next h => exact getLink_setLink_other b p q _ h

theorem portRuns_linkCycle (b : Blk) (p q : BitVec 2) : portRuns (linkCycle b p) q = portRuns b q := by
  rw [linkCycle_eq]
  unfold portRuns pdRuns pdOn
  rw [setLink_pwr]

theorem getLink_cycles (b : Blk) (q : BitVec 2) : getLink (ports4.foldl linkCycle b) q = cycled (portRuns b q) q (getLink b q) := by
  simp only [ports4, List.foldl_cons, List.foldl_nil, getLink_linkCycle, portRuns_linkCycle]
  rcases port_cases q with hq | hq | hq | hq <;> subst hq <;> rfl

theorem linkCycle_keeps (b : Blk) (p : BitVec 2) : sameButLinks b (linkCycle b p) ∧ (linkCycle b p).obs = b.obs ∧
    (linkCycle b p).ports.failed = b.ports.failed := by
  rw [linkCycle_eq]
  refine ⟨setLink_links .., setLink_obs .., ?_⟩
  rcases port_cases p with h | h | h | h <;> subst h <;> rfl

theorem cycles_keep (b : Blk) : sameButLinks b (ports4.foldl linkCycle b) ∧ (ports4.foldl linkCycle b).obs = b.obs ∧
    (ports4.foldl linkCycle b).ports.failed = b.ports.failed := by
  refine foldl_keeps (P := fun x => sameButLinks b x ∧ x.obs = b.obs ∧ x.ports.failed = b.ports.failed) (fun x p hx => ?_) _ _ ⟨rfl, rfl, rfl⟩
  obtain ⟨hframe, hobs, hfailed⟩ := hx
  obtain ⟨hframe', hobs', hfailed'⟩ := linkCycle_keeps x p
  exact ⟨sameButLinks_trans hframe hframe', hobs'.trans hobs, hfailed'.trans hfailed⟩

/-! One SCLK cycle. -/

/-- A powered block after one SCLK cycle. -/
def cycle (b : Blk) : Blk := ports4.foldl linkCycle (elapse (b.pwr.sclk + 1) b)

section
variable (b : Blk)

theorem cycle_eq : cycle b = { b with pwr := { b.pwr with sclk := b.pwr.sclk + 1 }, obs := (cycle b).obs, ports := (cycle b).ports } := by
  have h := (cycles_keep (elapse (b.pwr.sclk + 1) b)).1
  unfold sameButLinks at h
  have ht := elapse_eq (b.pwr.sclk + 1) b
  rw [show Nat.max b.pwr.sclk (b.pwr.sclk + 1) = b.pwr.sclk + 1 from Nat.max_eq_right (Nat.le_succ _)] at ht
  refine h.trans ?_
  rw [← cycle, ht]

theorem cycle_obs : (cycle b).obs = (elapse (b.pwr.sclk + 1) b).obs := (cycles_keep _).2.1

theorem cycle_failed : (cycle b).ports.failed = b.ports.failed := by
  refine (cycles_keep _).2.2.trans ?_
  rw [elapse_eq]

theorem getLink_cycle (q : BitVec 2) : getLink (cycle b) q = cycled (portRuns b q) q (getLink b q) := by
  rw [cycle, getLink_cycles, elapse_eq]
  rfl

variable {b}

theorem settled_cycle (h : Settled b) : Settled (cycle b) := by
  obtain ⟨hfailed, hrest⟩ := h
  refine ⟨(cycle_failed b).trans hfailed, ?_⟩
  rw [cycle_eq]
  exact hrest

theorem settled_clockEdge (h : Settled b) : Settled (clockEdge b) := by
  unfold clockEdge
  split
  · exact settled_cycle h
  · exact h

/-- A tick of a settled block is its clock edge. -/
theorem tick_waits {s : State} (hpending : s.pending = []) (h : Settled s.blk) (hr : retryHead (clockEdge s.blk) = none) :
    step s = .next { s with blk := clockEdge s.blk } := by
  have hedge := settled_clockEdge h
  obtain ⟨q, c, b⟩ := s
  subst hpending
  refine Eq.trans (b := tick ⟨[], c, b⟩) rfl ?_
  unfold tick
  dsimp only at hedge hr ⊢
  rw [background_settled c hedge, awaken_settled hedge, hr]

/-- After the edge the instruction that waits is tried again. -/
theorem tick_retries {s : State} {i : Instr} (hpending : s.pending = []) (h : Settled s.blk) (hr : retryHead (clockEdge s.blk) = some i) :
    step s = exec i { s with blk := { clockEdge s.blk with core := { (clockEdge s.blk).core with replay := true, blocked := none } } } := by
  have hedge := settled_clockEdge h
  obtain ⟨q, c, b⟩ := s
  subst hpending
  refine Eq.trans (b := tick ⟨[], c, b⟩) rfl ?_
  unfold tick
  dsimp only at hedge hr ⊢
  rw [background_settled c hedge, awaken_settled hedge, hr]

theorem clockEdge_on (h : blockOn b = true) : clockEdge b = cycle b := if_pos h

theorem retryHead_cycle : retryHead (cycle b) = retryHead b := by
  rw [cycle_eq]
  rfl
end

/-! The observation port of a unit that makes no packet. -/

theorem obsEdges_drop (n : Nat) : ∀ {b : Blk}, pdRuns b 20 = true → b.obs.slots = [] →
    ∃ o : Obs, obsEdges n b = { b with obs := o } ∧ o.fifo = b.obs.fifo.drop n ∧ o.slots = [] ∧ o.cfg = b.obs.cfg := by
  induction n with
  | zero => exact fun _ hslots => ⟨_, rfl, rfl, hslots, rfl⟩
  | succ n ih =>
    intro b hruns hslots
    rw [obsEdges]
    split
    · next hidle =>
      have hfifo : b.obs.fifo = [] := by
        simp only [Bool.and_eq_true, List.isEmpty_iff] at hidle
        exact hidle.1.1
      exact ⟨_, rfl, by rw [hfifo, List.drop_nil], hslots, rfl⟩
    · obtain ⟨o, ho, hfifo, hnone, hcfg⟩ := ih (b := { b with obs := obsSent b.obs }) hruns ((obsSent_slots _).trans hslots)
      rw [obsEdge_noSlot hruns hslots]
      refine ⟨o, ho, hfifo.trans ?_, hnone, hcfg.trans ?_⟩
      · show (obsSent b.obs).fifo.drop n = _
        unfold obsSent
        cases b.obs.fifo <;> simp
      · show (obsSent b.obs).cfg = _
        unfold obsSent
        split <;> rfl

theorem emit_notEnabled {b : Blk} (h : bit b.obs.cfg 0 = false) (p : ObsPacket) : emit b p = b := by
  refine if_pos ?_
  rw [h, Bool.false_and, Bool.false_and]
  rfl

theorem emitPcs_off {b : Blk} (h : bit b.obs.cfg 0 = false) : emitPcs b = b := by
  unfold emitPcs
  split
  · rfl
  · exact emit_notEnabled h _

/-- One step of a count crosses a multiple of n only to reach it. -/
theorem succ_edge (t n : Nat) : (t + 1) / n = t / n ∨ (t + 1) % n = 0 := by
  rw [Nat.succ_div]
  split
  · next h => exact .inr (Nat.mod_eq_zero_of_dvd h)
  · exact .inl rfl

theorem atMultiples_off {b : Blk} {ev : Blk → Blk} (hruns : pdRuns b 20 = true) (hev : ∀ x : Blk, bit x.obs.cfg 0 = false → ev x = x)
    (hcfg : bit b.obs.cfg 0 = false) (n t : Nat) : atMultiples n t (t + 1) ev b = b :=
  atMultiples_silent hruns (fun m => (congrArg Blk.obs (hev { b with pwr := { b.pwr with sclk := m } } hcfg)).trans rfl) (succ_edge t n)

/-- Neither a SYNC nor a PCS packet is made. -/
theorem packets_off {b : Blk} (hruns : pdRuns b 20 = true) (hcfg : bit b.obs.cfg 0 = false) (n t : Nat) :
    atMultiples n t (t + 1) emitPcs (atMultiples 65536 t (t + 1) emitSync b) = b := by
  rw [atMultiples_off (ev := emitSync) hruns (fun x hx => emit_notEnabled hx _) hcfg]
  exact atMultiples_off hruns (fun _ => emitPcs_off) hcfg n t

theorem elapse_drop {b : Blk} (hruns : pdRuns b 20 = true) (hcfg : bit b.obs.cfg 0 = false) (hslots : b.obs.slots = []) :
    (elapse (b.pwr.sclk + 1) b).obs.fifo = b.obs.fifo.drop 16 ∧ (elapse (b.pwr.sclk + 1) b).obs.slots = [] := by
  obtain ⟨o, ho, hfifo, hnone, hcfg'⟩ := obsEdges_drop 16 hruns hslots
  have hcnt := countEdges_cnt b.pwr.sclk (b.pwr.sclk + 1) { b with obs := o }
  unfold SameButCnt at hcnt
  unfold elapse
  dsimp only
  rw [if_neg (by omega), show Nat.min 1024 (16 * (b.pwr.sclk + 1 - b.pwr.sclk)) = 16 by rw [Nat.add_sub_cancel_left]; rfl, ho]
  generalize countEdges b.pwr.sclk (b.pwr.sclk + 1) { b with obs := o } = x at hcnt ⊢
  have hruns' : pdRuns { x with pwr := { x.pwr with sclk := b.pwr.sclk + 1 } } 20 = true := by
    rw [hcnt]
    exact hruns
  have hoff : bit x.obs.cfg 0 = false := by rw [hcnt, ← hcfg, ← hcfg']
  rw [packets_off hruns' hoff, hcnt]
  exact ⟨hfifo, hnone⟩

/-! An idle block and its trailer (R383, R389). -/

/-- The fields of an idle block's control word. -/
theorem idle_fields (seq ack rep : BitVec 7) (nak : Bool) {ch : Nat} (hch : ch < 4) :
    let k := BitVec.ofNat 32 (seq.toNat + 2 ^ 7 * ack.toNat + 2 ^ 14 * nak.toNat + 2 ^ 15 * 1 + 2 ^ 17 * 0 + 2 ^ 21 * 0 + 2 ^ 23 * ch + 2 ^ 25 * rep.toNat)
    bits k 13 7 = ack.toNat ∧ bit k 14 = nak ∧ bits k 16 15 = 1 ∧ bits k 24 23 = ch ∧ bits k 31 25 = rep.toNat := by
  have hs := seq.isLt
  have ha := ack.isLt
  have hr := rep.isLt
  have hn := nak.toNat_lt
  have hnak : nak = decide (nak.toNat = 1) := by cases nak <;> rfl
  intro k
  have hk : k.toNat = seq.toNat + 2 ^ 7 * ack.toNat + 2 ^ 14 * nak.toNat + 2 ^ 15 + 2 ^ 23 * ch + 2 ^ 25 * rep.toNat := by
    rw [BitVec.toNat_ofNat]
    omega
  simp only [bits, bit, BitVec.getLsbD, hk, Nat.shiftRight_eq_div_pow, Nat.testBit_eq_decide_div_mod_eq]
  refine ⟨by omega, ?_, by omega, by omega, by omega⟩
  rw [hnak]
  congr 1
  rw [← hnak]
  refine propext ⟨fun h => ?_, fun h => ?_⟩ <;> omega

/-- A report turns to the next channel and tells of its freed credits alone. -/
theorem report_frame (p : BitVec 2) (l : Link) :
    (l.report p).2 = { l with turn := (l.report p).2.turn, rep0 := (l.report p).2.rep0, rep1 := (l.report p).2.rep1, rep2 := (l.report p).2.rep2
                              freed0 := (l.report p).2.freed0, freed1 := (l.report p).2.freed1, freed2 := (l.report p).2.freed2 } ∧
      (l.report p).1.1 < 4 := by
  unfold Link.report
  dsimp only
  (repeat' split) <;> exact ⟨rfl, by simp⟩

/-- The link after its report. -/
def reported (p : BitVec 2) (l : Link) : Link := { (l.report p).2 with nakOwed := false }

/-- An idle block's control word. -/
def idleCtl (p : BitVec 2) (l : Link) : W32 :=
  BitVec.ofNat 32 (l.txSeq.toNat + 2 ^ 7 * (l.eseq - 1).toNat + 2 ^ 14 * l.nakOwed.toNat + 2 ^ 15 * 1 + 2 ^ 17 * 0 + 2 ^ 21 * 0
    + 2 ^ 23 * (l.report p).1.1 + 2 ^ 25 * (l.report p).1.2.toNat)

theorem driveIdle_wide {p : BitVec 2} (hp : p.toNat < 2) (l : Link) :
    l.driveIdle p = { reported p l with tx := [mkBlock p (idleCtl p l) 0 0] } := by
  unfold Link.driveIdle
  rw [if_pos hp]
  rfl

theorem report_mp {l : Link} (h : l.turn = 0) :
    l.report 0 = ((1, l.rep1 + BitVec.ofNat 7 (Nat.min 64 l.freed1)),
      { l with turn := 0, rep1 := l.rep1 + BitVec.ofNat 7 (Nat.min 64 l.freed1), freed1 := l.freed1 - 64 }) := by
  unfold Link.report
  rw [h]
  rfl

theorem report_fp {l : Link} (h : l.turn < 3) : (l.report 1).1.1 = l.turn ∧ (l.report 1).2.turn = (l.turn + 1) % 3 ∧
    (l.report 1).1.2 = if l.turn = 0 then (l.report 1).2.rep0 else if l.turn = 1 then (l.report 1).2.rep1 else (l.report 1).2.rep2 := by
  have hcases : l.turn = 0 ∨ l.turn = 1 ∨ l.turn = 2 := by omega
  unfold Link.report
  rcases hcases with h | h | h <;> rw [h] <;> exact ⟨rfl, rfl, rfl⟩

/-- A cycle of a Memory or Far Port in UP. -/
theorem cycled_up {p : BitVec 2} (hp : p.toNat < 2) {l : Link} (hup : l.state = stUp) :
    cycled true p l = { reported p l with tx := [mkBlock p (idleCtl p l) 0 0] } := by
  refine Eq.trans ?_ (driveIdle_wide hp l)
  exact if_pos hup

/-- Settles O53: a settled block's tick is its clock edge; what the edge drives on the links and drops from the FIFO by their own laws. -/
theorem ticksIdle : Obligations.TicksIdle := by
  intro s hpending hsettled b b1
  have hb1 : b1 = cycle b := rfl
  clear_value b1
  subst hb1
  have hon (h : blockOn b = true) : clockEdge s.blk = cycle b := clockEdge_on h
  refine ⟨fun h hidle => ?_, fun h i rest hprog hready hfree => ?_, fun h hprog => ?_, cycle_eq b, fun hruns hcfg hslots => ?_, fun p => ?_⟩
  · have hnone : retryHead (cycle b) = none := by
      rw [retryHead_cycle]
      unfold retryHead
      split
      · next hr =>
        simp only [Bool.and_eq_true, bne_iff_ne, ne_eq] at hr
        rcases hidle with hidle | hidle | hidle
        · rw [hidle]; rfl
        · exact absurd hr.1 (by rw [hidle]; exact Bool.false_ne_true)
        · exact absurd hidle hr.2
      · rfl
    exact (tick_waits hpending hsettled (by rw [hon h, hnone])).trans (by rw [hon h])
  · have hsome : retryHead (cycle b) = some i := by
      rw [retryHead_cycle]
      refine (if_pos ?_).trans (by rw [hprog]; rfl)
      rw [hready, Bool.true_and]
      exact bne_iff_ne.mpr hfree
    have hcore : (cycle b).core = b.core := by rw [cycle_eq]
    exact (tick_retries hpending hsettled (by rw [hon h, hsome])).trans (by rw [hon h, hcore])
  · have hoff : clockEdge s.blk = s.blk := if_neg (by rw [h]; exact Bool.false_ne_true)
    have hnone : retryHead s.blk = none := by
      unfold retryHead
      split
      · exact congrArg List.head? hprog
      · rfl
    exact (tick_waits hpending hsettled (by rw [hoff, hnone])).trans (by rw [hoff])
  · rw [cycle_obs]
    exact elapse_drop hruns hcfg hslots
  · intro l
    refine ⟨fun hoff => ?_, fun hrun hp hup => ?_⟩
    · rw [getLink_cycle, hoff]
      rfl
    · obtain ⟨hframe, hch⟩ := report_frame p l
      obtain ⟨hack, hnak, hty, hchan, hrep⟩ := idle_fields l.txSeq (l.eseq - 1) (l.report p).1.2 l.nakOwed hch
      refine ⟨mkBlock p (idleCtl p l) 0 0, reported p l, ?_, ?_, beq_self_eq_true _, hty, rfl, rfl, hack, hnak, fun hmp hturn => ?_, fun hfp hturn => ?_⟩
      · rw [getLink_cycle, hrun]
        exact cycled_up hp hup
      · unfold reported
        conv => lhs; rw [hframe]
      · subst hmp
        have hr := report_mp hturn
        refine ⟨hchan.trans (by rw [hr]), ?_, ?_, ?_, hrep.trans ?_⟩ <;> simp only [reported, hr]
      · subst hfp
        obtain ⟨hc, ht, hv⟩ := report_fp hturn
        exact ⟨hchan.trans hc, ht, hrep.trans (congrArg BitVec.toNat hv)⟩

end Sys2Proof.Proofs
end

section
namespace Sys2Proof.Proofs
open Sys2Proof.Machine Sys2Proof.Laws

/-! A set whose reference bits are all 1. With every way of it valid, R299 names no victim, and the model's `victim` answers an empty line with the
index of way 0: a line that is not valid, whose fill overwrites the line that way 0 holds. -/

/-- No way of a set is invalid or has reference bit 0: the victim's index is that of way 0, and it is not valid. -/
theorem victim_full {b : Blk} {c : CacheId} {set : Nat} (h : ∀ l ∈ waysOf b c set, l.valid = true ∧ l.ref = true) :
    victim b c set = Line.empty (set * c.ways) := by
  have hnone (p : Line → Bool) (hp : ∀ l : Line, l.valid = true ∧ l.ref = true → p l = false) : (waysOf b c set).find? p = none :=
    List.find?_eq_none.mpr fun l hl => by rw [hp l (h l hl)]; exact Bool.false_ne_true
  unfold victim
  dsimp only
  rw [hnone _ fun l hl => by rw [hl.1]; rfl, hnone _ fun l hl => by rw [hl.2]; rfl]

/-- Way k of set 1 of the L1D, which holds the line of tag 0x481 + 128 k. -/
def fullWay (k : Nat) : Line :=
  { idx := 8 + k, valid := true, dirty := false, world := true, ref := true, tag := 0x481 + 128 * k, data := 5, perr := false, terr := false
    serr := false }

/-- A block in Run whose core runs at M from its own LTS, with every way of set 1 of the L1D valid and referenced and the address 0x10040 of that
set in r9. -/
def fullSetBlk : Blk := { Blk.reset with
  core := ({ Core.reset with run := .running, pc := 0x400000000000 } : Core).setReg 9 0x10040
  caches := { Caches.reset with l1d := (List.range 8).reverse.map fullWay }
  lts := { Lts.reset with bytes := [(3, 0x04)] }
  pwr := { Power.reset with pd := 0xFFFFFFFF, cd := 0x7FFFFFFFFF, porstN := true, pgAon := true, pgL := true, pgM := true }
  sys := { Sys.reset with lcsValid := true, lcs := 1, phase := 9 } }

/-- The block with chip space cacheable. -/
def fullSet : State := { State.reset with
  cfg := { Cfg.reset with rgnX := [(0, BitVec.ofNat 64 (47 * 2 ^ 48 + 0x3F3) ^^^ 0x000C000000000000)] }
  blk := fullSetBlk }

/-- Does a computation of the core answer x and leave the block as it was? -/
def answersHere [DecidableEq α] (m : M α) (x : α) (b : Blk) : Bool :=
  match m b with
  | .ok y c => decide (y = x) && decide (c = b)
  | .error _ _ => false

theorem answersHere_ok [DecidableEq α] {m : M α} {x : α} {b : Blk} (h : answersHere m x b = true) : m b = .ok x b := by
  unfold answersHere at h
  split at h
  · next y c heq =>
    simp only [Bool.and_eq_true, decide_eq_true_eq] at h
    rw [heq, h.1, h.2]
  · exact absurd h Bool.false_ne_true

theorem fullSet_awake : awaken (settle fullSet.cfg fullSet.blk) = fullSetBlk ∧ boundary fullSetBlk = fullSetBlk := by decide +kernel

theorem fullSet_issues : Issues fullSet 1 fullSetBlk := by
  obtain ⟨hawake, hboundary⟩ := fullSet_awake
  unfold Issues
  dsimp only
  rw [hawake, hboundary]
  exact ⟨by decide +kernel, by decide +kernel, by decide +kernel, Option.isNone_iff_eq_none.mp (by decide +kernel),
    answersHere_ok (by decide +kernel), rfl, rfl⟩

theorem fullSet_locates : cmoLocate fullSet.cfg .store (fullSetBlk.core.reg 9) 64 true fullSetBlk = .ok (0x401, .cached) fullSetBlk :=
  answersHere_ok (by decide +kernel)

/-- The fill of the zeroed line has overwritten way 0. -/
def losesWayZero (r : Host.Outcome State Fault Refusal) : Bool :=
  match r with
  | .next t => (findLine t.blk .l1d 0x481 true).isNone
  | _ => false

theorem fullSet_loses : losesWayZero (exec (.cmoZero 9) fullSet) = true := by decide +kernel

theorem retired_caches {s : State} {n : Nat} {b : Blk} : retired s n b = .next t → t.blk.caches = b.caches := by
  intro h
  obtain rfl := Host.Outcome.next.inj h
  show (retire _ _).caches = _
  rw [retire_frame]

/-- A line that is found depends on the caches alone. -/
theorem findLine_caches {b b' : Blk} (h : b'.caches = b.caches) (c : CacheId) (t : Nat) (w : Bool) : findLine b' c t w = findLine b c t w := by
  have hlines : linesOf b' c = linesOf b c := by
    unfold linesOf
    rw [h]
  unfold findLine waysOf
  rw [hlines]

/-- Refutes O16: in a state whose set of the L1D has every way valid and every reference bit 1 (R299 clears the others at the last one, but the
statement admits the state), CR_CMO_ZERO of a line of that set overwrites way 0, which holds the line of another address. -/
theorem not_cacheMaintenance : ¬ Obligations.CacheMaintenance := by
  intro h
  obtain ⟨hlines, -⟩ := h fullSet fullSetBlk fullSetBlk 9 0x401 .cached fullSet_issues
  obtain ⟨-, -, -, hzero⟩ := hlines rfl rfl
  obtain ⟨-, hcached⟩ := hzero (by decide +kernel) fullSet_locates
  have hvictim : (victim fullSetBlk .l1d (CacheId.l1d.set 0x401)).valid = false := by
    rw [victim_full (by decide +kernel)]
    rfl
  obtain ⟨b3, hexec, -, -, hothers⟩ := hcached rfl (by intro c; cases c <;> decide +kernel) (by intro c; cases c <;> decide +kernel)
    (by intro c; cases c <;> decide +kernel) (.inr (by decide +kernel)) (.inr hvictim)
  have hlost : (findLine b3 .l1d 0x481 true).isNone = true := by
    have hloses := fullSet_loses
    rw [hexec] at hloses
    exact (congrArg Option.isNone (findLine_caches (retired_caches rfl) ..)).symm.trans hloses
  have hkept := hothers .l1d 0x481 true (.inr (by decide))
  rw [Option.isNone_iff_eq_none.mp hlost, show findLine fullSetBlk .l1d 0x481 true = some (fullWay 0) by decide +kernel] at hkept
  exact absurd hkept (Option.some_ne_none _).symm

end Sys2Proof.Proofs
end
